-- ==== Sys2Proof/Word.lean ====
section
/-! DEFINITION. The word types of the Gliavo Thrumend (00 R4): bytes, half-words, words and double words,
and the names of register and predicate fields (02 R27). -/

namespace Sys2Proof

abbrev Byte := BitVec 8
abbrev Half := BitVec 16
abbrev Word := BitVec 32
abbrev DWord := BitVec 64

/-- A 6-bit general-register field, g0 to g63 (R27). -/
abbrev Reg := BitVec 6
/-- A 3-bit predicate field, p0 to p7 (R27). -/
abbrev Pred := BitVec 3

end Sys2Proof
end

