-- ==== Sys2Proof/Config.lean ====
section
/-! DEFINITION. What the GT-384 fixes (R1, R60, R61, R258, R267), and the values the manual leaves open:
those are opaque constants with no body, so no proof can see what they are. -/

namespace Sys2Proof.Config

/-- Batch width W (R1, R60). -/
def laneCount : Nat := 64
/-- `%feat0` (R61): every group of encodings is implemented. -/
def feat0 : Word := 0x00001FFF
/-- `%part` (R267): the part hash of the identity block, the same on every GT-384. -/
def partHash : DWord := 0x972ecedf98be7194
/-- Register-file capacity of a core, 32-bit registers (R1, R57). -/
def regFile : Nat := 98304
/-- Fibre slots of a core (R1, R57). -/
def slotMax : Nat := 4096
/-- Cores of a die (R1, R60). -/
def coresPerDie : Nat := 256
/-- Quads of a die (R1, R60). -/
def quadsPerDie : Nat := 64
/-- Dies of the package (R1). -/
def dies : Nat := 4
/-- Bytes of one typed buffer (R187). -/
def bufBytes : Nat := 524288
/-- Entries of a quad's reservation table (R187). -/
def tableEntries : Nat := 32
/-- Entries of a quad's TLB and of a core's L1 TLB (R187, R224). -/
def tlbEntries : Nat := 4096
def l1TlbEntries : Nat := 64
/-- Region records that a die holds: its table has 512 MiB, and the model takes 32 bytes a record (DESIGN CHOICE,
log 64). -/
def detectorRecords : Nat := 2 ^ 24
/-- Copies a core holds in flight (R137). -/
def copySlots : Nat := 64
/-- Entries of a Roundabout (R129). -/
def roundaboutEntries : Nat := 256
/-- Open fault records of a die (R225). -/
def faultRecords : Nat := 1024
/-- Entries of a die's plaza table (R290). -/
def plazaEntries : Nat := 4096
/-- Line entries of a die's write-set directory (R297). -/
def directoryLines : Nat := 65536
/-- IDENT (R258). -/
def ident : DWord := 0x03840001
/-- Program-visible bytes of a die's DRAM (R255). -/
def dieDram : Nat := 0x17E0000000
/-- Bytes between the starts of two dies' DRAM (R255). -/
def dieStride : Nat := 2 ^ 37

/-- The fused rollback counter (R265). The manual gives no value. -/
opaque fusedRollback : Nat
/-- The two fused hashes of accepted public keys (R265). The manual gives no values. -/
opaque fusedKeyHash : Bool → Nat
/-- The manufacturing record of the module (R265, R266): whether its signature holds, its SHA-256,
and, for each die, its list of placements (masks that enable 64 quads) and of fused-off quads. -/
opaque recordSignatureHolds : Bool
opaque recordHash : BitVec 256
opaque placements : Nat → List (BitVec 68)
opaque fusedOff : Nat → BitVec 68
/-- The quote's ECDSA signature (R268): the key and the nonces never leave the package. -/
opaque quoteSignature : List Byte → List Byte
/-- What DRAM training, and the module's power and temperature, decide (R264, R283). -/
opaque dramTrains : Nat → Bool
/-- Whether the host link is at fault at the n-th open choice (R264 names the failure and no cause of it). -/
opaque linkFaults : Nat → Bool
/-- Bytes of the native body that the translator builds for a kernel (R273). The manual gives no size. -/
opaque bodyBytes : Nat → DWord
/-- A fresh unconstrained double word for the n-th occurrence of a choice the manual leaves open (R345). -/
opaque freeValue : Nat → DWord

end Sys2Proof.Config
end

