-- ==== Sys2Proof/Syntax.lean ====
section
/-! DEFINITION. The syntax: one constructor of `Instr` for each row of spec/opcode_table.json (the 265 steps of the
part). Rows with an encoding are the instructions a fibre fetches (02 R24 to R45). The rows after them are the steps
of the machine's other agents (95_what_each_step_holds.md): they have no encoding and reach the machine through the
agenda of `State`. -/

namespace Sys2Proof

/-- The common fields of a 32-bit word (R25): guard and stall. -/
structure Hdr where
  g : BitVec 4
  s : BitVec 2
  deriving DecidableEq, Repr

/-- One case of a `bsel` (R29). -/
structure Case where
  off : BitVec 22
  g   : BitVec 4
  deriving DecidableEq, Repr

/-- The wide types of `cvt` (R36), in the order of their codes 000 to 111. -/
inductive WideTy where
  | f16 | bf16 | f32 | f64 | i32 | n32 | i64 | n64
  deriving DecidableEq, Repr

/-- The narrow types of major 0x19 (R36), codes 0 to 9. -/
inductive NarrowTy where
  | e4m3 | e5m2 | e3m2 | e2m3 | e2m1 | i8 | n8 | i4 | i16 | n16
  deriving DecidableEq, Repr

/-- Compare conditions 000 to 110 (R35, R82); `tst` is `.nan` for floats. -/
inductive Cc where
  | eq | ne | lt | le | gt | ge | tst
  deriving DecidableEq, Repr

/-- The reductions of `xl.red`, codes 0 to 10 (R37). -/
inductive XlOp where
  | addI32 | addF32 | minI32 | maxI32 | minN32 | maxN32 | minF32 | maxF32 | andB32 | orB32 | xorB32
  deriving DecidableEq, Repr

/-- The reduction of a `fork.r` (R35): op codes 00 to 11. -/
inductive RedOp where
  | none | add | min | max
  deriving DecidableEq, Repr

/-- The accumulator type of a `fork.r` (R35): type codes 000 to 100. -/
inductive RedTy where
  | f16 | bf16 | f32 | i32 | i64
  deriving DecidableEq, Repr

/-- Scopes, codes 000 to 101 (R39, R135). -/
inductive Scope where
  | core | quad | die | dev | fab | sys
  deriving DecidableEq, Repr

/-- The types of a plain load, codes 000 to 101 (R39). -/
inductive LdTy where
  | n8 | i8 | n16 | i16 | b32 | b64
  deriving DecidableEq, Repr

/-- The types of a plain store (R39). -/
inductive StTy where
  | b8 | b16 | b32 | b64
  deriving DecidableEq, Repr

/-- The typed buffers, codes 00 to 10 (R39, R187). -/
inductive Buf where
  | wbuf | abuf | cbuf
  deriving DecidableEq, Repr

/-- The spaces of a copy, codes 000 to 101 (R35). -/
inductive Space where
  | global | sp | wbuf | abuf | cbuf | sw
  deriving DecidableEq, Repr

/-- The space of a barrier object, codes 000 to 010 (R41). -/
inductive BarSpace where
  | sp | die | dev
  deriving DecidableEq, Repr

/-- The six counter classes, codes 0x00 to 0x05 (R41, R130). -/
inductive Cls where
  | ld | st | at | cp | mx | rm
  deriving DecidableEq, Repr

/-- Atomic operations, codes 0 to 7 (R40). -/
inductive AtomOp where
  | add | min | max | and | or | xor | exch | cas
  deriving DecidableEq, Repr

/-- Atomic types, codes 000 to 110 (R40). -/
inductive AtomTy where
  | i32 | n32 | i64 | n64 | f32 | b32 | b64
  deriving DecidableEq, Repr

/-- Atomic orderings, codes 00 to 11 (R40). -/
inductive Sem where
  | rlx | acq | rel | acqrel
  deriving DecidableEq, Repr

/-- What an access asks of translation (R224, R225). -/
inductive AccKind where
  | read | write | atomic | fetch
  deriving DecidableEq, Repr

/-- How a host read asks to hold the line (R260): uncached, or cached in S or E. -/
inductive HostWant where
  | uncached | shared | exclusive
  deriving DecidableEq, Repr

/-- An upset that a read of a sector finds (R233 to R235): another check value, an uncorrectable DRAM or SRAM error, or a
soft error that an array of a class corrected. -/
inductive Upset where
  | none | check (value : BitVec 16) | dram | sram | soft (cls : Fin 5)
  deriving DecidableEq, Repr

/-- A read of a sector by an agent (R235), with the upset that it finds. -/
structure SectorRead where
  sector : Nat
  agent  : BitVec 8
  upset  : Upset
  deriving DecidableEq, Repr

/-- A fibre of a peer: the device, the fibre's name there, and its core, 0 to 1023 on that device. -/
structure PeerFibre where
  dev : Nat
  fib : Nat
  core : Nat
  deriving DecidableEq, Repr

/-- The reply of a peer: done, refused, or done with a sector whose check value does not match at ingress (R284). -/
inductive AckKind where
  | ok | refused | mismatch
  deriving DecidableEq, Repr

/-- What a peer's request performs at this device's home (R287, R288). -/
inductive PeerOp where
  | load | store (data : DWord) | ldAcq | stRel (data : DWord)
  /-- A write whose sector carries a check value that does not match at ingress, and one whose sector arrives poisoned
(R284). -/
  | badCheck (op : PeerOp) | poisoned (op : PeerOp)
  /-- The paths to peers have changed on the way: those that now stand, as TRAIN gives them (R285). -/
  | paths (ps : List (Nat × Nat × Nat))
  | atomic (op : AtomOp) (ty : AtomTy) (sem : Sem) (b d : DWord)
  | copyRead (len : Nat) | copyWrite (data : List Byte)
  /-- Operations on a barrier object in this device's memory (R147, R148, R150). -/
  | barInit (n : Word) | barExpect (n : Word) | barArrive | barWait (p : Word)
  /-- A tentative access of the plaza h (R297): plain, or ordered (R287). -/
  | tentLoad (h : DWord) | tentStore (h : DWord) (data : DWord)
  | tentAcq (h : DWord) | tentRel (h : DWord) (data : DWord)
  | tentAtomic (h : DWord) (op : AtomOp) (ty : AtomTy) (sem : Sem) (b d : DWord)
  /-- A peer's member set, named by the request's address, at this device's coordinator (R295 to R301). -/
  | plzEnter (h : DWord) | plzVote (h : DWord) | plzLeave (h : DWord)
  /-- An abort cause that arose at the peer (R302), its directory's first entry of a plaza (R300), the end of its discard, and
that its last member fibre has left its wait or trap (R294), told to this device's coordinator. -/
  | plzAbort (h : DWord) (cause : BitVec 8) | plzTouch (h : DWord) | plzDiscarded (h : DWord) | plzLeft (h : DWord)
  /-- The requesting fibre has released, with those of its operations here complete whose names are below the bound; or it has
ended (R228). -/
  | released (bound : Nat) | ended
  /-- The fabric clock of the peer, in nanoseconds (R293). -/
  | clock (ns : Nat)
  /-- Messages of a peer's coordinator to this device's directories and fibres (R300, R303). -/
  | plzInfo (h : DWord) (opened : Nat) (yields sealing : Bool)
  | plzSeal (h : DWord) | plzPublish (h : DWord) | plzDiscard (h : DWord) (cause : BitVec 8)
  /-- The plaza is COMMITTED or ABORTED (R294, R298). -/
  | plzOver (h : DWord)
  deriving DecidableEq, Repr

/-- The one syntax. Fields stand in the order of the assembly form or, for format words, from the high bits down. -/
inductive Instr where
  /-- `ext` with the instruction that follows it (R31, R32). -/
  | ext (v : BitVec 19) (i : Instr)
  /-- Format-A integer majors (R71). -/
  | addI32 (h : Hdr) (b a d : Reg)
  | subI32 (h : Hdr) (b a d : Reg)
  | mulLoI32 (h : Hdr) (b a d : Reg)
  | madLoI32 (h : Hdr) (b a d : Reg)
  | mulHiI32 (h : Hdr) (b a d : Reg)
  | mulHiN32 (h : Hdr) (b a d : Reg)
  | andB32 (h : Hdr) (b a d : Reg)
  | orB32 (h : Hdr) (b a d : Reg)
  | xorB32 (h : Hdr) (b a d : Reg)
  | andnB32 (h : Hdr) (b a d : Reg)
  | shlB32 (h : Hdr) (b a d : Reg)
  | shrN32 (h : Hdr) (b a d : Reg)
  | shrI32 (h : Hdr) (b a d : Reg)
  | rotB32 (h : Hdr) (b a d : Reg)
  | minI32 (h : Hdr) (b a d : Reg)
  | maxI32 (h : Hdr) (b a d : Reg)
  | minN32 (h : Hdr) (b a d : Reg)
  | maxN32 (h : Hdr) (b a d : Reg)
  | addI64 (h : Hdr) (b a d : Reg)
  | subI64 (h : Hdr) (b a d : Reg)
  | mulWideI32 (h : Hdr) (b a d : Reg)
  | mulWideN32 (h : Hdr) (b a d : Reg)
  /-- `lea` (R74): even pairs a and d, shift sh. -/
  | leaN32 (h : Hdr) (b a d : Reg) (sh : BitVec 2)
  | leaI32 (h : Hdr) (b a d : Reg) (sh : BitVec 2)
  /-- Lane operations with immediate, major 0x0B (R73). -/
  | addI32Imm (h : Hdr) (imm : BitVec 9) (d : Reg)
  | subI32Imm (h : Hdr) (imm : BitVec 9) (d : Reg)
  | mulLoI32Imm (h : Hdr) (imm : BitVec 9) (d : Reg)
  | andB32Imm (h : Hdr) (imm : BitVec 9) (d : Reg)
  | orB32Imm (h : Hdr) (imm : BitVec 9) (d : Reg)
  | xorB32Imm (h : Hdr) (imm : BitVec 9) (d : Reg)
  | shlB32Imm (h : Hdr) (imm : BitVec 9) (d : Reg)
  | shrN32Imm (h : Hdr) (imm : BitVec 9) (d : Reg)
  | shrI32Imm (h : Hdr) (imm : BitVec 9) (d : Reg)
  | minI32Imm (h : Hdr) (imm : BitVec 9) (d : Reg)
  | maxI32Imm (h : Hdr) (imm : BitVec 9) (d : Reg)
  | faddF32Imm (h : Hdr) (imm : BitVec 9) (d : Reg)
  | fmulF32Imm (h : Hdr) (imm : BitVec 9) (d : Reg)
  | fmaxF32Imm (h : Hdr) (imm : BitVec 9) (d : Reg)
  | haddH2Imm (h : Hdr) (imm : BitVec 9) (d : Reg)
  /-- `mov d, imm` (R73). -/
  | movImm (h : Hdr) (imm : BitVec 13) (d : Reg)
  /-- Moves and unary operations, major 0x0F (R72). -/
  | mov (h : Hdr) (a d : Reg)
  | movB64 (h : Hdr) (a d : Reg)
  | notB32 (h : Hdr) (a d : Reg)
  | negI32 (h : Hdr) (a d : Reg)
  | absI32 (h : Hdr) (a d : Reg)
  | popcB32 (h : Hdr) (a d : Reg)
  | clzB32 (h : Hdr) (a d : Reg)
  | brevB32 (h : Hdr) (a d : Reg)
  /-- `add.i64 d, a, k` (R72). -/
  | addI64Imm (h : Hdr) (k : BitVec 6) (a d : Reg)
  /-- Format-A float majors (R75, R77). -/
  | faddF32 (h : Hdr) (b a d : Reg)
  | fsubF32 (h : Hdr) (b a d : Reg)
  | fmulF32 (h : Hdr) (b a d : Reg)
  | ffmaF32 (h : Hdr) (b a d : Reg)
  | fminF32 (h : Hdr) (b a d : Reg)
  | fmaxF32 (h : Hdr) (b a d : Reg)
  | faddF64 (h : Hdr) (b a d : Reg)
  | fsubF64 (h : Hdr) (b a d : Reg)
  | fmulF64 (h : Hdr) (b a d : Reg)
  | ffmaF64 (h : Hdr) (b a d : Reg)
  | haddH2 (h : Hdr) (b a d : Reg)
  | hmulH2 (h : Hdr) (b a d : Reg)
  | hfmaH2 (h : Hdr) (b a d : Reg)
  | hfmaBh2 (h : Hdr) (b a d : Reg)
  /-- Float miscellany, major 0x17 (R77, R78). -/
  | fabsF32 (h : Hdr) (a d : Reg)
  | fnegF32 (h : Hdr) (a d : Reg)
  | fabsF64 (h : Hdr) (a d : Reg)
  | fnegF64 (h : Hdr) (a d : Reg)
  | haddBh2 (h : Hdr) (a d : Reg)
  | hmulBh2 (h : Hdr) (a d : Reg)
  | fminF64 (h : Hdr) (a d : Reg)
  | fmaxF64 (h : Hdr) (a d : Reg)
  | hminH2 (h : Hdr) (a d : Reg)
  | hmaxH2 (h : Hdr) (a d : Reg)
  | hminBh2 (h : Hdr) (a d : Reg)
  | hmaxBh2 (h : Hdr) (a d : Reg)
  | frintF32 (h : Hdr) (a d : Reg)
  /-- Conversions (R79, R80). -/
  | cvt (h : Hdr) (dst src : WideTy) (a d : Reg)
  | cvtToNarrow (h : Hdr) (n : NarrowTy) (a d : Reg)
  | cvtFromNarrow (h : Hdr) (n : NarrowTy) (a d : Reg)
  /-- Special functions (R81). -/
  | rcpF32 (h : Hdr) (a d : Reg)
  | rsqrtF32 (h : Hdr) (a d : Reg)
  | exp2F32 (h : Hdr) (a d : Reg)
  | log2F32 (h : Hdr) (a d : Reg)
  | sinF32 (h : Hdr) (a d : Reg)
  | cosF32 (h : Hdr) (a d : Reg)
  /-- Compares (R82, R83). -/
  | cmpI32 (h : Hdr) (cc : Cc) (p : Pred) (b a : Reg)
  | cmpN32 (h : Hdr) (cc : Cc) (p : Pred) (b a : Reg)
  | cmpF32 (h : Hdr) (cc : Cc) (p : Pred) (b a : Reg)
  | cmpF64 (h : Hdr) (cc : Cc) (p : Pred) (b a : Reg)
  | cmpI32Imm (h : Hdr) (cc : Cc) (p : BitVec 2) (imm : BitVec 7) (a : Reg)
  | cmpN32Imm (h : Hdr) (cc : Cc) (p : BitVec 2) (imm : BitVec 7) (a : Reg)
  /-- Predicate logic and predicate-word moves (R84). -/
  | pand (h : Hdr) (pa pb pd : Pred)
  | por (h : Hdr) (pa pb pd : Pred)
  | pxor (h : Hdr) (pa pb pd : Pred)
  | pandn (h : Hdr) (pa pb pd : Pred)
  | pget (h : Hdr) (d : Reg)
  | pset (h : Hdr) (a : Reg)
  /-- Cross-lane instructions (R85 to R89). -/
  | xlElect (h : Hdr) (pd : Pred)
  | xlBcastB32 (h : Hdr) (a d : Reg)
  | xlCount (h : Hdr) (pa : Pred) (d : Reg)
  | xlBflyB32 (h : Hdr) (k : BitVec 3) (a d : Reg)
  | xlUpB32 (h : Hdr) (k : BitVec 3) (a d : Reg)
  | xlDownB32 (h : Hdr) (k : BitVec 3) (a d : Reg)
  | xlRed (h : Hdr) (op : XlOp) (a d : Reg)
  /-- Branches and calls (R91 to R94). -/
  | bra (h : Hdr) (off : BitVec 19)
  | call (h : Hdr) (off : BitVec 19)
  | bsel (s : BitVec 2) (cases : List Case)
  | ret (h : Hdr)
  | exit (h : Hdr)
  | yield (h : Hdr)
  | loose (h : Hdr)
  | prio (h : Hdr) (n : BitVec 4)
  | prioR (h : Hdr) (a : Reg)
  | callR (h : Hdr) (a : Reg)
  | braR (h : Hdr) (a : Reg)
  | rally (h : Hdr) (a : Reg)
  | rallyH (h : Hdr) (a : Reg)
  /-- Loops and latent frames (R100, R104, R105). -/
  | loop (h : Hdr) (n : BitVec 2) (count : Reg) (lenM1 : BitVec 8)
  | forkC (h : Hdr) (off : BitVec 11) (cntM1 : BitVec 2) (k : Reg)
  | forkR (h : Hdr) (lim idx acc : Reg) (grain : BitVec 20) (ty : RedTy) (op : RedOp)
  | forkRL (h : Hdr) (idx : Reg) (n : BitVec 2) (acc : Reg) (grain : BitVec 20) (ty : RedTy) (op : RedOp)
  /-- Joins and ends (R113 to R117). -/
  | joinR (h : Hdr)
  | joinC (h : Hdr) (pd : Pred) (a : Reg)
  | done (h : Hdr) (a : Reg)
  | doneR (h : Hdr)
  | spawn (h : Hdr) (d a : Reg)
  /-- Loads and stores (R126). -/
  | ldB32Global (h : Hdr) (off : BitVec 7) (a d : Reg)
  | ldB64Global (h : Hdr) (off : BitVec 7) (a d : Reg)
  | stB32Global (h : Hdr) (off : BitVec 7) (a d : Reg)
  | stB64Global (h : Hdr) (off : BitVec 7) (a d : Reg)
  | ldB32Sp (h : Hdr) (off : BitVec 7) (a d : Reg)
  | stB32Sp (h : Hdr) (off : BitVec 7) (a d : Reg)
  | ldPlain (h : Hdr) (ty : LdTy) (sp : Bool) (a d : Reg)
  | stPlain (h : Hdr) (ty : StTy) (sp : Bool) (a d : Reg)
  | ldSw (h : Hdr) (w : BitVec 4) (a d : Reg)
  | stSw (h : Hdr) (w : BitVec 4) (a d : Reg)
  | ldAcq (h : Hdr) (sc : Scope) (wide : Bool) (a d : Reg)
  | stRel (h : Hdr) (sc : Scope) (wide : Bool) (a d : Reg)
  | ldCb (h : Hdr) (buf : Buf) (wide : Bool) (a d : Reg)
  | stCb (h : Hdr) (buf : Buf) (wide : Bool) (a d : Reg)
  /-- Copies and atomics (R137, R141). -/
  | cpy (h : Hdr) (b a d : Reg) (devScope : Bool) (srcWin dstWin : BitVec 4) (barGlobal : Bool)
      (src dst : Space) (q : BitVec 3) (barPresent : Bool) (bar : Reg)
  | atom (h : Hdr) (sp : Bool) (b a d : Reg) (ty : AtomTy) (sc : Scope) (sem : Sem) (op : AtomOp)
  /-- Plazas (R292). -/
  | plzOpen (h : Hdr) (a d : Reg)
  | plzEnter (h : Hdr) (a d : Reg)
  | plzLeave (h : Hdr) (a d : Reg)
  | plzVote (h : Hdr) (a d : Reg)
  | plzAbort (h : Hdr) (a : Reg)
  /-- Barriers, sets and sharing groups (R148, R151, R154, R155). -/
  | barInit (h : Hdr) (space : BarSpace) (a d : Reg)
  | barExpect (h : Hdr) (space : BarSpace) (a d : Reg)
  | barArrive (h : Hdr) (space : BarSpace) (a d : Reg)
  | barWait (h : Hdr) (space : BarSpace) (a d : Reg)
  | setNew (h : Hdr) (a : Reg)
  | setEnrol (h : Hdr) (a : Reg)
  | setQuit (h : Hdr) (a : Reg)
  | grpEnter (h : Hdr) (a d : Reg)
  | grpLeave (h : Hdr) (a : Reg)
  /-- Counter waits and the token (R131, R158). -/
  | cwait (h : Hdr) (c : Cls) (n : BitVec 6)
  | tokPass (h : Hdr)
  /-- Matrix, compress and selection (R195, R205, R246, R249, R241). -/
  | mxa (h : Hdr) (a : Reg)
  | mxs (h : Hdr) (two : Bool) (a d : Reg)
  | spkI8 (h : Hdr) (b a d : Reg)
  | spkF8 (h : Hdr) (b a d : Reg)
  | spkBf16 (h : Hdr) (b a d : Reg)
  | asel (h : Hdr) (a : Reg)
  | agat (h : Hdr) (a : Reg)
  | ksumRebuild (h : Hdr) (a : Reg)
  /-- System (R62, R164, R274, R159, R51). -/
  | smov (h : Hdr) (idx : BitVec 4) (d : Reg)
  | sset (h : Hdr) (idx : BitVec 4) (a : Reg)
  | trap (h : Hdr) (n : BitVec 6)
  | tret (h : Hdr)
  | launch (h : Hdr) (a : Reg)
  | safept (h : Hdr) (n : BitVec 13)
  | nap (h : Hdr) (n : BitVec 13)
  | tretLabel (h : Hdr) (off : BitVec 19)
  /-- The 16-bit forms (R30): i set makes a an immediate. -/
  | mov16 (i : Bool) (a d : BitVec 5)
  | addI3216 (i : Bool) (a d : BitVec 5)
  | subI3216 (i : Bool) (a d : BitVec 5)
  | mulLoI3216 (i : Bool) (a d : BitVec 5)
  | andB3216 (i : Bool) (a d : BitVec 5)
  | orB3216 (i : Bool) (a d : BitVec 5)
  | xorB3216 (i : Bool) (a d : BitVec 5)
  | shlB3216 (i : Bool) (a d : BitVec 5)
  | shrN3216 (i : Bool) (a d : BitVec 5)
  | shrI3216 (i : Bool) (a d : BitVec 5)
  | minI3216 (i : Bool) (a d : BitVec 5)
  | maxI3216 (i : Bool) (a d : BitVec 5)
  | faddF3216 (i : Bool) (a d : BitVec 5)
  | fmulF3216 (i : Bool) (a d : BitVec 5)
  | fmaxF3216 (i : Bool) (a d : BitVec 5)
  | haddH216 (i : Bool) (a d : BitVec 5)
  /-- Heartbeat and fork steps (R106 to R112). -/
  | heartbeatTick (launch core : Nat)
  | detHeartbeat (fib : Nat)
  | rangeSplit (fib : Nat)
  | childStart (fib core : Nat) (fid : BitVec 31)
  | joinSave (fib : Nat)
  | joinRestore (fib core : Nat)
  /-- Boundary traps, naps, pre-emption (R132, R161, R51, R165, R166). -/
  | deferredTrap (fib : Nat)
  | safeDistance (fib : Nat)
  | napEnd (fib : Nat)
  | preemptSave (asid : BitVec 8)
  | preemptRestore (asid : BitVec 8) (place : List (List Nat))
  /-- Issue and the Roundabout (R95, R129). -/
  | issueStarvation (fib : Nat)
  | roundaboutSend (core line : Nat)
  /-- Completion of accesses (R127, R214), translation (R224, R225). -/
  | loadComplete (acc : Nat)
  | storePerform (acc : Nat)
  | tableWalk (quad : Nat) (asid : BitVec 8) (va : Nat) (kind : AccKind)
  | faultdoneResolved (die rec : Nat)
  | faultdoneUnresolvable (die rec : Nat)
  | tlbinv (w : Word)
  /-- Atomic units, the detector and the engines (R221, R231, R138, R116, R199, R246, R249, R241). -/
  | atomicExecute (acc : Nat)
  | detectorFull (die : Nat)
  | copyPieceLand (copy : Nat)
  | blockRetire (launch block : Nat)
  | mxPass (quad entry : Nat)
  | arbiterStarvation (quad entry : Nat)
  | aselRun (entry : Nat)
  | agatRun (entry : Nat)
  | ksumRebuildRun (entry : Nat)
  /-- A fill reaches the L1 of a core (R218). -/
  | fill (x sector : Nat)
  /-- Bring-up (R256, R264 to R268). -/
  | powerUp (shortReach : Bool) (dev : BitVec 12)
  | train (ports : BitVec 16) (paths : List (Nat × Nat × Nat))
  /-- Task graphs, launches and placement (R275 to R281, R273). -/
  | graphreg (w : DWord)
  | kick (w : DWord)
  | nodeComplete (graph node : Nat)
  | launchComplete (launch : Nat)
  | blockPlace (launch die : Nat) (cores : List Nat)
  | gangProtection (launch block : Nat)
  | translationPublish (kdesc : Nat) (asid : BitVec 8) (entry vector : Nat) (points : List (Nat × Nat))
  /-- Host registers and host memory (R258, R260 to R263, R239). -/
  | biasToHost (w : DWord)
  | biasToDevice (w : DWord)
  | keybindBind (w : Word)
  | keybindUnbind (w : Word)
  | registerWrite (off : Nat) (val : DWord)
  | hostMemRead (addr len : Nat) (want : HostWant)
  | hostMemWrite (addr : Nat) (data : List Byte)
  | hostSnoopResponse (line : Nat) (data : List Byte)
  /-- The fabric (R284 to R288) and plazas (R294 to R303). -/
  | flitReceive (port : Nat) (ok : Bool)
  | remoteRequest (peer : PeerFibre) (addr size : Nat) (sc : Scope) (op : PeerOp)
  | remoteAck (acc : Nat) (data : DWord) (kind : AckKind)
  | sealAck (die index dir : Nat)
  | publishReport (die index dir : Nat)
  | plazaTimeout (die index : Nat)
  | plazaDiscard (die index : Nat)
  /-- Boot commands and verification (R264, R265, R268), power (R282, R283). -/
  | cmdLoad
  | cmdReset
  | cmdQuote
  | verify
  | selftest (failed : List (BitVec 68))
  | thermalTrip
  | clockStep (up : Bool)
  /-- Host memory cached by die-0 slices (R255). -/
  | cxlCacheSnoop (line : Nat) (invalidate : Bool)
  | cxlCacheResponse (line : Nat) (exclusive : Bool) (data : List Byte)
  /-- Sector coherence (R215 to R220); x is a core of the package, 256 to a die. -/
  | gets (x sector : Nat)
  | getm (x sector : Nat)
  | upgrade (x sector : Nat)
  | homeWrite (addr : Nat) (data : List Byte)
  | uncachedRead (read : SectorRead)
  | probeShare (x sector : Nat)
  | probeInvalidate (x sector : Nat)
  | putm (x sector : Nat)
  | puts (x sector : Nat)
  | lineEvict (x line : Nat)
  | corePowerGate (core : Nat)
  | coreWake (core : Nat)
  deriving DecidableEq, Repr

end Sys2Proof
end

