-- ==== Sys2Proof/WellFormed.lean ====
section
/-! DEFINITION. Well-formed instructions: the conditions under which a decodable encoding does not take UNDEF for
its own bits (02 R26, R27, R29 to R44, 05 R105, 11 R205). The conditions that depend on the running fibre (its
window, its kernel's NSAFE, a Craco body) are checked where the instruction executes. -/

namespace Sys2Proof

/-- An even register, as a pair requires (R27). -/
def even (r : Reg) : Bool := r.toNat % 2 == 0

def WideTy.wide : WideTy → Bool
  | .f64 | .i64 | .n64 => true
  | .f16 | .bf16 | .f32 | .i32 | .n32 => false

def WideTy.isFloat : WideTy → Bool
  | .f16 | .bf16 | .f32 | .f64 => true
  | .i32 | .n32 | .i64 | .n64 => false

/-- Equal types, and integer to integer, take UNDEF (R36). -/
def cvtOk (dst src : WideTy) : Bool := dst != src && (dst.isFloat || src.isFloat)

/-- k = 0, or 2^k above W, takes UNDEF (R37, R88). -/
def shuffleOk (k : BitVec 3) : Bool := k != 0 && decide (2 ^ k.toNat ≤ Config.laneCount)

def AtomTy.wide : AtomTy → Bool
  | .i64 | .n64 | .b64 => true
  | .i32 | .n32 | .f32 | .b32 => false

/-- The types each atomic operation accepts (R40). -/
def atomOk : AtomOp → AtomTy → Bool
  | .add, t | .min, t | .max, t => t != .b32 && t != .b64
  | .and, t | .or, t | .xor, t | .cas, t => t == .b32 || t == .b64
  | .exch, t => t == .b32 || t == .b64 || t == .f32

/-- The grain, type and accumulator rules of `fork.r` (R35, R105). -/
def redOk (grain : BitVec 20) (acc : Reg) (ty : RedTy) (op : RedOp) : Bool :=
  grain != 0 && (if op == .none then ty == .f16 && acc == 0 else acc != 0) && (ty != .i64 || even acc)

/-- The accumulator register, or pair, overlaps register r (R105). -/
def overlaps (acc : Reg) (ty : RedTy) (op : RedOp) (r : Reg) : Bool :=
  op != .none && (r == acc || (ty == .i64 && r.toNat == acc.toNat + 1))

/-- G = 1000 is reserved (R26). -/
def Hdr.ok (h : Hdr) : Bool := h.g != 8

/-- Well-formedness of an instruction other than `ext`. Of a `cpy` that names no barrier, bits 19 and 8:3 of the operand
word may hold anything, and the register they would name is not looked for in the window: R35 calls only bit 28 reserved
then (DESIGN CHOICE, log 83). -/
def Instr.wfPlain : Instr → Bool
  | .ext _ _ => false
  | .addI32 h _ _ _ => h.ok
  | .subI32 h _ _ _ => h.ok
  | .mulLoI32 h _ _ _ => h.ok
  | .madLoI32 h _ _ _ => h.ok
  | .mulHiI32 h _ _ _ => h.ok
  | .mulHiN32 h _ _ _ => h.ok
  | .andB32 h _ _ _ => h.ok
  | .orB32 h _ _ _ => h.ok
  | .xorB32 h _ _ _ => h.ok
  | .andnB32 h _ _ _ => h.ok
  | .shlB32 h _ _ _ => h.ok
  | .shrN32 h _ _ _ => h.ok
  | .shrI32 h _ _ _ => h.ok
  | .rotB32 h _ _ _ => h.ok
  | .minI32 h _ _ _ => h.ok
  | .maxI32 h _ _ _ => h.ok
  | .minN32 h _ _ _ => h.ok
  | .maxN32 h _ _ _ => h.ok
  | .addI64 h b a d => h.ok && (even b && even a && even d)
  | .subI64 h b a d => h.ok && (even b && even a && even d)
  | .mulWideI32 h _ _ d => h.ok && (even d)
  | .mulWideN32 h _ _ d => h.ok && (even d)
  | .leaN32 h _ a d _ => h.ok && (even a && even d)
  | .leaI32 h _ a d _ => h.ok && (even a && even d)
  | .addI32Imm h _ _ => h.ok
  | .subI32Imm h _ _ => h.ok
  | .mulLoI32Imm h _ _ => h.ok
  | .andB32Imm h _ _ => h.ok
  | .orB32Imm h _ _ => h.ok
  | .xorB32Imm h _ _ => h.ok
  | .shlB32Imm h _ _ => h.ok
  | .shrN32Imm h _ _ => h.ok
  | .shrI32Imm h _ _ => h.ok
  | .minI32Imm h _ _ => h.ok
  | .maxI32Imm h _ _ => h.ok
  | .faddF32Imm h _ _ => h.ok
  | .fmulF32Imm h _ _ => h.ok
  | .fmaxF32Imm h _ _ => h.ok
  | .haddH2Imm h _ _ => h.ok
  | .movImm h _ _ => h.ok
  | .mov h _ _ => h.ok
  | .movB64 h a d => h.ok && (even a && even d)
  | .notB32 h _ _ => h.ok
  | .negI32 h _ _ => h.ok
  | .absI32 h _ _ => h.ok
  | .popcB32 h _ _ => h.ok
  | .clzB32 h _ _ => h.ok
  | .brevB32 h _ _ => h.ok
  | .addI64Imm h _ a d => h.ok && (even a && even d)
  | .faddF32 h _ _ _ => h.ok
  | .fsubF32 h _ _ _ => h.ok
  | .fmulF32 h _ _ _ => h.ok
  | .ffmaF32 h _ _ _ => h.ok
  | .fminF32 h _ _ _ => h.ok
  | .fmaxF32 h _ _ _ => h.ok
  | .faddF64 h b a d => h.ok && (even b && even a && even d)
  | .fsubF64 h b a d => h.ok && (even b && even a && even d)
  | .fmulF64 h b a d => h.ok && (even b && even a && even d)
  | .ffmaF64 h b a d => h.ok && (even b && even a && even d)
  | .haddH2 h _ _ _ => h.ok
  | .hmulH2 h _ _ _ => h.ok
  | .hfmaH2 h _ _ _ => h.ok
  | .hfmaBh2 h _ _ _ => h.ok
  | .fabsF32 h _ _ => h.ok
  | .fnegF32 h _ _ => h.ok
  | .fabsF64 h a d => h.ok && (even a && even d)
  | .fnegF64 h a d => h.ok && (even a && even d)
  | .haddBh2 h _ _ => h.ok
  | .hmulBh2 h _ _ => h.ok
  | .fminF64 h a d => h.ok && (even a && even d)
  | .fmaxF64 h a d => h.ok && (even a && even d)
  | .hminH2 h _ _ => h.ok
  | .hmaxH2 h _ _ => h.ok
  | .hminBh2 h _ _ => h.ok
  | .hmaxBh2 h _ _ => h.ok
  | .frintF32 h _ _ => h.ok
  | .cvt h dst src a d => h.ok && (cvtOk dst src && (!src.wide || even a) && (!dst.wide || even d))
  | .cvtToNarrow h _ _ _ => h.ok
  | .cvtFromNarrow h _ _ _ => h.ok
  | .rcpF32 h _ _ => h.ok
  | .rsqrtF32 h _ _ => h.ok
  | .exp2F32 h _ _ => h.ok
  | .log2F32 h _ _ => h.ok
  | .sinF32 h _ _ => h.ok
  | .cosF32 h _ _ => h.ok
  | .cmpI32 h _ _ _ _ => h.ok
  | .cmpN32 h _ _ _ _ => h.ok
  | .cmpF32 h _ _ _ _ => h.ok
  | .cmpF64 h _ _ b a => h.ok && (even b && even a)
  | .cmpI32Imm h _ _ _ _ => h.ok
  | .cmpN32Imm h _ _ _ _ => h.ok
  | .pand h _ _ _ => h.ok
  | .por h _ _ _ => h.ok
  | .pxor h _ _ _ => h.ok
  | .pandn h _ _ _ => h.ok
  | .pget h _ => h.ok
  | .pset h _ => h.ok
  | .xlElect h _ => h.ok
  | .xlBcastB32 h _ _ => h.ok
  | .xlCount h _ _ => h.ok
  | .xlBflyB32 h k _ _ => h.ok && (shuffleOk k)
  | .xlUpB32 h k _ _ => h.ok && (shuffleOk k)
  | .xlDownB32 h k _ _ => h.ok && (shuffleOk k)
  | .xlRed h _ _ _ => h.ok
  | .bra h _ => h.ok
  | .call h _ => h.ok
  | .bsel _ cases => decide (1 ≤ cases.length) && decide (cases.length ≤ 4) && cases.all (fun c => c.g != 8)
  | .ret h => h.ok
  | .exit h => h.ok
  | .yield h => h.ok
  | .loose h => h.ok
  | .prio h _ => h.ok
  | .prioR h _ => h.ok
  | .callR h a => h.ok && (even a)
  | .braR h a => h.ok && (even a)
  | .rally h _ => h.ok
  | .rallyH h _ => h.ok
  | .loop h n _ _ => h.ok && (n != 3)
  | .forkC h _ _ _ => h.ok
  | .forkR h lim idx acc grain ty op => h.ok && (decide (lim ≠ idx) && decide (idx ≠ 0) && decide (lim ≠ 0) && redOk grain acc ty op && !overlaps acc ty op idx && !overlaps acc ty op lim)
  | .forkRL h idx n acc grain ty op => h.ok && (n != 3 && decide (idx ≠ 0) && redOk grain acc ty op && !overlaps acc ty op idx)
  | .joinR h => h.ok
  | .joinC h _ _ => h.ok
  | .done h _ => h.ok
  | .doneR h => h.ok
  | .spawn h _ a => h.ok && (even a)
  | .ldB32Global h _ a _ => h.ok && (even a)
  | .ldB64Global h _ a d => h.ok && (even a && even d)
  | .stB32Global h _ a _ => h.ok && (even a)
  | .stB64Global h _ a d => h.ok && (even a && even d)
  | .ldB32Sp h _ _ _ => h.ok
  | .stB32Sp h _ _ _ => h.ok
  | .ldPlain h ty sp a d => h.ok && ((sp || even a) && (ty != .b64 || even d))
  | .stPlain h ty sp a d => h.ok && ((sp || even a) && (ty != .b64 || even d))
  | .ldSw h _ _ _ => h.ok
  | .stSw h _ _ _ => h.ok
  | .ldAcq h _ wide a d => h.ok && (even a && (!wide || even d))
  | .stRel h _ wide a d => h.ok && (even a && (!wide || even d))
  | .ldCb h _ wide _ d => h.ok && (!wide || even d)
  | .stCb h _ wide _ d => h.ok && (!wide || even d)
  | .cpy h _ a d devScope srcWin dstWin barGlobal src dst _ barPresent bar => h.ok && ((dst != .global || even d) && (src != .global || even a) && (src == .sw || srcWin == 0) && (dst == .sw || dstWin == 0) && (!devScope || (barPresent && barGlobal)) && (!(barPresent && barGlobal) || even bar))
  | .atom h sp b a d ty sc _ op => h.ok && ((sp || even a) && atomOk op ty && (!sp || sc == .core) && (!ty.wide || (even b && even d)))
  | .plzOpen h a d => h.ok && (even a && even d)
  | .plzEnter h a _ => h.ok && (even a)
  | .plzLeave h a _ => h.ok && (even a)
  | .plzVote h a _ => h.ok && (even a)
  | .plzAbort h a => h.ok && (even a)
  | .barInit h space a _ => h.ok && (space == .sp || even a)
  | .barExpect h space a _ => h.ok && (space == .sp || even a)
  | .barArrive h space a _ => h.ok && (space == .sp || even a)
  | .barWait h space a _ => h.ok && (space == .sp || even a)
  | .setNew h _ => h.ok
  | .setEnrol h _ => h.ok
  | .setQuit h _ => h.ok
  | .grpEnter h a _ => h.ok && (even a)
  | .grpLeave h a => h.ok && (even a)
  | .cwait h _ _ => h.ok
  | .tokPass h => h.ok
  | .mxa h _ => h.ok
  | .mxs h _ _ _ => h.ok
  | .spkI8 h b a d => h.ok && (even a && b != d)
  | .spkF8 h b a d => h.ok && (even a && b != d)
  | .spkBf16 h b a d => h.ok && (decide (a.toNat % 4 = 0) && even d && b != d && decide (b.toNat ≠ d.toNat + 1))
  | .asel h _ => h.ok
  | .agat h _ => h.ok
  | .ksumRebuild h a => h.ok && (even a)
  | .smov h idx d => h.ok && (idx != 11 || even d)
  | .sset h idx a => h.ok && (idx != 11 || even a)
  | .trap h _ => h.ok
  | .tret h => h.ok
  | .launch h a => h.ok && (even a)
  | .safept h n => h.ok && (decide (n.toNat < 1024))
  | .nap h _ => h.ok
  | .tretLabel h _ => h.ok
  | .mov16 _ _ _ => true
  | .addI3216 _ _ _ => true
  | .subI3216 _ _ _ => true
  | .mulLoI3216 _ _ _ => true
  | .andB3216 _ _ _ => true
  | .orB3216 _ _ _ => true
  | .xorB3216 _ _ _ => true
  | .shlB3216 _ _ _ => true
  | .shrN3216 _ _ _ => true
  | .shrI3216 _ _ _ => true
  | .minI3216 _ _ _ => true
  | .maxI3216 _ _ _ => true
  | .faddF3216 _ _ _ => true
  | .fmulF3216 _ _ _ => true
  | .fmaxF3216 _ _ _ => true
  | .haddH216 _ _ _ => true
  | .heartbeatTick _ _ => false
  | .detHeartbeat _ => false
  | .rangeSplit _ => false
  | .childStart _ _ _ => false
  | .joinSave _ => false
  | .joinRestore _ _ => false
  | .deferredTrap _ => false
  | .safeDistance _ => false
  | .napEnd _ => false
  | .preemptSave _ => false
  | .preemptRestore _ _ => false
  | .issueStarvation _ => false
  | .roundaboutSend _ _ => false
  | .loadComplete _ => false
  | .storePerform _ => false
  | .tableWalk _ _ _ _ => false
  | .faultdoneResolved _ _ => false
  | .faultdoneUnresolvable _ _ => false
  | .tlbinv _ => false
  | .gets _ _ => false
  | .getm _ _ => false
  | .upgrade _ _ => false
  | .homeWrite _ _ => false
  | .uncachedRead _ => false
  | .probeShare _ _ => false
  | .probeInvalidate _ _ => false
  | .putm _ _ => false
  | .puts _ _ => false
  | .lineEvict _ _ => false
  | .fill _ _ => false
  | .corePowerGate _ => false
  | .coreWake _ => false
  | .atomicExecute _ => false
  | .detectorFull _ => false
  | .copyPieceLand _ => false
  | .blockRetire _ _ => false
  | .mxPass _ _ => false
  | .arbiterStarvation _ _ => false
  | .aselRun _ => false
  | .agatRun _ => false
  | .ksumRebuildRun _ => false
  | .powerUp _ _ => false
  | .cmdLoad => false
  | .cmdReset => false
  | .cmdQuote => false
  | .verify => false
  | .selftest _ => false
  | .train _ _ => false
  | .graphreg _ => false
  | .kick _ => false
  | .nodeComplete _ _ => false
  | .launchComplete _ => false
  | .blockPlace _ _ _ => false
  | .gangProtection _ _ => false
  | .translationPublish _ _ _ _ _ => false
  | .biasToHost _ => false
  | .biasToDevice _ => false
  | .keybindBind _ => false
  | .keybindUnbind _ => false
  | .registerWrite _ _ => false
  | .hostMemRead _ _ _ => false
  | .hostMemWrite _ _ => false
  | .hostSnoopResponse _ _ => false
  | .clockStep _ => false
  | .thermalTrip => false
  | .flitReceive _ _ => false
  | .remoteRequest _ _ _ _ _ => false
  | .remoteAck _ _ _ => false
  | .sealAck _ _ _ => false
  | .publishReport _ _ _ => false
  | .plazaTimeout _ _ => false
  | .plazaDiscard _ _ => false
  | .cxlCacheSnoop _ _ => false
  | .cxlCacheResponse _ _ _ => false

/-- The lane float majors 0x10 to 0x18, which an `ext` gives a rounding selector (R31). -/
def Instr.takesRounding : Instr → Bool
  | .faddF32 _ _ _ _ => true
  | .fsubF32 _ _ _ _ => true
  | .fmulF32 _ _ _ _ => true
  | .ffmaF32 _ _ _ _ => true
  | .fminF32 _ _ _ _ => true
  | .fmaxF32 _ _ _ _ => true
  | .faddF64 _ _ _ _ => true
  | .fsubF64 _ _ _ _ => true
  | .fmulF64 _ _ _ _ => true
  | .ffmaF64 _ _ _ _ => true
  | .haddH2 _ _ _ _ => true
  | .hmulH2 _ _ _ _ => true
  | .hfmaH2 _ _ _ _ => true
  | .hfmaBh2 _ _ _ _ => true
  | .fabsF32 _ _ _ => true
  | .fnegF32 _ _ _ => true
  | .fabsF64 _ _ _ => true
  | .fnegF64 _ _ _ => true
  | .haddBh2 _ _ _ => true
  | .hmulBh2 _ _ _ => true
  | .fminF64 _ _ _ => true
  | .fmaxF64 _ _ _ => true
  | .hminH2 _ _ _ => true
  | .hmaxH2 _ _ _ => true
  | .hminBh2 _ _ _ => true
  | .hmaxBh2 _ _ _ => true
  | .frintF32 _ _ _ => true
  | .cvt _ _ _ _ _ => true
  | _ => false

/-- The instruction after an `ext` is checked with the widened value: a `safept` index (R31), and v<18:3> of a
rounding selector, which is reserved. Instructions that R31 does not list still form a group, which takes UNDEF
when it is executed (R32). -/
def Instr.wfExt (v : BitVec 19) : Instr → Bool
  | .safept h n => h.ok && decide (v.toNat * 8192 + n.toNat < 1024)
  | i => i.wfPlain && (!i.takesRounding || decide (v.toNat < 8))

/-- Well-formed instruction of a fibre. -/
def Instr.wf : Instr → Bool
  | .ext v i => i.wfExt v
  | i => i.wfPlain

/-- The steps of the machine's other agents: rows with no encoding. -/
def Instr.isStep : Instr → Bool
  | .ext _ _ => false
  | .addI32 _ _ _ _ => false
  | .subI32 _ _ _ _ => false
  | .mulLoI32 _ _ _ _ => false
  | .madLoI32 _ _ _ _ => false
  | .mulHiI32 _ _ _ _ => false
  | .mulHiN32 _ _ _ _ => false
  | .andB32 _ _ _ _ => false
  | .orB32 _ _ _ _ => false
  | .xorB32 _ _ _ _ => false
  | .andnB32 _ _ _ _ => false
  | .shlB32 _ _ _ _ => false
  | .shrN32 _ _ _ _ => false
  | .shrI32 _ _ _ _ => false
  | .rotB32 _ _ _ _ => false
  | .minI32 _ _ _ _ => false
  | .maxI32 _ _ _ _ => false
  | .minN32 _ _ _ _ => false
  | .maxN32 _ _ _ _ => false
  | .addI64 _ _ _ _ => false
  | .subI64 _ _ _ _ => false
  | .mulWideI32 _ _ _ _ => false
  | .mulWideN32 _ _ _ _ => false
  | .leaN32 _ _ _ _ _ => false
  | .leaI32 _ _ _ _ _ => false
  | .addI32Imm _ _ _ => false
  | .subI32Imm _ _ _ => false
  | .mulLoI32Imm _ _ _ => false
  | .andB32Imm _ _ _ => false
  | .orB32Imm _ _ _ => false
  | .xorB32Imm _ _ _ => false
  | .shlB32Imm _ _ _ => false
  | .shrN32Imm _ _ _ => false
  | .shrI32Imm _ _ _ => false
  | .minI32Imm _ _ _ => false
  | .maxI32Imm _ _ _ => false
  | .faddF32Imm _ _ _ => false
  | .fmulF32Imm _ _ _ => false
  | .fmaxF32Imm _ _ _ => false
  | .haddH2Imm _ _ _ => false
  | .movImm _ _ _ => false
  | .mov _ _ _ => false
  | .movB64 _ _ _ => false
  | .notB32 _ _ _ => false
  | .negI32 _ _ _ => false
  | .absI32 _ _ _ => false
  | .popcB32 _ _ _ => false
  | .clzB32 _ _ _ => false
  | .brevB32 _ _ _ => false
  | .addI64Imm _ _ _ _ => false
  | .faddF32 _ _ _ _ => false
  | .fsubF32 _ _ _ _ => false
  | .fmulF32 _ _ _ _ => false
  | .ffmaF32 _ _ _ _ => false
  | .fminF32 _ _ _ _ => false
  | .fmaxF32 _ _ _ _ => false
  | .faddF64 _ _ _ _ => false
  | .fsubF64 _ _ _ _ => false
  | .fmulF64 _ _ _ _ => false
  | .ffmaF64 _ _ _ _ => false
  | .haddH2 _ _ _ _ => false
  | .hmulH2 _ _ _ _ => false
  | .hfmaH2 _ _ _ _ => false
  | .hfmaBh2 _ _ _ _ => false
  | .fabsF32 _ _ _ => false
  | .fnegF32 _ _ _ => false
  | .fabsF64 _ _ _ => false
  | .fnegF64 _ _ _ => false
  | .haddBh2 _ _ _ => false
  | .hmulBh2 _ _ _ => false
  | .fminF64 _ _ _ => false
  | .fmaxF64 _ _ _ => false
  | .hminH2 _ _ _ => false
  | .hmaxH2 _ _ _ => false
  | .hminBh2 _ _ _ => false
  | .hmaxBh2 _ _ _ => false
  | .frintF32 _ _ _ => false
  | .cvt _ _ _ _ _ => false
  | .cvtToNarrow _ _ _ _ => false
  | .cvtFromNarrow _ _ _ _ => false
  | .rcpF32 _ _ _ => false
  | .rsqrtF32 _ _ _ => false
  | .exp2F32 _ _ _ => false
  | .log2F32 _ _ _ => false
  | .sinF32 _ _ _ => false
  | .cosF32 _ _ _ => false
  | .cmpI32 _ _ _ _ _ => false
  | .cmpN32 _ _ _ _ _ => false
  | .cmpF32 _ _ _ _ _ => false
  | .cmpF64 _ _ _ _ _ => false
  | .cmpI32Imm _ _ _ _ _ => false
  | .cmpN32Imm _ _ _ _ _ => false
  | .pand _ _ _ _ => false
  | .por _ _ _ _ => false
  | .pxor _ _ _ _ => false
  | .pandn _ _ _ _ => false
  | .pget _ _ => false
  | .pset _ _ => false
  | .xlElect _ _ => false
  | .xlBcastB32 _ _ _ => false
  | .xlCount _ _ _ => false
  | .xlBflyB32 _ _ _ _ => false
  | .xlUpB32 _ _ _ _ => false
  | .xlDownB32 _ _ _ _ => false
  | .xlRed _ _ _ _ => false
  | .bra _ _ => false
  | .call _ _ => false
  | .bsel _ _ => false
  | .ret _ => false
  | .exit _ => false
  | .yield _ => false
  | .loose _ => false
  | .prio _ _ => false
  | .prioR _ _ => false
  | .callR _ _ => false
  | .braR _ _ => false
  | .rally _ _ => false
  | .rallyH _ _ => false
  | .loop _ _ _ _ => false
  | .forkC _ _ _ _ => false
  | .forkR _ _ _ _ _ _ _ => false
  | .forkRL _ _ _ _ _ _ _ => false
  | .joinR _ => false
  | .joinC _ _ _ => false
  | .done _ _ => false
  | .doneR _ => false
  | .spawn _ _ _ => false
  | .ldB32Global _ _ _ _ => false
  | .ldB64Global _ _ _ _ => false
  | .stB32Global _ _ _ _ => false
  | .stB64Global _ _ _ _ => false
  | .ldB32Sp _ _ _ _ => false
  | .stB32Sp _ _ _ _ => false
  | .ldPlain _ _ _ _ _ => false
  | .stPlain _ _ _ _ _ => false
  | .ldSw _ _ _ _ => false
  | .stSw _ _ _ _ => false
  | .ldAcq _ _ _ _ _ => false
  | .stRel _ _ _ _ _ => false
  | .ldCb _ _ _ _ _ => false
  | .stCb _ _ _ _ _ => false
  | .cpy _ _ _ _ _ _ _ _ _ _ _ _ _ => false
  | .atom _ _ _ _ _ _ _ _ _ => false
  | .plzOpen _ _ _ => false
  | .plzEnter _ _ _ => false
  | .plzLeave _ _ _ => false
  | .plzVote _ _ _ => false
  | .plzAbort _ _ => false
  | .barInit _ _ _ _ => false
  | .barExpect _ _ _ _ => false
  | .barArrive _ _ _ _ => false
  | .barWait _ _ _ _ => false
  | .setNew _ _ => false
  | .setEnrol _ _ => false
  | .setQuit _ _ => false
  | .grpEnter _ _ _ => false
  | .grpLeave _ _ => false
  | .cwait _ _ _ => false
  | .tokPass _ => false
  | .mxa _ _ => false
  | .mxs _ _ _ _ => false
  | .spkI8 _ _ _ _ => false
  | .spkF8 _ _ _ _ => false
  | .spkBf16 _ _ _ _ => false
  | .asel _ _ => false
  | .agat _ _ => false
  | .ksumRebuild _ _ => false
  | .smov _ _ _ => false
  | .sset _ _ _ => false
  | .trap _ _ => false
  | .tret _ => false
  | .launch _ _ => false
  | .safept _ _ => false
  | .nap _ _ => false
  | .tretLabel _ _ => false
  | .mov16 _ _ _ => false
  | .addI3216 _ _ _ => false
  | .subI3216 _ _ _ => false
  | .mulLoI3216 _ _ _ => false
  | .andB3216 _ _ _ => false
  | .orB3216 _ _ _ => false
  | .xorB3216 _ _ _ => false
  | .shlB3216 _ _ _ => false
  | .shrN3216 _ _ _ => false
  | .shrI3216 _ _ _ => false
  | .minI3216 _ _ _ => false
  | .maxI3216 _ _ _ => false
  | .faddF3216 _ _ _ => false
  | .fmulF3216 _ _ _ => false
  | .fmaxF3216 _ _ _ => false
  | .haddH216 _ _ _ => false
  | .heartbeatTick _ _ => true
  | .detHeartbeat _ => true
  | .rangeSplit _ => true
  | .childStart _ _ _ => true
  | .joinSave _ => true
  | .joinRestore _ _ => true
  | .deferredTrap _ => true
  | .safeDistance _ => true
  | .napEnd _ => true
  | .preemptSave _ => true
  | .preemptRestore _ _ => true
  | .issueStarvation _ => true
  | .roundaboutSend _ _ => true
  | .loadComplete _ => true
  | .storePerform _ => true
  | .tableWalk _ _ _ _ => true
  | .faultdoneResolved _ _ => true
  | .faultdoneUnresolvable _ _ => true
  | .tlbinv _ => true
  | .gets _ _ => true
  | .getm _ _ => true
  | .upgrade _ _ => true
  | .homeWrite _ _ => true
  | .uncachedRead _ => true
  | .probeShare _ _ => true
  | .probeInvalidate _ _ => true
  | .putm _ _ => true
  | .puts _ _ => true
  | .lineEvict _ _ => true
  | .fill _ _ => true
  | .corePowerGate _ => true
  | .coreWake _ => true
  | .atomicExecute _ => true
  | .detectorFull _ => true
  | .copyPieceLand _ => true
  | .blockRetire _ _ => true
  | .mxPass _ _ => true
  | .arbiterStarvation _ _ => true
  | .aselRun _ => true
  | .agatRun _ => true
  | .ksumRebuildRun _ => true
  | .powerUp _ _ => true
  | .cmdLoad => true
  | .cmdReset => true
  | .cmdQuote => true
  | .verify => true
  | .selftest _ => true
  | .train _ _ => true
  | .graphreg _ => true
  | .kick _ => true
  | .nodeComplete _ _ => true
  | .launchComplete _ => true
  | .blockPlace _ _ _ => true
  | .gangProtection _ _ => true
  | .translationPublish _ _ _ _ _ => true
  | .biasToHost _ => true
  | .biasToDevice _ => true
  | .keybindBind _ => true
  | .keybindUnbind _ => true
  | .registerWrite _ _ => true
  | .hostMemRead _ _ _ => true
  | .hostMemWrite _ _ => true
  | .hostSnoopResponse _ _ => true
  | .clockStep _ => true
  | .thermalTrip => true
  | .flitReceive _ _ => true
  | .remoteRequest _ _ _ _ _ => true
  | .remoteAck _ _ _ => true
  | .sealAck _ _ _ => true
  | .publishReport _ _ _ => true
  | .plazaTimeout _ _ => true
  | .plazaDiscard _ _ => true
  | .cxlCacheSnoop _ _ => true
  | .cxlCacheResponse _ _ _ => true

end Sys2Proof
end

