-- ==== Sys2Proof/Decode.lean ====
section
/-! DEFINITION. Decode: from the bytes at the program counter to an instruction, or a reject with a name (02 R24 to
R45). A reject other than `truncated` is UNDEF at the group's first word (R44). After the decoder, the encoder,
written from the same tables. -/

namespace Sys2Proof

/-- Why bytes are no instruction. All but `truncated` take UNDEF (R44). -/
inductive Reject where
  /-- The bytes end inside the group: more must be fetched. -/
  | truncated
  /-- An unassigned major, minor, type, scope or operation code, or a reserved field that is not zero. -/
  | unassigned
  /-- The fields form no well-formed instruction: a reserved guard, an odd pair, an operand the instruction forbids. -/
  | malformed
  /-- An `ext` whose own guard or stall is not zero, or an `ext` before an `ext` (R31, R32). -/
  | badExt
  /-- An operand word or a case word with bit 0 = 0 (R29). -/
  | badOperandWord
  deriving DecidableEq, Repr

namespace Dec

/-- The field of `len` bits from bit `lo`. -/
def fld (w lo len : Nat) : Nat := w / 2 ^ lo % 2 ^ len

/-- The little-endian value of a list of bytes (00 R4). -/
def leNat : List Byte → Nat
  | [] => 0
  | b :: bs => b.toNat + 256 * leNat bs

/-- The n low bytes of a value, little-endian. -/
def leBytes : Nat → Nat → List Byte
  | 0, _ => []
  | n + 1, w => BitVec.ofNat 8 w :: leBytes n (w / 256)

def hdr (w : Nat) : Hdr := ⟨.ofNat 4 (fld w 3 4), .ofNat 2 (fld w 1 2)⟩
def regB (w : Nat) : Reg := .ofNat 6 (fld w 25 6)
def regA (w : Nat) : Reg := .ofNat 6 (fld w 19 6)
def regD (w : Nat) : Reg := .ofNat 6 (fld w 13 6)
def predD (w : Nat) : Pred := .ofNat 3 (fld w 13 3)
def fnF (w : Nat) : Nat := fld w 25 7
def keepIf (c : Prop) [Decidable c] (i : Instr) : Option Instr := if c then some i else none

end Dec

def WideTy.code : WideTy → Nat
  | .f16 => 0
  | .bf16 => 1
  | .f32 => 2
  | .f64 => 3
  | .i32 => 4
  | .n32 => 5
  | .i64 => 6
  | .n64 => 7
def WideTy.ofCode : Nat → Option WideTy
  | 0 => some .f16
  | 1 => some .bf16
  | 2 => some .f32
  | 3 => some .f64
  | 4 => some .i32
  | 5 => some .n32
  | 6 => some .i64
  | 7 => some .n64
  | _ => none

def NarrowTy.code : NarrowTy → Nat
  | .e4m3 => 0
  | .e5m2 => 1
  | .e3m2 => 2
  | .e2m3 => 3
  | .e2m1 => 4
  | .i8 => 5
  | .n8 => 6
  | .i4 => 7
  | .i16 => 8
  | .n16 => 9
def NarrowTy.ofCode : Nat → Option NarrowTy
  | 0 => some .e4m3
  | 1 => some .e5m2
  | 2 => some .e3m2
  | 3 => some .e2m3
  | 4 => some .e2m1
  | 5 => some .i8
  | 6 => some .n8
  | 7 => some .i4
  | 8 => some .i16
  | 9 => some .n16
  | _ => none

def Cc.code : Cc → Nat
  | .eq => 0
  | .ne => 1
  | .lt => 2
  | .le => 3
  | .gt => 4
  | .ge => 5
  | .tst => 6
def Cc.ofCode : Nat → Option Cc
  | 0 => some .eq
  | 1 => some .ne
  | 2 => some .lt
  | 3 => some .le
  | 4 => some .gt
  | 5 => some .ge
  | 6 => some .tst
  | _ => none

def XlOp.code : XlOp → Nat
  | .addI32 => 0
  | .addF32 => 1
  | .minI32 => 2
  | .maxI32 => 3
  | .minN32 => 4
  | .maxN32 => 5
  | .minF32 => 6
  | .maxF32 => 7
  | .andB32 => 8
  | .orB32 => 9
  | .xorB32 => 10
def XlOp.ofCode : Nat → Option XlOp
  | 0 => some .addI32
  | 1 => some .addF32
  | 2 => some .minI32
  | 3 => some .maxI32
  | 4 => some .minN32
  | 5 => some .maxN32
  | 6 => some .minF32
  | 7 => some .maxF32
  | 8 => some .andB32
  | 9 => some .orB32
  | 10 => some .xorB32
  | _ => none

def RedOp.code : RedOp → Nat
  | .none => 0
  | .add => 1
  | .min => 2
  | .max => 3
def RedOp.ofCode : Nat → Option RedOp
  | 0 => some .none
  | 1 => some .add
  | 2 => some .min
  | 3 => some .max
  | _ => none

def RedTy.code : RedTy → Nat
  | .f16 => 0
  | .bf16 => 1
  | .f32 => 2
  | .i32 => 3
  | .i64 => 4
def RedTy.ofCode : Nat → Option RedTy
  | 0 => some .f16
  | 1 => some .bf16
  | 2 => some .f32
  | 3 => some .i32
  | 4 => some .i64
  | _ => none

def Scope.code : Scope → Nat
  | .core => 0
  | .quad => 1
  | .die => 2
  | .dev => 3
  | .fab => 4
  | .sys => 5
def Scope.ofCode : Nat → Option Scope
  | 0 => some .core
  | 1 => some .quad
  | 2 => some .die
  | 3 => some .dev
  | 4 => some .fab
  | 5 => some .sys
  | _ => none

def LdTy.code : LdTy → Nat
  | .n8 => 0
  | .i8 => 1
  | .n16 => 2
  | .i16 => 3
  | .b32 => 4
  | .b64 => 5
def LdTy.ofCode : Nat → Option LdTy
  | 0 => some .n8
  | 1 => some .i8
  | 2 => some .n16
  | 3 => some .i16
  | 4 => some .b32
  | 5 => some .b64
  | _ => none

def Buf.code : Buf → Nat
  | .wbuf => 0
  | .abuf => 1
  | .cbuf => 2
def Buf.ofCode : Nat → Option Buf
  | 0 => some .wbuf
  | 1 => some .abuf
  | 2 => some .cbuf
  | _ => none

def Space.code : Space → Nat
  | .global => 0
  | .sp => 1
  | .wbuf => 2
  | .abuf => 3
  | .cbuf => 4
  | .sw => 5
def Space.ofCode : Nat → Option Space
  | 0 => some .global
  | 1 => some .sp
  | 2 => some .wbuf
  | 3 => some .abuf
  | 4 => some .cbuf
  | 5 => some .sw
  | _ => none

def BarSpace.code : BarSpace → Nat
  | .sp => 0
  | .die => 1
  | .dev => 2
def BarSpace.ofCode : Nat → Option BarSpace
  | 0 => some .sp
  | 1 => some .die
  | 2 => some .dev
  | _ => none

def Cls.code : Cls → Nat
  | .ld => 0
  | .st => 1
  | .at => 2
  | .cp => 3
  | .mx => 4
  | .rm => 5
def Cls.ofCode : Nat → Option Cls
  | 0 => some .ld
  | 1 => some .st
  | 2 => some .at
  | 3 => some .cp
  | 4 => some .mx
  | 5 => some .rm
  | _ => none

def AtomOp.code : AtomOp → Nat
  | .add => 0
  | .min => 1
  | .max => 2
  | .and => 3
  | .or => 4
  | .xor => 5
  | .exch => 6
  | .cas => 7
def AtomOp.ofCode : Nat → Option AtomOp
  | 0 => some .add
  | 1 => some .min
  | 2 => some .max
  | 3 => some .and
  | 4 => some .or
  | 5 => some .xor
  | 6 => some .exch
  | 7 => some .cas
  | _ => none

def AtomTy.code : AtomTy → Nat
  | .i32 => 0
  | .n32 => 1
  | .i64 => 2
  | .n64 => 3
  | .f32 => 4
  | .b32 => 5
  | .b64 => 6
def AtomTy.ofCode : Nat → Option AtomTy
  | 0 => some .i32
  | 1 => some .n32
  | 2 => some .i64
  | 3 => some .n64
  | 4 => some .f32
  | 5 => some .b32
  | 6 => some .b64
  | _ => none

def Sem.code : Sem → Nat
  | .rlx => 0
  | .acq => 1
  | .rel => 2
  | .acqrel => 3
def Sem.ofCode : Nat → Option Sem
  | 0 => some .rlx
  | 1 => some .acq
  | 2 => some .rel
  | 3 => some .acqrel
  | _ => none

def StTy.code : StTy → Nat
  | .b8 => 0
  | .b16 => 2
  | .b32 => 4
  | .b64 => 5
def StTy.ofCode : Nat → Option StTy
  | 0 => some .b8
  | 2 => some .b16
  | 4 => some .b32
  | 5 => some .b64
  | _ => none

namespace Dec

/-- A format-A pair of operations (R28, R34). -/
def pickA (w : Nat) (f0 f1 : Hdr → Reg → Reg → Reg → Instr) : Option Instr :=
  some ((if fld w 31 1 = 0 then f0 else f1) (hdr w) (regB w) (regA w) (regD w))

/-- `lea`: the shift lives in the low bits of a and d (R35). -/
def lea (w : Nat) : Option Instr :=
  some ((if fld w 31 1 = 0 then Instr.leaN32 else Instr.leaI32) (hdr w) (regB w)
    (.ofNat 6 (2 * fld w 20 5)) (.ofNat 6 (2 * fld w 14 5)) (.ofNat 2 (2 * fld w 19 1 + fld w 13 1)))

/-- Lane operations with immediate, major 0x0B (R35). -/
def laneImm (w : Nat) : Option Instr :=
  match fld w 19 4 with
  | 1 => some (.addI32Imm (hdr w) (.ofNat 9 (fld w 23 9)) (regD w))
  | 2 => some (.subI32Imm (hdr w) (.ofNat 9 (fld w 23 9)) (regD w))
  | 3 => some (.mulLoI32Imm (hdr w) (.ofNat 9 (fld w 23 9)) (regD w))
  | 4 => some (.andB32Imm (hdr w) (.ofNat 9 (fld w 23 9)) (regD w))
  | 5 => some (.orB32Imm (hdr w) (.ofNat 9 (fld w 23 9)) (regD w))
  | 6 => some (.xorB32Imm (hdr w) (.ofNat 9 (fld w 23 9)) (regD w))
  | 7 => some (.shlB32Imm (hdr w) (.ofNat 9 (fld w 23 9)) (regD w))
  | 8 => some (.shrN32Imm (hdr w) (.ofNat 9 (fld w 23 9)) (regD w))
  | 9 => some (.shrI32Imm (hdr w) (.ofNat 9 (fld w 23 9)) (regD w))
  | 10 => some (.minI32Imm (hdr w) (.ofNat 9 (fld w 23 9)) (regD w))
  | 11 => some (.maxI32Imm (hdr w) (.ofNat 9 (fld w 23 9)) (regD w))
  | 12 => some (.faddF32Imm (hdr w) (.ofNat 9 (fld w 23 9)) (regD w))
  | 13 => some (.fmulF32Imm (hdr w) (.ofNat 9 (fld w 23 9)) (regD w))
  | 14 => some (.fmaxF32Imm (hdr w) (.ofNat 9 (fld w 23 9)) (regD w))
  | 15 => some (.haddH2Imm (hdr w) (.ofNat 9 (fld w 23 9)) (regD w))
  | _ => none

/-- `cvt` between wide types, major 0x18 (R36). -/
def cvtWide (w : Nat) : Option Instr :=
  if fld w 25 1 = 0 then
    (WideTy.ofCode (fld w 29 3)).bind fun dst =>
    (WideTy.ofCode (fld w 26 3)).map fun src => .cvt (hdr w) dst src (regA w) (regD w)
  else none

/-- `cvt` to and from narrow formats, major 0x19 (R36). -/
def cvtNarrow (w : Nat) : Option Instr :=
  if fld w 25 2 = 0 then
    (NarrowTy.ofCode (fld w 27 4)).map fun n =>
      (if fld w 31 1 = 0 then Instr.cvtToNarrow else Instr.cvtFromNarrow) (hdr w) n (regA w) (regD w)
  else none

/-- Register compares, majors 0x1C and 0x1D (R35). -/
def compare (w : Nat) (f0 f1 : Hdr → Cc → Pred → Reg → Reg → Instr) : Option Instr :=
  (Cc.ofCode (fld w 16 3)).map fun cc =>
    (if fld w 31 1 = 0 then f0 else f1) (hdr w) cc (predD w) (regB w) (regA w)

/-- Compares with immediate, major 0x1E (R33, R35): the immediate is b : m. -/
def compareImm (w : Nat) : Option Instr :=
  (Cc.ofCode (fld w 16 3)).map fun cc =>
    (if fld w 15 1 = 0 then Instr.cmpI32Imm else Instr.cmpN32Imm) (hdr w) cc (.ofNat 2 (fld w 13 2))
      (.ofNat 7 (2 * fld w 25 6 + fld w 31 1)) (regA w)

def predLogic (w : Nat) (f : Hdr → Pred → Pred → Pred → Instr) : Option Instr :=
  keepIf (fld w 16 3 = 0) (f (hdr w) (.ofNat 3 (fld w 19 3)) (.ofNat 3 (fld w 22 3)) (predD w))

/-- Other loads and stores, major 0x2E (R39). -/
def memMisc (w : Nat) : Option Instr :=
  let store := fld w 31 1 = 1
  match fld w 29 2 with
  | 0 =>
    if store then (StTy.ofCode (fld w 26 3)).map fun ty => .stPlain (hdr w) ty (fld w 25 1 == 1) (regA w) (regD w)
    else (LdTy.ofCode (fld w 26 3)).map fun ty => .ldPlain (hdr w) ty (fld w 25 1 == 1) (regA w) (regD w)
  | 1 => some ((if store then Instr.stSw else Instr.ldSw) (hdr w) (.ofNat 4 (fld w 25 4)) (regA w) (regD w))
  | 2 => (Scope.ofCode (fld w 26 3)).map fun sc =>
      (if store then Instr.stRel else Instr.ldAcq) (hdr w) sc (fld w 25 1 == 1) (regA w) (regD w)
  | _ =>
    if fld w 26 1 = 0 then
      (Buf.ofCode (fld w 27 2)).map fun buf =>
        (if store then Instr.stCb else Instr.ldCb) (hdr w) buf (fld w 25 1 == 1) (regA w) (regD w)
    else none

/-- Barriers, major 0x34 (R41). -/
def barrier (w : Nat) : Option Instr :=
  (BarSpace.ofCode (fld w 25 3)).bind fun sp =>
    match fld w 28 4 with
    | 0 => some (.barInit (hdr w) sp (regA w) (regD w))
    | 1 => some (.barExpect (hdr w) sp (regA w) (regD w))
    | 2 => some (.barArrive (hdr w) sp (regA w) (regD w))
    | 3 => some (.barWait (hdr w) sp (regA w) (regD w))
    | _ => none

/-- Integer miscellany, major 0x0F (R36). -/
def intMisc (w : Nat) : Option Instr :=
  match fnF w with
  | 0x00 => some (.mov (hdr w) (regA w) (regD w))
  | 0x01 => some (.movB64 (hdr w) (regA w) (regD w))
  | 0x02 => some (.notB32 (hdr w) (regA w) (regD w))
  | 0x03 => some (.negI32 (hdr w) (regA w) (regD w))
  | 0x04 => some (.absI32 (hdr w) (regA w) (regD w))
  | 0x05 => some (.popcB32 (hdr w) (regA w) (regD w))
  | 0x06 => some (.clzB32 (hdr w) (regA w) (regD w))
  | 0x07 => some (.brevB32 (hdr w) (regA w) (regD w))
  | f => keepIf (64 ≤ f) (.addI64Imm (hdr w) (.ofNat 6 (fld w 25 6)) (regA w) (regD w))

/-- Float miscellany, major 0x17 (R36). -/
def floatMisc (w : Nat) : Option Instr :=
  match fnF w with
  | 0x00 => some (.fabsF32 (hdr w) (regA w) (regD w))
  | 0x01 => some (.fnegF32 (hdr w) (regA w) (regD w))
  | 0x02 => some (.fabsF64 (hdr w) (regA w) (regD w))
  | 0x03 => some (.fnegF64 (hdr w) (regA w) (regD w))
  | 0x04 => some (.haddBh2 (hdr w) (regA w) (regD w))
  | 0x05 => some (.hmulBh2 (hdr w) (regA w) (regD w))
  | 0x06 => some (.fminF64 (hdr w) (regA w) (regD w))
  | 0x07 => some (.fmaxF64 (hdr w) (regA w) (regD w))
  | 0x08 => some (.hminH2 (hdr w) (regA w) (regD w))
  | 0x09 => some (.hmaxH2 (hdr w) (regA w) (regD w))
  | 0x0A => some (.hminBh2 (hdr w) (regA w) (regD w))
  | 0x0B => some (.hmaxBh2 (hdr w) (regA w) (regD w))
  | 0x0C => some (.frintF32 (hdr w) (regA w) (regD w))
  | _ => none

/-- Special functions, major 0x1A (R36). -/
def special (w : Nat) : Option Instr :=
  match fnF w with
  | 0x00 => some (.rcpF32 (hdr w) (regA w) (regD w))
  | 0x01 => some (.rsqrtF32 (hdr w) (regA w) (regD w))
  | 0x02 => some (.exp2F32 (hdr w) (regA w) (regD w))
  | 0x03 => some (.log2F32 (hdr w) (regA w) (regD w))
  | 0x04 => some (.sinF32 (hdr w) (regA w) (regD w))
  | 0x05 => some (.cosF32 (hdr w) (regA w) (regD w))
  | _ => none

/-- Predicate logic and cross-lane, major 0x1F (R37). -/
def predCross (w : Nat) : Option Instr :=
  match fnF w with
  | 0x00 => predLogic w .pand
  | 0x01 => predLogic w .por
  | 0x02 => predLogic w .pxor
  | 0x03 => predLogic w .pandn
  | 0x04 => keepIf (regA w = 0) (.pget (hdr w) (regD w))
  | 0x05 => keepIf (regD w = 0) (.pset (hdr w) (regA w))
  | 0x10 => keepIf (regA w = 0 ∧ fld w 16 3 = 0) (.xlElect (hdr w) (predD w))
  | 0x11 => some (.xlBcastB32 (hdr w) (regA w) (regD w))
  | 0x12 => keepIf (fld w 22 3 = 0) (.xlCount (hdr w) (.ofNat 3 (fld w 19 3)) (regD w))
  | f =>
    match f / 8 with
    | 4 => some (.xlBflyB32 (hdr w) (.ofNat 3 (fld w 25 3)) (regA w) (regD w))
    | 5 => some (.xlUpB32 (hdr w) (.ofNat 3 (fld w 25 3)) (regA w) (regD w))
    | 6 => some (.xlDownB32 (hdr w) (.ofNat 3 (fld w 25 3)) (regA w) (regD w))
    | _ => if 64 ≤ f then (XlOp.ofCode (f - 64)).map (fun op => .xlRed (hdr w) op (regA w) (regD w)) else none

/-- Control miscellany, major 0x23 (R38). -/
def controlMisc (w : Nat) : Option Instr :=
  match fnF w with
  | 0x00 => keepIf (regA w = 0 ∧ regD w = 0) (.ret (hdr w))
  | 0x01 => keepIf (regA w = 0 ∧ regD w = 0) (.exit (hdr w))
  | 0x02 => keepIf (regA w = 0 ∧ regD w = 0) (.yield (hdr w))
  | 0x03 => keepIf (regA w = 0 ∧ regD w = 0) (.loose (hdr w))
  | 0x04 => keepIf (fld w 23 2 = 0 ∧ regD w = 0) (.prio (hdr w) (.ofNat 4 (fld w 19 4)))
  | 0x05 => keepIf (regD w = 0) (.prioR (hdr w) (regA w))
  | 0x06 => keepIf (regD w = 0) (.callR (hdr w) (regA w))
  | 0x07 => keepIf (regD w = 0) (.braR (hdr w) (regA w))
  | 0x08 => keepIf (regD w = 0) (.rally (hdr w) (regA w))
  | 0x09 => keepIf (regD w = 0) (.rallyH (hdr w) (regA w))
  | _ => none

/-- Joins, ends and spawn, major 0x27 (R38). -/
def joinMisc (w : Nat) : Option Instr :=
  match fnF w with
  | 0x00 => keepIf (regA w = 0 ∧ regD w = 0) (.joinR (hdr w))
  | 0x01 => keepIf (fld w 16 3 = 0) (.joinC (hdr w) (predD w) (regA w))
  | 0x02 => keepIf (regD w = 0) (.done (hdr w) (regA w))
  | 0x03 => keepIf (regA w = 0 ∧ regD w = 0) (.doneR (hdr w))
  | 0x04 => some (.spawn (hdr w) (regD w) (regA w))
  | _ => none

/-- Plazas, major 0x31 (R41). -/
def plaza (w : Nat) : Option Instr :=
  match fnF w with
  | 0x00 => some (.plzOpen (hdr w) (regA w) (regD w))
  | 0x01 => some (.plzEnter (hdr w) (regA w) (regD w))
  | 0x02 => some (.plzLeave (hdr w) (regA w) (regD w))
  | 0x03 => some (.plzVote (hdr w) (regA w) (regD w))
  | 0x04 => keepIf (regD w = 0) (.plzAbort (hdr w) (regA w))
  | _ => none

/-- Sets and sharing groups, major 0x35 (R41). -/
def sets (w : Nat) : Option Instr :=
  match fnF w with
  | 0x00 => keepIf (regD w = 0) (.setNew (hdr w) (regA w))
  | 0x01 => keepIf (regD w = 0) (.setEnrol (hdr w) (regA w))
  | 0x02 => keepIf (regD w = 0) (.setQuit (hdr w) (regA w))
  | 0x03 => some (.grpEnter (hdr w) (regA w) (regD w))
  | 0x04 => keepIf (regD w = 0) (.grpLeave (hdr w) (regA w))
  | _ => none

/-- Counter waits and the token, major 0x36 (R41). -/
def waits (w : Nat) : Option Instr :=
  if fnF w = 0x40 then keepIf (regA w = 0 ∧ regD w = 0) (.tokPass (hdr w))
  else if regD w = 0 then (Cls.ofCode (fnF w)).map (fun c => .cwait (hdr w) c (regA w)) else none

/-- Matrix, major 0x38 (R42). -/
def matrix (w : Nat) : Option Instr :=
  match fnF w with
  | 0x00 => keepIf (regD w = 0) (.mxa (hdr w) (regA w))
  | 0x04 => some (.mxs (hdr w) false (regA w) (regD w))
  | 0x05 => some (.mxs (hdr w) true (regA w) (regD w))
  | _ => none

/-- Selection, major 0x3B (R42). -/
def selection (w : Nat) : Option Instr :=
  match fnF w with
  | 0x00 => keepIf (regD w = 0) (.asel (hdr w) (regA w))
  | 0x01 => keepIf (regD w = 0) (.agat (hdr w) (regA w))
  | 0x02 => keepIf (regD w = 0) (.ksumRebuild (hdr w) (regA w))
  | _ => none

/-- System, major 0x3C (R43). -/
def system (w : Nat) : Option Instr :=
  match fnF w with
  | 0x40 => keepIf (regD w = 0) (.trap (hdr w) (regA w))
  | 0x41 => keepIf (regA w = 0 ∧ regD w = 0) (.tret (hdr w))
  | 0x42 => keepIf (regD w = 0) (.launch (hdr w) (regA w))
  | f =>
    match f / 16 with
    | 0 => keepIf (regA w = 0) (.smov (hdr w) (.ofNat 4 (fld w 25 4)) (regD w))
    | 2 => keepIf (regD w = 0) (.sset (hdr w) (.ofNat 4 (fld w 25 4)) (regA w))
    | _ => none

/-- `safept` and `nap`, major 0x3D (R43). -/
def pointNap (w : Nat) : Option Instr :=
  match fld w 13 6 with
  | 0 => some (.safept (hdr w) (.ofNat 13 (fld w 19 13)))
  | 1 => some (.nap (hdr w) (.ofNat 13 (fld w 19 13)))
  | _ => none

/-- A one-word 32-bit instruction, by its major (R34). -/
def one (w : Nat) : Option Instr :=
  match fld w 7 6 with
  | 0x01 => pickA w .addI32 .subI32
  | 0x02 => pickA w .mulLoI32 .madLoI32
  | 0x03 => pickA w .mulHiI32 .mulHiN32
  | 0x04 => pickA w .andB32 .orB32
  | 0x05 => pickA w .xorB32 .andnB32
  | 0x06 => pickA w .shlB32 .shrN32
  | 0x07 => pickA w .shrI32 .rotB32
  | 0x08 => pickA w .minI32 .maxI32
  | 0x09 => pickA w .minN32 .maxN32
  | 0x0A => pickA w .addI64 .subI64
  | 0x0B => laneImm w
  | 0x0C => some (.movImm (hdr w) (.ofNat 13 (fld w 19 13)) (regD w))
  | 0x0D => pickA w .mulWideI32 .mulWideN32
  | 0x0E => lea w
  | 0x0F => intMisc w
  | 0x10 => pickA w .faddF32 .fsubF32
  | 0x11 => pickA w .fmulF32 .ffmaF32
  | 0x12 => pickA w .fminF32 .fmaxF32
  | 0x13 => pickA w .faddF64 .fsubF64
  | 0x14 => pickA w .fmulF64 .ffmaF64
  | 0x15 => pickA w .haddH2 .hmulH2
  | 0x16 => pickA w .hfmaH2 .hfmaBh2
  | 0x17 => floatMisc w
  | 0x18 => cvtWide w
  | 0x19 => cvtNarrow w
  | 0x1A => special w
  | 0x1C => compare w .cmpI32 .cmpN32
  | 0x1D => compare w .cmpF32 .cmpF64
  | 0x1E => compareImm w
  | 0x1F => predCross w
  | 0x20 => some (.bra (hdr w) (.ofNat 19 (fld w 13 19)))
  | 0x21 => some (.call (hdr w) (.ofNat 19 (fld w 13 19)))
  | 0x23 => controlMisc w
  | 0x24 => keepIf (fld w 16 3 = 0) (.loop (hdr w) (.ofNat 2 (fld w 13 2)) (regA w) (.ofNat 8 (fld w 25 7 + 128 * fld w 15 1)))
  | 0x25 => some (.forkC (hdr w) (.ofNat 11 (fld w 21 11)) (.ofNat 2 (fld w 19 2)) (regD w))
  | 0x27 => joinMisc w
  | 0x28 => some (.ldB32Global (hdr w) (.ofNat 7 (fnF w)) (regA w) (regD w))
  | 0x29 => some (.ldB64Global (hdr w) (.ofNat 7 (fnF w)) (regA w) (regD w))
  | 0x2A => some (.stB32Global (hdr w) (.ofNat 7 (fnF w)) (regA w) (regD w))
  | 0x2B => some (.stB64Global (hdr w) (.ofNat 7 (fnF w)) (regA w) (regD w))
  | 0x2C => some (.ldB32Sp (hdr w) (.ofNat 7 (fnF w)) (regA w) (regD w))
  | 0x2D => some (.stB32Sp (hdr w) (.ofNat 7 (fnF w)) (regA w) (regD w))
  | 0x2E => memMisc w
  | 0x31 => plaza w
  | 0x34 => barrier w
  | 0x35 => sets w
  | 0x36 => waits w
  | 0x38 => matrix w
  | 0x39 => pickA w .spkI8 .spkF8
  | 0x3A => keepIf (fld w 31 1 = 0) (.spkBf16 (hdr w) (regB w) (regA w) (regD w))
  | 0x3B => selection w
  | 0x3C => system w
  | 0x3D => pointNap w
  | 0x3E => some (.tretLabel (hdr w) (.ofNat 19 (fld w 13 19)))
  | _ => none

/-- `fork.r` (R35): header w, operand word v. -/
def fork (w v : Nat) : Option Instr :=
  if fld v 6 6 = 0 then
    (RedTy.ofCode (fld v 3 3)).bind fun ty =>
    (RedOp.ofCode (fld v 1 2)).bind fun op =>
      let grain : BitVec 20 := .ofNat 20 (fld v 12 20)
      if fld w 31 1 = 0 then some (.forkR (hdr w) (regB w) (regA w) (regD w) grain ty op)
      else keepIf (fld w 21 4 = 0) (.forkRL (hdr w) (regB w) (.ofNat 2 (fld w 19 2)) (regD w) grain ty op)
  else none

/-- `cpy` (R35). -/
def copy (w v : Nat) : Option Instr :=
  if fld w 31 1 = 0 ∧ fld v 29 3 = 0 ∧ fld v 1 2 = 0 then
    (Space.ofCode (fld v 16 3)).bind fun src =>
    (Space.ofCode (fld v 13 3)).map fun dst =>
      .cpy (hdr w) (regB w) (regA w) (regD w) (fld v 28 1 == 1) (.ofNat 4 (fld v 24 4)) (.ofNat 4 (fld v 20 4))
        (fld v 19 1 == 1) src dst (.ofNat 3 (fld v 10 3)) (fld v 9 1 == 1) (.ofNat 6 (fld v 3 6))
  else none

/-- `atom` (R40). -/
def atomic (w v : Nat) : Option Instr :=
  if fld v 13 19 = 0 then
    (AtomTy.ofCode (fld v 10 3)).bind fun ty =>
    (Scope.ofCode (fld v 7 3)).bind fun sc =>
    (Sem.ofCode (fld v 5 2)).bind fun sem =>
    (AtomOp.ofCode (fld v 1 4)).map fun op =>
      .atom (hdr w) (fld w 31 1 == 1) (regB w) (regA w) (regD w) ty sc sem op
  else none

/-- The case words of a `bsel` (R29). -/
def caseWords : Nat → List Byte → Except Reject (List Case)
  | 0, _ => .ok []
  | n + 1, b0 :: b1 :: b2 :: b3 :: bs =>
    let w := leNat [b0, b1, b2, b3]
    if w % 2 = 0 then .error .badOperandWord
    else if fld w 1 2 = 0 ∧ fld w 7 3 = 0 then
      match caseWords n bs with
      | .ok cs => .ok (⟨.ofNat 22 (fld w 10 22), .ofNat 4 (fld w 3 4)⟩ :: cs)
      | .error e => .error e
    else .error .unassigned
  | _ + 1, _ => .error .truncated

/-- The 16-bit forms (R30). -/
def short (w : Nat) : Option Instr :=
  let i := fld w 15 1 == 1
  let a : BitVec 5 := .ofNat 5 (fld w 10 5)
  let d : BitVec 5 := .ofNat 5 (fld w 5 5)
  match fld w 1 4 with
  | 0 => some (.mov16 i a d)
  | 1 => some (.addI3216 i a d)
  | 2 => some (.subI3216 i a d)
  | 3 => some (.mulLoI3216 i a d)
  | 4 => some (.andB3216 i a d)
  | 5 => some (.orB3216 i a d)
  | 6 => some (.xorB3216 i a d)
  | 7 => some (.shlB3216 i a d)
  | 8 => some (.shrN3216 i a d)
  | 9 => some (.shrI3216 i a d)
  | 10 => some (.minI3216 i a d)
  | 11 => some (.maxI3216 i a d)
  | 12 => some (.faddF3216 i a d)
  | 13 => some (.fmulF3216 i a d)
  | 14 => some (.fmaxF3216 i a d)
  | 15 => some (.haddH216 i a d)
  | _ => none

def orUnassigned : Option Instr → Except Reject Instr
  | some i => .ok i
  | none => .error .unassigned

/-- The majors of the two-word instructions (R29). -/
def twoWord (major : Nat) : Bool := major == 0x26 || major == 0x2F || major == 0x30

/-- A group whose first word w is a 32-bit word other than `ext`; bs follows the word. -/
def long (w : Nat) (bs : List Byte) : Except Reject Instr :=
  if twoWord (fld w 7 6) then
    match bs with
    | b0 :: b1 :: b2 :: b3 :: _ =>
      let v := leNat [b0, b1, b2, b3]
      if v % 2 = 0 then .error .badOperandWord
      else orUnassigned (match fld w 7 6 with
        | 0x26 => fork w v
        | 0x2F => copy w v
        | _ => atomic w v)
    | _ => .error .truncated
  else if fld w 7 6 = 0x22 then
    if fld w 15 17 = 0 ∧ fld w 3 4 = 0 then
      match caseWords (fld w 13 2 + 1) bs with
      | .ok cs => .ok (.bsel (.ofNat 2 (fld w 1 2)) cs)
      | .error e => .error e
    else .error .unassigned
  else orUnassigned (one w)

/-- A group other than one that begins with `ext`. -/
def plain : List Byte → Except Reject Instr
  | b0 :: b1 :: bs =>
    if b0.toNat % 2 = 0 then orUnassigned (short (leNat [b0, b1]))
    else match bs with
      | b2 :: b3 :: bs =>
        let w := leNat [b0, b1, b2, b3]
        if fld w 7 6 = 0 then .error .badExt else long w bs
      | _ => .error .truncated
  | _ => .error .truncated

/-- Any group, before the checks of its fields (R31). -/
def raw (bs : List Byte) : Except Reject Instr :=
  match bs with
  | b0 :: b1 :: b2 :: b3 :: rest =>
    let w := leNat [b0, b1, b2, b3]
    if w % 2 = 1 ∧ fld w 7 6 = 0 then
      if fld w 1 6 = 0 then
        match plain rest with
        | .ok i => .ok (.ext (.ofNat 19 (fld w 13 19)) i)
        | .error e => .error e
      else .error .badExt
    else plain bs
  | _ => plain bs

end Dec

/-- Decoding: total on any bytes. -/
def decode (bs : List Byte) : Except Reject Instr :=
  match Dec.raw bs with
  | .ok i => if i.wf then .ok i else .error .malformed
  | .error e => .error e

/-- The host's question: the instruction whose bits are w (nbits of them given, the rest 0). -/
def decodeTableWord (nbits w : Nat) : Option Instr :=
  match decode (Dec.leBytes 24 (w % 2 ^ nbits)) with
  | .ok i => some i
  | .error _ => none

/-! The encoder. -/

namespace Enc

def word (w : Nat) : List Byte := Dec.leBytes 4 w
def half (w : Nat) : List Byte := Dec.leBytes 2 w

/-- A 32-bit word (R25): major, common fields, and the operand bits 31:13 as a number. -/
def encW (major : Nat) (h : Hdr) (operands : Nat) : Nat :=
  1 + 2 * h.s.toNat + 8 * h.g.toNat + 128 * major + 8192 * operands

/-- Format A (R28). -/
def encA (major m : Nat) (h : Hdr) (b a d : Reg) : Nat :=
  encW major h (2 ^ 18 * m + 4096 * b.toNat + 64 * a.toNat + d.toNat)

/-- Formats D and M (R28). -/
def encD (major f : Nat) (h : Hdr) (a d : Nat) : Nat := encW major h (4096 * f + 64 * a + d)

end Enc

/-- A case word (R29). -/
def Case.bytes (c : Case) : List Byte := Enc.word (1 + 8 * c.g.toNat + 1024 * c.off.toNat)

open Enc in
/-- The bytes of an instruction, from the encoding tables. A step of another agent has none. -/
def encode : Instr → List Byte
  | .ext v i => word (1 + 8192 * v.toNat) ++ encode i
  | .addI32 h b a d => word (encA 0x01 0 h b a d)
  | .subI32 h b a d => word (encA 0x01 1 h b a d)
  | .mulLoI32 h b a d => word (encA 0x02 0 h b a d)
  | .madLoI32 h b a d => word (encA 0x02 1 h b a d)
  | .mulHiI32 h b a d => word (encA 0x03 0 h b a d)
  | .mulHiN32 h b a d => word (encA 0x03 1 h b a d)
  | .andB32 h b a d => word (encA 0x04 0 h b a d)
  | .orB32 h b a d => word (encA 0x04 1 h b a d)
  | .xorB32 h b a d => word (encA 0x05 0 h b a d)
  | .andnB32 h b a d => word (encA 0x05 1 h b a d)
  | .shlB32 h b a d => word (encA 0x06 0 h b a d)
  | .shrN32 h b a d => word (encA 0x06 1 h b a d)
  | .shrI32 h b a d => word (encA 0x07 0 h b a d)
  | .rotB32 h b a d => word (encA 0x07 1 h b a d)
  | .minI32 h b a d => word (encA 0x08 0 h b a d)
  | .maxI32 h b a d => word (encA 0x08 1 h b a d)
  | .minN32 h b a d => word (encA 0x09 0 h b a d)
  | .maxN32 h b a d => word (encA 0x09 1 h b a d)
  | .addI64 h b a d => word (encA 0x0A 0 h b a d)
  | .subI64 h b a d => word (encA 0x0A 1 h b a d)
  | .mulWideI32 h b a d => word (encA 0x0D 0 h b a d)
  | .mulWideN32 h b a d => word (encA 0x0D 1 h b a d)
  | .leaN32 h b a d sh => word (encW 0x0E h (2^18 * 0 + 4096 * b.toNat + 64 * (a.toNat / 2 * 2 + sh.toNat / 2) + (d.toNat / 2 * 2 + sh.toNat % 2)))
  | .leaI32 h b a d sh => word (encW 0x0E h (2^18 * 1 + 4096 * b.toNat + 64 * (a.toNat / 2 * 2 + sh.toNat / 2) + (d.toNat / 2 * 2 + sh.toNat % 2)))
  | .addI32Imm h imm d => word (encW 0x0B h (1024 * imm.toNat + 64 * 1 + d.toNat))
  | .subI32Imm h imm d => word (encW 0x0B h (1024 * imm.toNat + 64 * 2 + d.toNat))
  | .mulLoI32Imm h imm d => word (encW 0x0B h (1024 * imm.toNat + 64 * 3 + d.toNat))
  | .andB32Imm h imm d => word (encW 0x0B h (1024 * imm.toNat + 64 * 4 + d.toNat))
  | .orB32Imm h imm d => word (encW 0x0B h (1024 * imm.toNat + 64 * 5 + d.toNat))
  | .xorB32Imm h imm d => word (encW 0x0B h (1024 * imm.toNat + 64 * 6 + d.toNat))
  | .shlB32Imm h imm d => word (encW 0x0B h (1024 * imm.toNat + 64 * 7 + d.toNat))
  | .shrN32Imm h imm d => word (encW 0x0B h (1024 * imm.toNat + 64 * 8 + d.toNat))
  | .shrI32Imm h imm d => word (encW 0x0B h (1024 * imm.toNat + 64 * 9 + d.toNat))
  | .minI32Imm h imm d => word (encW 0x0B h (1024 * imm.toNat + 64 * 10 + d.toNat))
  | .maxI32Imm h imm d => word (encW 0x0B h (1024 * imm.toNat + 64 * 11 + d.toNat))
  | .faddF32Imm h imm d => word (encW 0x0B h (1024 * imm.toNat + 64 * 12 + d.toNat))
  | .fmulF32Imm h imm d => word (encW 0x0B h (1024 * imm.toNat + 64 * 13 + d.toNat))
  | .fmaxF32Imm h imm d => word (encW 0x0B h (1024 * imm.toNat + 64 * 14 + d.toNat))
  | .haddH2Imm h imm d => word (encW 0x0B h (1024 * imm.toNat + 64 * 15 + d.toNat))
  | .movImm h imm d => word (encW 0x0C h (64 * imm.toNat + d.toNat))
  | .mov h a d => word (encD 0x0F 0x00 h a.toNat d.toNat)
  | .movB64 h a d => word (encD 0x0F 0x01 h a.toNat d.toNat)
  | .notB32 h a d => word (encD 0x0F 0x02 h a.toNat d.toNat)
  | .negI32 h a d => word (encD 0x0F 0x03 h a.toNat d.toNat)
  | .absI32 h a d => word (encD 0x0F 0x04 h a.toNat d.toNat)
  | .popcB32 h a d => word (encD 0x0F 0x05 h a.toNat d.toNat)
  | .clzB32 h a d => word (encD 0x0F 0x06 h a.toNat d.toNat)
  | .brevB32 h a d => word (encD 0x0F 0x07 h a.toNat d.toNat)
  | .addI64Imm h k a d => word (encD 0x0F (64 + k.toNat) h a.toNat d.toNat)
  | .faddF32 h b a d => word (encA 0x10 0 h b a d)
  | .fsubF32 h b a d => word (encA 0x10 1 h b a d)
  | .fmulF32 h b a d => word (encA 0x11 0 h b a d)
  | .ffmaF32 h b a d => word (encA 0x11 1 h b a d)
  | .fminF32 h b a d => word (encA 0x12 0 h b a d)
  | .fmaxF32 h b a d => word (encA 0x12 1 h b a d)
  | .faddF64 h b a d => word (encA 0x13 0 h b a d)
  | .fsubF64 h b a d => word (encA 0x13 1 h b a d)
  | .fmulF64 h b a d => word (encA 0x14 0 h b a d)
  | .ffmaF64 h b a d => word (encA 0x14 1 h b a d)
  | .haddH2 h b a d => word (encA 0x15 0 h b a d)
  | .hmulH2 h b a d => word (encA 0x15 1 h b a d)
  | .hfmaH2 h b a d => word (encA 0x16 0 h b a d)
  | .hfmaBh2 h b a d => word (encA 0x16 1 h b a d)
  | .fabsF32 h a d => word (encD 0x17 0x00 h a.toNat d.toNat)
  | .fnegF32 h a d => word (encD 0x17 0x01 h a.toNat d.toNat)
  | .fabsF64 h a d => word (encD 0x17 0x02 h a.toNat d.toNat)
  | .fnegF64 h a d => word (encD 0x17 0x03 h a.toNat d.toNat)
  | .haddBh2 h a d => word (encD 0x17 0x04 h a.toNat d.toNat)
  | .hmulBh2 h a d => word (encD 0x17 0x05 h a.toNat d.toNat)
  | .fminF64 h a d => word (encD 0x17 0x06 h a.toNat d.toNat)
  | .fmaxF64 h a d => word (encD 0x17 0x07 h a.toNat d.toNat)
  | .hminH2 h a d => word (encD 0x17 0x08 h a.toNat d.toNat)
  | .hmaxH2 h a d => word (encD 0x17 0x09 h a.toNat d.toNat)
  | .hminBh2 h a d => word (encD 0x17 0x0A h a.toNat d.toNat)
  | .hmaxBh2 h a d => word (encD 0x17 0x0B h a.toNat d.toNat)
  | .frintF32 h a d => word (encD 0x17 0x0C h a.toNat d.toNat)
  | .cvt h dst src a d => word (encD 0x18 (16 * dst.code + 2 * src.code) h a.toNat d.toNat)
  | .cvtToNarrow h n a d => word (encD 0x19 (4 * n.code) h a.toNat d.toNat)
  | .cvtFromNarrow h n a d => word (encD 0x19 (64 + 4 * n.code) h a.toNat d.toNat)
  | .rcpF32 h a d => word (encD 0x1A 0x00 h a.toNat d.toNat)
  | .rsqrtF32 h a d => word (encD 0x1A 0x01 h a.toNat d.toNat)
  | .exp2F32 h a d => word (encD 0x1A 0x02 h a.toNat d.toNat)
  | .log2F32 h a d => word (encD 0x1A 0x03 h a.toNat d.toNat)
  | .sinF32 h a d => word (encD 0x1A 0x04 h a.toNat d.toNat)
  | .cosF32 h a d => word (encD 0x1A 0x05 h a.toNat d.toNat)
  | .cmpI32 h cc p b a => word (encW 0x1C h (2^18 * 0 + 4096 * b.toNat + 64 * a.toNat + 8 * cc.code + p.toNat))
  | .cmpN32 h cc p b a => word (encW 0x1C h (2^18 * 1 + 4096 * b.toNat + 64 * a.toNat + 8 * cc.code + p.toNat))
  | .cmpF32 h cc p b a => word (encW 0x1D h (2^18 * 0 + 4096 * b.toNat + 64 * a.toNat + 8 * cc.code + p.toNat))
  | .cmpF64 h cc p b a => word (encW 0x1D h (2^18 * 1 + 4096 * b.toNat + 64 * a.toNat + 8 * cc.code + p.toNat))
  | .cmpI32Imm h cc p imm a => word (encW 0x1E h (2^18 * (imm.toNat % 2) + 4096 * (imm.toNat / 2) + 64 * a.toNat + 8 * cc.code + 4 * 0 + p.toNat))
  | .cmpN32Imm h cc p imm a => word (encW 0x1E h (2^18 * (imm.toNat % 2) + 4096 * (imm.toNat / 2) + 64 * a.toNat + 8 * cc.code + 4 * 1 + p.toNat))
  | .pand h pa pb pd => word (encD 0x1F 0x00 h (8 * pb.toNat + pa.toNat) pd.toNat)
  | .por h pa pb pd => word (encD 0x1F 0x01 h (8 * pb.toNat + pa.toNat) pd.toNat)
  | .pxor h pa pb pd => word (encD 0x1F 0x02 h (8 * pb.toNat + pa.toNat) pd.toNat)
  | .pandn h pa pb pd => word (encD 0x1F 0x03 h (8 * pb.toNat + pa.toNat) pd.toNat)
  | .pget h d => word (encD 0x1F 0x04 h 0 d.toNat)
  | .pset h a => word (encD 0x1F 0x05 h a.toNat 0)
  | .xlElect h pd => word (encD 0x1F 0x10 h 0 pd.toNat)
  | .xlBcastB32 h a d => word (encD 0x1F 0x11 h a.toNat d.toNat)
  | .xlCount h pa d => word (encD 0x1F 0x12 h pa.toNat d.toNat)
  | .xlBflyB32 h k a d => word (encD 0x1F (0x20 + k.toNat) h a.toNat d.toNat)
  | .xlUpB32 h k a d => word (encD 0x1F (0x28 + k.toNat) h a.toNat d.toNat)
  | .xlDownB32 h k a d => word (encD 0x1F (0x30 + k.toNat) h a.toNat d.toNat)
  | .xlRed h op a d => word (encD 0x1F (0x40 + op.code) h a.toNat d.toNat)
  | .bra h off => word (encW 0x20 h off.toNat)
  | .call h off => word (encW 0x21 h off.toNat)
  | .bsel s cases => word (1 + 2 * s.toNat + 128 * 0x22 + 8192 * (cases.length - 1)) ++ cases.flatMap Case.bytes
  | .ret h => word (encD 0x23 0x00 h 0 0)
  | .exit h => word (encD 0x23 0x01 h 0 0)
  | .yield h => word (encD 0x23 0x02 h 0 0)
  | .loose h => word (encD 0x23 0x03 h 0 0)
  | .prio h n => word (encD 0x23 0x04 h n.toNat 0)
  | .prioR h a => word (encD 0x23 0x05 h a.toNat 0)
  | .callR h a => word (encD 0x23 0x06 h a.toNat 0)
  | .braR h a => word (encD 0x23 0x07 h a.toNat 0)
  | .rally h a => word (encD 0x23 0x08 h a.toNat 0)
  | .rallyH h a => word (encD 0x23 0x09 h a.toNat 0)
  | .loop h n count lenM1 => word (encW 0x24 h (4096 * (lenM1.toNat % 128) + 64 * count.toNat + 4 * (lenM1.toNat / 128) + n.toNat))
  | .forkC h off cntM1 k => word (encW 0x25 h (256 * off.toNat + 64 * cntM1.toNat + k.toNat))
  | .forkR h lim idx acc grain ty op => word (encA 0x26 0 h lim idx acc) ++ word (1 + 2 * op.code + 8 * ty.code + 4096 * grain.toNat)
  | .forkRL h idx n acc grain ty op => word (encW 0x26 h (2^18 + 4096 * idx.toNat + 64 * n.toNat + acc.toNat)) ++ word (1 + 2 * op.code + 8 * ty.code + 4096 * grain.toNat)
  | .joinR h => word (encD 0x27 0x00 h 0 0)
  | .joinC h pd a => word (encD 0x27 0x01 h a.toNat pd.toNat)
  | .done h a => word (encD 0x27 0x02 h a.toNat 0)
  | .doneR h => word (encD 0x27 0x03 h 0 0)
  | .spawn h d a => word (encD 0x27 0x04 h a.toNat d.toNat)
  | .ldB32Global h off a d => word (encD 0x28 off.toNat h a.toNat d.toNat)
  | .ldB64Global h off a d => word (encD 0x29 off.toNat h a.toNat d.toNat)
  | .stB32Global h off a d => word (encD 0x2A off.toNat h a.toNat d.toNat)
  | .stB64Global h off a d => word (encD 0x2B off.toNat h a.toNat d.toNat)
  | .ldB32Sp h off a d => word (encD 0x2C off.toNat h a.toNat d.toNat)
  | .stB32Sp h off a d => word (encD 0x2D off.toNat h a.toNat d.toNat)
  | .ldPlain h ty sp a d => word (encD 0x2E (2 * ty.code + sp.toNat) h a.toNat d.toNat)
  | .stPlain h ty sp a d => word (encD 0x2E (64 + 2 * ty.code + sp.toNat) h a.toNat d.toNat)
  | .ldSw h win a d => word (encD 0x2E (16 + win.toNat) h a.toNat d.toNat)
  | .stSw h win a d => word (encD 0x2E (80 + win.toNat) h a.toNat d.toNat)
  | .ldAcq h sc wide a d => word (encD 0x2E (32 + 2 * sc.code + wide.toNat) h a.toNat d.toNat)
  | .stRel h sc wide a d => word (encD 0x2E (96 + 2 * sc.code + wide.toNat) h a.toNat d.toNat)
  | .ldCb h buf wide a d => word (encD 0x2E (48 + 4 * buf.code + wide.toNat) h a.toNat d.toNat)
  | .stCb h buf wide a d => word (encD 0x2E (112 + 4 * buf.code + wide.toNat) h a.toNat d.toNat)
  | .cpy h b a d devScope srcWin dstWin barGlobal src dst q barPresent bar => word (encA 0x2F 0 h b a d) ++
      word (1 + 8 * bar.toNat + 512 * barPresent.toNat + 1024 * q.toNat + 8192 * dst.code + 65536 * src.code +
        2^19 * barGlobal.toNat + 2^20 * dstWin.toNat + 2^24 * srcWin.toNat + 2^28 * devScope.toNat)
  | .atom h sp b a d ty sc sem op => word (encA 0x30 sp.toNat h b a d) ++ word (1 + 2 * op.code + 32 * sem.code + 128 * sc.code + 1024 * ty.code)
  | .plzOpen h a d => word (encD 0x31 0x00 h a.toNat d.toNat)
  | .plzEnter h a d => word (encD 0x31 0x01 h a.toNat d.toNat)
  | .plzLeave h a d => word (encD 0x31 0x02 h a.toNat d.toNat)
  | .plzVote h a d => word (encD 0x31 0x03 h a.toNat d.toNat)
  | .plzAbort h a => word (encD 0x31 0x04 h a.toNat 0)
  | .barInit h space a d => word (encD 0x34 (0 + space.code) h a.toNat d.toNat)
  | .barExpect h space a d => word (encD 0x34 (8 + space.code) h a.toNat d.toNat)
  | .barArrive h space a d => word (encD 0x34 (16 + space.code) h a.toNat d.toNat)
  | .barWait h space a d => word (encD 0x34 (24 + space.code) h a.toNat d.toNat)
  | .setNew h a => word (encD 0x35 0x00 h a.toNat 0)
  | .setEnrol h a => word (encD 0x35 0x01 h a.toNat 0)
  | .setQuit h a => word (encD 0x35 0x02 h a.toNat 0)
  | .grpEnter h a d => word (encD 0x35 0x03 h a.toNat d.toNat)
  | .grpLeave h a => word (encD 0x35 0x04 h a.toNat 0)
  | .cwait h c n => word (encD 0x36 c.code h n.toNat 0)
  | .tokPass h => word (encD 0x36 0x40 h 0 0)
  | .mxa h a => word (encD 0x38 0x00 h a.toNat 0)
  | .mxs h two a d => word (encD 0x38 (4 + two.toNat) h a.toNat d.toNat)
  | .spkI8 h b a d => word (encA 0x39 0 h b a d)
  | .spkF8 h b a d => word (encA 0x39 1 h b a d)
  | .spkBf16 h b a d => word (encA 0x3A 0 h b a d)
  | .asel h a => word (encD 0x3B 0x00 h a.toNat 0)
  | .agat h a => word (encD 0x3B 0x01 h a.toNat 0)
  | .ksumRebuild h a => word (encD 0x3B 0x02 h a.toNat 0)
  | .smov h idx d => word (encD 0x3C idx.toNat h 0 d.toNat)
  | .sset h idx a => word (encD 0x3C (32 + idx.toNat) h a.toNat 0)
  | .trap h n => word (encD 0x3C 0x40 h n.toNat 0)
  | .tret h => word (encD 0x3C 0x41 h 0 0)
  | .launch h a => word (encD 0x3C 0x42 h a.toNat 0)
  | .safept h n => word (encW 0x3D h (64 * n.toNat))
  | .nap h n => word (encW 0x3D h (64 * n.toNat + 1))
  | .tretLabel h off => word (encW 0x3E h off.toNat)
  | .mov16 i a d => half (2 * 0 + 32 * d.toNat + 1024 * a.toNat + 32768 * i.toNat)
  | .addI3216 i a d => half (2 * 1 + 32 * d.toNat + 1024 * a.toNat + 32768 * i.toNat)
  | .subI3216 i a d => half (2 * 2 + 32 * d.toNat + 1024 * a.toNat + 32768 * i.toNat)
  | .mulLoI3216 i a d => half (2 * 3 + 32 * d.toNat + 1024 * a.toNat + 32768 * i.toNat)
  | .andB3216 i a d => half (2 * 4 + 32 * d.toNat + 1024 * a.toNat + 32768 * i.toNat)
  | .orB3216 i a d => half (2 * 5 + 32 * d.toNat + 1024 * a.toNat + 32768 * i.toNat)
  | .xorB3216 i a d => half (2 * 6 + 32 * d.toNat + 1024 * a.toNat + 32768 * i.toNat)
  | .shlB3216 i a d => half (2 * 7 + 32 * d.toNat + 1024 * a.toNat + 32768 * i.toNat)
  | .shrN3216 i a d => half (2 * 8 + 32 * d.toNat + 1024 * a.toNat + 32768 * i.toNat)
  | .shrI3216 i a d => half (2 * 9 + 32 * d.toNat + 1024 * a.toNat + 32768 * i.toNat)
  | .minI3216 i a d => half (2 * 10 + 32 * d.toNat + 1024 * a.toNat + 32768 * i.toNat)
  | .maxI3216 i a d => half (2 * 11 + 32 * d.toNat + 1024 * a.toNat + 32768 * i.toNat)
  | .faddF3216 i a d => half (2 * 12 + 32 * d.toNat + 1024 * a.toNat + 32768 * i.toNat)
  | .fmulF3216 i a d => half (2 * 13 + 32 * d.toNat + 1024 * a.toNat + 32768 * i.toNat)
  | .fmaxF3216 i a d => half (2 * 14 + 32 * d.toNat + 1024 * a.toNat + 32768 * i.toNat)
  | .haddH216 i a d => half (2 * 15 + 32 * d.toNat + 1024 * a.toNat + 32768 * i.toNat)
  | .heartbeatTick _ _ => []
  | .detHeartbeat _ => []
  | .rangeSplit _ => []
  | .childStart _ _ _ => []
  | .joinSave _ => []
  | .joinRestore _ _ => []
  | .deferredTrap _ => []
  | .safeDistance _ => []
  | .napEnd _ => []
  | .preemptSave _ => []
  | .preemptRestore _ _ => []
  | .issueStarvation _ => []
  | .roundaboutSend _ _ => []
  | .loadComplete _ => []
  | .storePerform _ => []
  | .tableWalk _ _ _ _ => []
  | .faultdoneResolved _ _ => []
  | .faultdoneUnresolvable _ _ => []
  | .tlbinv _ => []
  | .gets _ _ => []
  | .getm _ _ => []
  | .upgrade _ _ => []
  | .homeWrite _ _ => []
  | .uncachedRead _ => []
  | .probeShare _ _ => []
  | .probeInvalidate _ _ => []
  | .putm _ _ => []
  | .puts _ _ => []
  | .lineEvict _ _ => []
  | .fill _ _ => []
  | .corePowerGate _ => []
  | .coreWake _ => []
  | .atomicExecute _ => []
  | .detectorFull _ => []
  | .copyPieceLand _ => []
  | .blockRetire _ _ => []
  | .mxPass _ _ => []
  | .arbiterStarvation _ _ => []
  | .aselRun _ => []
  | .agatRun _ => []
  | .ksumRebuildRun _ => []
  | .powerUp _ _ => []
  | .cmdLoad => []
  | .cmdReset => []
  | .cmdQuote => []
  | .verify => []
  | .selftest _ => []
  | .train _ _ => []
  | .graphreg _ => []
  | .kick _ => []
  | .nodeComplete _ _ => []
  | .launchComplete _ => []
  | .blockPlace _ _ _ => []
  | .gangProtection _ _ => []
  | .translationPublish _ _ _ _ _ => []
  | .biasToHost _ => []
  | .biasToDevice _ => []
  | .keybindBind _ => []
  | .keybindUnbind _ => []
  | .registerWrite _ _ => []
  | .hostMemRead _ _ _ => []
  | .hostMemWrite _ _ => []
  | .hostSnoopResponse _ _ => []
  | .clockStep _ => []
  | .thermalTrip => []
  | .flitReceive _ _ => []
  | .remoteRequest _ _ _ _ _ => []
  | .remoteAck _ _ _ => []
  | .sealAck _ _ _ => []
  | .publishReport _ _ _ => []
  | .plazaTimeout _ _ => []
  | .plazaDiscard _ _ => []
  | .cxlCacheSnoop _ _ => []
  | .cxlCacheResponse _ _ _ => []

/-- Bytes of the group (R24, R29). -/
def Instr.size : Instr → Nat
  | .ext _ i => 4 + i.size
  | .addI32 _ _ _ _ => 4
  | .subI32 _ _ _ _ => 4
  | .mulLoI32 _ _ _ _ => 4
  | .madLoI32 _ _ _ _ => 4
  | .mulHiI32 _ _ _ _ => 4
  | .mulHiN32 _ _ _ _ => 4
  | .andB32 _ _ _ _ => 4
  | .orB32 _ _ _ _ => 4
  | .xorB32 _ _ _ _ => 4
  | .andnB32 _ _ _ _ => 4
  | .shlB32 _ _ _ _ => 4
  | .shrN32 _ _ _ _ => 4
  | .shrI32 _ _ _ _ => 4
  | .rotB32 _ _ _ _ => 4
  | .minI32 _ _ _ _ => 4
  | .maxI32 _ _ _ _ => 4
  | .minN32 _ _ _ _ => 4
  | .maxN32 _ _ _ _ => 4
  | .addI64 _ _ _ _ => 4
  | .subI64 _ _ _ _ => 4
  | .mulWideI32 _ _ _ _ => 4
  | .mulWideN32 _ _ _ _ => 4
  | .leaN32 _ _ _ _ _ => 4
  | .leaI32 _ _ _ _ _ => 4
  | .addI32Imm _ _ _ => 4
  | .subI32Imm _ _ _ => 4
  | .mulLoI32Imm _ _ _ => 4
  | .andB32Imm _ _ _ => 4
  | .orB32Imm _ _ _ => 4
  | .xorB32Imm _ _ _ => 4
  | .shlB32Imm _ _ _ => 4
  | .shrN32Imm _ _ _ => 4
  | .shrI32Imm _ _ _ => 4
  | .minI32Imm _ _ _ => 4
  | .maxI32Imm _ _ _ => 4
  | .faddF32Imm _ _ _ => 4
  | .fmulF32Imm _ _ _ => 4
  | .fmaxF32Imm _ _ _ => 4
  | .haddH2Imm _ _ _ => 4
  | .movImm _ _ _ => 4
  | .mov _ _ _ => 4
  | .movB64 _ _ _ => 4
  | .notB32 _ _ _ => 4
  | .negI32 _ _ _ => 4
  | .absI32 _ _ _ => 4
  | .popcB32 _ _ _ => 4
  | .clzB32 _ _ _ => 4
  | .brevB32 _ _ _ => 4
  | .addI64Imm _ _ _ _ => 4
  | .faddF32 _ _ _ _ => 4
  | .fsubF32 _ _ _ _ => 4
  | .fmulF32 _ _ _ _ => 4
  | .ffmaF32 _ _ _ _ => 4
  | .fminF32 _ _ _ _ => 4
  | .fmaxF32 _ _ _ _ => 4
  | .faddF64 _ _ _ _ => 4
  | .fsubF64 _ _ _ _ => 4
  | .fmulF64 _ _ _ _ => 4
  | .ffmaF64 _ _ _ _ => 4
  | .haddH2 _ _ _ _ => 4
  | .hmulH2 _ _ _ _ => 4
  | .hfmaH2 _ _ _ _ => 4
  | .hfmaBh2 _ _ _ _ => 4
  | .fabsF32 _ _ _ => 4
  | .fnegF32 _ _ _ => 4
  | .fabsF64 _ _ _ => 4
  | .fnegF64 _ _ _ => 4
  | .haddBh2 _ _ _ => 4
  | .hmulBh2 _ _ _ => 4
  | .fminF64 _ _ _ => 4
  | .fmaxF64 _ _ _ => 4
  | .hminH2 _ _ _ => 4
  | .hmaxH2 _ _ _ => 4
  | .hminBh2 _ _ _ => 4
  | .hmaxBh2 _ _ _ => 4
  | .frintF32 _ _ _ => 4
  | .cvt _ _ _ _ _ => 4
  | .cvtToNarrow _ _ _ _ => 4
  | .cvtFromNarrow _ _ _ _ => 4
  | .rcpF32 _ _ _ => 4
  | .rsqrtF32 _ _ _ => 4
  | .exp2F32 _ _ _ => 4
  | .log2F32 _ _ _ => 4
  | .sinF32 _ _ _ => 4
  | .cosF32 _ _ _ => 4
  | .cmpI32 _ _ _ _ _ => 4
  | .cmpN32 _ _ _ _ _ => 4
  | .cmpF32 _ _ _ _ _ => 4
  | .cmpF64 _ _ _ _ _ => 4
  | .cmpI32Imm _ _ _ _ _ => 4
  | .cmpN32Imm _ _ _ _ _ => 4
  | .pand _ _ _ _ => 4
  | .por _ _ _ _ => 4
  | .pxor _ _ _ _ => 4
  | .pandn _ _ _ _ => 4
  | .pget _ _ => 4
  | .pset _ _ => 4
  | .xlElect _ _ => 4
  | .xlBcastB32 _ _ _ => 4
  | .xlCount _ _ _ => 4
  | .xlBflyB32 _ _ _ _ => 4
  | .xlUpB32 _ _ _ _ => 4
  | .xlDownB32 _ _ _ _ => 4
  | .xlRed _ _ _ _ => 4
  | .bra _ _ => 4
  | .call _ _ => 4
  | .bsel _ cases => 4 + 4 * cases.length
  | .ret _ => 4
  | .exit _ => 4
  | .yield _ => 4
  | .loose _ => 4
  | .prio _ _ => 4
  | .prioR _ _ => 4
  | .callR _ _ => 4
  | .braR _ _ => 4
  | .rally _ _ => 4
  | .rallyH _ _ => 4
  | .loop _ _ _ _ => 4
  | .forkC _ _ _ _ => 4
  | .forkR _ _ _ _ _ _ _ => 8
  | .forkRL _ _ _ _ _ _ _ => 8
  | .joinR _ => 4
  | .joinC _ _ _ => 4
  | .done _ _ => 4
  | .doneR _ => 4
  | .spawn _ _ _ => 4
  | .ldB32Global _ _ _ _ => 4
  | .ldB64Global _ _ _ _ => 4
  | .stB32Global _ _ _ _ => 4
  | .stB64Global _ _ _ _ => 4
  | .ldB32Sp _ _ _ _ => 4
  | .stB32Sp _ _ _ _ => 4
  | .ldPlain _ _ _ _ _ => 4
  | .stPlain _ _ _ _ _ => 4
  | .ldSw _ _ _ _ => 4
  | .stSw _ _ _ _ => 4
  | .ldAcq _ _ _ _ _ => 4
  | .stRel _ _ _ _ _ => 4
  | .ldCb _ _ _ _ _ => 4
  | .stCb _ _ _ _ _ => 4
  | .cpy _ _ _ _ _ _ _ _ _ _ _ _ _ => 8
  | .atom _ _ _ _ _ _ _ _ _ => 8
  | .plzOpen _ _ _ => 4
  | .plzEnter _ _ _ => 4
  | .plzLeave _ _ _ => 4
  | .plzVote _ _ _ => 4
  | .plzAbort _ _ => 4
  | .barInit _ _ _ _ => 4
  | .barExpect _ _ _ _ => 4
  | .barArrive _ _ _ _ => 4
  | .barWait _ _ _ _ => 4
  | .setNew _ _ => 4
  | .setEnrol _ _ => 4
  | .setQuit _ _ => 4
  | .grpEnter _ _ _ => 4
  | .grpLeave _ _ => 4
  | .cwait _ _ _ => 4
  | .tokPass _ => 4
  | .mxa _ _ => 4
  | .mxs _ _ _ _ => 4
  | .spkI8 _ _ _ _ => 4
  | .spkF8 _ _ _ _ => 4
  | .spkBf16 _ _ _ _ => 4
  | .asel _ _ => 4
  | .agat _ _ => 4
  | .ksumRebuild _ _ => 4
  | .smov _ _ _ => 4
  | .sset _ _ _ => 4
  | .trap _ _ => 4
  | .tret _ => 4
  | .launch _ _ => 4
  | .safept _ _ => 4
  | .nap _ _ => 4
  | .tretLabel _ _ => 4
  | .mov16 _ _ _ => 2
  | .addI3216 _ _ _ => 2
  | .subI3216 _ _ _ => 2
  | .mulLoI3216 _ _ _ => 2
  | .andB3216 _ _ _ => 2
  | .orB3216 _ _ _ => 2
  | .xorB3216 _ _ _ => 2
  | .shlB3216 _ _ _ => 2
  | .shrN3216 _ _ _ => 2
  | .shrI3216 _ _ _ => 2
  | .minI3216 _ _ _ => 2
  | .maxI3216 _ _ _ => 2
  | .faddF3216 _ _ _ => 2
  | .fmulF3216 _ _ _ => 2
  | .fmaxF3216 _ _ _ => 2
  | .haddH216 _ _ _ => 2
  | .heartbeatTick _ _ => 0
  | .detHeartbeat _ => 0
  | .rangeSplit _ => 0
  | .childStart _ _ _ => 0
  | .joinSave _ => 0
  | .joinRestore _ _ => 0
  | .deferredTrap _ => 0
  | .safeDistance _ => 0
  | .napEnd _ => 0
  | .preemptSave _ => 0
  | .preemptRestore _ _ => 0
  | .issueStarvation _ => 0
  | .roundaboutSend _ _ => 0
  | .loadComplete _ => 0
  | .storePerform _ => 0
  | .tableWalk _ _ _ _ => 0
  | .faultdoneResolved _ _ => 0
  | .faultdoneUnresolvable _ _ => 0
  | .tlbinv _ => 0
  | .gets _ _ => 0
  | .getm _ _ => 0
  | .upgrade _ _ => 0
  | .homeWrite _ _ => 0
  | .uncachedRead _ => 0
  | .probeShare _ _ => 0
  | .probeInvalidate _ _ => 0
  | .putm _ _ => 0
  | .puts _ _ => 0
  | .lineEvict _ _ => 0
  | .fill _ _ => 0
  | .corePowerGate _ => 0
  | .coreWake _ => 0
  | .atomicExecute _ => 0
  | .detectorFull _ => 0
  | .copyPieceLand _ => 0
  | .blockRetire _ _ => 0
  | .mxPass _ _ => 0
  | .arbiterStarvation _ _ => 0
  | .aselRun _ => 0
  | .agatRun _ => 0
  | .ksumRebuildRun _ => 0
  | .powerUp _ _ => 0
  | .cmdLoad => 0
  | .cmdReset => 0
  | .cmdQuote => 0
  | .verify => 0
  | .selftest _ => 0
  | .train _ _ => 0
  | .graphreg _ => 0
  | .kick _ => 0
  | .nodeComplete _ _ => 0
  | .launchComplete _ => 0
  | .blockPlace _ _ _ => 0
  | .gangProtection _ _ => 0
  | .translationPublish _ _ _ _ _ => 0
  | .biasToHost _ => 0
  | .biasToDevice _ => 0
  | .keybindBind _ => 0
  | .keybindUnbind _ => 0
  | .registerWrite _ _ => 0
  | .hostMemRead _ _ _ => 0
  | .hostMemWrite _ _ => 0
  | .hostSnoopResponse _ _ => 0
  | .clockStep _ => 0
  | .thermalTrip => 0
  | .flitReceive _ _ => 0
  | .remoteRequest _ _ _ _ _ => 0
  | .remoteAck _ _ _ => 0
  | .sealAck _ _ _ => 0
  | .publishReport _ _ _ => 0
  | .plazaTimeout _ _ => 0
  | .plazaDiscard _ _ => 0
  | .cxlCacheSnoop _ _ => 0
  | .cxlCacheResponse _ _ _ => 0

end Sys2Proof
end

