-- ==== Sys2Proof/Machine/State.lean ====
section
/-! DEFINITION. The state of the machine: everything the manual gives the GT-384, as plain data, and the state after
reset. Cores are numbered across the package, 256 to a die (core x of die d is 256·d + x), quads 64 to a die. -/

namespace Sys2Proof.Machine

/-- Why a step stops. -/
inductive Fault where
  /-- Raised by an instruction of a fibre when no fibre of that name is running: safe, the hardware has no such step. -/
  | noFibre
  deriving DecidableEq, Repr

/-- Why a step has no meaning. -/
inductive Refusal where
  /-- Raised by the dispatcher for an instruction without a meaning: safe. -/
  | notModelled (mnemonic : String)
  deriving DecidableEq, Repr

/-- Memory: bytes by address, addresses strictly rising, no entry equal to what an unlisted address reads as. -/
abbrev Memory := List Host.Cell

/-- What an unlisted byte reads as (DESIGN CHOICE, log 2). -/
def unlisted : Byte := 0

/-- Addresses rise strictly and stay above `lo`; no entry holds the unlisted byte. -/
def Memory.wfFrom (lo : Nat) : Memory → Bool
  | [] => true
  | (a, b) :: m => decide (lo ≤ a) && b != unlisted && Memory.wfFrom (a + 1) m

/-- The canonical form of memory. -/
def Memory.wf (m : Memory) : Bool := Memory.wfFrom 0 m

/-- Trap causes (R163). -/
inductive Cause where
  | undef | stallShort | safeDistance | align | page | prot | race | integrity | copyOverlap | copyFault
  | mxMeta | mxFormat | sat | plazaAbort | plazaMisuse | revoked | frame | held | token | set | barrierFail
  | summary | soft | launch | graph | feature
  deriving DecidableEq, Repr

/-- Where translated bytes lie (R223, R255, R286). -/
inductive Loc where
  /-- Package DRAM, by physical address. -/
  | dram (pa : Nat)
  /-- Host memory, by host physical address. -/
  | host (pa : Nat)
  /-- A peer device. -/
  | peer (dev pa : Nat)
  /-- Scratchpad bytes, by the key (core·2^16 + allocation)·2^18 + offset. -/
  | sp (key : Nat)
  /-- Typed-buffer bytes, by the key (quad·3 + buffer)·2^19 + offset. -/
  | cb (key : Nat)
  deriving DecidableEq, Repr

/-- A latched weight or activation format code, 0 to 15 (R171). -/
abbrev FmtCode := Nat

/-- A fixed-latency write not yet visible (R46 to R49): code 0 to 63 for g0 to g63, 64 + n for pn. -/
structure Pend where
  code : Nat
  val  : Word
  left : Nat
  seq  : Nat
  /-- A younger write is visible: this one never replaces it (R48). A read before its own distance is early all the same (R49). -/
  passed : Bool
  deriving DecidableEq, Repr

/-- An outstanding operation of a fibre, in issue order (R130). -/
structure Out where
  id   : Nat
  cls  : Cls
  done : Bool
  deriving DecidableEq, Repr

/-- The range of a range frame or a root range (R105, R111): form R names a limit register, form L a loop. -/
structure Range where
  formL : Bool
  idx   : Reg
  lim   : Reg
  loopN : Nat
  grain : Nat
  ty    : RedTy
  op    : RedOp
  acc   : Reg
  /-- Children by fibre, lowest range first, at most 7. -/
  kids  : List Nat
  armed : Bool
  /-- Form L: the loop-back that splits it has been made (R109). -/
  due   : Bool
  deriving DecidableEq, Repr

/-- A real frame (R103 to R105). -/
inductive Frame where
  | call (target : Nat) (args : List Word) (child : Option Nat)
  | range (r : Range)
  deriving DecidableEq, Repr

/-- A hardware loop (R100). The body ends `left` groups after `stop`: groups that could not be fetched when it was last
looked at (DEDUCED, log 35). -/
structure Loop where
  count  : Word
  start  : Nat
  stop   : Nat
  active : Bool
  order  : Nat
  left   : Nat
  deriving DecidableEq, Repr

/-- A trap still to be taken at a boundary (R132, R202, R303): `acc` is the access's name, or the ordinal of a matrix
operation. -/
structure Deferred where
  acc    : Nat
  /-- Its class, and how many younger accesses of that class were outstanding as it was reported (R131, R132). -/
  cls    : Cls
  young  : Nat
  cause  : Cause
  detail : Nat
  iaddr  : Nat
  insn   : Nat
  daddr  : Nat
  deriving DecidableEq, Repr

/-- A copy's end: space and base (R137). -/
inductive CopyEnd where
  | global (va : Nat)
  | here (loc : Loc)
  deriving DecidableEq, Repr

/-- Why a device operation stands still. -/
inductive Hold where
  | none
  | fault (die index : Nat)
  | faultFull (die : Nat)
  deriving DecidableEq, Repr

/-- A copy in flight (R137, R138). -/
structure Copy where
  id     : Nat
  fib    : Nat
  launch : Nat
  block  : Nat
  set    : Option Loc
  core   : Nat
  queue  : Nat
  asid   : Nat
  iaddr  : Nat
  insn   : Nat
  src    : CopyEnd
  dst    : CopyEnd
  len    : Nat
  /-- Bytes landed, bytes read and sent, and those of them still under way (R137, R138). -/
  landed : Nat
  sent   : Nat
  buf    : List Byte
  bar    : Option Loc
  /-- The address by which the instruction names its barrier, and whether that is a virtual address. -/
  barAddr : Nat
  barGlobal : Bool
  barScope : Scope
  /-- Windows its ends were reached through: group and number (R136, R155). -/
  wins   : List (Loc × Nat)
  hold   : Hold
  /-- A failure found while suspended, or an abort that waits for its barrier's sector (R140, R216), with the DETAIL and the
address of a RACE. -/
  failed : Bool
  race   : Option (Nat × Nat)
  /-- A graph's copy node: replay and node (R276). -/
  node   : Option (Nat × Nat)
  /-- Accesses that happen before it by spl and lch: as for a fibre (R229, R278). -/
  before : List (Nat × Nat)
  deriving DecidableEq, Repr

/-- The instruction that waits for a phase: `bar.wait`, a rally, or a set-collective plaza instruction (its minor f and
handle, R292). -/
inductive PhaseKind where
  | bar | rally | rallyH
  | plz (minor : Nat) (h : DWord)
  /-- Arrivals of one fibre by more than one of these in one phase (R295). -/
  | mixed
  deriving DecidableEq, Repr

/-- What a remote operation asks of a plaza's coordinator: that the set of its fibres enters (R295), that it leaves (R296), or
nothing of the two. -/
inductive Asks where
  | other
  | enter (h : DWord)
  | leave (h : DWord)
  deriving DecidableEq, Repr

/-- What a fibre waits for. -/
inductive Wait where
  | none
  /-- Until the counter of a class is at most n (R131, R57). -/
  | counter (c : Cls) (n : Nat)
  /-- Until every counter reads 0 (R115, R116). -/
  | drain
  /-- Until st, at and rm read 0 (R296, R299). -/
  | drainStores
  /-- Phase p of the object at loc (R150). -/
  | phase (loc : Loc) (p : Word) (kind : PhaseKind)
  /-- The awaited phase completed; sat: saturated. -/
  | released (sat : Bool)
  /-- The phase wait ends in a trap (R140, R295), or a set-collective plaza instruction is done. -/
  | collective (cause : Option Cause) (detail : Nat) (sat : Bool)
  /-- Until no tagged fibre created from the set remains (R299). -/
  | ballot (sat : Bool)
  /-- For the plaza's completion phase (R299). -/
  | commit (sat : Bool)
  /-- The plaza committed. -/
  | committed (sat : Bool)
  /-- Until the listed fibres have ended (R113 to R115), and when the wait began: the longest-blocked is saved (R112). -/
  | join (kids : List Nat) (since : Nat)
  /-- A fault record (R125, R225). -/
  | fault (die index : Nat)
  /-- Until any fault record of the die closes (R225). -/
  | faultFull (die : Nat)
  /-- The record was reported unresolvable. -/
  | faultFailed (va : Nat)
  /-- The right-of-way token (R157). -/
  | token
  /-- A free copy slot of the core, and room in the counter, for a copy that has passed its checks (R137); its name holds only until
it is appended. -/
  | copySlot (c : Copy)
  /-- A free reservation-table entry of the quad, for the operation of this name (R195). -/
  | table (op : Nat)
  /-- A free Roundabout entry (R129). -/
  | roundabout
  /-- The performance of accesses through window n of the group that the fibre's set leaves (R155). -/
  | window (n : Nat) (ids : List Nat)
  /-- A `nap` (R51), and its end. -/
  | nap
  | napOver
  /-- A page that flips its bias (R261). -/
  | bias
  /-- A remote operation at a peer (R287); ends: of a plaza instruction or a `bar.wait`, which an abort ends (R303). -/
  | remote (dev id : Nat) (ends sat : Bool) (asks : Asks)
  /-- A remote operation's reply. -/
  | replied (data : DWord) (refused : Bool) (sat : Bool)
  /-- A plaza's line (R298). -/
  | plaza (h : DWord)
  /-- Lanes that trapped STALL_SHORT at the same cross-lane instruction (R86). -/
  | lanes (fibs : List Nat)
  /-- Room for the records of an object of this many bytes in a full detector table, a fault wait (R231). -/
  | room (loc : Loc) (size : Nat)
  deriving DecidableEq, Repr

/-- How a fibre came to be (R56, R111, R117). -/
inductive Origin where
  | launch | call | range | spawn
  deriving DecidableEq, Repr

/-- Where a fibre stands. -/
inductive Status where
  /-- On the Crossing (R112). -/
  | queued
  | resident
  /-- Parked on a trap (R162). -/
  | parked
  /-- Saved at its join (R112). -/
  | joinSaved
  /-- Saved by pre-emption (R165). -/
  | saved
  | ended
  deriving DecidableEq, Repr

/-- A fibre (R56). -/
structure Fibre where
  uid     : Nat
  launch  : Nat
  block   : Nat
  core    : Nat
  fid     : Word
  origin  : Origin
  status  : Status
  pc      : Nat
  window  : Nat
  regs    : Vector Word 64
  /-- Bit n is pn; p0 reads 1 whatever bit 0 holds. -/
  preds   : BitVec 8
  pend    : List Pend
  /-- Values that have landed while an instruction of the fibre waits: it keeps the operands that it has read (R125). By the writes
that their accesses are younger than, code and value. -/
  landed  : List (Nat × Nat × Word)
  /-- Count of fixed-latency writes made, to order them (R48). -/
  wseq    : Nat
  /-- Real frames, newest first. -/
  frames  : List Frame
  /-- Inline-only frames, newest first: true for a call frame (R103). -/
  inline  : List Bool
  root    : Option Range
  lc0     : Loop
  lc1     : Loop
  lc2     : Loop
  loopSeq : Nat
  prio    : BitVec 4
  mode    : Word
  sat     : Word
  outs    : List Out
  /-- The set-membership pointer: the object's location (R151). -/
  set     : Option Loc
  /-- The fibre has arrived in the collecting phase of its set, and by which instruction (R152, R295). -/
  arrived : Option PhaseKind
  /-- Arrivals that `plz.vote` and `plz.leave` have made in that phase (R303). -/
  votes   : Nat
  /-- Held batch and lane (R97). -/
  held    : Option (Nat × Nat)
  /-- Plaza tag; 0 for none (R290). -/
  tag     : DWord
  /-- The member set through which a tagged fibre, or its creator, entered (R299). -/
  plzSet  : Option Loc
  /-- The plaza whose PLAZA_ABORT the fibre has taken and not left (R294), or 0. -/
  aborted : DWord
  hbc     : Nat
  dist    : Nat
  passed  : Bool
  seg     : Option Nat
  /-- TILES of the last explicit safe point, 0xFF if none (R160). -/
  tiles   : BitVec 8
  /-- Registers that a save at the fibre's last safe point keeps (R159, R160). -/
  live    : DWord
  craco   : Bool
  /-- It runs on a body that the translator built (R273). -/
  xlat    : Bool
  vector  : Nat
  trapMode : Bool
  deferred : List Deferred
  /-- Restored with deferred traps: they are due at its first boundary, whatever it waits for (R165, R202). -/
  fresh   : Bool
  mxFaults : List Deferred
  /-- A PLAZA_ABORT to be taken: detail and handle (R303). -/
  abort   : Option (Nat × DWord)
  wait    : Wait
  /-- The instruction at the PC has blocked the fibre (R46). -/
  waited  : Bool
  /-- The instruction that the fibre has issued and not retired: it is not fetched again after a wait (R195). -/
  inst    : Option Instr
  /-- A tick to be taken at this boundary, once pending loads have landed (R106 to R108). -/
  tickDue : Bool
  /-- Restored onto a part or a defect map other than the one it was saved from: the body is chosen again at its next
  explicit safe point (R166, R273). -/
  rebody  : Bool
  /-- The fused group that the fibre entered at its first member: its first and its last address (R54, R55). -/
  fuse    : Option (Nat × Nat)
  /-- A trap was taken in the phase wait of the instruction at this address: its arrival stands, and the wait goes on under
  the trap, as it stands now (DESIGN CHOICE, log 62). -/
  rejoin  : Option (Nat × Wait)
  /-- Matrix and selection operations issued (R202). -/
  mxSeq : Nat
  preempt : Bool
  stopped : Bool
  /-- The result delivered at its end (R113 to R115). -/
  result  : DWord
  /-- `launch`es whose records wait for the counters to drain: each closes those of the operations named below it once none of these
is outstanding (R228). -/
  closing : List Nat
  /-- Operations that must complete before the first instruction (R112). -/
  after   : List Nat
  /-- Accesses that happen before this fibre by spl and lch: fibre and bound on access names (R229). -/
  before  : List (Nat × Nat)
  parent  : Option Nat
  deriving DecidableEq, Repr

/-- What an access does when it completes. -/
inductive AccOp where
  | load (ty : LdTy) (d : Reg)
  | store (data : DWord)
  | atom (op : AtomOp) (ty : AtomTy) (b d : DWord) (dst : Reg)
  /-- `plz.open` (R293). -/
  | openPlaza (d : Reg)
  deriving DecidableEq, Repr

/-- An outstanding memory access (R129, R130). -/
structure Access where
  id     : Nat
  fib    : Nat
  iaddr  : Nat
  insn   : Nat
  loc    : Loc
  /-- The address the instruction named: virtual address or offset. -/
  addr   : Nat
  size   : Nat
  op     : AccOp
  acq    : Bool
  rel    : Bool
  scope  : Scope
  tag    : DWord
  /-- Sharing window used, if any (R136). -/
  win    : Option (Loc × Nat)
  /-- The set of its fibre at its issue (R155). -/
  set    : Option Loc
  /-- Fixed-latency writes that its fibre had made at its issue: those are older than its result (R48, R127). -/
  wseq   : Nat
  /-- A key store whose Widen has been applied (R240). -/
  widened : Bool
  /-- The DETAIL of the RACE with a record that has closed since then (R254). -/
  fate    : Option Nat
  deriving DecidableEq, Repr

/-- A request entry of a core's Roundabout: one 256-byte line of one space (R129). Loads join loads and stores join
stores; an atomic or a `plz.open` stands alone. -/
structure RaEntry where
  core  : Nat
  line  : Nat
  store : Bool
  alone : Bool
  accs  : List Nat
  sent  : Bool
  deriving DecidableEq, Repr

/-- Kinds of a region record (R232). -/
inductive RecKind where
  | read | write | syncRead | syncWrite
  deriving DecidableEq, Repr

/-- A region record (R226 to R228). -/
structure RegionRec where
  fib   : Nat
  launch : Nat
  block : Nat
  /-- The word: address / 4 in space 0 (package DRAM), 1 (scratchpad keys) or 2 (host memory). -/
  space : Nat
  word  : Nat
  kind  : RecKind
  /-- Scope of a synchronising access, and the core it came from (R135). -/
  scope : Scope
  core  : Nat
  /-- Access, copy or engine operation that made it. -/
  owner : Nat
  /-- The access it records is complete. -/
  complete : Bool
  /-- Copy or engine record: closed by its own events, not by releases (R228). -/
  engine : Bool
  tag   : DWord
  deriving DecidableEq, Repr

/-- L1 sector states (R215). -/
inductive L1 where
  | i | s | e | o | m
  deriving DecidableEq, Repr

/-- Directory states (R216): an owner, and sharers. -/
inductive DirState where
  | i | s | em (owner : Nat) | o (owner : Nat)
  deriving DecidableEq, Repr

structure DirEntry where
  sector  : Nat
  state   : DirState
  sharers : List Nat
  deriving DecidableEq, Repr

/-- A fill in flight to an L1 (R218): its sector by key (R255), its data, whether it gives E, the loads that it serves,
and whether a probe has invalidated it. -/
structure FillEntry where
  core   : Nat
  sector : Nat
  data   : List Byte
  excl   : Bool
  served : List Nat
  killed : Bool
  deriving DecidableEq, Repr

/-- A TLB entry of a quad (R224). -/
structure TlbEntry where
  quad : Nat
  asid : Nat
  base : Nat
  size : Nat
  loc  : Loc
  r : Bool
  w : Bool
  x : Bool
  summ : Bool
  sidx : Nat
  deriving DecidableEq, Repr

/-- An open fault record (R225). -/
structure FaultRec where
  die     : Nat
  index   : Nat
  asid    : Nat
  va      : Nat
  kind    : Nat
  reason  : Nat
  waiters : Nat
  level   : Nat
  eaddr   : Nat
  seq     : Nat
  written : Bool
  deriving DecidableEq, Repr

/-- An error record (R235). -/
structure ErrRec where
  kind  : Nat
  agent : Nat
  die   : Nat
  addr  : Nat
  seq   : Nat
  deriving DecidableEq, Repr

/-- A key-page binding (R239): 16 KiB page number, D code, format, signpost address. -/
structure Binding where
  page : Nat
  dcode : Nat
  kfmt : Bool
  spa : Nat
  deriving DecidableEq, Repr

/-- What an engine operation is. A `ksum.rebuild` keeps its page and the binding found at issue (R241). -/
inductive MxKind where
  | dense | sparse (two : Bool) (stream : Nat) | asel | agat | ksum (va : Nat) (b : Binding)
  deriving DecidableEq, Repr

/-- Where the granted pass of an operation stands (R195): between passes; fetching, with the sources still to fetch, each
with its place among the rows and as pieces of address, location and length; applying, with the next block, the results to be written after the last; or over, but
for its arrival (R201). -/
inductive MxStage where
  | idle
  | fetching (todo : List (Nat × List (Nat × Loc × Nat)))
  | applying (block : Nat)
  | ended
  deriving DecidableEq, Repr

/-- The bytes of the pass have been fetched. -/
def MxStage.applies : MxStage → Bool
  | .applying _ | .ended => true
  | .idle | .fetching _ => false

/-- An entry of a quad's reservation table (R195, R199, R246, R249). -/
structure MxEntry where
  id     : Nat
  fib    : Nat
  launch : Nat
  block  : Nat
  quad   : Nat
  core   : Nat
  asid   : Nat
  iaddr  : Nat
  insn   : Nat
  kind   : MxKind
  /-- Its ordinal among its issuer's operations (R202). -/
  ord    : Nat
  /-- Block offset in sp, and the key of sp's offset 0. -/
  off    : Nat
  spBase : Nat
  /-- The allocation that barrier offsets name (R147). -/
  barBase : Nat
  /-- The 64 bytes of the block, and the mask block of `asel`, the list of an `agat`, or the signpost that a `ksum.rebuild`
has made so far (R241). -/
  blk    : List Byte
  mask   : List Byte
  cls    : Nat
  /-- Passes applied. -/
  pass   : Nat
  ovf    : Bool
  hold   : Hold
  /-- The address at which it is suspended, and that the record was reported unresolvable (R225). -/
  heldVa : Nat
  failed : Bool
  /-- ARBITER_STARVATION has given it the next pass (R199). -/
  starved : Bool
  /-- It holds an entry of the table; a fibre that met a full table waits for that (R195). -/
  tabled : Bool
  /-- Its wait barrier has released it (R199). -/
  released : Bool
  /-- The phase of its wait barrier (R195). -/
  waitAt : Option (Loc × Word)
  /-- A peer has refused an operand: 0 the page, 1 poison (R286), with the address refused; or 2: FAIL stands at its wait
barrier (R195). -/
  refused : Option (Nat × Nat)
  /-- The granted pass: its stage, the rows fetched, its block size (R185), and the running value of each element that it
  writes, by the key of its first byte (R183, R204). -/
  stage : MxStage
  rows : List (List Byte)
  bsize : Nat
  run : List (Nat × Nat)
  /-- Sectors pinned for the pass (R198). -/
  pins : List Nat
  /-- The page-list entry that an `agat` has read for its current page (R249). -/
  page : Option Nat
  deriving DecidableEq, Repr

/-- An engine arrival held at an object whose collecting phase is full (R201), for the operation of this name, with the
saturation that it carries (R182). -/
structure HeldArrival where
  loc : Loc
  op  : Nat
  sat : Bool
  deriving DecidableEq, Repr

/-- The kernel descriptor (R270). -/
structure Kernel where
  depth : Nat
  spad : Nat
  bset : Nat
  rmask : Nat
  nsafe : Nat
  safetab : Nat
  craco : Nat
  cvec : Nat
  nvar : Nat
  argslots : Nat
  vartab : Nat
  deriving DecidableEq, Repr

inductive LaunchStatus where
  | running
  /-- All blocks retired; the completion write waits for a fault record (R278). -/
  | completing (hold : Hold)
  /-- Its completion write is under way at a peer, under this name (R278, R287). -/
  | posted (id : Nat)
  | complete
  deriving DecidableEq, Repr

/-- A launch: the fields of its record (R271), the chosen body (R273) and the token (R156). -/
structure Launch where
  id : Nat
  asid : Nat
  flags : Nat
  gridX : Nat
  gridY : Nat
  gridZ : Nat
  blkX : Nat
  blkY : Nat
  blkZ : Nat
  clX : Nat
  clY : Nat
  clZ : Nat
  window : Nat
  modeField : Nat
  prio : Nat
  h : Nat
  period : Nat
  args : Nat
  argsize : Nat
  slotcap : Nat
  frames : Nat
  framesize : Nat
  traps : Nat
  doneaddr : Nat
  doneval : Nat
  kdesc : Nat
  kern : Kernel
  entry : Nat
  vector : Nat
  craco : Bool
  /-- The block that holds the right-of-way token (R156). -/
  token : Nat
  /-- Blocks placed so far, in ascending logical id. -/
  placed : Nat
  /-- Overtakes of the waiting gang, and whether it is protected (R280). -/
  overtakes : Nat
  gangProtected : Bool
  /-- Cores that its waiting gang has reserved as they became free (R280). -/
  reserved : List Nat
  status : LaunchStatus
  /-- The graph replay and node that started it. -/
  node : Option (Nat × Nat)
  /-- Accesses that happen before its fibres (R229, R274). -/
  before : List (Nat × Nat)
  deriving DecidableEq, Repr

/-- A block of a launch (R279 to R281). -/
structure Block where
  launch : Nat
  /-- Logical id, and the place in the grid that it stands for (R281). -/
  id : Nat
  grid : Nat × Nat × Nat
  die : Nat
  cores : List Nat
  alloc : Nat
  saved : Bool
  retired : Bool
  /-- Saved context (R165, R166): scratchpad bytes by offset of each gang core, buffers, planes. -/
  ctxSp : List Memory
  ctxBufs : List Memory
  ctxPlanes : List (Memory × Option FmtCode)
  /-- The 64 bytes of the context header (R166). -/
  ctxHeader : List Byte
  deriving DecidableEq, Repr

/-- A sharing-group mapping: window n of the group's object reaches an allocation (R153 to R155). One that is shut is
unmapped for new accesses; its slot is still held. -/
structure Window where
  group : Loc
  n     : Nat
  /-- The member set, and the core and allocation it maps. -/
  set   : Loc
  core  : Nat
  alloc : Nat
  shut  : Bool
  deriving DecidableEq, Repr

inductive Lane where
  | empty | gone | held (fib : Nat)
  deriving DecidableEq, Repr

/-- A held batch (R97, R98): its lanes, and the lanes of the current issue still to execute. Each cross-lane instance held
back waits, at its address, for the lanes that trapped STALL_SHORT at it (R86). -/
structure Batch where
  id : Nat
  lanes : List Lane
  issue : List Nat
  back : List (Nat × List Nat)
  deriving DecidableEq, Repr

inductive PlzState where
  | free | opened | sealing | publishing | committed | aborting | aborted
  deriving DecidableEq, Repr

/-- A member of a plaza: set, whether it voted or left (R296, R299). -/
structure PlzMember where
  set : Loc
  voted : Bool
  left : Bool
  deriving DecidableEq, Repr

/-- An entry of a die's plaza table (R290 to R294). -/
structure Plaza where
  die : Nat
  index : Nat
  gen : Nat
  state : PlzState
  expect : Nat
  scope : Nat
  yields : Bool
  timeout : Nat
  opened : Nat
  members : List PlzMember
  votes : Nat
  leaves : Nat
  /-- Why it aborted (R302). -/
  cause : Nat
  /-- Directories (dies) that have sealed and published (R300). -/
  sealed : List Nat
  published : List Nat
  /-- Peers whose directories hold entries (R300), and who has discarded, its member fibres' traps taken (R294). -/
  peers : List Nat
  discarded : List Nat
  /-- Peers whose last member fibre has left its wait or trap (R294). -/
  gone : List Nat
  deriving DecidableEq, Repr

/-- An entry of a write-set directory: a 256-byte line for a plaza (R297). -/
structure WsLine where
  handle : DWord
  line : Nat
  read : Bool
  written : Bool
  sealed : Bool
  /-- Tentative bytes, by physical address. -/
  bytes : List Host.Cell
  /-- Sectors whose tentative bytes have arrived bad (R234, R284). -/
  bad : List Nat
  /-- A write from outside a PROTECT plaza waits here (R298), and the entry itself has been discarded. -/
  met : Bool
  gone : Bool
  deriving DecidableEq, Repr

/-- What a peer coordinator has told of a plaza (R293, R298): open time, policy, and whether it seals; and whether it has
been asked to abort it, and whether it is over, so that the last fibre to leave it is still to be told of. -/
structure AwayPlaza where
  handle : DWord
  /-- The coordinator has told: the fields that follow hold. -/
  told : Bool
  opened : Nat
  yields : Bool
  sealing : Bool
  asked : Bool
  finished : Bool
  deriving DecidableEq, Repr

/-- Host's copy of a 64-byte line of device memory (R260): shared, or owned in E or M. -/
inductive HostLine where
  | s | e
  deriving DecidableEq, Repr

/-- The state of a replay's node (R276, R277). -/
inductive NodeState where
  | waiting | running | completed | skipped
  deriving DecidableEq, Repr

/-- A replay of a task graph (R276). -/
structure Replay where
  id : Nat
  graph : Nat
  pa : Nat
  nodes : List NodeState
  /-- Where a node stopped the graph, and its code (R277). -/
  stopped : Option (Nat × Nat)
  deriving DecidableEq, Repr

/-- A registered graph (R275). -/
structure Graph where
  index : Nat
  pa : Nat
  bad : Bool
  deriving DecidableEq, Repr

/-- A native body published in the translation cache (R273). -/
structure XBody where
  kdesc : Nat
  asid : Nat
  sig : Nat
  entry : Nat
  vector : Nat
  points : List (Nat × Nat)
  /-- The addresses of its instructions, the Craco body's first, and those after each of them. -/
  pairs : List (Nat × Nat)
  ends : List (Nat × Nat)
  /-- Its bytes in the cache. -/
  bytes : Nat
  deriving DecidableEq, Repr

/-- A turn: which agent acts next. The interleaving is plain data (DESIGN CHOICE, log 1). -/
inductive Turn where
  | fibre (uid : Nat)
  | event (i : Instr)
  /-- The running bias command tries to go on (R261). -/
  | bias
  deriving DecidableEq, Repr

/-- The BAR0 registers (R258). -/
structure Regs where
  status : Nat
  image : DWord
  ctxbase : DWord
  faultq : DWord
  tlbva : DWord
  sync : Word
  powercap : Word
  clock : Word
  keypa : DWord
  signpa : DWord
  errq : DWord
  faultseq : List Nat
  errseq : List Nat
  errhead : List Nat
  softerr : List Nat
  nonce : BitVec 256
  quoteaddr : DWord
  deriving DecidableEq, Repr

/-- The registers' reset values (R258). -/
def Regs.reset : Regs where
  status := 1
  image := 0
  ctxbase := 0
  faultq := 0
  tlbva := 0
  sync := 0
  powercap := 2600
  clock := 1500
  keypa := 0
  signpa := 0
  errq := 0
  faultseq := [0, 0, 0, 0]
  errseq := [0, 0, 0, 0]
  errhead := [0, 0, 0, 0]
  softerr := List.replicate 20 0
  nonce := 0
  quoteaddr := 0

/-- The machine. -/
structure State where
  bar     : Regs
  /-- Host link: short-reach (R256). -/
  shortReach : Bool
  dev     : BitVec 12
  /-- Ports up, and consecutive failures of each: the first is of the flit, the others of its replays (R284). -/
  ports   : BitVec 16
  failedReplays : List Nat
  /-- Paths that TRAIN found: peer, local port and length (R285). -/
  paths   : List (Nat × Nat × Nat)
  /-- Reachable peers and the local port of each (R285). -/
  routes  : List (Nat × Nat)
  /-- The firmware image in the boot processor's RAM (R264). -/
  image   : List Byte
  imageHash : BitVec 256
  recordHash : BitVec 256
  /-- Placement class of each die, and the quads self-test failed (R266). -/
  classes : List Nat
  failedQuads : List (BitVec 68)
  mem     : Memory
  hostMem : Memory
  spMem   : Memory
  tbMem   : Memory
  planeMem : Memory
  /-- Latched formats: plane 2·quad + p and its format (R192). -/
  latched : List (Nat × FmtCode)
  /-- Check values that sectors (pa / 64) carry where they are not the CRC of the stored bytes, and poisoned sectors
(R233, R234). -/
  checks  : List (Nat × Nat)
  poison  : List Nat
  /-- 4 KiB pages in host bias (R260). -/
  hostBias : List Nat
  /-- A bias command that waits for its pages (R261). -/
  biasCmd : Option DWord
  hostLines : List (Nat × HostLine)
  /-- Lines the home has snooped and whose answer is awaited; true: BISnpInv. -/
  snoops  : List (Nat × Bool)
  /-- Host lines held by die-0 slices (R255), and fills awaited. -/
  cxlLines : List (Nat × L1)
  /-- L1 states by core and sector key; 1024 + d is the proxy slice of die d, which acts as one L1 (R219). -/
  l1      : List (Nat × Nat × L1)
  /-- The homes' directories: cores of the home's die, and proxies (R216). -/
  dir     : List DirEntry
  /-- The proxies' directories, by die: cores of that die (R219). -/
  proxyDir : List (Nat × DirEntry)
  fills   : List FillEntry
  gated   : List Nat
  records : List RegionRec
  /-- Last toucher of a sector: launch, sector key, block (R230). -/
  touched : List (Nat × Nat × Nat)
  /-- Dies whose detector table stayed full and has not drained below half (R231). -/
  detectorFull : List Nat
  /-- The quads' TLBs, and the cores' L1 TLBs (R224). -/
  tlb     : List TlbEntry
  l1tlb   : List (Nat × TlbEntry)
  /-- Context-table entries as the walks read them, until an invalidation of the ASID completes (R269). -/
  ctxSeen : List (Nat × List Byte)
  /-- Accesses that a running invalidation waits for (R224). -/
  tlbBusy : List Nat
  /-- The running invalidations: ASID, first address and bytes (R224, R258). -/
  tlbInv  : List (Nat × Nat × Nat)
  faults  : List FaultRec
  /-- Fault records opened since bring-up, by die (R225). -/
  faultCount : List Nat
  errors  : List ErrRec
  msix    : List Nat
  /-- Fault records of parked fibres sent to the host (R162). -/
  hostFaults : List (List Byte)
  bindings : List Binding
  plazas  : List Plaza
  wsLines : List WsLine
  awayPlazas : List AwayPlaza
  /-- Fabric clock in nanoseconds (R293). -/
  fabricClock : Nat
  graphs  : List Graph
  /-- GRAPHREG writes that wait for the host's copies of their objects (R260, R275). -/
  graphRegs : List DWord
  replays : List Replay
  /-- Kicks waiting for a running replay: graph and patch (R276). -/
  kicks   : List DWord
  /-- Kicks that have ended without a replay, whose completion record is still to be written: the graph object and the code
  (R275, R276). -/
  kickEnds : List (Nat × Nat)
  launches : List Launch
  blocks  : List Block
  xcache  : List XBody
  mx      : List MxEntry
  heldArrivals : List HeldArrival
  /-- Set objects with a saturation recorded for their next phase (R66). -/
  satNext : List Loc
  /-- Waits of peers' fibres for a phase of an object of this device (R148, R287). -/
  peerWaits : List (PeerFibre × Loc × Word)
  copies  : List Copy
  accs    : List Access
  roundabout : List RaEntry
  windows : List Window
  batches : List Batch
  fibres  : List Fibre
  nextId  : Nat
  /-- Free values taken so far (the model's own: DESIGN CHOICE, log 3). -/
  freeCount : Nat
  /-- Bytes answered to the host and to peers, oldest first (R260, R287). -/
  replies : List (List Byte)
  /-- The turns to come (the model's own: DESIGN CHOICE, log 1). -/
  agenda  : List Turn
  /-- The fibre whose instruction executes (the model's own: DESIGN CHOICE, log 1). -/
  cur     : Nat
  /-- A fibre that has stayed ready for 65,536 cycles: it issues next, whatever its level (R95). -/
  starved : Option Nat
  /-- Member sets of plazas whose coordinator is a peer, with the handle (R295). -/
  away    : List (Loc × DWord)
  deriving DecidableEq, Repr

/-- The machine right after reset (R258, R264): the boot ROM awaits an image, no launch is placed, every table is
empty. Values the manual does not state are named in the logs 1, 2, 3 and 11 to 15. -/
def State.reset : State where
  bar := Regs.reset
  shortReach := false
  dev := 0
  ports := 0
  failedReplays := List.replicate 16 0
  paths := []
  routes := []
  image := []
  imageHash := 0
  recordHash := 0
  classes := [0, 0, 0, 0]
  failedQuads := [0, 0, 0, 0]
  mem := []
  hostMem := []
  spMem := []
  tbMem := []
  planeMem := []
  latched := []
  checks := []
  poison := []
  hostBias := []
  biasCmd := none
  hostLines := []
  snoops := []
  cxlLines := []
  l1 := []
  dir := []
  proxyDir := []
  fills := []
  gated := []
  records := []
  touched := []
  detectorFull := []
  tlb := []
  l1tlb := []
  ctxSeen := []
  tlbBusy := []
  tlbInv := []
  faults := []
  faultCount := [0, 0, 0, 0]
  errors := []
  msix := []
  hostFaults := []
  bindings := []
  plazas := []
  wsLines := []
  awayPlazas := []
  fabricClock := 0
  graphs := []
  graphRegs := []
  replays := []
  kicks := []
  kickEnds := []
  launches := []
  blocks := []
  xcache := []
  mx := []
  heldArrivals := []
  satNext := []
  peerWaits := []
  copies := []
  accs := []
  roundabout := []
  windows := []
  batches := []
  fibres := []
  nextId := 1
  freeCount := 0
  replies := []
  agenda := []
  cur := 0
  starved := none
  away := []

end Sys2Proof.Machine
end

