-- ==== Sys2Proof/Machine/Float.lean ====
section
/-! DEFINITION. Exact float arithmetic and the helpers of 03 R64, R65, R68 and R76: every operand is an exact dyadic
value, computed with integers, and rounded once. -/

namespace Sys2Proof.Machine

/-- A value: NaN, an infinity, or ±m·2^e (m = 0 is a signed zero). -/
inductive FVal where
  | nan
  | inf (neg : Bool)
  | fin (neg : Bool) (m : Nat) (e : Int)
  deriving DecidableEq, Repr

/-- Special codes of a format: IEEE infinities and NaNs, the e4m3 NaN, or none. -/
inductive Specials where
  | ieee | e4m3 | none
  deriving DecidableEq, Repr

/-- A binary format: mantissa bits, exponent bits, exponent of the last place of a subnormal. -/
structure Fmt where
  mb : Nat
  eb : Nat
  qmin : Int
  sp : Specials
  deriving DecidableEq, Repr

def fF16 : Fmt := ⟨10, 5, -24, .ieee⟩
def fBF16 : Fmt := ⟨7, 8, -133, .ieee⟩
def fF32 : Fmt := ⟨23, 8, -149, .ieee⟩
def fF64 : Fmt := ⟨52, 11, -1074, .ieee⟩
def fE4M3 : Fmt := ⟨3, 4, -9, .e4m3⟩
def fE5M2 : Fmt := ⟨2, 5, -16, .ieee⟩
def fE3M2 : Fmt := ⟨2, 3, -4, .none⟩
def fE2M3 : Fmt := ⟨3, 2, -3, .none⟩
def fE2M1 : Fmt := ⟨1, 2, -1, .none⟩

/-- Rounding direction: the RM field of the mode word (R58). -/
inductive RM where
  | ne | tz | up | dn
  deriving DecidableEq, Repr

def RM.ofBits (b : Nat) : RM :=
  match b % 4 with
  | 0 => .ne
  | 1 => .tz
  | 2 => .up
  | _ => .dn

/-- Magnitude bits of a code. -/
def Fmt.width (f : Fmt) : Nat := f.mb + f.eb
/-- Largest finite code magnitude. -/
def Fmt.maxFin (f : Fmt) : Nat :=
  match f.sp with
  | .ieee => (2 ^ f.eb - 1) * 2 ^ f.mb - 1
  | .e4m3 => 2 ^ f.width - 2
  | .none => 2 ^ f.width - 1
/-- Code magnitude of infinity, for IEEE formats. -/
def Fmt.infMag (f : Fmt) : Nat := (2 ^ f.eb - 1) * 2 ^ f.mb
def Fmt.signBit (f : Fmt) (neg : Bool) : Nat := if neg then 2 ^ f.width else 0

/-- The canonical NaN of a format (R64, R65). -/
def Fmt.canon (f : Fmt) : Nat :=
  match f.sp with
  | .ieee => f.infMag + 2 ^ (f.mb - 1)
  | .e4m3 => 2 ^ f.width - 1
  | .none => 0

/-- The value of a code. -/
def Fmt.val (f : Fmt) (code : Nat) : FVal :=
  let neg := code / 2 ^ f.width % 2 == 1
  let mag := code % 2 ^ f.width
  let ex := mag / 2 ^ f.mb
  let man := mag % 2 ^ f.mb
  if f.sp = .ieee ∧ ex = 2 ^ f.eb - 1 then (if man = 0 then .inf neg else .nan)
  else if f.sp = .e4m3 ∧ mag = 2 ^ f.width - 1 then .nan
  else if ex = 0 then .fin neg man f.qmin
  else .fin neg (2 ^ f.mb + man) (f.qmin + (ex - 1 : Nat))

/-- A subnormal code (not zero). -/
def Fmt.isSub (f : Fmt) (code : Nat) : Bool :=
  let mag := code % 2 ^ f.width
  decide (mag ≠ 0) && decide (mag < 2 ^ f.mb)

/-- InF (R68): a subnormal reads as a zero of its sign when the flush bit is set. -/
def Fmt.inF (f : Fmt) (flush : Bool) (code : Nat) : Nat :=
  if flush && f.isSub code then code / 2 ^ f.width * 2 ^ f.width else code

/-- m / 2^d rounded to an integer in direction rm, for a value of the given sign. -/
def roundShift (rm : RM) (neg : Bool) (m d : Nat) : Nat :=
  let q := m / 2 ^ d
  let r := m % 2 ^ d
  let up := match rm with
    | .ne => decide (2 * r > 2 ^ d) || (decide (2 * r = 2 ^ d) && q % 2 == 1)
    | .tz => false
    | .up => !neg && decide (r ≠ 0)
    | .dn => neg && decide (r ≠ 0)
  if up then q + 1 else q

/-- RoundGrid (R68): the code magnitude of a nonzero ±m·2^e on the grid of f with its exponent unbounded above. -/
def Fmt.grid (f : Fmt) (rm : RM) (neg : Bool) (m : Nat) (e : Int) : Nat :=
  let top : Int := e + Nat.log2 m - f.mb
  let q : Int := if top < f.qmin then f.qmin else top
  let man := if q ≤ e then m * 2 ^ (e - q).toNat else roundShift rm neg m (q - e).toNat
  (q - f.qmin).toNat * 2 ^ f.mb + man

/-- |m·2^e| below the smallest normal of f. -/
def Fmt.tiny (f : Fmt) (m : Nat) (e : Int) : Bool := decide (e + Nat.log2 m < f.qmin + f.mb)

/-- Round (R68): the code, and whether OVF is raised. -/
def Fmt.round (f : Fmt) (rm : RM) (flush satf : Bool) : FVal → Nat × Bool
  | .nan => (f.canon, false)
  | .inf neg => (f.signBit neg + f.infMag, false)
  | .fin neg m e =>
    if m = 0 then (f.signBit neg, false)
    else if flush && f.tiny m e then (f.signBit neg, false)
    else
      let y := f.grid rm neg m e
      if f.maxFin < y then
        if satf then (f.signBit neg + f.maxFin, true)
        else
          let toMax := match rm with
            | .ne => false
            | .tz => true
            | .up => neg
            | .dn => !neg
          (f.signBit neg + (if toMax then f.maxFin else f.infMag), false)
      else (f.signBit neg + y, false)

/-- Sat into a narrow float (R65, R68): the code, and whether CONV is raised. -/
def Fmt.sat (f : Fmt) (rm : RM) : FVal → Nat × Bool
  | .nan => (f.canon, f.sp == .none)
  | .inf neg => if f.sp = .ieee then (f.signBit neg + f.infMag, false) else (f.signBit neg + f.maxFin, true)
  | .fin neg m e =>
    if m = 0 then (f.signBit neg, false)
    else
      let y := f.grid rm neg m e
      if f.maxFin < y then (f.signBit neg + f.maxFin, true) else (f.signBit neg + y, false)

/-- A finite value rounded to an integer (R68). -/
def roundInt (rm : RM) (neg : Bool) (m : Nat) (e : Int) : Int :=
  let a : Nat := if 0 ≤ e then m * 2 ^ e.toNat else roundShift rm neg m (-e).toNat
  if neg then -(a : Int) else a

/-- Sat into an integer format with limits lo and hi (R65, R68). -/
def satInt (rm : RM) (lo hi : Int) : FVal → Int × Bool
  | .nan => (0, true)
  | .inf neg => (if neg then lo else hi, true)
  | .fin neg m e =>
    let y := roundInt rm neg m e
    if hi < y then (hi, true) else if y < lo then (lo, true) else (y, false)

/-- The value of an integer. -/
def FVal.ofInt (x : Int) : FVal := .fin (decide (x < 0)) x.natAbs 0

def FVal.neg : FVal → FVal
  | .nan => .nan
  | .inf n => .inf (!n)
  | .fin n m e => .fin (!n) m e

def FVal.isNan : FVal → Bool
  | .nan => true
  | .inf _ => false
  | .fin _ _ _ => false

/-- Signed mantissa at exponent e0 ≤ e. -/
def scaled (neg : Bool) (m : Nat) (e e0 : Int) : Int :=
  let a : Int := m * 2 ^ (e - e0).toNat
  if neg then -a else a

/-- The exact sum; a zero sum has the IEEE sign for the direction (R64). -/
def FVal.add (rm : RM) : FVal → FVal → FVal
  | .nan, _ => .nan
  | _, .nan => .nan
  | .inf a, .inf b => if a = b then .inf a else .nan
  | .inf a, .fin _ _ _ => .inf a
  | .fin _ _ _, .inf b => .inf b
  | .fin n m e, .fin n' m' e' =>
    let e0 := if e ≤ e' then e else e'
    let s := scaled n m e e0 + scaled n' m' e' e0
    if s = 0 then
      if m = 0 ∧ m' = 0 ∧ n = n' then .fin n 0 0 else .fin (rm == .dn) 0 0
    else .fin (decide (s < 0)) s.natAbs e0

/-- The exact product. -/
def FVal.mul : FVal → FVal → FVal
  | .nan, _ => .nan
  | _, .nan => .nan
  | .inf a, .inf b => .inf (a != b)
  | .inf a, .fin n m _ => if m = 0 then .nan else .inf (a != n)
  | .fin n m _, .inf b => if m = 0 then .nan else .inf (n != b)
  | .fin n m e, .fin n' m' e' => .fin (n != n') (m * m') (e + e')

/-- Position of a non-NaN code in the order of R76, in which −0 < +0. -/
def Fmt.rank (f : Fmt) (code : Nat) : Int :=
  let mag := code % 2 ^ f.width
  if code / 2 ^ f.width % 2 = 1 then -(mag : Int) - 1 else mag

/-- Min of R76 on codes already read by InF. -/
def Fmt.min (f : Fmt) (x y : Nat) : Nat :=
  if (f.val x).isNan || (f.val y).isNan then f.canon else if f.rank x ≤ f.rank y then x else y
/-- Max of R76. -/
def Fmt.max (f : Fmt) (x y : Nat) : Nat :=
  if (f.val x).isNan || (f.val y).isNan then f.canon else if f.rank x ≤ f.rank y then y else x

/-- Comparison of two values (R82): none when either is NaN; −0 = +0. -/
def FVal.cmp : FVal → FVal → Option Ordering
  | .nan, _ => none
  | _, .nan => none
  | .inf a, .inf b => some (if a = b then .eq else if a then .lt else .gt)
  | .inf a, .fin _ _ _ => some (if a then .lt else .gt)
  | .fin _ _ _, .inf b => some (if b then .gt else .lt)
  | .fin n m e, .fin n' m' e' =>
    let e0 := if e ≤ e' then e else e'
    some (compare (scaled n m e e0) (scaled n' m' e' e0))

/-! Special functions (R81): a value is computed as a fixed-point number with 640 fractional bits, far beyond what any
f32 argument needs to be rounded correctly (UNVERIFIED, log 31); an inexact result carries a sticky last bit. -/

/-- Fractional bits of the fixed-point values. -/
def fxP : Nat := 640
/-- ⌊π·2^640⌋. -/
def fxPi : Nat := 0x3243f6a8885a308d313198a2e03707344a4093822299f31d0082efa98ec4e6c89452821e638d01377be5466cf34e90c6cc0ac29b7c97c50dd3f84d5b5b54709179216d5d98979fb1bd1310ba698dfb5ac
/-- ⌊ln 2·2^640⌋. -/
def fxLn2 : Nat := 0xb17217f7d1cf79abc9e3b39803f2f6af40f343267298b62d8a0d175b8baafa2be7b876206debac98559552fb4afa1b10ed2eae35c138214427573b291169b8253e96ca16224ae8c51acbda11317c387e
def fxOne : Nat := 2 ^ fxP

/-- An inexact positive fixed-point value: a sticky bit below its last place. -/
def fxVal (neg : Bool) (x : Nat) : FVal := .fin neg (2 * x + 1) (-(fxP : Int) - 1)

/-- Σ tᵢ with tᵢ₊₁ = tᵢ·x / (c i), in fixed point. -/
def fxSeries (x : Nat) (c : Nat → Nat) : Nat → Nat → Nat → Nat
  | 0, _, _ => 0
  | fuel + 1, i, t => t + fxSeries x c fuel (i + 1) (t * x / fxOne / c i)

/-- e^x for 0 ≤ x < 1. -/
def fxExp (x : Nat) : Nat := fxSeries x (fun i => i + 1) 160 0 fxOne

/-- Alternating series: Σ (−1)^i tᵢ. -/
def fxAlt (x2 : Nat) (c : Nat → Nat) : Nat → Nat → Nat → Nat
  | 0, _, _ => 0
  | fuel + 1, i, t => t - fxAlt x2 c fuel (i + 1) (t * x2 / fxOne / c i)

/-- sin x and cos x for 0 ≤ x ≤ π/2. -/
def fxSin (x : Nat) : Nat := fxAlt (x * x / fxOne) (fun i => (2 * i + 2) * (2 * i + 3)) 90 0 x
def fxCos (x : Nat) : Nat := fxAlt (x * x / fxOne) (fun i => (2 * i + 1) * (2 * i + 2)) 90 0 fxOne

/-- 2·artanh t for 0 ≤ t ≤ 1/3. -/
def fxAtanh2 (t2 : Nat) : Nat → Nat → Nat → Nat
  | 0, _, _ => 0
  | fuel + 1, i, t => 2 * t / (2 * i + 1) + fxAtanh2 t2 fuel (i + 1) (t * t2 / fxOne)

/-- m·2^e as fixed point, rounded down. -/
def fxOf (m : Nat) (e : Int) : Nat :=
  let k : Int := e + fxP
  if 0 ≤ k then m * 2 ^ k.toNat else m / 2 ^ (-k).toNat

/-- Integer square root by bits, from bit `k` down. -/
def isqrtBits (n : Nat) : Nat → Nat → Nat
  | 0, r => r
  | k + 1, r => let t := r + 2 ^ k; isqrtBits n k (if t * t ≤ n then t else r)

/-- 1/x for a finite nonzero x. -/
def sfuRcp (neg : Bool) (m : Nat) (e : Int) : FVal :=
  let q := 2 ^ 256 / m
  if 2 ^ 256 % m = 0 then .fin neg q (-256 - e) else .fin neg (2 * q + 1) (-257 - e)

/-- 1/√x for a finite positive x. -/
def sfuRsqrt (m : Nat) (e : Int) : FVal :=
  let odd := e % 2 = 1
  let m' := if odd then 2 * m else m
  let e' := if odd then e - 1 else e
  let n := 2 ^ 512 / m'
  let r := isqrtBits n 257 0
  if r * r * m' = 2 ^ 512 then .fin false r (-256 - e' / 2) else .fin false (2 * r + 1) (-257 - e' / 2)

/-- 2^x for a finite nonzero x. -/
def sfuExp2 (neg : Bool) (m : Nat) (e : Int) : FVal :=
  if e + Nat.log2 m ≥ 8 then (if neg then .fin false 1 (-300) else .fin false 1 300)
  else
    let x := fxOf m e
    let n := x / fxOne
    let fr := x % fxOne
    if fr = 0 then .fin false 1 (if neg then -(n : Int) else n)
    else
      let k : Int := if neg then -(n : Int) - 1 else n
      let fr := if neg then fxOne - fr else fr
      .fin false (2 * fxExp (fr * fxLn2 / fxOne) + 1) (k - fxP - 1)

/-- log2 x for a finite positive x other than 1. -/
def sfuLog2 (m : Nat) (e : Int) : FVal :=
  let bl := Nat.log2 m
  let k : Int := e + bl
  if m = 2 ^ bl then FVal.ofInt k
  else
    let y := m * 2 ^ (fxP - bl)
    let t := (y - fxOne) * fxOne / (y + fxOne)
    let l := fxAtanh2 (t * t / fxOne) 210 0 t * fxOne / fxLn2
    let s : Int := k * fxOne + l
    fxVal (decide (s < 0)) (if s < 0 then s.natAbs - 1 else s.natAbs)

/-- sin or cos of a finite nonzero x. -/
def sfuTrig (cos neg : Bool) (m : Nat) (e : Int) : FVal :=
  let x := fxOf m e
  let q := 2 * x / fxPi
  let r := (2 * x - q * fxPi) / 2
  let k := (q + (if cos then 1 else 0)) % 4
  let v := if k % 2 = 0 then fxSin r else fxCos r
  fxVal ((decide (k ≥ 2)) != (neg && !cos)) v

end Sys2Proof.Machine
end

