-- ==== Sys2Proof/Machine/Mem.lean ====
section
/-! DEFINITION. Memory and translation: bytes in canonical form, homes (R68, R255), poison (R234), signpost widening
(R240), page tables and TLBs (R222 to R224), fault records (R225) and error records (R235). -/

namespace Sys2Proof.Machine

open Sys2Proof.Dec (leNat leBytes fld)

/-! Plain memory. -/

def memGet : Memory → Nat → Byte
  | [], _ => unlisted
  | (a, b) :: m, x => if x < a then unlisted else if x = a then b else memGet m x

def memSet : Memory → Nat → Byte → Memory
  | [], x, v => if v = unlisted then [] else [(x, v)]
  | (a, b) :: m, x, v =>
    if x < a then (if v = unlisted then (a, b) :: m else (x, v) :: (a, b) :: m)
    else if x = a then (if v = unlisted then m else (x, v) :: m)
    else (a, b) :: memSet m x v

def memBytes (m : Memory) (a : Nat) : Nat → List Byte
  | 0 => []
  | n + 1 => memGet m a :: memBytes m (a + 1) n

def memWrite (m : Memory) (a : Nat) : List Byte → Memory
  | [] => m
  | b :: bs => memWrite (memSet m a b) (a + 1) bs

/-- Memory without the bytes of [lo, hi). -/
def memDrop (m : Memory) (lo hi : Nat) : Memory := m.filter fun c => decide (c.1 < lo) || decide (hi ≤ c.1)

/-- The bytes of [lo, hi), renumbered from 0. -/
def memPart (m : Memory) (lo hi : Nat) : Memory :=
  (m.filter fun c => decide (lo ≤ c.1) && decide (c.1 < hi)).map fun c => (c.1 - lo, c.2)

/-! Locations. -/

def Loc.add : Loc → Nat → Loc
  | .dram p, n => .dram (p + n)
  | .host p, n => .host (p + n)
  | .peer d p, n => .peer d (p + n)
  | .sp k, n => .sp (k + n)
  | .cb k, n => .cb (k + n)

/-- The device of a peer's location. -/
def Loc.peerDev : Loc → Option Nat
  | .peer d _ => some d
  | .dram _ | .host _ | .sp _ | .cb _ => none
def Loc.isPeer (l : Loc) : Bool := l.peerDev.isSome
/-- A path leads to the device (R285). -/
def State.reaches (s : State) (d : Nat) : Bool := s.routes.any fun r => r.1 == d
/-- A location on a peer that no path reaches. -/
def State.unreachable (s : State) (l : Loc) : Bool := match l.peerDev with
  | some d => !s.reaches d
  | none => false

/-- Key of a scratchpad byte. -/
def spKey (core alloc off : Nat) : Nat := (core * 2 ^ 16 + alloc) * 2 ^ 18 + off
/-- Key of a typed-buffer byte. -/
def cbKey (quad buf off : Nat) : Nat := (quad * 3 + buf) * 2 ^ 19 + off

/-- The bytes at a location. A peer's memory is no state of this machine: its replies carry the bytes (R287). -/
def State.bytes (s : State) : Loc → Nat → List Byte
  | .dram p, n => memBytes s.mem p n
  | .host p, n => memBytes s.hostMem p n
  | .peer _ _, n => List.replicate n unlisted
  | .sp k, n => memBytes s.spMem k n
  | .cb k, n => memBytes s.tbMem k n

/-- The bytes at a location replaced, with no other effect. -/
def State.setBytes (s : State) (l : Loc) (bs : List Byte) : State :=
  match l with
  | .dram p => { s with mem := memWrite s.mem p bs }
  | .host p => { s with hostMem := memWrite s.hostMem p bs }
  | .peer _ _ => s
  | .sp k => { s with spMem := memWrite s.spMem k bs }
  | .cb k => { s with tbMem := memWrite s.tbMem k bs }

def State.nat (s : State) (l : Loc) (n : Nat) : Nat := leNat (s.bytes l n)
/-- A little-endian field of device DRAM. -/
def State.rd (s : State) (pa n : Nat) : Nat := leNat (memBytes s.mem pa n)

/-! Homes (R68, R255). -/

def homeDie (pa : Nat) : Nat := pa / Config.dieStride % 4
def homeSlice (pa : Nat) : Nat :=
  let l := pa / 256
  fld l 0 6 ^^^ fld l 6 6 ^^^ fld l 12 6 ^^^ fld l 18 6 ^^^ fld l 24 6 ^^^ fld l 30 6
/-- [pa, pa + n) lies in program-visible DRAM (R255). -/
def inDram (pa n : Nat) : Bool :=
  decide (pa < 2 ^ 39) && decide (pa % Config.dieStride + n ≤ Config.dieDram)

def coreDie (x : Nat) : Nat := x / Config.coresPerDie
def coreQuad (x : Nat) : Nat := x / 4
def quadDie (q : Nat) : Nat := q / Config.quadsPerDie

/-! Poison and signposts. -/

/-- The sectors that the write of n bytes at pa touches, and those it replaces whole. -/
def sectorsOf (pa n : Nat) : List Nat :=
  (List.range ((pa + n + 63) / 64 - pa / 64)).map (· + pa / 64)
def wholeSectors (pa n : Nat) : List Nat :=
  (sectorsOf pa n).filter fun k => decide (pa ≤ 64 * k) && decide (64 * k + 64 ≤ pa + n)

/-- CRC-16 of a sector (R233): polynomial 0x1021, initial value 0xFFFF. -/
def crcBit (crc : Nat) : Nat := if crc / 32768 % 2 = 1 then (crc * 2 % 65536) ^^^ 0x1021 else crc * 2 % 65536
def crc16 (bs : List Byte) : Nat :=
  bs.foldl (fun c b =>
    let c := c ^^^ (b.toNat * 256)
    crcBit (crcBit (crcBit (crcBit (crcBit (crcBit (crcBit (crcBit c)))))))) 0xFFFF

/-- The sector carries a check value that does not match its bytes (R233). -/
def State.mismatch (s : State) (k : Nat) : Bool :=
  match s.checks.find? fun c => c.1 == k with
  | some c => c.2 != crc16 (memBytes s.mem (64 * k) 64)
  | none => false

/-- Sectors by key: device DRAM by address / 64, host memory above them (R255). -/
def hostSector : Nat := 2 ^ 46
def Loc.sectors (l : Loc) (n : Nat) : List Nat :=
  match l with
  | .dram pa => sectorsOf pa n
  | .host pa => (sectorsOf pa n).map (hostSector + ·)
  | .peer _ _ | .sp _ | .cb _ => []
def sectorLoc (k : Nat) : Loc := if k < hostSector then .dram (64 * k) else .host (64 * (k - hostSector))
/-- The die that homes a sector (R68, R255). -/
def sectorDie (k : Nat) : Nat := if k < hostSector then homeDie (64 * k) else 0

def dCount (dcode : Nat) : Nat := 64 * 2 ^ dcode

/-- The bf16 code of a key element (both key formats are exact in bf16). -/
def keyCode (kfmt : Bool) (code : Nat) : Nat :=
  if kfmt then (fBF16.round .ne false false (fE4M3.val code)).1 else code

/-! Error records (R235). -/

def errBytes (kind agent die addr seq : Nat) : List Byte :=
  leBytes 1 kind ++ leBytes 1 agent ++ leBytes 1 die ++ leBytes 5 0 ++ leBytes 8 addr ++ leBytes 8 0 ++ leBytes 8 seq

/-- Make an error record: error queue, ring in host memory, message (R235, R259). -/
def makeError (s : State) (kind agent die addr : Nat) : State :=
  let seq := s.bar.errseq.getD die 0 + 1
  let s := { s with
    errors := s.errors ++ [⟨kind, agent, die, addr, seq⟩]
    bar := { s.bar with errseq := s.bar.errseq.set die seq } }
  if s.bar.errq = 0 then s
  else
    let s := if seq - s.bar.errhead.getD die 0 ≤ 256 then
        s.setBytes (.host (s.bar.errq.toNat + 8192 * die + 32 * ((seq - 1) % 256))) (errBytes kind agent die addr seq)
      else s
    { s with msix := s.msix ++ [4 + die] }

/-- Check the sectors of a read (R233, R234): a mismatch poisons its sector and makes an error record. The list of
poisoned sectors read comes with the state. -/
def checkRead (s : State) (l : Loc) (n agent : Nat) : State × List Nat :=
  match l with
  | .dram pa =>
    let s := (sectorsOf pa n).foldl (fun s k =>
      if s.mismatch k && !s.poison.contains k then
        makeError { s with poison := k :: s.poison } 0x01 agent (homeDie (64 * k)) (64 * k)
      else s) s
    (s, (sectorsOf pa n).filter fun k => s.poison.contains k)
  | _ => (s, [])

/-! Translation (R222 to R224). -/

/-- The outcome of a translation. -/
inductive Xlat where
  | ok (loc : Loc) (e : TlbEntry)
  | prot
  | fault (reason level eaddr : Nat)
  /-- The page is flipping its bias (R261). -/
  | flip
  /-- The walker waits for the host's copy of a table entry (R260). -/
  | busy
  deriving DecidableEq, Repr

/-- Context-table fields of an ASID (R269). -/
def State.ctxAt (s : State) (asid : Nat) : Nat := s.bar.ctxbase.toNat + 64 * asid
/-- The entry: as an earlier walk read it, until an invalidation of the ASID has completed; else as memory holds it. -/
def State.ctxEntry (s : State) (asid : Nat) : List Byte :=
  match s.ctxSeen.find? fun c => c.1 == asid with
  | some c => c.2
  | none => memBytes s.mem (s.ctxAt asid) 64
def State.ctxField (s : State) (asid off n : Nat) : Nat := leNat ((s.ctxEntry asid).drop off |>.take n)
def State.ctxRoot (s : State) (asid : Nat) : Nat := s.ctxField asid 0 8
def State.ctxStab (s : State) (asid : Nat) : Nat := s.ctxField asid 8 8
def State.ctxNsum (s : State) (asid : Nat) : Nat := s.ctxField asid 16 4
def State.ctxXcache (s : State) (asid : Nat) : Nat := s.ctxField asid 24 8
def State.ctxXsize (s : State) (asid : Nat) : Nat := s.ctxField asid 32 8
/-- A reserved field of the entry is not zero: the device rejects it (R6). -/
def State.ctxBad (s : State) (asid : Nat) : Bool :=
  s.ctxField asid 20 4 ≠ 0 || s.ctxField asid 40 8 ≠ 0 || s.ctxField asid 48 8 ≠ 0 || s.ctxField asid 56 8 ≠ 0 ||
  fld (s.ctxRoot asid) 1 11 ≠ 0 || fld (s.ctxRoot asid) 52 12 ≠ 0
/-- A walk that reads the entry now meets poison or a check value that does not match (R234). -/
def State.ctxPoisoned (s : State) (asid : Nat) : Bool :=
  !(s.ctxSeen.any fun c => c.1 == asid) && (s.poison.contains (s.ctxAt asid / 64) || s.mismatch (s.ctxAt asid / 64))
/-- A walk has read the entry. -/
def State.ctxSee (s : State) (asid : Nat) : State :=
  if (s.ctxSeen.any fun c => c.1 == asid) || s.ctxPoisoned asid then s
  else { s with ctxSeen := (asid, memBytes s.mem (s.ctxAt asid) 64) :: s.ctxSeen }

/-- Bytes that a leaf of a level maps (R222). -/
def leafSize (level : Nat) (contig : Bool) : Nat :=
  match level with
  | 2 => 2 ^ 30
  | 1 => 2 ^ 21
  | _ => if contig then 65536 else 4096

/-- Physical frame address of an entry: bits 51:12. -/
def pteFrame (e : Nat) : Nat := fld e 12 40 * 4096

/-- The 16 entries of a 64 KiB page (R223). -/
def contigOk (s : State) (table idx : Nat) : Bool :=
  let b := idx / 16 * 16
  let e0 := s.rd (table + 8 * b) 8
  decide (pteFrame e0 % 65536 = 0) &&
    (List.range 16).all fun i => s.rd (table + 8 * (b + i)) 8 == e0 + 4096 * i

/-- A sector of the 16 entries of a 64 KiB page is poisoned, or its check value does not match (R234). -/
def contigPoisoned (s : State) (table idx : Nat) : Bool :=
  [0, 64].any fun d =>
    let k := (table + 8 * (idx / 16 * 16) + d) / 64
    s.poison.contains k || s.mismatch k

/-- An entry breaks a rule of R223, R236, R255 or R286. -/
def malformed (s : State) (level table idx e : Nat) : Bool :=
  let leaf := fld e 1 1 = 1
  let tgt := fld e 8 2
  let summ := fld e 6 1 = 1
  let contig := fld e 5 1 = 1
  let frame := pteFrame e
  fld e 63 1 ≠ 0 || fld e 10 2 ≠ 0 || fld e 7 1 ≠ 0 || (fld e 52 11 ≠ 0 && !decide summ) ||
  if leaf then
    decide (level = 3) || decide (level = 4) || tgt == 3 ||
    (level == 1 && fld e 12 9 ≠ 0) || (level == 2 && fld e 12 18 ≠ 0) ||
    (decide contig && (level ≠ 0 || !contigOk s table idx)) ||
    (decide summ && (!decide contig || tgt ≠ 0)) ||
    (tgt == 0 && !inDram frame (if decide contig then 4096 else leafSize level false)) ||
    (tgt == 2 && (fld e 39 1 ≠ 0 || fld e 40 12 == s.dev.toNat))
  else level == 0 || tgt ≠ 0 || decide summ || decide contig

/-- The location that a leaf gives to byte `off` of its page. -/
def leafLoc (e frame off : Nat) : Loc :=
  match fld e 8 2 with
  | 0 => .dram (frame + off)
  | 1 => .host (frame + off)
  | _ => .peer (fld frame 40 12) (frame % 2 ^ 40 + off)

/-- The walk from a table at a level (R222): the entry found, or the fault. -/
def walkFrom (s : State) (quad asid va : Nat) : Nat → Nat → Xlat
  | 0, table => entry s 0 table
  | level + 1, table =>
    let idx := va / 2 ^ (12 + 9 * (level + 1)) % 512
    let ea := table + 8 * idx
    let e := s.rd ea 8
    if !inDram table 4096 || s.poison.contains (ea / 64) || s.mismatch (ea / 64) then .fault 1 (level + 1) ea
    else if e % 2 = 0 then .fault 0 (level + 1) ea
    else if malformed s (level + 1) table idx e then .fault 1 (level + 1) ea
    else if fld e 1 1 = 1 then entry s (level + 1) table
    else walkFrom s quad asid va level (pteFrame e)
where
  /-- The leaf at a level, whose entry lies in `table`. -/
  entry (s : State) (level table : Nat) : Xlat :=
    let idx := va / 2 ^ (12 + 9 * level) % 512
    let ea := table + 8 * idx
    let e := s.rd ea 8
    if !inDram table 4096 || s.poison.contains (ea / 64) || s.mismatch (ea / 64) then .fault 1 level ea
    else if e % 2 = 0 then .fault 0 level ea
    else if malformed s level table idx e then .fault 1 level ea
    else if fld e 5 1 = 1 ∧ contigPoisoned s table idx then .fault 1 level ea
    else
      let contig := fld e 5 1 == 1
      let size := leafSize level contig
      let base := va / size * size
      let loc := leafLoc e (pteFrame e / size * size) 0
      .ok (loc.add (va % size))
        ⟨quad, asid, base, size, loc, fld e 2 1 == 1, fld e 3 1 == 1, fld e 4 1 == 1, fld e 6 1 == 1, fld e 52 11⟩

/-- A whole walk for an ASID (R222, R269); a poisoned context entry faults as a poisoned table entry does (R234), and one that the device rejects stops it as a malformed entry does
(DEDUCED, log 63). -/
def walk (s : State) (quad asid va : Nat) : Xlat :=
  let root := s.ctxRoot asid
  if s.ctxPoisoned asid || s.ctxBad asid then .fault 1 4 (s.ctxAt asid)
  else if root % 2 = 0 then .fault 0 4 (s.ctxAt asid) else walkFrom s quad asid va 4 (pteFrame root)

/-- The table entries that a walk reads, in its order. -/
def walkReads (s : State) (va : Nat) : Nat → Nat → List Nat
  | 0, table =>
    let idx := va / 4096 % 512
    let ea := table + 8 * idx
    if fld (s.rd ea 8) 5 1 = 1 then (List.range 16).map fun i => table + 8 * (idx / 16 * 16 + i) else [ea]
  | level + 1, table =>
    let ea := table + 8 * (va / 2 ^ (12 + 9 * (level + 1)) % 512)
    let e := s.rd ea 8
    if !inDram table 4096 || e % 2 = 0 || fld e 1 1 = 1 then [ea] else ea :: walkReads s va level (pteFrame e)
/-- The addresses that a whole walk reads: the context entry where no walk has read it, then the tables. -/
def State.walkAddrs (s : State) (asid va : Nat) : List Nat :=
  (if s.ctxSeen.any fun c => c.1 == asid then [] else [s.ctxAt asid]) ++
  (if s.ctxBad asid || s.ctxRoot asid % 2 = 0 then [] else walkReads s va 4 (pteFrame (s.ctxRoot asid)))

/-- A permission that an entry gives (R224). -/
def TlbEntry.allows (e : TlbEntry) : AccKind → Bool
  | .read => e.r
  | .write | .atomic => e.w
  | .fetch => e.x

/-- The quad's TLB entry for an address. -/
def State.tlbFind (s : State) (quad asid va : Nat) : Option TlbEntry :=
  s.tlb.find? fun e => e.quad == quad && e.asid == asid && decide (e.base ≤ va) && decide (va < e.base + e.size)

/-- A page of a bias command that is waiting (R261). -/
def State.flipping (s : State) : Loc → Bool
  | .dram pa =>
    match s.biasCmd with
    | some w => decide (fld w.toNat 12 40 ≤ pa / 4096) && decide (pa / 4096 ≤ fld w.toNat 12 40 + w.toNat % 4096)
    | none => false
  | _ => false

/-- The entry of a core's L1 TLB for an address. -/
def State.l1Find (s : State) (core asid va : Nat) : Option TlbEntry :=
  (s.l1tlb.find? fun p => p.1 == core && p.2.asid == asid && decide (p.2.base ≤ va) && decide (va < p.2.base + p.2.size)).map (·.2)

/-- What the entry found answers: permission, then a flip of the page. -/
def State.permit (s : State) (k : AccKind) : Xlat → Xlat
  | .ok l e => if !e.allows k then .prot else if s.flipping l then .flip else .ok l e
  | .prot => .prot
  | .fault a b c => .fault a b c
  | .flip => .flip
  | .busy => .busy

/-- Translation of an access (R224) as the TLBs and the tables stand: TLB, else a walk; then permission. -/
def State.translate (s : State) (quad asid va : Nat) (k : AccKind) : Xlat :=
  s.permit k (match s.tlbFind quad asid va with
    | some e => .ok (e.loc.add (va - e.base)) e
    | none => walk s quad asid va)

/-- A running invalidation names a page of the entry: no TLB keeps it (R224). -/
def State.invalidating (s : State) (e : TlbEntry) : Bool :=
  s.tlbInv.any fun v => v.1 == e.asid && decide (v.2.1 < e.base + e.size) && decide (e.base < v.2.1 + v.2.2)
/-- The TLB after a translation: only successful walks are kept, and the oldest entry makes room (R187, R224). The boot
processor, which is of no quad, keeps none. -/
def State.tlbFill (s : State) (e : TlbEntry) : State :=
  if 256 ≤ e.quad || s.tlb.contains e || s.invalidating e then s
  else
    let mine := (e :: s.tlb.filter fun x => x.quad == e.quad).take Config.tlbEntries
    { s with tlb := mine ++ s.tlb.filter fun x => x.quad != e.quad }
/-- The same for a core's L1 TLB. -/
def State.l1Fill (s : State) (core : Nat) (e : TlbEntry) : State :=
  if s.l1tlb.contains (core, e) || s.invalidating e then s
  else
    let mine := ((core, e) :: s.l1tlb.filter fun x => x.1 == core).take Config.l1TlbEntries
    { s with l1tlb := mine ++ s.l1tlb.filter fun x => x.1 != core }

/-! Fault records (R225). -/

def accBit : AccKind → Nat
  | .read => 1
  | .write => 2
  | .atomic => 4
  | .fetch => 8

def FaultRec.bytes (f : FaultRec) : List Byte :=
  leBytes 8 f.va ++ leBytes 2 f.index ++ leBytes 1 f.kind ++ leBytes 1 f.reason ++ leBytes 2 f.waiters ++
  leBytes 1 f.asid ++ leBytes 1 f.level ++ leBytes 8 f.eaddr ++ leBytes 8 f.seq

/-- Write a record's entry to the fault queue, if there is one, and raise its vector (R225, R259). -/
def writeFault (s : State) (f : FaultRec) : State :=
  if s.bar.faultq = 0 || f.written then s
  else
    let s := s.setBytes (.host (s.bar.faultq.toNat + 32768 * f.die + 32 * f.index)) f.bytes
    { s with
      faults := s.faults.map fun g => if g.die = f.die ∧ g.index = f.index then { g with written := true } else g
      bar := { s.bar with faultseq := s.bar.faultseq.set f.die f.seq }
      msix := s.msix ++ [f.die] }

/-- The lowest free number: of a die's fault record, the rule names none (DESIGN CHOICE, log 95). -/
def freeIndex (used : List Nat) : Nat → Nat → Option Nat
  | 0, _ => none
  | n + 1, i => if used.contains i then freeIndex used n (i + 1) else some i

/-- Open or join a fault record: the state, and what the access waits for. -/
def openFault (s : State) (die asid va : Nat) (k : AccKind) (agent reason level eaddr : Nat) : State × Hold :=
  match s.faults.find? fun f => f.die == die && f.asid == asid && f.va / 4096 == va / 4096 with
  | some f =>
    ({ s with faults := s.faults.map fun g =>
        if g.die = die ∧ g.index = f.index then { g with waiters := min 0xFFFF (g.waiters + 1) } else g },
      .fault die f.index)
  | none =>
    let mine := s.faults.filter fun f => f.die == die
    match freeIndex (mine.map (·.index)) Config.faultRecords 0 with
    | none => (s, .faultFull die)
    | some i =>
      let seq := s.faultCount.getD die 0 + 1
      let f : FaultRec := ⟨die, i, asid, va, accBit k + 16 * agent, reason, 1, level, eaddr, seq, false⟩
      (writeFault { s with faults := s.faults ++ [f], faultCount := s.faultCount.set die seq } f, .fault die i)

def Hold.wait : Hold → Wait
  | .none => .none
  | .fault d i => .fault d i
  | .faultFull d => .faultFull d

end Sys2Proof.Machine
end

