-- ==== Sys2Proof/Machine/Sector.lean ====
section
/-! DEFINITION. Sector coherence between L1s, proxy slices and homes (R213 to R220), writes at a home with the widening of
signposts (R240), the host's copies of device memory (R260), uncached reads, and translation with its TLBs and its walks (R217, R224). The performed value of a byte stands in
memory: L1 and directory states say who may hold it. -/

namespace Sys2Proof.Machine

open Sys2Proof.Dec (leNat leBytes fld)

/-! L1s and directories. Holders below 1024 are cores; 1024 + d is the proxy slice of die d (R219). -/

def State.l1At (s : State) (x sector : Nat) : L1 :=
  match s.l1.find? fun e => e.1 == x && e.2.1 == sector with
  | some e => e.2.2
  | none => .i
def State.setL1 (s : State) (x sector : Nat) (v : L1) : State :=
  let rest := s.l1.filter fun e => !(e.1 == x && e.2.1 == sector)
  { s with l1 := if v = .i then rest else (x, sector, v) :: rest }

/-- The directory that serves a core for a sector: the home's, or the proxy's of its die. -/
def servedBy (x sector : Nat) : Option Nat := if coreDie x = sectorDie sector then none else some (coreDie x)
def proxyOf (die : Nat) : Nat := 1024 + die

def State.dirAt (s : State) (p : Option Nat) (sector : Nat) : DirEntry :=
  let found : Option DirEntry := match p with
    | none => s.dir.find? fun e => e.sector == sector
    | some d => (s.proxyDir.find? fun e => e.1 == d && e.2.sector == sector).map (·.2)
  found.getD ⟨sector, .i, []⟩
def State.setDir (s : State) (p : Option Nat) (e : DirEntry) : State :=
  match p with
  | none =>
    let rest := s.dir.filter fun d => d.sector != e.sector
    { s with dir := if e.state = .i then rest else e :: rest }
  | some d =>
    let rest := s.proxyDir.filter fun q => !(q.1 == d && q.2.sector == e.sector)
    { s with proxyDir := if e.state = .i then rest else (d, e) :: rest }

/-- Everyone a directory lists for a sector. -/
def DirEntry.holders (e : DirEntry) : List Nat :=
  match e.state with
  | .i | .s => e.sharers
  | .em y | .o y => y :: e.sharers

/-- The fills of a sector in flight to a core are not installed (R218). -/
def State.killFills (s : State) (core sector : Nat) : State :=
  { s with fills := s.fills.map fun f => if f.core = core ∧ f.sector = sector then { f with killed := true } else f }
/-- A probe-invalidate at a core, sleeping or not (R215, R218, R220). -/
def State.invalidateCore (s : State) (sector core : Nat) : State := (s.setL1 core sector .i).killFills core sector
/-- A probe-invalidate: at a proxy it reaches every core that the proxy lists first (R219). -/
def State.invalidate (s : State) (sector y : Nat) : State :=
  if y < 1024 then s.invalidateCore sector y
  else
    let d := y - 1024
    (((s.dirAt (some d) sector).holders.foldl (fun t c => t.invalidateCore sector c) s).setDir (some d) ⟨sector, .i, []⟩).setL1
      y sector .i
def State.recallAll (s : State) (p : Option Nat) (sector : Nat) (except : Option Nat) : State :=
  ((s.dirAt p sector).holders.filter fun y => some y != except).foldl (fun t y => t.invalidate sector y) s

/-- The page of a sector is a bound key page: it is never granted in E or M (R240). -/
def State.keySector (s : State) (sector : Nat) : Bool := s.bindings.any fun b => b.page == sector / 256

/-- What a probed holder keeps. -/
inductive Kept where
  | none | clean | dirty
  deriving DecidableEq, Repr

/-- A probe-share at a core (R215): E goes to S, M to O; a fill on its way gives no more than S (R216). -/
def State.probeCore (s : State) (sector core : Nat) : State × Kept :=
  match s.l1At core sector with
  | .m | .o => (s.setL1 core sector .o, .dirty)
  | .e | .s => (s.setL1 core sector .s, .clean)
  | .i =>
    if s.fills.any fun f => f.core == core && f.sector == sector && !f.killed then
      ({ s with fills := s.fills.map fun f =>
          if f.core = core ∧ f.sector = sector then { f with excl := false } else f }, .clean)
    else (s, .none)

/-- The directory entry after its owner was probed for a share, with who joins; one that joins where a sleeping owner sent
no data shares (DESIGN CHOICE, log 96). -/
def Kept.entry (k : Kept) (sector y : Nat) (joins : List Nat) : DirEntry :=
  match k with
  | .dirty => ⟨sector, .o y, joins⟩
  | .clean => ⟨sector, .s, y :: joins⟩
  | .none => ⟨sector, if joins.isEmpty then .i else .s, joins⟩

/-- A probe-share at a proxy: its owning core answers first (R219). -/
def State.probeProxy (s : State) (sector d : Nat) : State × Kept :=
  let e := s.dirAt (some d) sector
  let r : State × Kept := match e.state with
    | .em y => let r := s.probeCore sector y; (r.1.setDir (some d) (r.2.entry sector y e.sharers), r.2)
    | .o _ => (s, .dirty)
    | .i | .s => (s, .none)
  match r.1.l1At (proxyOf d) sector with
  | .i => (r.1, .none)
  | .m | .o => (r.1.setL1 (proxyOf d) sector .o, .dirty)
  | .e | .s => if r.2 = .dirty then (r.1.setL1 (proxyOf d) sector .o, .dirty) else (r.1.setL1 (proxyOf d) sector .s, .clean)

/-- A probe-share of the owner, and the directory after it (R215, R216). -/
def State.share (s : State) (p : Option Nat) (sector y : Nat) (joins : List Nat) : State :=
  let r := if y < 1024 then s.probeCore sector y else s.probeProxy sector (y - 1024)
  r.1.setDir p (r.2.entry sector y joins)

/-- A directory may give E: a home, but for key pages (R240); a proxy that holds E or M itself (R219). -/
def State.givesE (s : State) (p : Option Nat) (sector : Nat) : Bool :=
  match p with
  | none => !s.keySector sector
  | some d => s.l1At (proxyOf d) sector == .e || s.l1At (proxyOf d) sector == .m

/-- GetS at a directory (R216): the state after, and whether the requester is given E. -/
def State.serveS (s : State) (p : Option Nat) (x sector : Nat) : State × Bool :=
  let e := s.dirAt p sector
  match e.state with
  | .i => if s.givesE p sector then (s.setDir p ⟨sector, .em x, []⟩, true) else (s.setDir p ⟨sector, .s, [x]⟩, false)
  | .s => (s.setDir p { e with sharers := x :: e.sharers.filter (· ≠ x) }, false)
  | .em y => if y = x then (s, true) else (s.share p sector y [x], false)
  | .o y => if y = x then (s, false) else (s.setDir p { e with sharers := x :: e.sharers.filter (· ≠ x) }, false)
/-- GetM or Upgrade at a directory (R216). -/
def State.serveM (s : State) (p : Option Nat) (x sector : Nat) : State :=
  ((s.recallAll p sector (some x)).setDir p ⟨sector, .em x, []⟩).setL1 x sector .m

/-- GetS of a core: through the proxy of its die where the line is homed on another (R219). -/
def State.getS (s : State) (x sector : Nat) : State × Bool :=
  match servedBy x sector with
  | none => s.serveS none x sector
  | some d =>
    let s := if s.l1At (proxyOf d) sector = .i then
        let r := s.serveS none (proxyOf d) sector
        r.1.setL1 (proxyOf d) sector (if r.2 then .e else .s)
      else s
    s.serveS (some d) x sector
/-- The proxy holds M before it serves its core's GetM (R219). -/
def State.proxyM (s : State) (d sector : Nat) : State :=
  match s.l1At (proxyOf d) sector with
  | .m => s
  | .e => s.setL1 (proxyOf d) sector .m
  | .i | .s | .o => s.serveM none (proxyOf d) sector
/-- GetM or Upgrade of a core; a key-page sector is never granted (R240). A fill on its way is not installed. -/
def State.getM (s : State) (x sector : Nat) : State :=
  if s.keySector sector then s
  else
    let s := s.killFills x sector
    match servedBy x sector with
    | none => s.serveM none x sector
    | some d => (s.proxyM d sector).serveM (some d) x sector

/-- A home write's directory side (R216). -/
def State.homeClear (s : State) (sector : Nat) : State :=
  (s.recallAll none sector none).setDir none ⟨sector, .i, []⟩
/-- An uncached read's directory side (R216). -/
def State.homePeek (s : State) (sector : Nat) : State :=
  match (s.dirAt none sector).state with
  | .em y => s.share none sector y []
  | .i | .s | .o _ => s
def State.peekAll (s : State) (l : Loc) (n : Nat) : State := (l.sectors n).foldl (fun t k => t.homePeek k) s

/-- The directory without one holder: an owner's write-back leaves I, or S when sharers remain (R216). -/
def DirEntry.without (e : DirEntry) (x : Nat) : DirEntry :=
  let sh := e.sharers.filter (· ≠ x)
  let rest : DirState := if sh.isEmpty then .i else .s
  match e.state with
  | .i => { e with sharers := [] }
  | .s => ⟨e.sector, rest, sh⟩
  | .em y => if y = x then ⟨e.sector, rest, sh⟩ else { e with sharers := sh }
  | .o y => if y = x then ⟨e.sector, rest, sh⟩ else { e with sharers := sh }
/-- Data written back to a proxy that held E make it the holder of a dirty copy (R219). -/
def State.proxyDirty (s : State) (p : Option Nat) (sector : Nat) (v : L1) : State :=
  match p with
  | some d => if (v = .m ∨ v = .o) ∧ s.l1At (proxyOf d) sector = .e then s.setL1 (proxyOf d) sector .m else s
  | none => s
/-- A core's copy goes, with its data where they are dirty, and its directory is told. -/
def State.drop (s : State) (x sector : Nat) : State :=
  let p := servedBy x sector
  ((s.setL1 x sector .i).setDir p ((s.dirAt p sector).without x)).proxyDirty p sector (s.l1At x sector)

/-! Writes at a home (R214, R217, R233, R234), and the signposts that they widen (R240). -/

/-- The first element of a bound page that bytes [pa, pa + n) touch, and how many they touch. -/
def Binding.elements (b : Binding) (pa n : Nat) : Nat × Nat :=
  let es := if b.kfmt then 1 else 2
  let base := 16384 * b.page
  let lo := (max pa base - base) / es
  (lo, (min (pa + n) (base + 16384) - base + es - 1) / es - lo)
def Binding.touches (b : Binding) (pa n : Nat) : Bool := decide (pa < 16384 * (b.page + 1)) && decide (16384 * b.page < pa + n)
/-- The channels of the signpost that a write of [pa, pa + n) widens, by address. -/
def Binding.channels (b : Binding) (pa n : Nat) : List Nat :=
  if b.touches pa n then
    (List.range (b.elements pa n).2).map fun i => b.spa + 4 * (((b.elements pa n).1 + i) % dCount b.dcode)
  else []
/-- The channels that a write at a location widens. -/
def State.widens (s : State) (l : Loc) (n : Nat) : List Nat :=
  match l with
  | .dram pa => s.bindings.flatMap fun b => b.channels pa n
  | .host _ | .peer _ _ | .sp _ | .cb _ => []

/-- Bytes written at their home: check values made anew over the merged bytes, and whole sectors lose their poison. -/
def State.store (s : State) (pa : Nat) (bs : List Byte) : State :=
  let whole := wholeSectors pa bs.length
  let touched := sectorsOf pa bs.length
  { s.setBytes (.dram pa) bs with
    poison := s.poison.filter fun k => !whole.contains k
    checks := s.checks.filter fun c => !touched.contains c.1 }

/-- MIN and MAX of a channel widened by a bf16 code (R240). -/
def widenPair (mn mx v : Nat) : List Byte :=
  let p := if (fBF16.val v).isNan then (0xFF80, 0x7F80) else (fBF16.min mn v, fBF16.max mx v)
  leBytes 2 p.1 ++ leBytes 2 p.2
/-- A signpost, as bytes, widened in channel c. -/
def widenSign (sign : List Byte) (c v : Nat) : List Byte :=
  sign.take (4 * c) ++ widenPair (leNat ((sign.drop (4 * c)).take 2)) (leNat ((sign.drop (4 * c + 2)).take 2)) v ++
    sign.drop (4 * c + 4)
/-- The rebuild of this page collects a Widen that arrives (R241). -/
def MxEntry.collect (page c v : Nat) (e : MxEntry) : MxEntry :=
  match e.kind with
  | .ksum _ b => if b.page = page ∧ !e.mask.isEmpty then { e with mask := widenSign e.mask c v } else e
  | .dense | .sparse _ _ | .asel | .agat => e
/-- Widen (R240): channel c of a page's signpost by the bf16 code v, a home write of one channel. -/
def widenOne (s : State) (b : Binding) (c v : Nat) : State :=
  let a := b.spa + 4 * c
  let t := (Loc.sectors (.dram a) 4).foldl (fun t k => t.homeClear k) s
  let t := t.store a (widenPair (s.rd a 2) (s.rd (a + 2) 2) v)
  { t with mx := t.mx.map (MxEntry.collect b.page c v) }
/-- Widen a bound page by every key element that bytes [pa, pa + n) touch. -/
def widenPage (s : State) (b : Binding) (pa n : Nat) : State :=
  let es := if b.kfmt then 1 else 2
  (List.range (b.elements pa n).2).foldl (fun s i =>
    let e := (b.elements pa n).1 + i
    widenOne s b (e % dCount b.dcode) (keyCode b.kfmt (s.rd (16384 * b.page + e * es) es))) s
def State.widen (s : State) (pa n : Nat) : State :=
  s.bindings.foldl (fun t b => if b.touches pa n then widenPage t b pa n else t) s

/-- A write performed at its home (R214, R217): bytes, check values, poison, signposts. -/
def State.perform (s : State) (l : Loc) (bs : List Byte) : State :=
  match l with
  | .dram pa => (s.store pa bs).widen pa bs.length
  | .host pa => { s.setBytes l bs with
      cxlLines := s.cxlLines.map fun c => if (sectorsOf pa bs.length).contains c.1 then (c.1, .m) else c }
  | .peer _ _ | .sp _ | .cb _ => s.setBytes l bs

/-- A write by an agent that does not cache (R217): every copy recalled, then performed. -/
def State.homeWrite (s : State) (l : Loc) (bs : List Byte) : State :=
  ((l.sectors bs.length).foldl (fun t k => t.homeClear k) s).perform l bs

/-- A fibre's store through its L1 (R214, R215): M is gained first, by a fill that is checked (R233); a key page is
written at its home (R240). -/
def State.fibreStore (s : State) (core : Nat) (l : Loc) (bs : List Byte) : State :=
  ((l.sectors bs.length).foldl (fun t k =>
    if t.keySector k then t.homeClear k
    else match t.l1At core k with
      | .m => t
      | .e => t.setL1 core k .m
      | .i => (checkRead t (sectorLoc k) 64 0).1.getM core k
      | .s | .o => t.getM core k) s).perform l bs

/-- A fibre's load through its L1: a miss is served by the home and installed (R215). -/
def State.fibreLoad (s : State) (core : Nat) (l : Loc) (n : Nat) : State :=
  (l.sectors n).foldl (fun t k =>
    if t.l1At core k = .i then
      let r := (t.killFills core k).getS core k
      r.1.setL1 core k (if r.2 then .e else .s)
    else t) s

/-! The host's copies of device memory (R260). -/

/-- Sectors of the signposts that a write widens: each is written at its home as well (R240). -/
def State.signSectors (s : State) (l : Loc) (n : Nat) : List Nat := ((s.widens l n).map (· / 64)).eraseDups
/-- The sectors of a list of which the host holds a copy in the way: any copy for a write, E or M for a read. -/
def State.hostHas (s : State) (ks : List Nat) (writes : Bool) : List (Nat × Bool) :=
  (ks.filter fun k => s.hostBias.contains (k / 64) &&
    s.hostLines.any fun h => h.1 == k && (writes || h.2 != .s)).map fun k => (k, writes)
/-- Lines that the host holds in the way of a device access, and of the Widens of a write. -/
def State.hostInWay (s : State) (l : Loc) (n : Nat) (writes : Bool) : List (Nat × Bool) :=
  match l with
  | .dram pa => s.hostHas (sectorsOf pa n ++ if writes then s.signSectors l n else []) writes
  | .host _ | .peer _ _ | .sp _ | .cb _ => []
/-- Snoop the host for lines (BISnp): their answers are awaited. -/
def State.snoop (s : State) (ks : List (Nat × Bool)) : State :=
  { s with snoops := s.snoops ++ ks.filter fun k => !s.snoops.contains k }

/-- A host line that a die-0 slice holds as an access needs (R255). -/
def State.hostHeld (s : State) (l : Loc) (writes : Bool) : Bool :=
  match l with
  | .host pa => s.cxlLines.any fun c => c.1 == pa / 64 && (!writes || c.2 == .m || c.2 == .e)
  | _ => true
/-- A sector of the range, or of a signpost that a write to it widens, is pinned by a matrix pass (R198). -/
def State.pinned (s : State) (l : Loc) (n : Nat) : Bool :=
  s.mx.any fun e => (l.sectors n ++ s.signSectors l n).any e.pins.contains
/-- The home can perform the access now: a host line is held as it needs (R255), and no write meets a pin (R198, R216). -/
def State.mayServe (s : State) (l : Loc) (n : Nat) (writes : Bool) : Bool :=
  s.hostHeld l writes && !(writes && s.pinned l n)

/-! Uncached reads of tables and descriptors in DRAM, and walks (R217, R224, R234, R260). -/

/-- An uncached read's effects: the owner shares, the sector is checked; false where the host is snooped first. -/
def State.uncached (s : State) (pa n agent : Nat) : State × Bool :=
  let ks := s.hostInWay (.dram pa) n false
  if ks.isEmpty then ((checkRead (s.peekAll (.dram pa) n) (.dram pa) n agent).1, true) else (s.snoop ks, false)
def State.uncachedAll (s : State) (agent : Nat) : List Nat → State × Bool
  | [] => (s, true)
  | a :: as =>
    let r := s.uncached a 8 agent
    if r.2 then r.1.uncachedAll agent as else r

/-- The entry for an address, with the effects of finding it (R224): the core's L1 TLB, where the access is a fibre's; the
quad's TLB; else a walk, whose entries are read uncached and whose success both keep. -/
def State.findEntry (s : State) (core : Option Nat) (quad asid va : Nat) : State × Xlat :=
  let keep (t : State) (e : TlbEntry) : State := match core with
    | some c => t.l1Fill c e
    | none => t
  match core.bind fun c => s.l1Find c asid va with
  | some e => (s, .ok (e.loc.add (va - e.base)) e)
  | none => match s.tlbFind quad asid va with
    | some e => (keep s e, .ok (e.loc.add (va - e.base)) e)
    | none =>
      let r := s.uncachedAll 4 (s.walkAddrs asid va)
      if !r.2 then (r.1, .busy)
      else
        let t := r.1.ctxSee asid
        match walk t quad asid va with
        | .ok l e => (keep (t.tlbFill e) e, .ok l e)
        | x => (t, x)
/-- Translation with its effects: the entry, then its permission and a flip of its page. -/
def State.lookup (s : State) (core : Option Nat) (quad asid va : Nat) (k : AccKind) : State × Xlat :=
  let r := s.findEntry core quad asid va
  (r.1, r.1.permit k r.2)

end Sys2Proof.Machine
end

