-- ==== Sys2Proof/Machine/Lines.lean ====
section
/-! DEFINITION. The lines of plazas, as every access meets them (R290, R293, R294, R297, R298, R302). -/

namespace Sys2Proof.Machine

open Sys2Proof.Dec (leBytes fld)

/-! Plazas by handle. -/

def State.plaza? (s : State) (h : DWord) : Option Plaza :=
  s.plazas.find? fun p => p.die == fld h.toNat 50 2 && p.index == fld h.toNat 32 18
/-- A handle is current: its entry holds that generation and is not FREE (R290). -/
def State.current? (s : State) (h : DWord) : Option Plaza :=
  match s.plaza? h with
  | some p => if p.gen = h.toNat % 2 ^ 32 ∧ p.state ≠ .free ∧ fld h.toNat 52 12 = s.dev.toNat ∧ h ≠ 0 then some p else none
  | none => none

/-- A plaza in OPEN begins to abort for a cause (R294, R302); in any other state nothing happens. -/
def State.abortPlaza (s : State) (h : DWord) (cause : Nat) : State :=
  { s with plazas := s.plazas.map fun p =>
      if p.die = fld h.toNat 50 2 ∧ p.index = fld h.toNat 32 18 ∧ p.gen = h.toNat % 2 ^ 32 ∧
        s.dev.toNat = fld h.toNat 52 12 ∧ p.state = .opened
      then { p with state := .aborting, cause := cause } else p }

/-- The plaza's coordinator is on this device. -/
def State.isLocal (s : State) (h : DWord) : Bool := fld h.toNat 52 12 == s.dev.toNat
/-- An abort cause of a plaza arises here (R302): it reaches this device's coordinator, or a message goes to the peer's,
once (DESIGN CHOICE, log 17). -/
def State.causeAbort (s : State) (h : DWord) (cause : Nat) : State :=
  if s.isLocal h then s.abortPlaza h cause
  else match s.awayPlazas.find? fun (a : AwayPlaza) => a.handle == h with
    | some a => if a.asked then s else { s with
        awayPlazas := s.awayPlazas.map fun (a : AwayPlaza) => if a.handle = h then { a with asked := true } else a
        replies := s.replies ++ [2 :: leBytes 1 cause ++ leBytes 8 h.toNat] }
    | none => { s with
        awayPlazas := s.awayPlazas ++ [⟨h, false, 0, false, false, true, false⟩]
        replies := s.replies ++ [2 :: leBytes 1 cause ++ leBytes 8 h.toNat] }

/-! Meetings. -/

def Plaza.handle (dev : BitVec 12) (p : Plaza) : DWord :=
  .ofNat 64 (dev.toNat * 2 ^ 52 + p.die * 2 ^ 50 + p.index * 2 ^ 32 + p.gen)

/-- What a directory knows of a plaza (R293, R298): the coordinator's entry, or what a peer coordinator has told. -/
structure PlzView where
  handle : DWord
  opened : Nat
  yields : Bool
  sealing : Bool

def State.view? (s : State) (h : DWord) : Option PlzView :=
  if s.isLocal h then (s.current? h).map fun p =>
    ⟨h, p.opened, p.yields, p.state == .sealing || p.state == .publishing⟩
  else (s.awayPlazas.find? fun a => a.handle == h && a.told).map fun a => ⟨h, a.opened, a.yields, a.sealing⟩

/-- Plaza q is younger than p (R293). -/
def younger (q p : PlzView) : Bool :=
  decide (p.opened < q.opened) ||
  (decide (p.opened = q.opened) && decide (p.handle.toNat / 2 ^ 32 < q.handle.toNat / 2 ^ 32))

/-- What an access meets on its line. -/
inductive Meet where
  | go
  /-- It waits for the plaza of this handle. -/
  | wait (h : DWord)
  deriving DecidableEq, Repr

/-- A write from outside its PROTECT plaza waits at an entry: it waits until the plaza is COMMITTED or ABORTED, though the entry
itself is published or discarded before that (R298). -/
def State.metAt (s : State) (w : WsLine) : State :=
  { s with wsLines := s.wsLines.map fun v => if v.handle = w.handle ∧ v.line = w.line then { v with met := true } else v }
/-- The entries of a plaza are published or discarded: of those at which a write waits the place stays. -/
def WsLine.over (w : WsLine) : Option WsLine :=
  if w.met then some { w with read := false, written := false, sealed := false, bytes := [], bad := [], gone := true } else none
/-- An access meets another plaza's entry (R298): the state with an abort it causes begun, and whether it waits. A plaza
of which the coordinator has told nothing is waited for. -/
def meetLine (s : State) (tag : DWord) (writes : Bool) (w : WsLine) : State × Bool :=
  if w.gone then (s, writes && tag == 0)
  else match s.view? w.handle with
  | none => (s, writes || w.sealed || (tag ≠ 0 && w.written))
  | some p =>
    let sealing := p.sealing || w.sealed
    if tag = 0 then
      (if sealing || !writes then s else if p.yields then s.causeAbort w.handle 0x03 else s.metAt w, sealing || writes)
    else if w.written || writes then
      match s.view? tag with
      | none => (s, true)
      | some q => (if younger q p then s.causeAbort tag 0x02 else if sealing then s else s.causeAbort w.handle 0x02, true)
    else (s, sealing)

/-- The entries of other plazas on the line of an access, in order. -/
def meetLines (s : State) (tag : DWord) (writes : Bool) : List WsLine → State × Meet
  | [] => (s, .go)
  | w :: ws =>
    let r := meetLine s tag writes w
    if r.2 then (r.1, .wait w.handle) else meetLines r.1 tag writes ws

/-- Addresses of plaza lines: device DRAM, and host memory above it (R255). -/
def hostBase : Nat := 2 ^ 52
def Loc.lineAddr : Loc → Option Nat
  | .dram pa => some pa
  | .host pa => some (hostBase + pa)
  | .peer _ _ | .sp _ | .cb _ => none
/-- The location and the home die of such an address. -/
def addrLoc (a : Nat) : Loc := if a < hostBase then .dram a else .host (a - hostBase)
def lineDie (line : Nat) : Nat := if 256 * line < hostBase then homeDie (256 * line) else 0

/-- The entries of other plazas on the lines of an access; the Widens of a write that is not tentative are home writes too
(R240). -/
def State.meet (s : State) (l : Loc) (n : Nat) (tag : DWord) (writes : Bool) : State × Meet :=
  match l.lineAddr with
  | some a =>
    let own := s.wsLines.filter fun w => w.handle != tag && decide (a / 256 ≤ w.line) && decide (w.line ≤ (a + n - 1) / 256)
    let signs := if writes && tag == 0 then ((s.widens l n).map (· / 256)).eraseDups else []
    meetLines s tag writes (own ++ s.wsLines.filter fun w => w.handle != tag && signs.contains w.line && !own.contains w)
  | none => (s, .go)

end Sys2Proof.Machine
end

