-- ==== Sys2Proof/Machine/Ops.lean ====
section
/-! DEFINITION. The named operations over fibres: registers and predicates (R27), fixed-latency visibility (R46 to
R50), retirement and loops (R100 to R102), blocking, and taking a trap and returning from one (R162 to R164). -/

namespace Sys2Proof.Machine

open Sys2Proof.Dec (leNat leBytes fld)

abbrev Result := Host.Outcome State Fault Refusal

/-! Finding and replacing. -/

def State.fib? (s : State) (uid : Nat) : Option Fibre := s.fibres.find? fun f => f.uid == uid
/-- The fibre whose instruction executes. -/
def State.cur? (s : State) : Option Fibre :=
  match s.fib? s.cur with
  | some f => if f.status = .resident then some f else none
  | none => none
def State.setF (s : State) (f : Fibre) : State :=
  { s with fibres := s.fibres.map fun g => if g.uid = f.uid then f else g }
def State.modF (s : State) (uid : Nat) (u : Fibre → Fibre) : State :=
  { s with fibres := s.fibres.map fun g => if g.uid = uid then u g else g }
def State.launch? (s : State) (id : Nat) : Option Launch := s.launches.find? fun l => l.id == id
def State.setLaunch (s : State) (l : Launch) : State :=
  { s with launches := s.launches.map fun k => if k.id = l.id then l else k }
def State.block? (s : State) (l b : Nat) : Option Block := s.blocks.find? fun k => k.launch == l && k.id == b
def State.setBlock (s : State) (b : Block) : State :=
  { s with blocks := s.blocks.map fun k => if k.launch = b.launch ∧ k.id = b.id then b else k }
def State.asidOf (s : State) (f : Fibre) : Nat :=
  match s.launch? f.launch with
  | some l => l.asid
  | none => 0
/-- The launch is flagged DET (R271). -/
def State.det (s : State) (f : Fibre) : Bool :=
  match s.launch? f.launch with
  | some l => l.flags % 2 == 1
  | none => false

/-! Registers and predicates (R27). -/

/-- The register's value in the file: what a read returns, early or not (R49, R344). -/
def Fibre.reg (f : Fibre) (r : Reg) : Word := if r = 0 then 0 else f.regs[r.toNat]'r.isLt
/-- The odd register of a pair. -/
def odd (r : Reg) : Reg := r + 1
/-- A 64-bit operand: low word in the even register (R69). -/
def Fibre.pair (f : Fibre) (r : Reg) : DWord := f.reg (odd r) ++ f.reg r
def Fibre.pred (f : Fibre) (p : Pred) : Bool := p == 0 || f.preds.getLsbD p.toNat

def Fibre.setRegRaw (f : Fibre) (r : Reg) (v : Word) : Fibre :=
  if r = 0 then f else { f with regs := f.regs.set r.toNat v r.isLt }
def Fibre.setPredRaw (f : Fibre) (p : Pred) (v : Bool) : Fibre :=
  if p = 0 then f
  else { f with preds := if v then f.preds ||| (1#8 <<< p.toNat) else f.preds &&& ~~~(1#8 <<< p.toNat) }

/-- Codes of registers and predicates in R163: 0 to 63, and 64 + n. -/
def rc (r : Reg) : Nat := r.toNat
def pc8 (p : Pred) : Nat := 64 + p.toNat

/-- Put a value where a code says. -/
def Fibre.put (f : Fibre) (code : Nat) (v : Word) : Fibre :=
  if code < 64 then f.setRegRaw (.ofNat 6 code) v
  else if code < 72 then f.setPredRaw (.ofNat 3 (code - 64)) (v != 0)
  else f

/-! Fixed-latency writes (R46 to R49). -/

/-- A write by a fixed-latency instruction, visible at a schedule distance of L. -/
def Fibre.later (f : Fibre) (latency code : Nat) (v : Word) : Fibre :=
  if code = 0 ∨ code = 64 then f
  else { f with pend := f.pend ++ [⟨code, v, latency, f.wseq, false⟩], wseq := f.wseq + 1 }
/-- A younger write is visible, and no older one, by its code and order, replaces it (R48). -/
def Pend.passBy (code : Nat) (older : Nat → Bool) (p : Pend) : Pend :=
  if p.code = code ∧ older p.seq then { p with passed := true } else p
/-- A write that interlocks (R47): visible at once, and no older write replaces it. -/
def Fibre.now (f : Fibre) (code : Nat) (v : Word) : Fibre :=
  { f.put code v with
    pend := f.pend.map (Pend.passBy code fun _ => true)
    landed := f.landed.filter fun p => p.2.1 ≠ code }

def Fibre.setReg (f : Fibre) (latency : Nat) (r : Reg) (v : Word) : Fibre := f.later latency (rc r) v
def Fibre.setPair (f : Fibre) (latency : Nat) (r : Reg) (v : DWord) : Fibre :=
  (f.later latency (rc r) (v.setWidth 32)).later latency (rc (odd r)) (v.extractLsb' 32 32)
def Fibre.setPred (f : Fibre) (latency : Nat) (p : Pred) (v : Bool) : Fibre :=
  f.later latency (pc8 p) (if v then 1 else 0)
def Fibre.setRegNow (f : Fibre) (r : Reg) (v : Word) : Fibre := f.now (rc r) v
def Fibre.setPairNow (f : Fibre) (r : Reg) (v : DWord) : Fibre :=
  (f.now (rc r) (v.setWidth 32)).now (rc (odd r)) (v.extractLsb' 32 32)

/-- A write becomes visible, unless a younger one has before. -/
def Fibre.apply (f : Fibre) (p : Pend) : Fibre := if p.passed then f else f.put p.code p.val
/-- Apply, oldest first, the writes that the list holds: the list is in the order of issue (R48). -/
def Fibre.applyAll (f : Fibre) (l : List Pend) : Fibre := l.foldl Fibre.apply f
/-- A value lands in a register (R127): it is visible at once. A fixed-latency write made before the access issued is
older and does not follow it; a younger one does (R48). -/
def Fibre.landNow (f : Fibre) (p : Nat × Nat × Word) : Fibre :=
  { f.put p.2.1 p.2.2 with pend := f.pend.map (Pend.passBy p.2.1 fun seq => decide (seq < p.1)) }
/-- The values that have landed during an instruction reach their registers, in their order. -/
def Fibre.settle (f : Fibre) : Fibre := { f.landed.foldl Fibre.landNow f with landed := [] }
/-- Every write visible (R50). -/
def Fibre.flush (f : Fibre) : Fibre := { f.settle.applyAll f.settle.pend with pend := [] }
/-- An instruction of the fibre has issued, and waits or is to go on: it has read its operands (R125). A `nap` has none, and
`done` takes its result when its counters are 0 (R115). -/
def Fibre.midway (f : Fibre) : Bool :=
  f.waited && f.inst.isSome && match f.wait with
    | .nap | .drain => false
    | _ => true
/-- The distance grows by n: writes become visible, and no older write follows a younger one (R46, R48). One that a younger write
has overtaken stays pending up to its own distance, since a read before that is early (R49). -/
def Fibre.advance (f : Fibre) (n : Nat) : Fibre :=
  let aged := f.pend.map fun p => { p with left := p.left - n }
  let due := aged.filter fun p => p.left = 0
  { f.applyAll due with
    pend := (aged.filter fun p => p.left ≠ 0).map fun p =>
      { p with passed := p.passed || due.any fun q => q.code == p.code && decide (p.seq < q.seq) } }

/-- A read of this code now would be early (R49). -/
def Fibre.early (f : Fibre) (code : Nat) : Bool := f.pend.any fun p => p.code == code

/-- Mode-word bits (R58). -/
def Fibre.modeBit (f : Fibre) (n : Nat) : Bool := f.mode.getLsbD n
def Fibre.chk (f : Fibre) : Bool := f.modeBit 7
def Fibre.satt (f : Fibre) : Bool := f.modeBit 8

/-! Counters (R130). -/

def Fibre.counter (f : Fibre) (c : Cls) : Nat := (f.outs.filter fun o => o.cls == c).length
def Fibre.raise (f : Fibre) (id : Nat) (c : Cls) : Fibre := { f with outs := f.outs ++ [⟨id, c, false⟩] }
/-- Drop the done entries at the front of a class: counters fall in issue order. -/
def dropDone (c : Cls) : List Out → List Out
  | [] => []
  | o :: os => if o.cls = c then (if o.done then dropDone c os else o :: os) else o :: dropDone c os
/-- An operation completes. -/
def Fibre.complete (f : Fibre) (id : Nat) : Fibre :=
  let outs := f.outs.map fun o => if o.id = id then { o with done := true } else o
  { f with outs := [Cls.ld, .st, .at, .cp, .mx, .rm].foldl (fun os c => dropDone c os) outs }

/-! Ranges and loops. -/

def Fibre.loop (f : Fibre) : Nat → Loop
  | 0 => f.lc0
  | 1 => f.lc1
  | _ => f.lc2
/-- An address lies in the body; one whose end is not known yet has no more than 24 bytes to a group (R29, R32). -/
def Loop.body (l : Loop) (a : Nat) : Bool := decide (l.start ≤ a) && decide (a < l.stop + 24 * l.left)
def Fibre.setLoop (f : Fibre) (n : Nat) (l : Loop) : Fibre :=
  match n with
  | 0 => { f with lc0 := l }
  | 1 => { f with lc1 := l }
  | _ => { f with lc2 := l }
def Frame.mapRange (u : Range → Range) : Frame → Frame
  | .call t a c => .call t a c
  | .range r => .range (u r)
def Fibre.mapRanges (f : Fibre) (u : Range → Range) : Fibre :=
  { f with frames := f.frames.map (Frame.mapRange u), root := f.root.map u }
/-- The ranges, oldest first: the root range, then the stack from the bottom (R108). -/
def Frame.range? : Frame → Option Range
  | .call _ _ _ => none
  | .range r => some r
def Fibre.ranges (f : Fibre) : List Range := f.root.toList ++ f.frames.reverse.filterMap Frame.range?

/-- Loop N ends: a form-L frame bound to it is disarmed (R109). -/
def Fibre.endLoop (f : Fibre) (n : Nat) : Fibre :=
  (f.setLoop n { f.loop n with active := false }).mapRanges fun r =>
    if r.formL ∧ r.loopN = n then { r with armed := false, due := false } else r

/-- Insert a loop before the first older one. -/
def Fibre.insertNewest (f : Fibre) (n : Nat) : List Nat → List Nat
  | [] => [n]
  | m :: ms => if (f.loop m).order ≤ (f.loop n).order then n :: m :: ms else m :: f.insertNewest n ms

/-- Active loops that end at an address, newest first. -/
def Fibre.loopsAt (f : Fibre) (a : Nat) : List Nat :=
  ([0, 1, 2].filter fun n => (f.loop n).active && (f.loop n).left == 0 && (f.loop n).stop == a).foldr f.insertNewest []

/-- The loop-back (R101) for the listed loops at an end address. -/
def Fibre.loopBack (f : Fibre) : List Nat → Fibre
  | [] => f
  | n :: ns =>
    let c := (f.loop n).count - 1
    let g := f.setLoop n { f.loop n with count := c }
    if c ≠ 0 then
      { g.mapRanges fun r => if r.formL ∧ r.loopN = n ∧ r.armed then { r with due := true } else r with
        pc := (f.loop n).start }
    else (g.endLoop n).loopBack ns

/-- A transfer from src to dst leaves the bodies it leaves (R102). -/
def Fibre.leaveLoops (f : Fibre) (src dst : Nat) : Fibre :=
  [0, 1, 2].foldl (fun g n =>
    if (g.loop n).active && (g.loop n).body src && !(g.loop n).body dst then g.endLoop n else g) f

/-! Retiring. -/

/-- How an instruction retires. -/
structure Retire where
  /-- Its stall field (R46). -/
  stall : Nat
  /-- A taken transfer, and whether it may leave loops (R102). -/
  taken : Option Nat := none
  leaves : Bool := true
  /-- A safe point (R161). -/
  safe : Bool := false
  /-- The registers live at an explicit safe point. -/
  live : DWord := .allOnes 64
  /-- The distance of a `nap` (R51). -/
  nap : Nat := 0
  /-- A counter wait or phase wait (R46). -/
  flush : Bool := false

/-- Retire an instruction of `size` bytes (R24, R26, R46, R101, R107, R161). A wait at issue was a safe point, after
which the instruction counts 1. A Craco body and its translation make no early read (R52, R273). -/
def Fibre.retire (f : Fibre) (det : Bool) (size : Nat) (r : Retire) : Fibre :=
  let g := if f.craco || f.xlat || r.stall = 3 || r.flush || f.waited then f.flush else f.advance (1 + r.stall + r.nap)
  let g := { g with
    wait := .none, waited := false, inst := none, fresh := false, live := r.live
    hbc := if det && !f.trapMode then f.hbc + 1 else f.hbc
    dist := if f.trapMode then f.dist else if r.safe then 0 else if f.waited then 1 else f.dist + 1
    rejoin := if f.trapMode then f.rejoin else none
    fuse := if r.taken.isNone && (f.loopsAt (f.pc + size)).isEmpty then f.fuse.filter fun p => decide (f.pc < p.2) else none }
  match r.taken with
  | some t => { (if r.leaves then g.leaveLoops f.pc t else g) with pc := t }
  | none =>
    let a := f.pc + size
    ({ g with pc := a }).loopBack (f.loopsAt a)

/-- A lane that has executed leaves the batch's current issue (R98). -/
def State.laneDone (s : State) (f : Fibre) : State :=
  match f.held with
  | some (b, _) =>
    { s with batches := s.batches.map fun t => if t.id = b then { t with issue := t.issue.filter (· ≠ f.uid) } else t }
  | none => s

/-- A pre-emption request stops the fibre at a safe point (R165). -/
def Fibre.atSafePoint (f : Fibre) : Fibre := if f.preempt then { f with stopped := true } else f

def State.retire (s : State) (f : Fibre) (i : Instr) (r : Retire) : State :=
  let g := f.retire (s.det f) i.size r
  (s.setF (if r.safe then g.atSafePoint else g)).laneDone f

/-- The distance count as it stands: 0 once a wait has ended with its instruction still to issue again (R161). -/
def Fibre.distNow (f : Fibre) : Nat := if f.waited ∧ f.wait = .none then 0 else f.dist
/-- Block at the instruction, which has not retired; every wait is a safe point (R160), that for a peer's reply too, which its
list does not name (DESIGN CHOICE, log 117). The distance returns to 0 as the wait ends, so a trap taken in it reports the distance
before it (R161, R210; log 20). -/
def State.block (s : State) (f : Fibre) (w : Wait) : State :=
  (s.setF { f with wait := w, waited := true, live := .allOnes 64, dist := f.distNow }.atSafePoint).laneDone f

/-! Traps (R162, R163). -/

def Cause.code : Cause → Nat
  | .undef => 0x01 | .stallShort => 0x02 | .safeDistance => 0x03 | .align => 0x04 | .page => 0x05 | .prot => 0x06
  | .race => 0x07 | .integrity => 0x08 | .copyOverlap => 0x09 | .copyFault => 0x0A | .mxMeta => 0x0B
  | .mxFormat => 0x0C | .sat => 0x0D | .plazaAbort => 0x0E | .plazaMisuse => 0x0F | .revoked => 0x10
  | .frame => 0x11 | .held => 0x12 | .token => 0x13 | .set => 0x14 | .barrierFail => 0x15 | .summary => 0x16
  | .soft => 0x17 | .launch => 0x18 | .graph => 0x19 | .feature => 0x1A

/-- What a trap reports. -/
structure TrapInfo where
  cause : Cause
  detail : Nat := 0
  /-- Resume point, and the instruction that caused the trap with its first word. -/
  pc : Nat
  iaddr : Nat
  insn : Nat
  daddr : Nat := 0
  deferred : Bool := false

/-- First word of an instruction, as the INSN field holds it. -/
def insnWord (i : Instr) : Nat := leNat ((encode i).take 4)

/-- The predicate word in `pget` layout (R84). -/
def Fibre.predWord (f : Fibre) : Word := (f.preds &&& 0xFE).setWidth 32

/-- The trap record (R162). -/
def trapBytes (f : Fibre) (t : TrapInfo) (nested : Bool) : List Byte :=
  let flags := t.deferred.toNat + 2 * f.held.isSome.toNat + 4 * (decide (f.origin ≠ .launch)).toNat + 8 * nested.toNat
  let lane := match f.held with
    | some (_, n) => n
    | none => 0xFF
  leBytes 1 t.cause.code ++ leBytes 1 flags ++ leBytes 1 lane ++ leBytes 1 t.detail ++ leBytes 4 t.insn ++
  leBytes 8 t.pc ++ leBytes 8 t.iaddr ++ leBytes 8 t.daddr ++ leBytes 8 (f.pair 14).toNat ++
  leBytes 4 f.mode.toNat ++ leBytes 4 f.predWord.toNat ++ leBytes 4 f.sat.toNat ++ leBytes 4 f.hbc ++
  leBytes 4 f.dist ++ leBytes 4 0

/-- Address of the fibre's trap record (R162). -/
def State.recordAddr (s : State) (f : Fibre) : Nat :=
  match s.launch? f.launch with
  | some l => l.traps + 64 * f.seg.getD 0
  | none => 0

/-- The space of a location and its first address there. -/
def Loc.key : Loc → Nat × Nat
  | .dram p => (0, p)
  | .sp k => (1, k)
  | .host p => (2, p)
  | .cb k => (3, k)
  | .peer d p => (4 + d, p)
def Loc.overlaps (a : Loc) (n : Nat) (b : Loc) (m : Nat) : Bool :=
  a.key.1 == b.key.1 && decide (a.key.2 < b.key.2 + m) && decide (b.key.2 < a.key.2 + n)
/-- The fibre has an outstanding access to bytes of the range: that takes effect first (R128, R317). -/
def State.ownAhead (s : State) (f : Fibre) (l : Loc) (n : Nat) : Bool :=
  s.accs.any fun a => a.fib == f.uid && a.loc.overlaps a.size l n

/-- The trap record's place, as a trap or a `tret` finds it. -/
inductive RecordAt where
  | ok (l : Loc) (s : State)
  /-- Its address has no translation, or one on a peer (log 4). -/
  | gone (s : State)
  /-- A flip, a plaza's line, the host's copy, a host line or a pin comes first (R216, R255, R260, R261, R298). -/
  | wait (s : State)
/-- Where the record lies: its translation in the launch's address space (DEDUCED, log 4), once its access can be
performed. -/
def State.recordAt (s : State) (f : Fibre) (writes : Bool) : RecordAt :=
  let r := s.findEntry (some f.core) (coreQuad f.core) (s.asidOf f) (s.recordAddr f)
  match r.2 with
  | .busy | .flip => .wait r.1
  | .prot | .fault _ _ _ => .gone r.1
  | .ok (.peer _ _) _ => .gone r.1
  | .ok l _ =>
    if r.1.flipping l then .wait r.1
    else match r.1.meet l 64 f.tag writes with
      | (t, .wait _) => .wait t
      | (t, .go) =>
        if !(t.hostInWay l 64 writes).isEmpty then .wait (t.snoop (t.hostInWay l 64 writes))
        else if !t.mayServe l 64 writes then .wait t else .ok l t

/-- Bytes that no rule states: free values (log 3), and the state that has taken them. -/
def State.freeBytesAt (s : State) (n : Nat) : List Byte :=
  (List.range n).map fun k => (Config.freeValue (s.freeCount + k)).setWidth 8
def State.draw (s : State) (n : Nat) : State := { s with freeCount := s.freeCount + n }

/-- What a trap changes besides its record waits with that (log 4): in trap mode there is none. -/
def State.whenRecord (s : State) (f : Fibre) (k : State → State) : State :=
  if f.trapMode then k s
  else match s.recordAt f true with
    | .ok _ t | .gone t => k t
    | .wait t => t
/-- A trap's record is written, and then `k`; while its access has to wait, the fibre stands at its boundary. Where its
address has no translation nothing is written (log 4). -/
def State.writeRecord (s : State) (f : Fibre) (bs : List Byte) (k : State → State) : State :=
  match s.recordAt f true with
  | .ok l t => k (t.homeWrite l bs)
  | .gone t => k t
  | .wait t => t
/-- Park a fibre on a trap: the record goes to the host, and a member fibre's plaza aborts (R162, R302). -/
def State.park (s : State) (f : Fibre) (bs : List Byte) : State :=
  let s := (s.setF { f with status := .parked, wait := .none }).laneDone f
  let s := { s with hostFaults := s.hostFaults ++ [bs] }
  if f.tag = 0 then s else s.causeAbort f.tag 0x06

/-- Taking a trap (R162): the record, trap mode, g14:g15 and the vector; without a vector, or in trap mode, parking. A fibre
that an abort has reached carries no tag in its vector (R303). -/
def State.takeTrap (s : State) (f0 : Fibre) (t : TrapInfo) : State :=
  let f := { f0.flush with wait := .none, waited := false, inst := none, fresh := false, dist := f0.distNow, fuse := none }
  if f.trapMode then s.park f (trapBytes f t true)
  else
    let bs := trapBytes f t false
    s.writeRecord f bs fun s =>
      if f.vector = 0 then s.park f bs
      else
        (s.setF { f.setPairNow 14 (.ofNat 64 (s.recordAddr f)) with
          trapMode := true, pc := f.vector, dist := 0
          tag := if f.abort.isSome then 0 else f.tag
          plzSet := if f.abort.isSome then none else f.plzSet }).laneDone f

/-- A trap at an instruction that does not retire. -/
def State.trapAt (s : State) (f : Fibre) (i : Instr) (c : Cause) (detail daddr : Nat := 0) : State :=
  s.takeTrap f { cause := c, detail := detail, pc := f.pc, iaddr := f.pc, insn := insnWord i, daddr := daddr }

/-- A reserved field of the record, bits 7:4 of FLAGS or its last four bytes, is not zero (R162). -/
def badRecord (rb : List Byte) : Bool := 16 ≤ (rb.getD 1 0).toNat || leNat (rb.drop 60) ≠ 0
/-- A `tret` reads the record uncached, once the fibre's own accesses to it are performed (R317); where its address has no translation it reads free values (log 4). A record with a reserved
field not zero is rejected (R6), and one in a sector that is poisoned, or whose check value does not match, is not consumed
(R233, R234): the `tret` traps UNDEF or INTEGRITY, and the fibre parks (DESIGN CHOICE, log 85). -/
def State.readRecord (s : State) (f : Fibre) (i : Instr) (k : State → List Byte → State) : State :=
  let judge (t : State) (rb : List Byte) : State := if badRecord rb then t.trapAt f i .undef else k t rb
  match s.recordAt f false with
  | .ok l t =>
    if t.ownAhead f l 64 then t else
    let r := checkRead (t.peekAll l 64) l 64 0
    if r.2.isEmpty then judge r.1 (r.1.bytes l 64) else r.1.trapAt f i .integrity 0 (s.recordAddr f)
  | .gone t => judge (t.draw 64) (t.freeBytesAt 64)
  | .wait t => t

/-- A lane that resumes is waited for no longer at the cross-lane instruction at which it trapped (R86). -/
def State.laneBack (s : State) (f : Fibre) : State :=
  if f.held.isNone then s
  else { s with
    batches := s.batches.map fun t => { t with
      back := (t.back.map fun p => (p.1, p.2.filter (· ≠ f.uid))).filter fun p => !p.2.isEmpty }
    fibres := s.fibres.map fun g => match g.wait with
      | .lanes us => { g with wait := .lanes (us.filter (· ≠ f.uid)) }
      | _ => g }

/-- Return from a trap (R164) with the record's bytes as the vector left them: to the record's PC, or to a label. The mode
word's reserved bits stay 0 (R58). Every pending write is visible after it: R50 says so of the writes before the trap, and those of
the vector's own instructions are taken with them, whatever the stall field (DESIGN CHOICE, log 115). -/
def State.returnTrap (s : State) (f : Fibre) (i : Instr) (stall : Nat) (rb : List Byte) (label : Option Nat) : State :=
  let pc := leNat (rb.drop 8 |>.take 8) % 2 ^ 57
  let g := f.retire false i.size { stall := stall, taken := some pc, leaves := false, flush := true }
  let g := g.setPairNow 14 (.ofNat 64 (leNat (rb.drop 32 |>.take 8)))
  let g := { g with
    mode := .ofNat 32 (leNat (rb.drop 40 |>.take 4) % 512)
    preds := .ofNat 8 (leNat (rb.drop 44 |>.take 1))
    trapMode := false, aborted := 0 }
  let g := match label with
    | some t => { g.leaveLoops pc t with pc := t }
    | none => g
  (s.setF g).laneBack f

/-! Issue (R26, R27, R44, R49, R69). -/

/-- The codes that an instruction reads early: the guard, and its sources when the guard holds. -/
def Fibre.earlyReads (f : Fibre) (guard : List Nat) (srcs : List Nat) : List Nat := (guard ++ srcs).filter f.early

def minCode (l : List Nat) : Nat := l.foldl min 255

/-- The guard's value (R26). -/
def Fibre.guard (f : Fibre) (g : BitVec 4) : Bool := f.pred (g.setWidth 3) != g.getLsbD 3

/-- Issue an instruction of the current fibre: `uses` are its register fields, `srcs` the codes it reads. One with a false guard adds
1 + S to the distance and no more: a `nap` adds no n, and a wait makes no write visible (DESIGN CHOICE, log 116: R26 keeps the stall
field alone, R46 names the instructions). -/
def issue (s : State) (i : Instr) (g : BitVec 4) (stall : Nat) (uses : List Reg) (srcs : List Nat)
    (body : Fibre → State) : Result :=
  match s.cur? with
  | none => .fault .noFibre
  | some f =>
    if uses.any (fun r => decide (f.window ≤ r.toNat)) || (f.craco && i.size == 2) then .next (s.trapAt f i .undef)
    else
      let gc := [pc8 (g.setWidth 3)]
      if f.guard g then
        let e := f.earlyReads gc srcs
        if f.chk && !e.isEmpty then .next (s.trapAt f i .stallShort (minCode e)) else .next (body f)
      else
        let e := f.earlyReads gc []
        if f.chk && !e.isEmpty then .next (s.trapAt f i .stallShort (minCode e))
        else .next (s.retire f i { stall := stall })

/-- A lane instruction (R69): the effect on the fibre, then it retires. -/
def lane (s : State) (i : Instr) (h : Hdr) (uses : List Reg) (srcs : List Nat) (eff : Fibre → Fibre) : Result :=
  issue s i h.g h.s.toNat uses srcs fun f => s.retire (eff f) i { stall := h.s.toNat }

/-- An ill-formed group: UNDEF at its first word, when it has been decoded (R32, R44). -/
def undefined (s : State) (i : Instr) : Result :=
  match s.cur? with
  | none => .fault .noFibre
  | some f => .next (s.trapAt f i .undef)

end Sys2Proof.Machine
end

