-- ==== Sys2Proof/Machine/Flags.lean ====
section
/-! DEFINITION. The mode word's effects (R58, R59), the sticky bits (R66), rounding of lane results (R64, R68, R76)
and the conditions of the compares (R82). -/

namespace Sys2Proof.Machine

/-- The effective rounding (R58): a static selector replaces RM. -/
def Fibre.rm (f : Fibre) (st : Option RM) : RM := st.getD (RM.ofBits f.mode.toNat)
/-- The flush bit of a format's class (R58): FZ16, FZB, FZ32, FZ64; narrow formats are never flushed. -/
def Fibre.fz (f : Fibre) (fm : Fmt) : Bool :=
  if fm = fF16 then f.modeBit 2 else if fm = fBF16 then f.modeBit 3
  else if fm = fF32 then f.modeBit 4 else if fm = fF64 then f.modeBit 5 else false
def Fibre.satf (f : Fibre) : Bool := f.modeBit 6

/-- A rounding selector of an `ext` (R31): v<2> selects v<1:0>. -/
def staticRM (v : BitVec 19) : Option RM := if v.getLsbD 2 then some (RM.ofBits v.toNat) else none

/-- The value a source presents (InF, R68). -/
def Fibre.inVal (f : Fibre) (fm : Fmt) (code : Nat) : FVal := fm.val (fm.inF (f.fz fm) code)
/-- Round under the fibre's mode word: the code, and whether OVF is raised. -/
def Fibre.round (f : Fibre) (st : Option RM) (fm : Fmt) (v : FVal) : Nat × Bool :=
  fm.round (f.rm st) (f.fz fm) f.satf v

def Fibre.fadd (f : Fibre) (st : Option RM) (fm : Fmt) (x y : Nat) : Nat × Bool :=
  f.round st fm ((f.inVal fm x).add (f.rm st) (f.inVal fm y))
def Fibre.fsub (f : Fibre) (st : Option RM) (fm : Fmt) (x y : Nat) : Nat × Bool :=
  f.round st fm ((f.inVal fm x).add (f.rm st) (f.inVal fm y).neg)
def Fibre.fmul (f : Fibre) (st : Option RM) (fm : Fmt) (x y : Nat) : Nat × Bool :=
  f.round st fm ((f.inVal fm x).mul (f.inVal fm y))
def Fibre.ffma (f : Fibre) (st : Option RM) (fm : Fmt) (x y z : Nat) : Nat × Bool :=
  f.round st fm (((f.inVal fm x).mul (f.inVal fm y)).add (f.rm st) (f.inVal fm z))
/-- Min and Max of R76 on sources read by InF. -/
def Fibre.fmin (f : Fibre) (fm : Fmt) (x y : Nat) : Nat := fm.min (fm.inF (f.fz fm) x) (fm.inF (f.fz fm) y)
def Fibre.fmax (f : Fibre) (fm : Fmt) (x y : Nat) : Nat := fm.max (fm.inF (f.fz fm) x) (fm.inF (f.fz fm) y)

/-- A packed pair: half 0 in bits 15:0, half 1 in bits 31:16 (R77). -/
def halves (op : Nat → Nat → Nat × Bool) (x y : Word) : Word × Bool :=
  let a := op (x.toNat % 65536) (y.toNat % 65536)
  let b := op (x.toNat / 65536) (y.toNat / 65536)
  (.ofNat 32 (a.1 + 65536 * b.1), a.2 || b.2)
def halves3 (op : Nat → Nat → Nat → Nat × Bool) (x y z : Word) : Word × Bool :=
  let a := op (x.toNat % 65536) (y.toNat % 65536) (z.toNat % 65536)
  let b := op (x.toNat / 65536) (y.toNat / 65536) (z.toNat / 65536)
  (.ofNat 32 (a.1 + 65536 * b.1), a.2 || b.2)

/-- The predicates a float compare writes (R82). -/
def fcmp (cc : Cc) (x y : FVal) : Bool :=
  match x.cmp y with
  | none => cc == .ne || cc == .tst
  | some o =>
    match cc with
    | .eq => o == .eq
    | .ne => o != .eq
    | .lt => o == .lt
    | .le => o != .gt
    | .gt => o == .gt
    | .ge => o != .lt
    | .tst => false

/-- Integer compares (R82). -/
def icmp (signed : Bool) (cc : Cc) (x y : Word) : Bool :=
  let lt := if signed then x.slt y else x.ult y
  match cc with
  | .eq => x == y
  | .ne => x != y
  | .lt => lt
  | .le => lt || x == y
  | .gt => !lt && x != y
  | .ge => !lt
  | .tst => x &&& y != 0

/-- Set bits of `%sat`: bit 0 CONV, bit 1 OVF (R60). -/
def Fibre.stick (f : Fibre) (conv ovf : Bool) : Fibre :=
  { f with sat := f.sat ||| (if conv then 1 else 0) ||| (if ovf then 2 else 0) }

/-- The SAT bit of a set's object, bit 0 of FLAGS at offset 28 (R66, R146). -/
def State.markSat (s : State) (l : Loc) : State :=
  s.setBytes (l.add 28) (Dec.leBytes 4 (s.nat (l.add 28) 4 ||| 1))

/-- Sticky (R66): `%sat` of the fibre, and the SAT bit of its set. A saturation after the fibre's arrival is recorded
in the next phase. -/
def State.sticky (s : State) (f : Fibre) (conv ovf : Bool) : State × Fibre :=
  if conv || ovf then
    ((match f.set with
      | some l => if f.arrived.isSome then { s with satNext := l :: s.satNext.erase l } else s.markSat l
      | none => s), f.stick conv ovf)
  else (s, f)

/-- A lane instruction that may raise sticky bits: the effect gives the fibre, CONV and OVF. -/
def laneSticky (s : State) (i : Instr) (h : Hdr) (uses : List Reg) (srcs : List Nat)
    (eff : Fibre → Fibre × Bool × Bool) : Result :=
  issue s i h.g h.s.toNat uses srcs fun f =>
    let r := eff f
    let t := s.sticky r.1 r.2.1 r.2.2
    t.1.retire t.2 i { stall := h.s.toNat }

end Sys2Proof.Machine
end

