-- ==== Sys2Proof/Machine/Operands.lean ====
section
/-! DEFINITION. Operand forms: immediates with and without `ext` (R30, R31, R33, R73), offsets (R28), and the registers
and codes that a pair names. -/

namespace Sys2Proof.Machine

/-- The register fields and source codes of a pair. -/
def pairRegs (r : Reg) : List Reg := [r, odd r]
def pairCodes (r : Reg) : List Nat := [rc r, rc (odd r)]

/-- A 0x0B immediate, K = Sext(imm9, 32) or Sext(v : imm9, 32) (R73). -/
def imm9 (v : Option (BitVec 19)) (imm : BitVec 9) : Word :=
  match v with
  | none => imm.signExtend 32
  | some v => (v ++ imm : BitVec 28).signExtend 32
/-- A 0x0C immediate: Sext(imm13, 32), or v : imm13 (R73). -/
def imm13 (v : Option (BitVec 19)) (imm : BitVec 13) : Word :=
  match v with
  | none => imm.signExtend 32
  | some v => v ++ imm
/-- A compare's immediate (R33). -/
def imm7 (v : Option (BitVec 19)) (imm : BitVec 7) : Word :=
  match v with
  | none => imm.signExtend 32
  | some v => (v ++ imm : BitVec 26).signExtend 32
/-- The k of `add.i64` (R72): Zext(f<5:0>), or Sext(v : f<5:0>, 64). -/
def imm6 (v : Option (BitVec 19)) (k : BitVec 6) : DWord :=
  match v with
  | none => k.setWidth 64
  | some v => (v ++ k : BitVec 25).signExtend 64
/-- A format-M offset in bytes, counted in access-size units (R28, R31). -/
def offM (v : Option (BitVec 19)) (off : BitVec 7) (size : Nat) : DWord :=
  let u : DWord := match v with
    | none => off.signExtend 64
    | some v => (v ++ off : BitVec 26).signExtend 64
  u * BitVec.ofNat 64 size
/-- The byte offset of a 0x2E access: sext(v), or 0 (R31). -/
def offD (v : Option (BitVec 19)) : DWord :=
  match v with
  | none => 0
  | some v => v.signExtend 64
/-- A format-E target: the address of the first word plus 2·offset (R28, R31). -/
def targetE (pc : Nat) (v : Option (BitVec 19)) (off : BitVec 19) : Nat :=
  let u : Int := match v with
    | none => off.toInt
    | some v => (v ++ off : BitVec 38).toInt
  (((pc : Int) + 2 * u) % (2 ^ 57 : Int)).toNat
/-- The target of a `fork.c` (R35, R31). -/
def targetF (pc : Nat) (v : Option (BitVec 19)) (off : BitVec 11) : Nat :=
  let u : Int := match v with
    | none => off.toInt
    | some v => (v ++ off : BitVec 30).toInt
  (((pc : Int) + 2 * u) % (2 ^ 57 : Int)).toNat

/-- The f32 and packed f16 values nearest to an integer immediate, whatever the mode word holds (R73). -/
def immF32 (k : Word) : Nat := (fF32.round .ne false false (FVal.ofInt k.toInt)).1
def immH2 (k : Word) : Word :=
  let c := (fF16.round .ne false false (FVal.ofInt k.toInt)).1
  .ofNat 32 (c + 65536 * c)

/-- Registers of the 16-bit form (R30). -/
def wide5 (r : BitVec 5) : Reg := r.setWidth 6

/-- The second source of a 16-bit form: the register a, or imm5 zero-extended (R30). -/
def Fibre.src16 (f : Fibre) (i : Bool) (a : BitVec 5) : Word := if i then a.setWidth 32 else f.reg (wide5 a)
/-- The same for the f32 operations, where imm5 is a float. -/
def Fibre.srcF16 (f : Fibre) (i : Bool) (a : BitVec 5) : Nat :=
  if i then immF32 (a.setWidth 32) else (f.reg (wide5 a)).toNat
def Fibre.srcH16 (f : Fibre) (i : Bool) (a : BitVec 5) : Word :=
  if i then immH2 (a.setWidth 32) else f.reg (wide5 a)
def uses16 (i : Bool) (a d : BitVec 5) : List Reg := if i then [wide5 d] else [wide5 a, wide5 d]
def srcs16 (i : Bool) (a d : BitVec 5) (readsD : Bool) : List Nat :=
  (if readsD then [rc (wide5 d)] else []) ++ (if i then [] else [rc (wide5 a)])

/-- A 16-bit form, which carries no guard and no stall count (R30). -/
def noGuard : Hdr := ⟨0, 0⟩

end Sys2Proof.Machine
end

