-- ==== Sys2Proof/Machine/Waits.lean ====
section
/-! DEFINITION. When a blocked fibre may go on, and which lanes of a held batch issue (R98). -/

namespace Sys2Proof.Machine

open Sys2Proof.Dec (fld)

def State.ended (s : State) (uid : Nat) : Bool :=
  match s.fib? uid with
  | some f => f.status == .ended
  | none => true

/-- Copies of a core in flight, entries of a quad's reservation table, and Roundabout entries of a core. -/
def State.copyCount (s : State) (core : Nat) : Nat := (s.copies.filter fun c => c.core == core && c.node.isNone).length
def MxKind.tabled : MxKind → Bool
  | .ksum _ _ => false
  | .dense | .sparse _ _ | .asel | .agat => true
def State.tableCount (s : State) (quad : Nat) : Nat := (s.mx.filter fun e => e.quad == quad && e.kind.tabled && e.tabled).length
def State.roundCount (s : State) (core : Nat) : Nat := (s.roundabout.filter fun r => r.core == core).length

/-- Tagged fibres created from a member set still live (R299): they entered through it and are not of it. -/
def State.taggedKids (s : State) (h : DWord) (set : Loc) : Bool :=
  s.fibres.any fun g => g.tag == h && g.plzSet == some set && g.set != some set && g.status != .ended

/-- A tentative access of a fibre that entered through a member set is outstanding: it completes before the set's vote is cast
(R304). -/
def State.taggedAccs (s : State) (h : DWord) (set : Loc) : Bool :=
  s.accs.any fun a => a.tag == h && s.fibres.any fun g => g.uid == a.fib && g.plzSet == some set

/-- Copies that have passed their checks and wait for a slot or for room in the counter (R137). -/
def State.waitingCopies (s : State) : List Copy := s.fibres.filterMap fun f => match f.wait with
  | .copySlot c => some c
  | _ => none

/-! The detector's table (R231). -/

/-- The die whose table keeps the records of a location; a scratchpad keeps its own (R136). -/
def Loc.tableDie : Loc → Option Nat
  | .dram pa => some (homeDie pa)
  | .host _ => some 0
  | .peer _ _ | .sp _ | .cb _ => none
def RegionRec.die (r : RegionRec) : Option Nat :=
  match r.space with
  | 0 => some (homeDie (4 * r.word))
  | 2 => some 0
  | _ => none
/-- Records of a die. -/
def State.recordCount (s : State) (d : Nat) : Nat := (s.records.filter fun r => r.die == some d).length
/-- The table is full: a registration that needs a new record waits. One that begins before that is stored whole (DESIGN
CHOICE, log 64). -/
def State.tableFull (s : State) (d : Nat) : Bool := decide (Config.detectorRecords ≤ s.recordCount d)
/-- A table that was full has drained below half: registrations are stored again. -/
def State.detectorDrains (s : State) (d : Nat) : State :=
  if s.detectorFull.contains d && decide (2 * s.recordCount d < Config.detectorRecords) then
    { s with detectorFull := s.detectorFull.filter (· ≠ d) } else s
/-- n new records find room. -/
def State.recordsFit (s : State) (l : Loc) (n : Nat) : Bool :=
  n == 0 || match l.tableDie with
    | some d => !s.tableFull d
    | none => true
/-- The die has given up storing what does not fit. -/
def State.detectorGaveUp (s : State) (l : Loc) : Bool :=
  match l.tableDie with
  | some d => s.detectorFull.contains d
  | none => false
/-- A registration at a location no longer waits. -/
def State.roomFor (s : State) (l : Loc) (n : Nat) : Bool := s.recordsFit l n || s.detectorGaveUp l

/-- The wait of a fibre is over. -/
def State.waitOver (s : State) (f : Fibre) : Bool :=
  match f.wait with
  | .none | .released _ | .collective _ _ _ | .committed _ | .faultFailed _ | .replied _ _ _ | .napOver => true
  | .counter c n => decide (f.counter c ≤ n)
  | .drain => f.outs.isEmpty
  | .drainStores => f.counter .st == 0 && f.counter .at == 0 && f.counter .rm == 0
  | .ballot _ => match f.plzSet with
    | some l => !s.taggedKids f.tag l && !s.taggedAccs f.tag l
    | none => true
  | .join kids _ => kids.all s.ended
  | .token => match s.launch? f.launch with
    | some l => decide (f.block ≤ l.token)
    | none => true
  | .copySlot _ => decide (s.copyCount f.core < Config.copySlots) && decide (f.counter .cp < 63)
  | .table _ => decide (s.tableCount (coreQuad f.core) < Config.tableEntries) && decide (f.counter .mx < 63)
  | .roundabout => decide (s.roundCount f.core < Config.roundaboutEntries)
  | .window _ ids => ids.all fun id =>
      (s.accs.all fun a => a.id != id) && (s.copies.all fun c => c.id != id) && s.waitingCopies.all fun c => c.id != id
  | .bias => s.biasCmd.isNone
  | .plaza h => s.wsLines.all (fun w => w.handle != h) || (match s.current? h with
    | some p => p.state == .committed || p.state == .aborted
    | none => false)
  | .room l n => s.roomFor l n
  | .lanes fs => fs.all fun u => match s.fib? u with
    | some g => !(g.trapMode || g.status == .parked) || g.status == .ended
    | none => true
  | .phase _ _ _ | .commit _ | .fault _ _ | .faultFull _ | .nap | .remote _ _ _ _ _ => false

/-- A counter wait of a class down to n covers the failed access: it is of the class and none of the n youngest (R131,
R132). -/
def Deferred.covered (d : Deferred) (c : Cls) (n : Nat) : Bool := d.cls == c && decide (n ≤ d.young)
/-- The deferred trap to be delivered where the fibre stands (R132): at a boundary, at a drain, at a phase wait and at a join
the oldest; at a counter wait the oldest that the wait covers. The phase waits of a vote and its ballot (R299), and those at a
peer's object or coordinator (R150, R287), are phase waits as well. After a restore the first boundary is where it stands, whatever
it waits for (R165, R202; DEDUCED, log 102). -/
def Fibre.dueDeferred (f : Fibre) : Option Deferred :=
  if f.fresh then f.deferred.head?
  else match f.wait with
  | .none | .drain | .drainStores | .phase _ _ _ | .join _ _ | .ballot _ | .commit _ | .remote _ _ true _ _ => f.deferred.head?
  | .counter c n => f.deferred.find? fun d => d.covered c n
  | .copySlot _ => if 63 ≤ f.counter .cp then f.deferred.find? fun d => d.covered .cp 62 else none
  | _ => none
def Fibre.takesDeferred (f : Fibre) : Bool := f.dueDeferred.isSome
/-- A PLAZA_ABORT reaches the fibre where it stands (R303): running, or in a wait that is not yet over. A peer's answer to
an arrival or another operation that is done at once comes first. -/
def Fibre.takesAbort (f : Fibre) : Bool :=
  f.abort.isSome && match f.wait with
    | .nap | .napOver | .released _ | .collective _ _ _ | .committed _ | .replied _ _ _ | .remote _ _ false _ _ => false
    | _ => true
def Fibre.deferredDue (f : Fibre) : Bool := !f.trapMode && (f.takesAbort || f.takesDeferred)

/-! Ticks and splits that stand at a boundary (R106 to R109, R118). -/

/-- The fibre stands inside a fused group: a timer tick takes effect after its last member (R55). -/
def Fibre.inGroup (f : Fibre) : Bool :=
  match f.fuse with
  | some p => decide (p.1 < f.pc) && decide (f.pc ≤ p.2)
  | none => false
def Fibre.tickStands (f : Fibre) : Bool := f.tickDue && !f.trapMode && !f.inGroup
/-- A DET tick is due (R107). -/
def State.detDue (s : State) (f : Fibre) : Bool :=
  match s.launch? f.launch with
  | some l => l.flags % 2 == 1 && decide (l.h ≤ f.hbc) && !f.trapMode && f.wait == .none
  | none => false
/-- A form-L range of the fibre has made the loop-back that splits it (R109). -/
def Fibre.loopSplit (f : Fibre) : Bool := f.ranges.any fun r => r.formL && r.armed && r.due
/-- A tick or a split that comes before a save at the same boundary (R118). -/
def State.beatStands (s : State) (f : Fibre) : Bool :=
  f.wait == .none && (f.loopSplit || f.tickStands || s.detDue f)

/-- The operations that a child's first instruction waits for are complete (R112). -/
def State.afterDone (s : State) (f : Fibre) : Bool :=
  f.after.all fun id =>
    (s.accs.all fun a => a.id != id) && (s.copies.all fun c => c.id != id) && s.mx.all fun e => e.id != id

/-- The fibre can take a step of its own. -/
def State.ready (s : State) (f : Fibre) : Bool :=
  f.status == .resident && s.afterDone f && (if f.stopped then s.beatStands f else s.waitOver f || f.deferredDue)

/-! Held batches (R97, R98). -/

def State.batch? (s : State) (id : Nat) : Option Batch := s.batches.find? fun b => b.id == id

/-- The lanes of a batch that are ready to issue together: not gone, not empty, not blocked, not in a vector. -/
def State.readyLanes (s : State) (b : Batch) : List Fibre :=
  b.lanes.filterMap fun l => match l with
    | .held u => match s.fib? u with
      | some f => if s.ready f && !f.trapMode then some f else none
      | none => none
    | .empty | .gone => none

/-- The address that stands for another one. -/
def standsFor (m : List (Nat × Nat)) (a : Nat) : Nat := ((m.find? fun p => p.1 == a).map (·.2)).getD a
def XBody.fits (x : XBody) (l : Launch) : Bool := x.kdesc == l.kdesc && x.asid == l.asid
def XBody.cracoAt (x : XBody) (a : Nat) : Bool := x.pairs.any fun p => p.1 == a
def XBody.nativeAt (x : XBody) (a : Nat) : Bool := x.pairs.any fun p => p.2 == a
/-- The PC of a fibre as its Craco body has it, where it stands in the translation of that body: lanes of a batch that stand at one
instruction in the two bodies stand at one address (R98, R346). -/
def State.batchPc (s : State) (f : Fibre) : Nat :=
  match f.craco || f.xlat, s.launch? f.launch with
  | true, some l => match s.xcache.find? fun x => x.fits l && x.nativeAt f.pc && (f.xlat || !x.cracoAt f.pc) with
    | some x => standsFor (x.pairs.map Prod.swap) f.pc
    | none => f.pc
  | _, _ => f.pc

/-- The lanes at the lowest PC among the ready lanes (R98). -/
def State.lowest (s : State) (b : Batch) : List Nat :=
  let fs := s.readyLanes b
  match fs with
  | [] => []
  | f :: rest =>
    let lo := rest.foldl (fun m g => min m (s.batchPc g)) (s.batchPc f)
    (fs.filter fun g => s.batchPc g == lo).map (·.uid)

/-- The lanes of the current issue: those still to execute it, or a new issue. -/
def State.issueOf (s : State) (b : Batch) : List Nat :=
  let left := b.issue.filter fun u => match s.fib? u with
    | some f => s.ready f && !f.trapMode
    | none => false
  if left.isEmpty then s.lowest b else left

/-- A fibre may take its turn: ready, and for a lane, in its batch's issue. -/
def State.mayRun (s : State) (f : Fibre) : Bool :=
  s.ready f && (match f.held with
    | some (b, _) => f.trapMode || (match s.batch? b with
      | some t => (s.issueOf t).contains f.uid
      | none => true)
    | none => true)

/-- A lane is gone from its batch (R98, R99); the batch ceases when every lane has gone. -/
def State.leaveBatch (s : State) (f : Fibre) : State :=
  match f.held with
  | none => s
  | some (b, n) =>
    let gone := s.batches.map fun t =>
      if t.id = b then { t with lanes := t.lanes.set n .gone, issue := t.issue.filter (· ≠ f.uid) } else t
    { s with batches := gone.filter fun t => t.lanes.any fun l => match l with
        | .held _ => true
        | .empty | .gone => false }

end Sys2Proof.Machine
end

