-- ==== Sys2Proof/Machine/CrossLane.lean ====
section
/-! DEFINITION. Cross-lane instructions of a held batch (R85 to R89). -/

namespace Sys2Proof.Machine

/-- The lanes at an instance: the batch's issue, or the lane alone in a vector (R86). -/
def State.instanceLanes (s : State) (f : Fibre) : List Nat :=
  match f.held with
  | none => []
  | some (b, _) =>
    if f.trapMode then [f.uid]
    else match s.batch? b with
      | none => [f.uid]
      | some t => let l := s.issueOf t; if l.contains f.uid then l else [f.uid]

def State.lanes (s : State) (f : Fibre) : List Lane :=
  match f.held with
  | none => []
  | some (b, _) => match s.batch? b with
    | some t => t.lanes
    | none => []

/-- What a lane reads of register a of lane j: its own read follows R46, another lane's is complete (R85, R86;
DEDUCED, log 26). -/
def State.laneReg (s : State) (lanes : List Lane) (me j : Nat) (a : Reg) : Word :=
  match lanes.getD j .empty with
  | .held u => match s.fib? u with
    | some g => if j = me then g.reg a else g.flush.reg a
    | none => 0
  | .empty | .gone => 0

def laneOf (f : Fibre) : Nat :=
  match f.held with
  | some (_, n) => n
  | none => 0

/-- The early reads of a lane at a cross-lane instruction. -/
def laneEarly (h : Hdr) (srcs : List Nat) (f : Fibre) : List Nat :=
  if f.chk then f.earlyReads [pc8 (h.g.setWidth 3)] (if f.guard h.g then srcs else []) else []

/-- Lanes that trapped STALL_SHORT at the instance that is held back at this address, and have not resumed since (R86). -/
def State.shortLanes (s : State) (f : Fibre) : List Nat :=
  match f.held with
  | none => []
  | some (b, _) => match s.batch? b with
    | some t => if f.trapMode then [] else
        ((t.back.filter fun p => p.1 == f.pc).flatMap (·.2)).filter fun u => match s.fib? u with
          | some g => (g.trapMode || g.status == .parked) && g.status != .ended && g.held.isSome
          | none => false
    | none => []
/-- The instance at an address is held back for the lanes listed, or no longer. -/
def State.holdBack (s : State) (f : Fibre) (us : List Nat) : State :=
  match f.held with
  | none => s
  | some (b, _) => if f.trapMode then s
    else { s with batches := s.batches.map fun t => if t.id = b then
        { t with back := (if us.isEmpty then [] else [(f.pc, us)]) ++ t.back.filter fun p => p.1 != f.pc } else t }

/-- Execute an instance for every lane at it: `eff` gives each active lane's new state and OVF, from the active lanes
in lane order. While a lane that trapped STALL_SHORT at it is not back, every lane that reaches it waits; a lane with a
false guard goes on at once, and one whose guard read is early counts as a lane that traps (DESIGN CHOICE, log 65). -/
def crossLane (s : State) (i : Instr) (h : Hdr) (uses : List Reg) (srcs : List Nat)
    (eff : List Fibre → Fibre → Fibre × Bool) : Result :=
  match s.cur? with
  | none => .fault .noFibre
  | some f =>
    if uses.any (fun r => decide (f.window ≤ r.toNat)) then .next (s.trapAt f i .undef)
    else if f.held.isNone then
      issue s i h.g h.s.toNat uses srcs fun f => s.trapAt f i .held
    else
      let fs := (s.instanceLanes f).filterMap s.fib?
      let short := fs.filter fun g => !(laneEarly h srcs g).isEmpty
      let away := s.shortLanes f
      if short.isEmpty && away.isEmpty then
        let s := s.holdBack f []
        let active := fs.filter fun g => g.guard h.g
        .next (fs.foldl (fun t g =>
          if g.guard h.g then
            let r := eff active g
            let u := t.sticky r.1 false r.2
            u.1.retire u.2 i { stall := h.s.toNat }
          else t.retire g i { stall := h.s.toNat }) s)
      else
        .next (fs.foldl (fun t g =>
          if (laneEarly h srcs g).isEmpty then
            (if g.guard h.g then t.block g (.lanes (away ++ short.map (·.uid))) else t.retire g i { stall := h.s.toNat })
          else t.trapAt g i .stallShort (minCode (laneEarly h srcs g))) (s.holdBack f (away ++ short.map (·.uid))))

def firstLane (fs : List Fibre) : Nat :=
  match fs with
  | [] => 0
  | f :: _ => laneOf f

def execXlElect (h : Hdr) (pd : Pred) (s : State) : Result :=
  crossLane s (.xlElect h pd) h [] [] fun act f => (f.setPred 6 pd (laneOf f == firstLane act), false)
def execXlBcastB32 (h : Hdr) (a d : Reg) (s : State) : Result :=
  crossLane s (.xlBcastB32 h a d) h [a, d] [rc a] fun act f =>
    (f.setReg 6 d (s.laneReg (s.lanes f) (laneOf f) (firstLane act) a), false)
def execXlCount (h : Hdr) (pa : Pred) (d : Reg) (s : State) : Result :=
  crossLane s (.xlCount h pa d) h [d] [pc8 pa] fun act f =>
    (f.setReg 6 d (.ofNat 32 (act.filter fun g => if g.uid = f.uid then g.pred pa else g.flush.pred pa).length), false)

/-- A shuffle (R88): lane i reads lane src(i). -/
def shuffle (s : State) (i : Instr) (h : Hdr) (a d : Reg) (src : Nat → Nat) : Result :=
  crossLane s i h [a, d] [rc a] fun _ f =>
    (f.setReg 6 d (s.laneReg (s.lanes f) (laneOf f) (src (laneOf f)) a), false)
def offsetOf (k : BitVec 3) : Nat := Config.laneCount / 2 ^ k.toNat
def execXlBflyB32 (h : Hdr) (k : BitVec 3) (a d : Reg) (s : State) : Result :=
  shuffle s (.xlBflyB32 h k a d) h a d fun n => n ^^^ offsetOf k
def execXlUpB32 (h : Hdr) (k : BitVec 3) (a d : Reg) (s : State) : Result :=
  shuffle s (.xlUpB32 h k a d) h a d fun n => if n < offsetOf k then n else n - offsetOf k
def execXlDownB32 (h : Hdr) (k : BitVec 3) (a d : Reg) (s : State) : Result :=
  shuffle s (.xlDownB32 h k a d) h a d fun n => if Config.laneCount ≤ n + offsetOf k then n else n + offsetOf k

/-- Id of R89. -/
def redId : XlOp → Nat
  | .addI32 | .maxN32 | .orB32 | .xorB32 => 0
  | .addF32 => 0x80000000
  | .minI32 => 0x7FFFFFFF
  | .maxI32 => 0x80000000
  | .minN32 | .andB32 => 0xFFFFFFFF
  | .minF32 => 0x7F800000
  | .maxF32 => 0xFF800000

/-- Combine of R89, under the mode word of the lowest active lane. -/
def redOp (g : Fibre) (op : XlOp) (x y : Nat) : Nat × Bool :=
  let w (r : Word) : Nat × Bool := (r.toNat, false)
  let a : Word := .ofNat 32 x
  let b : Word := .ofNat 32 y
  match op with
  | .addI32 => w (a + b)
  | .addF32 => g.fadd none fF32 x y
  | .minI32 => w (if a.sle b then a else b)
  | .maxI32 => w (if b.sle a then a else b)
  | .minN32 => (min x y, false)
  | .maxN32 => (max x y, false)
  | .minF32 => (g.fmin fF32 x y, false)
  | .maxF32 => (g.fmax fF32 x y, false)
  | .andB32 => w (a &&& b)
  | .orB32 => w (a ||| b)
  | .xorB32 => w (a ^^^ b)

/-- One level of the tree: v(i) := Combine(v(i), v(i + h)). -/
def redLevel (g : Fibre) (op : XlOp) (h : Nat) (v : List Nat) : List Nat × Bool :=
  let rs := (List.range h).map fun i => redOp g op (v.getD i 0) (v.getD (i + h) 0)
  (rs.map (·.1), rs.any (·.2))
/-- The tree of R89 over 2^n values. -/
def redTree (g : Fibre) (op : XlOp) : Nat → List Nat → Bool → Nat × Bool
  | 0, v, o => (v.getD 0 0, o)
  | n + 1, v, o => let r := redLevel g op (2 ^ n) v; redTree g op n r.1 (o || r.2)

def execXlRed (h : Hdr) (op : XlOp) (a d : Reg) (s : State) : Result :=
  crossLane s (.xlRed h op a d) h [a, d] [rc a] fun act f =>
    let v := (List.range Config.laneCount).map fun n =>
      match act.find? fun g => laneOf g == n with
      | some g => (if g.uid = f.uid then g.reg a else g.flush.reg a).toNat
      | none => redId op
    let r := redTree (act.headD f) op 6 v false
    (f.setReg 16 d (.ofNat 32 r.1), r.2)

end Sys2Proof.Machine
end

