-- ==== Sys2Proof/Machine/Home.lean ====
section
/-! DEFINITION. What a home does with an access besides coherence: region records (R226 to R231), invalidations of translations (R224), and
the lines of plazas (R297, R298). -/

namespace Sys2Proof.Machine

open Sys2Proof.Dec (fld)

/-! Region records. -/

/-- A new access as the detector sees it. -/
structure NewAcc where
  fib : Nat
  launch : Nat
  block : Nat
  loc : Loc
  size : Nat
  writes : Bool
  sync : Bool
  scope : Scope := .dev
  core : Nat
  tag : DWord := 0
  owner : Nat
  engine : Bool := false
  before : List (Nat × Nat) := []

/-- Record space and address of a location; typed buffers and peers carry none here (R136, R287). -/
def Loc.recSpace : Loc → Option (Nat × Nat)
  | .dram p => some (0, p)
  | .sp k => some (1, k)
  | .host p => some (2, p)
  | .peer _ _ | .cb _ => none

def RecKind.writes : RecKind → Bool
  | .write | .syncWrite => true
  | .read | .syncRead => false
def RecKind.sync : RecKind → Bool
  | .syncRead | .syncWrite => true
  | .read | .write => false
def NewAcc.kind (a : NewAcc) : RecKind :=
  match a.sync, a.writes with
  | false, false => .read
  | false, true => .write
  | true, false => .syncRead
  | true, true => .syncWrite

/-- The scope includes both cores (R135, R287). Core x of a peer is 1024·(peer + 1) + x here, so that no two cores of the fabric
have one number. -/
def scopeCovers (sc : Scope) (x y : Nat) : Bool :=
  match sc with
  | .core => x == y
  | .quad => coreQuad x == coreQuad y
  | .die => coreDie x == coreDie y
  | .dev => x / 1024 == y / 1024
  | .fab | .sys => true

/-- Both accesses synchronise, each at a scope that includes the other (R135, R226). -/
def RegionRec.syncs (r : RegionRec) (a : NewAcc) : Bool :=
  r.kind.sync && a.sync && scopeCovers r.scope r.core a.core && scopeCovers a.scope r.core a.core

/-- The record conflicts with the access and is not exempt (R226, R229). -/
def RegionRec.conflicts (r : RegionRec) (space addr : Nat) (a : NewAcc) : Bool :=
  r.space == space && decide (addr / 4 ≤ r.word) && decide (r.word ≤ (addr + a.size - 1) / 4) && r.fib != a.fib &&
  (r.kind.writes || a.writes) && !r.syncs a &&
  !(a.before.any fun p => p.1 == r.fib && decide (r.owner < p.2)) && (r.tag == 0)

/-- DETAIL of a RACE (R232): the first record in the order write, synchronising write, read. -/
def raceDetail (rs : List RegionRec) (a : NewAcc) : Nat :=
  let of (k : RegionRec → Bool) (code : Nat) : Option Nat :=
    (rs.find? k).map fun r => a.writes.toNat + 2 * code + (if r.launch = a.launch ∧ r.block = a.block then 8 else 0)
  ((of (fun r => r.kind == .write) 1).orElse fun _ =>
    (of (fun r => r.kind == .syncWrite) 2).orElse fun _ => of (fun _ => true) 0).getD 0

/-- A launch is flagged DET. -/
def State.detLaunch (s : State) (l : Nat) : Bool :=
  match s.launch? l with
  | some l => l.flags % 2 == 1
  | none => false

/-- An atomic of sem `rlx` synchronises at any scope: its scope orders nothing (DEDUCED, log 70: R226, R307). -/
def syncScope (rlx : Bool) (sc : Scope) : Scope := if rlx then .sys else sc
/-- The access as the detector sees it (R226): atomics and ordered accesses synchronise. -/
def Access.toNew (a : Access) (f : Fibre) (writes : Bool) : NewAcc where
  fib := a.fib
  launch := f.launch
  block := f.block
  loc := a.loc
  size := a.size
  writes := writes
  sync := a.acq || a.rel || (match a.op with
    | .atom _ _ _ _ _ => true
    | .load _ _ | .store _ | .openPlaza _ => false)
  scope := syncScope (!a.acq && !a.rel) a.scope
  core := f.core
  tag := a.tag
  owner := a.id
  before := f.before

/-- The outcome of a registration: the state with the access recorded, the DETAIL of the RACE that refuses it, or a wait
for room in the table. -/
inductive Registered where
  | ok (s : State)
  | race (detail : Nat)
  | full

/-- The records of an access: one for each word. -/
def NewAcc.records (a : NewAcc) (space addr : Nat) : List RegionRec :=
  ((List.range ((addr + a.size + 3) / 4 - addr / 4)).map (· + addr / 4)).map fun w =>
    ⟨a.fib, a.launch, a.block, space, w, a.kind, a.scope, a.core, a.owner, false, a.engine, a.tag⟩
/-- The last toucher of the sectors of an access of a DET launch (R230). -/
def State.touch (s : State) (a : NewAcc) : State :=
  let ks := a.loc.sectors a.size
  if s.detLaunch a.launch && !ks.isEmpty then
    { s with touched := (ks.map fun k => (a.launch, k, a.block)) ++
        s.touched.filter fun t => !(t.1 == a.launch && ks.contains t.2.1) }
  else s

/-- An open record of the same fibre and kind, whose access is complete: a further access to the word widens it (R227). -/
def NewAcc.widens (a : NewAcc) (r : RegionRec) : Bool :=
  !a.engine && !r.engine && r.complete && r.fib == a.fib && r.kind == a.kind && r.scope == a.scope && r.core == a.core && r.tag == a.tag
/-- The records after an access is added: its fibre's own records are widened, and the others are new. -/
def NewAcc.added (a : NewAcc) (recs : List RegionRec) (rs : List RegionRec) : List RegionRec × List RegionRec :=
  let same (r n : RegionRec) : Bool := a.widens r && r.space == n.space && r.word == n.word
  (rs.map fun r => if recs.any (same r) then { r with owner := a.owner, complete := false } else r,
    recs.filter fun n => !rs.any fun r => same r n)
/-- Open records of the fibre cover every word of an access, in its kind (R227). -/
def State.covered (s : State) (a : NewAcc) : Bool :=
  match a.loc.recSpace with
  | none => false
  | some (space, addr) => (a.records space addr).all fun n => s.records.any fun r =>
      r.fib == n.fib && r.space == n.space && r.word == n.word && r.kind == n.kind && r.tag == n.tag && !r.engine

/-- An access that does not register again is one more access of the records that cover it (R227). -/
def State.recordAgain (s : State) (a : NewAcc) : State :=
  match a.loc.recSpace with
  | none => s
  | some (space, addr) =>
    let p := a.added (a.records space addr) s.records
    { s with records := p.1 ++ p.2 }
/-- Registration (R227). -/
def State.register (s0 : State) (a : NewAcc) : Registered :=
  match a.loc.recSpace with
  | none => .ok s0
  | some (space, addr) =>
    let s := match a.loc.tableDie with
      | some d => s0.detectorDrains d
      | none => s0
    let rs := s.records.filter fun r => r.conflicts space addr a
    if !rs.isEmpty then .race (raceDetail rs a)
    else
      let p := a.added (a.records space addr) s.records
      if s.recordsFit a.loc p.2.length then .ok ({ s with records := p.1 ++ p.2 }.touch a)
      else if s.detectorGaveUp a.loc then .ok (s.touch a) else .full

/-- The state after the registrations of an instruction that does not go on: one that traps or waits at issue makes no access, so they
leave no record (R44, R322, R325). -/
def State.unread (t s : State) : State := { t with records := s.records, touched := s.touched }
/-- An access is complete: a later release may close its records. -/
def State.recDone (s : State) (owner : Nat) : State :=
  { s with records := s.records.map fun r => if r.owner = owner then { r with complete := true } else r }
/-- A key store whose Widens have been applied, and that has not registered yet, has met the records that close now: the race
is complete (R240, R254; DEDUCED, log 98). -/
def Access.meetsFate (s : State) (gone : List RegionRec) (a : Access) : Access :=
  match s.fib? a.fib, a.loc.recSpace with
  | some f, some (space, addr) =>
    let n := a.toNew f true
    let rs := gone.filter fun r => r.conflicts space addr n
    if a.widened && a.fate.isNone && !rs.isEmpty then { a with fate := some (raceDetail rs n) } else a
  | _, _ => a
/-- Records close. -/
def State.closeRecs (s : State) (p : RegionRec → Bool) : State :=
  { s with
    records := s.records.filter fun r => !p r
    accs := s.accs.map (Access.meetsFate s (s.records.filter p)) }
/-- A release of the fibre issues (R228). -/
def State.release (s : State) (fib : Nat) : State := s.closeRecs fun r => r.fib == fib && r.complete && !r.engine
/-- The records of an operation close. -/
def State.closeOwner (s : State) (owner : Nat) : State := s.closeRecs fun r => r.owner == owner
/-- Every record of the fibre closes (R228). -/
def State.closeFibre (s : State) (fib : Nat) : State := s.closeRecs fun r => r.fib == fib

/-- The newest `launch` of the fibre with none of its older operations outstanding: the bound on their names, or 0. -/
def Fibre.drained (f : Fibre) : Nat := (f.closing.filter fun b => f.outs.all fun o => decide (b ≤ o.id)).foldl max 0
/-- The counters of a `launch` have drained: every record of the fibre's operations before it closes, an engine's too (R228;
DESIGN CHOICE, log 119). -/
def State.closeDrained (s : State) (fib : Nat) : State :=
  match s.fib? fib with
  | none => s
  | some f =>
    if f.drained = 0 then s
    else (s.closeRecs fun r => r.fib == fib && decide (r.owner < f.drained)).modF fib fun g =>
      { g with closing := g.closing.filter fun b => decide (f.drained < b) }
/-- An operation of the fibre completes: its counter falls. -/
def State.completeOp (s : State) (fib id : Nat) : State := (s.modF fib fun f => f.complete id).closeDrained fib

/-- The last toucher of a sector for a launch (R230). -/
def State.toucher (s : State) (launch sector : Nat) : Option Nat :=
  (s.touched.find? fun t => t.1 == launch && t.2.1 == sector).map (·.2.2)

/-! Invalidations of translations (R224). -/

/-- The invalidations are complete: the context entries of their ASIDs are read again (R224, R258, R269), and TLBs keep entries of
their ranges again. -/
def State.tlbDone (s : State) : State :=
  { s with
    bar := { s.bar with sync := s.bar.sync &&& ~~~1#32 }
    ctxSeen := s.ctxSeen.filter fun c => !(s.tlbInv.any fun v => v.1 == c.1)
    tlbInv := [] }
/-- An invalidation completes when the last access that used its translations has. -/
def State.tlbSettle (s : State) (id : Nat) : State :=
  let t := { s with tlbBusy := s.tlbBusy.filter (· ≠ id) }
  if s.tlbBusy.contains id && t.tlbBusy.isEmpty then t.tlbDone else t

/-! Lines of plazas (R297, R298). -/

/-- Tentative bytes over committed ones (R297). -/
def overlay (bs : List Byte) (pa : Nat) (cells : List Host.Cell) : List Byte :=
  (List.range bs.length).map fun i =>
    match cells.find? fun c => c.1 == pa + i with
    | some c => c.2
    | none => bs.getD i unlisted

/-- A plaza's view of bytes of global memory. -/
def State.viewBytes (s : State) (tag : DWord) (l : Loc) (n : Nat) : List Byte :=
  match l.lineAddr with
  | some a => overlay (s.bytes l n) a
      ((s.wsLines.filter fun w => w.handle == tag && w.line == a / 256).flatMap (·.bytes))
  | none => s.bytes l n

/-- Line entries of a die's directory. -/
def State.wsCount (s : State) (die : Nat) : Nat := (s.wsLines.filter fun w => lineDie w.line == die && !w.gone).length
/-- Tentative bytes of a plaza that a read meets have arrived bad (R234, R284). -/
def State.tentBad (s : State) (tag : DWord) (l : Loc) (n : Nat) : Bool :=
  match l.lineAddr with
  | some a => s.wsLines.any fun w => w.handle == tag && (sectorsOf a n).any w.bad.contains
  | none => false

/-- The first entry of a peer's plaza here: its coordinator is told of this directory (R300; DESIGN CHOICE, log 17). -/
def State.tellTouch (s : State) (h : DWord) : State :=
  if s.isLocal h || s.wsLines.any (fun w => w.handle == h) then s
  else { s with replies := s.replies ++ [3 :: Dec.leBytes 8 h.toNat] }

/-- Mark a line for a plaza, and write tentative bytes (R297); none when the directory is full. -/
def State.wsMark (s : State) (tag : DWord) (a : Nat) (write : Option (List Byte)) : Option State :=
  let cells := match write with
    | none => []
    | some bs => (List.range bs.length).map fun i => (a + i, bs.getD i unlisted)
  match s.wsLines.find? fun w => w.handle == tag && w.line == a / 256 with
  | some _ => some { s with wsLines := s.wsLines.map fun w =>
      if w.handle = tag ∧ w.line = a / 256 then
        { w with
          read := w.read || write.isNone, written := w.written || write.isSome
          bytes := cells ++ w.bytes.filter fun c => !(cells.any fun d => d.1 == c.1) }
      else w }
  | none =>
    if Config.directoryLines ≤ s.wsCount (lineDie (a / 256)) then none
    else some { s.tellTouch tag with
      wsLines := s.wsLines ++ [⟨tag, a / 256, write.isNone, write.isSome, false, cells, [], false, false⟩] }

end Sys2Proof.Machine
end

