-- ==== Sys2Proof/Machine/Address.lean ====
section
/-! DEFINITION. Where an instruction's operand lies: the checks of each space, in their order (R103, R123 to R125, R136,
R153 to R155, R190, R225, R261, R297). -/

namespace Sys2Proof.Machine

open Sys2Proof.Dec (fld)

/-- The outcome of the checks on an operand. -/
inductive Resolve where
  | ok (loc : Loc) (s : State)
  | trap (c : Cause) (detail daddr : Nat)
  | wait (s : State) (w : Wait)
  /-- The fibre stands at its instruction while a walker waits for the host's copy of a table (R260). -/
  | stand (s : State)

/-- The key of offset 0 of the fibre's scratchpad allocation on its core, or on the gang's leading core for a barrier
or set (R123, R147), with its size. -/
def State.spBase (s : State) (f : Fibre) (barrier : Bool) : Option (Nat × Nat) :=
  match s.block? f.launch f.block, s.launch? f.launch with
  | some b, some l =>
    if b.cores.contains f.core then
      some (spKey (if barrier then b.cores.headD f.core else f.core) b.alloc 0, l.kern.spad)
    else none
  | _, _ => none

/-- A scratchpad operand (R123, R124). -/
def resolveSp (s : State) (f : Fibre) (off size align : Nat) (barrier : Bool) : Resolve :=
  match s.spBase f barrier with
  | none => .trap .prot 0 off
  | some (base, len) =>
    if len ≤ off then .trap .prot 0 off
    else if off % align ≠ 0 then .trap .align 0 off
    else if len < off + size then .trap .prot 0 off
    else .ok (.sp (base + off)) s

/-- The window mapped for the fibre's set (R136, R154): one that is shut reaches nothing, and its set reaches none (R155). Where the
set is in more than one group with a slot n, the group it entered first has it (DESIGN CHOICE, log 106). -/
def State.window? (s : State) (f : Fibre) (n : Nat) : Option Window :=
  match f.set with
  | none => none
  | some mine =>
    (s.windows.filter fun w => w.set == mine && !w.shut).findSome? fun own =>
      s.windows.find? fun w => w.group == own.group && w.n == n && !w.shut

/-- Size of the allocation that a window maps. -/
def State.windowSize (s : State) (w : Window) : Nat :=
  match s.blocks.find? fun b => b.alloc == w.alloc && b.cores.contains w.core && !b.retired with
  | some b => match s.launch? b.launch with
    | some l => l.kern.spad
    | none => 0
  | none => 0

/-- A sharing-window operand (R123, R136). -/
def resolveSw (s : State) (f : Fibre) (n off size : Nat) : Resolve :=
  match s.window? f n with
  | none => .trap .revoked 0 off
  | some w =>
    if s.windowSize w ≤ off then .trap .prot 0 off
    else if off % size ≠ 0 then .trap .align 0 off
    else if s.windowSize w < off + size then .trap .prot 0 off
    else .ok (.sp (spKey w.core w.alloc off)) s

/-- The block holds the typed buffers of the fibre's quad (R190). -/
def State.holdsQuad (s : State) (f : Fibre) : Bool :=
  match s.block? f.launch f.block, s.launch? f.launch with
  | some b, some l => l.kern.rmask ≠ 0 && b.cores.any fun c => coreQuad c == coreQuad f.core
  | _, _ => false

/-- A typed-buffer operand, checked in the order of R191. -/
def resolveCb (s : State) (f : Fibre) (buf : Buf) (off size : Nat) : Resolve :=
  if !s.holdsQuad f then .trap .prot 0 off
  else if Config.bufBytes ≤ off then .trap .prot 0 off
  else if off % size ≠ 0 then .trap .align 0 off
  else .ok (.cb (cbKey (coreQuad f.core) buf.code off)) s

/-- A virtual address inside the frame-stack region of a live launch (R103): one that has blocks to retire. While only its completion
write is to come, the region is free (DESIGN CHOICE, log 108). -/
def State.inFrames (s : State) (asid va size : Nat) : Bool :=
  s.launches.any fun l => l.asid == asid && l.status == .running &&
    decide (l.frames < va + size) && decide (va < l.frames + l.framesize)

/-- A location lies in the scope of the fibre's plaza (R291, R297). -/
def State.inScope (s : State) (tag : DWord) (l : Loc) : Bool :=
  match s.current? tag with
  | none => true
  | some p =>
    match p.scope, l with
    | 2, _ => true
    | 1, .peer _ _ => false
    | 1, _ => true
    | _, .dram pa => homeDie pa == p.die
    | _, .host _ => p.die == 0
    | _, _ => false

/-- Translate for a fibre: fault wait, PAGE, PROT or bias wait (R125, R224, R225, R261). -/
def translateFor (s : State) (f : Fibre) (va : Nat) (k : AccKind) : Resolve :=
  if f.wait = .faultFailed (va / 4096) then .trap .page 0 va
  else
    let r := s.lookup (some f.core) (coreQuad f.core) (s.asidOf f) va k
    match r.2 with
    | .ok l _ => .ok l r.1
    | .prot => .trap .prot 0 va
    | .fault reason level ea =>
      let o := openFault r.1 (coreDie f.core) (s.asidOf f) va k 0 reason level ea
      .wait o.1 o.2.wait
    | .flip => .wait r.1 .bias
    | .busy => .stand r.1

/-- A global operand, checked in the order of R124. -/
def resolveGlobal (s : State) (f : Fibre) (va size align : Nat) (k : AccKind) : Resolve :=
  if 2 ^ 57 ≤ va then .trap .prot 0 va
  else if va % align ≠ 0 then .trap .align 0 va
  else if s.inFrames (s.asidOf f) va size then .trap .prot 0 va
  else
    match translateFor s f va k with
    | .ok l t =>
      if f.tag ≠ 0 && !t.inScope f.tag l then .trap .plazaMisuse 0x05 f.tag.toNat else .ok l t
    | r => r

/-- Go on with an operand, or take its trap or its wait. -/
def Resolve.andThen (r : Resolve) (s : State) (f : Fibre) (i : Instr) (k : Loc → State → State) : State :=
  match r with
  | .ok l t => k l t
  | .trap c d a => s.trapAt f i c d a
  | .wait t w => t.block f w
  | .stand t => t

/-- The outcome of the machine's own reads of tables and descriptors. -/
inductive Vread where
  | ok (bs : List Byte) (s : State)
  | fail (s : State)
  /-- A flip, a sealed line or the host's copy comes first (R260, R261, R298). -/
  | wait (s : State)

/-- An uncached read at a location by an agent (R217, R234): of a host line, through the die-0 slice that holds it (R255); a
peer's bytes are free values (log 11), and one that no path reaches gives none (R285). -/
def readLoc (s : State) (agent : Nat) (l : Loc) (n : Nat) : Vread :=
  match l with
  | .dram pa =>
    match s.meet l n 0 false with
    | (t, .wait _) => .wait t
    | (t, .go) =>
      let r := t.uncached pa n agent
      if !r.2 then .wait r.1
      else if (sectorsOf pa n).any r.1.poison.contains then .fail r.1 else .ok (r.1.bytes l n) r.1
  | .host _ =>
    match s.meet l n 0 false with
    | (t, .wait _) => .wait t
    | (t, .go) => if !t.mayServe l n false then .wait t else .ok (t.bytes l n) (t.peekAll l n)
  | .peer _ _ => if s.unreachable l then .fail s else .ok (s.freeBytesAt n) (s.draw n)
  | .sp _ | .cb _ => .ok (s.bytes l n) s

/-- The context-table entry of an ASID is read uncached by an agent, unless it has been read since the last invalidation
(R269). -/
def State.ctxRead (s : State) (agent asid : Nat) : Vread :=
  if s.ctxSeen.any fun c => c.1 == asid then .ok [] s
  else match readLoc s agent (.dram (s.ctxAt asid)) 64 with
    | .ok bs t => .ok bs (t.ctxSee asid)
    | o => o
/-- n granules at a virtual address, read uncached. -/
def vread (s : State) (core : Option Nat) (quad asid agent va gran : Nat) : Nat → Vread
  | 0 => .ok [] s
  | n + 1 =>
    if 2 ^ 57 ≤ va then .fail s
    else
      let r := s.lookup core quad asid va .read
      match r.2 with
      | .ok l _ => match readLoc r.1 agent l gran with
        | .ok bs t => match vread t core quad asid agent (va + gran) gran n with
          | .ok cs u => .ok (bs ++ cs) u
          | o => o
        | o => o
      | .prot | .fault _ _ _ => .fail r.1
      | .flip | .busy => .wait r.1

end Sys2Proof.Machine
end

