-- ==== Sys2Proof/Machine/Sync.lean ====
section
/-! DEFINITION. Barrier objects, phases, sets, rallies, sharing groups and plazas (R96, R97, R146 to R155, R290 to R301). -/

namespace Sys2Proof.Machine

open Sys2Proof.Dec (leNat leBytes fld)

/-! The barrier object (R146). -/

structure Obj where
  phase : Word
  expected : Nat
  bytesExp : Nat
  landed : Nat
  arrived : Nat
  flags : Nat
  deriving DecidableEq, Repr

def State.obj (s : State) (l : Loc) : Obj where
  phase := .ofNat 32 (s.nat l 4)
  expected := s.nat (l.add 4) 4
  bytesExp := s.nat (l.add 8) 8
  landed := s.nat (l.add 16) 8
  arrived := s.nat (l.add 24) 4
  flags := s.nat (l.add 28) 4

def Obj.bytes (o : Obj) : List Byte :=
  leBytes 4 o.phase.toNat ++ leBytes 4 o.expected ++ leBytes 8 o.bytesExp ++ leBytes 8 o.landed ++
  leBytes 4 o.arrived ++ leBytes 4 o.flags

def State.setObj (s : State) (l : Loc) (o : Obj) : State := s.homeWrite l o.bytes

def Obj.isSet (o : Obj) : Bool := fld o.flags 3 1 == 1
def Obj.failed (o : Obj) : Bool := fld o.flags 2 1 == 1
def Obj.satph (o : Obj) : Bool := fld o.flags 1 1 == 1
/-- A reserved FLAGS bit set, or ARRIVED above EXPECTED (R147). -/
def Obj.damaged (o : Obj) : Bool := o.flags / 16 ≠ 0 || decide (o.expected < o.arrived)
/-- The phase after completion (R148): SATPH := SAT, SAT := 0, surplus bytes carry over. -/
def Obj.next (o : Obj) : Obj :=
  { o with
    phase := o.phase + 1, landed := o.landed - o.bytesExp, bytesExp := 0, arrived := 0
    flags := o.flags / 4 * 4 + 2 * (o.flags % 2) }
/-- The object as its next phase opens, with a saturation recorded for that phase (R66). -/
def State.opened (s : State) (l : Loc) (o : Obj) : State × Obj :=
  if s.satNext.contains l then ({ s with satNext := s.satNext.erase l }, { o.next with flags := o.next.flags + 1 })
  else (s, o.next)
def Obj.full (o : Obj) : Bool := decide (o.expected ≤ o.arrived) && decide (o.bytesExp ≤ o.landed)
/-- Phase p has completed (R150). -/
def Obj.passed (o : Obj) (p : Word) : Bool :=
  let d := (o.phase - p).toNat
  decide (1 ≤ d) && decide (d ≤ 2 ^ 31)

/-! Plaza entries (R290 to R301). -/

def State.setPlaza (s : State) (p : Plaza) : State :=
  { s with plazas := s.plazas.map fun q => if q.die = p.die ∧ q.index = p.index then p else q }
/-- Votes and leaves make EXPECT: the plaza begins to seal (R294). -/
def Plaza.count (p : Plaza) : Plaza :=
  if p.state = .opened ∧ p.votes + p.leaves = p.expect then { p with state := .sealing } else p
/-- No live fibre carries the tag. -/
def State.plazaIdle (s : State) (h : DWord) : Bool := s.fibres.all fun f => f.tag != h || f.status == .ended
/-- No member fibre of this device is left in its wait or trap (R294). -/
def State.plazaLeft (s : State) (h : DWord) : Bool :=
  s.plazaIdle h && s.fibres.all fun f => f.aborted != h || f.status == .ended
/-- The peers of a plaza's member sets have told that their last member fibre has left (R294). -/
def Plaza.peersGone (p : Plaza) : Bool := (p.members.filterMap fun m => m.set.peerDev).all p.gone.contains
/-- Peers' plazas that are over, and that this device's last member fibre has left: their coordinators are told (R294; DESIGN
CHOICE, log 17). -/
def State.tellLeft (s : State) : State :=
  let left (a : AwayPlaza) : Bool := a.finished && s.plazaLeft a.handle
  { s with
    awayPlazas := s.awayPlazas.filter fun a => !left a
    replies := s.replies ++ (s.awayPlazas.filter left).map fun a => 4 :: leBytes 8 a.handle.toNat }
/-- COMMITTED or ABORTED with no member left in its wait or trap: FREE (R294). -/
def State.freePlazas (s : State) : State :=
  State.tellLeft { s with plazas := s.plazas.map fun p =>
      if (p.state = .committed ∨ p.state = .aborted) ∧ s.plazaLeft (p.handle s.dev) ∧ p.peersGone then
        { p with state := .free } else p }

/-- What a `plz.enter` phase gives its arrivals at the coordinator (R295). -/
def State.enterCheck (s : State) (h : DWord) (set : Loc) (fs : List Fibre) : Option (Cause × Nat) :=
  match s.current? h with
  | none => some (.plazaMisuse, 0x03)
  | some p =>
    if p.state = .aborted then some (.plazaAbort, p.cause)
    else if p.state ≠ .opened then some (.plazaMisuse, 0x03)
    else if p.members.any (fun m => m.set == set) then some (.plazaMisuse, 0x02)
    else if p.expect ≤ p.members.length then some (.plazaMisuse, 0x01)
    else if p.scope == 0 && fs.any (fun f => coreDie f.core != p.die) then some (.plazaMisuse, 0x05)
    else none

/-- The wait of a fibre changes, and the wait that stands under a trap (log 62). -/
def Fibre.mapWait (u : Wait → Wait) (f : Fibre) : Fibre :=
  { f with wait := u f.wait, rejoin := f.rejoin.map fun p => (p.1, u p.2) }
/-- The waits of a fibre: its own, and the one that stands under a trap. -/
def Fibre.waits (f : Fibre) : List Wait := f.wait :: (f.rejoin.map (·.2)).toList
/-- An operation that a running invalidation waits for is still under way: an access, a copy, a pass, or an object operation at a
peer (R224). -/
def State.underWay (s : State) (id : Nat) : Bool :=
  (s.accs.any fun a => a.id == id) || ((s.copies ++ s.waitingCopies).any fun c => c.id == id) || (s.mx.any fun e => e.id == id) ||
  s.fibres.any fun f => f.waits.any fun w => match w with
    | .remote _ n _ _ _ => n == id
    | _ => false
/-- Operations that are over, or that their fibre waits for no longer, hold no invalidation up. -/
def State.tlbSweep (s : State) : State :=
  let t := { s with tlbBusy := s.tlbBusy.filter s.underWay }
  if !s.tlbBusy.isEmpty && t.tlbBusy.isEmpty then t.tlbDone else t
/-- A copy that waited for its slot is queued no more: it holds no invalidation up. -/
def State.sweepCopy (s : State) (f : Fibre) : State := match f.wait with
  | .copySlot _ => s.tlbSweep
  | _ => s
/-- The set-collective plaza instruction by which the fibre waits for a phase of an object: its minor f and handle. -/
def Fibre.plzWait (f : Fibre) (l : Loc) : Option (Nat × DWord) :=
  f.waits.findSome? fun w => match w with
    | .phase l' _ (.plz m h) => if l' = l then some (m, h) else none
    | _ => none
/-- The wait of that instruction goes on as given. -/
def Fibre.plzGoes (l : Loc) (v : Wait) (f : Fibre) : Fibre :=
  f.mapWait fun w => match w with
    | .phase l' _ (.plz _ _) => if l' = l then v else w
    | w => w

/-- The wait that a set-collective arrival goes to when its phase completes unmixed. -/
def State.collect (s : State) (set : Loc) (minor : Nat) (h : DWord) (fs : List Fibre) (sat : Bool) : State :=
  let all (t : State) (u : Fibre → Fibre) : State := fs.foldl (fun t f => t.modF f.uid u) t
  if minor ≠ 1 then all s (Fibre.plzGoes set (.ballot sat))
  else if !s.isLocal h then
    all { s with nextId := s.nextId + 1 } (Fibre.plzGoes set (.remote (fld h.toNat 52 12) s.nextId true sat (.enter h)))
  else match s.enterCheck h set fs with
    | some (c, d) => all s (Fibre.plzGoes set (.collective (some c) d sat))
    | none =>
      let s := match s.current? h with
        | some p => s.setPlaza { p with members := p.members ++ [⟨set, false, false⟩] }
        | none => s
      all s fun f => { f.plzGoes set (.collective none 0 sat) with tag := h, plzSet := some set }

/-- Groups of at most W, with their lanes (R97). -/
def chunk (w : Nat) : Nat → List Nat → List (List Nat)
  | 0, _ => []
  | _, [] => []
  | n + 1, x :: xs => (x :: xs).take w :: chunk w n ((x :: xs).drop w)

/-- Insert a fibre by ascending `%fid`. -/
def insertFid (f : Fibre) : List Fibre → List Fibre
  | [] => [f]
  | g :: gs => if f.fid.toNat ≤ g.fid.toNat then f :: g :: gs else g :: insertFid f gs

/-- A member that is in a held batch as its set forms held batches traps HELD (R97): at its wait, or at its next
boundary (DEDUCED, log 66). -/
def Fibre.stillHeld (l : Loc) (key : Nat) (f : Fibre) : Fibre :=
  if f.set = some l ∧ f.held.isSome ∧ f.status ≠ .ended then
    if f.waits.any fun w => match w with
        | .released _ => true
        | _ => false
    then f.mapWait fun w => match w with
      | .released sat => .collective (some .held) 0 sat
      | w => w
    else { f with deferred := ⟨0, .ld, 0, .held, 0, f.pc, 0, key % 2 ^ 18⟩ :: f.deferred }
  else f
/-- Form the held batches of a set (R97): live members ranked by `%fid`, W lanes to a batch. A member that is still in a batch, and
traps HELD, takes no rank and no lane (DESIGN CHOICE, log 125). -/
def State.formBatches (s0 : State) (set : Loc) : State :=
  let s := { s0 with fibres := s0.fibres.map (Fibre.stillHeld set (match set with
    | .sp k => k
    | .dram p | .host p | .peer _ p | .cb p => p)) }
  let ms := (s.fibres.filter fun f => f.set == some set && f.status != .ended && f.held.isNone).foldr insertFid []
  (chunk Config.laneCount ms.length (ms.map (·.uid))).foldl (fun t us =>
    let b : Batch := ⟨t.nextId, us.map .held ++ List.replicate (Config.laneCount - us.length) .empty, [], []⟩
    let t := { t with nextId := t.nextId + 1, batches := t.batches ++ [b] }
    (List.range us.length).foldl (fun t n => t.modF (us.getD n 0) fun f => { f with held := some (b.id, n) }) t) s

/-- The effects of a completed phase p of the object at l on those who wait (R67, R97, R148, R150, R195, R295). A wait that
ends in HELD or in a trap of its plaza instruction takes that trap, and not SAT (DESIGN CHOICE, log 88). -/
def State.phaseDone (s : State) (l : Loc) (o : Obj) : State :=
  let p := o.phase - 1
  let arrivals := s.fibres.filter fun f => f.set == some l && f.arrived.isSome
  let here (w : Wait) : Option PhaseKind := match w with
    | .phase l' q k => if l' = l ∧ o.passed q then some k else none
    | _ => none
  let satOf (w : Wait) : Bool := match w with
    | .phase _ q _ => q == p && o.satph
    | _ => false
  let forms := s.fibres.any fun f => f.waits.any fun w => here w == some .rallyH
  -- set-collective plaza instructions
  let plz := arrivals.filter fun f => (f.plzWait l).isSome
  let s : State := match plz with
    | [] => s
    | f :: _ => match f.plzWait l with
      | some (m, h) =>
        if arrivals.all (fun g => decide (g.arrived = some (PhaseKind.plz m h))) then s.collect l m h plz o.satph
        else plz.foldl (fun t g => t.modF g.uid (Fibre.plzGoes l (.collective (some .plazaMisuse) 0x08 o.satph))) s
      | none => s
  -- the other waiters
  let go (f : Fibre) : Fibre := f.mapWait fun w => match here w with
    | some .bar | some .rally | some .rallyH => .released (satOf w)
    | _ => w
  let cleared (f : Fibre) : Fibre := if f.set == some l then { f with arrived := none, votes := 0 } else f
  let freed (e : MxEntry) : MxEntry := match e.waitAt with
    | some (l', q) => if l' = l ∧ e.tabled ∧ o.passed q then { e with released := true } else e
    | none => e
  let s := { s with
    fibres := s.fibres.map fun f => cleared (go f), mx := s.mx.map freed
    peerWaits := s.peerWaits.filter fun w => !(w.2.1 == l && o.passed w.2.2) }
  if forms then s.formBatches l else s

/-- Complete(O) (R148): the phase completes if it is full. -/
def State.completeOnce (s : State) (l : Loc) : State :=
  let o := s.obj l
  if o.full then ((s.opened l o).1.setObj l (s.opened l o).2).phaseDone l o.next else s
/-- A matrix or selection operation is over (R201, R228): its records close, the issuer's mx counter falls, and the entry
leaves the table. -/
def State.leaveMx (s : State) (e : MxEntry) : State :=
  let s := ((s.closeOwner e.id).tlbSettle e.id).completeOp e.fib e.id
  { s with mx := s.mx.filter fun g => g.id != e.id }
def State.leaveOp (s : State) (op : Nat) : State :=
  match s.mx.find? fun e => e.id == op with
  | some e => s.leaveMx e
  | none => s
/-- An engine's arrival in the collecting phase (R201), with the saturation it carries (R182); then its operation is
over. -/
def State.letIn (s : State) (a : HeldArrival) : State :=
  let o := s.obj a.loc
  ((s.setObj a.loc { o with arrived := o.arrived + 1, flags := if a.sat && o.flags % 2 == 0 then o.flags + 1 else o.flags }).completeOnce
    a.loc).leaveOp a.op
/-- Held engine arrivals enter the next phase, as many as it takes (R201); one that is dropped, as EXPECTED has fallen to 0,
sets the SAT that it carries (R182). -/
def State.admitHeld (s : State) (l : Loc) : Nat → State
  | 0 => s
  | n + 1 =>
    match s.heldArrivals.find? fun a => a.loc == l with
    | none => s
    | some a =>
      let o := s.obj l
      let t := { s with heldArrivals := s.heldArrivals.erase a }
      if o.expected = 0 then ((if a.sat then t.markSat a.loc else t).leaveOp a.op).admitHeld l n
      else if o.expected ≤ o.arrived then s else (t.letIn a).admitHeld l n
/-- Complete(O), and the held engine arrivals that a completion lets in. -/
def State.completeObj (s : State) (l : Loc) : State :=
  if (s.obj l).full then (s.completeOnce l).admitHeld l s.heldArrivals.length else s

/-- What a fibre's arrivals in the phase are, with one more (R295). -/
def PhaseKind.more (k : PhaseKind) : Option PhaseKind → PhaseKind
  | none => k
  | some j => if j = k then k else .mixed
/-- The arrival of a `plz.vote` or a `plz.leave`. -/
def PhaseKind.votes : PhaseKind → Bool
  | .plz m _ => m ≠ 1
  | .bar | .rally | .rallyH | .mixed => false
/-- An arrival of a fibre, which is a release (R148, R149): in its set, by the given instruction. -/
def State.arrive (s : State) (f : Fibre) (l : Loc) (k : PhaseKind) : State :=
  let s := s.release f.uid
  let o := s.obj l
  let s := s.setObj l { o with arrived := o.arrived + 1 }
  let s := if f.set = some l then s.modF f.uid fun f => { f with
    arrived := some (k.more f.arrived), votes := f.votes + if k.votes then 1 else 0 } else s
  s.completeObj l

/-- The end of an engine operation at its arrival barrier (R201): held while the collecting phase is full, dropped where
EXPECTED is 0. -/
def State.engineArrive (s : State) (a : HeldArrival) : State :=
  let o := s.obj a.loc
  if o.expected = 0 then s.leaveOp a.op
  else if o.expected ≤ o.arrived then { s with heldArrivals := s.heldArrivals ++ [a] }
  else
    let t := s.letIn a
    if (s.setObj a.loc { o with arrived := o.arrived + 1 } |>.obj a.loc).full then t.admitHeld a.loc t.heldArrivals.length else t

/-- Bytes landed toward the collecting phase (R138, R148). A copy's count, an engine's arrival and a departure act on a damaged object's
bytes as they stand: R147 names BARRIER_FAIL for instructions alone (DESIGN CHOICE, log 123). -/
def State.landBytes (s : State) (l : Loc) (n : Nat) : State :=
  let o := s.obj l
  (s.setObj l { o with landed := o.landed + n }).completeObj l

/-- FAIL set on an object: its waiters trap COPY_FAULT at their waits (R140), and operations that wait for it abort
(R195). -/
def State.failObj (s : State) (l : Loc) : State :=
  let o := s.obj l
  let s := s.setObj l { o with flags := o.flags / 8 * 8 + 4 + o.flags % 4 }
  let fails (e : MxEntry) : MxEntry := match e.waitAt with
    | some (l', _) => if l' = l ∧ e.tabled ∧ !e.released then { e with refused := some (2, 0) } else e
    | none => e
  let s := { s with mx := s.mx.map fails, peerWaits := s.peerWaits.filter fun w => w.2.1 ≠ l }
  { s with fibres := s.fibres.map (Fibre.mapWait fun w => match w with
      | .phase l' _ k => if l' = l then (if k = .bar then .none else .collective (some .copyFault) 0 false) else w
      | w => w) }

/-- A departure from the fibre's set (R152), a release. -/
def State.depart (s : State) (f : Fibre) : State :=
  match f.set with
  | none => s
  | some l =>
    let s := s.release f.uid
    let o := s.obj l
    let s := s.setObj l { o with
      expected := o.expected - 1
      arrived := if f.arrived.isSome then o.arrived - 1 else o.arrived }
    (s.modF f.uid fun f => { f with set := none, arrived := none, votes := 0 }).completeObj l

/-! Object operands. -/

/-- Where an instruction's object lies (R147): ALIGN first, then the checks of the space. -/
def resolveObj (s : State) (f : Fibre) (space : BarSpace) (a : Reg) : Resolve :=
  match space with
  | .sp =>
    let off := (f.reg a).toNat
    if off % 32 ≠ 0 then .trap .align 0 off else resolveSp s f off 32 32 true
  | .die | .dev =>
    let va := (f.pair a).toNat
    if va % 32 ≠ 0 then .trap .align 0 va else resolveGlobal s f va 32 32 .atomic

/-- The scope of an object (R149): an `sp` object's covers the block's gang. -/
def objScope (space : BarSpace) : Scope := if space = .die then .die else .dev
/-- The space and the register of the object of a barrier instruction. -/
def objOperand : Instr → Option (BarSpace × Reg)
  | .barInit _ space a _ | .barExpect _ space a _ | .barArrive _ space a _ | .barWait _ space a _ => some (space, a)
  | _ => none
def objAddr (f : Fibre) (space : BarSpace) (a : Reg) : Nat :=
  match space with
  | .sp => (f.reg a).toNat
  | .die | .dev => (f.pair a).toNat

/-- The access of a fibre's object operation, as the detector sees it (R147, R226): a writing one, that of a `bar.wait` too, which
changes no field of the object (DESIGN CHOICE, log 103). -/
def objAcc (s : State) (f : Fibre) (l : Loc) (size : Nat) (sc : Scope) : NewAcc :=
  { fib := f.uid, launch := f.launch, block := f.block, loc := l, size := size, writes := true, sync := true
    scope := sc, core := f.core, owner := s.nextId, before := f.before }

/-- An operation at an object goes on once the fibre's own earlier accesses to it are performed (R128), the host's copies
are out of the way (R260) and a host line is held (R255); until then it stands at its instruction. -/
def State.whenHeld (s : State) (f : Fibre) (l : Loc) (n : Nat) (k : State → State) : State :=
  if s.ownAhead f l n then s
  else if !(s.hostInWay l n true).isEmpty then s.snoop (s.hostInWay l n true)
  else if !s.mayServe l n true then s else k s

/-- Register a fibre's operation at an object (R147), then do it: a precise RACE, or a fault wait for room in the table (R231), which
leave no record of the instruction, nor of what it has registered since `s0`. The record is complete once the operation is done: a
release that the operation itself is closes it not (R228). The atomic unit gains the sectors first (R221). -/
def State.registerFrom (s s0 : State) (f : Fibre) (i : Instr) (a : NewAcc) (addr : Nat) (k : State → State) : State :=
  match s.register a with
  | .race d => (s.unread s0).trapAt f i .race d addr
  | .full => (s.unread s0).block f (.room a.loc a.size)
  | .ok t => (k ((a.loc.sectors a.size).foldl (fun t q => t.homeClear q) { t with nextId := t.nextId + 1 })).recDone a.owner
def State.registerObj (s : State) (f : Fibre) (i : Instr) (a : NewAcc) (addr : Nat) (k : State → State) : State :=
  s.registerFrom s f i a addr k

/-- The sectors of an object are read and checked as an operation reaches it: one that is poisoned fails it, precisely, with
INTEGRITY (R233, R234; DESIGN CHOICE, log 104). -/
def State.soundObj (s : State) (f : Fibre) (i : Instr) (l : Loc) (n addr : Nat) (k : State → State) : State :=
  let r := checkRead s l n 0
  if r.2.isEmpty then k r.1 else r.1.trapAt f i .integrity 0 (addr / 64 * 64)
/-- An operation at an object: a plaza's line, its own earlier accesses and the host's copies, poison, damage (R147), then a
precise RACE; then `k`. -/
def atObject (s : State) (f : Fibre) (i : Instr) (l : Loc) (sc : Scope) (addr : Nat) (check : Obj → Option Cause)
    (k : State → State) : State :=
  match s.meet l 32 f.tag true with
  | (s, .wait h) => s.block f (.plaza h)
  | (s, .go) => s.whenHeld f l 32 fun s => s.soundObj f i l 32 addr fun s =>
    let o := s.obj l
    if o.damaged then s.trapAt f i .barrierFail 0 addr
    else match check o with
      | some c => s.trapAt f i c 0 addr
      | none => s.registerObj f i (objAcc s f l 32 sc) addr k

/-- A remote object's operation (R287): posted to the peer, after what is done at issue (`pre`); then its reply. An abort
ends the wait of a `bar.wait` (`ends`, R303). -/
def atPeer (s : State) (f : Fibre) (i : Instr) (l : Loc) (addr : Nat) (ends : Bool) (pre : State → State)
    (k : State → DWord → State) : State :=
  match f.wait with
  | .replied data refused _ =>
    if !refused then k s data
    else match data.toNat % 256 with
      | 1 => s.trapAt f i .integrity 0 (addr / 64 * 64)
      | 2 => s.trapAt f i .race (fld data.toNat 8 8) addr
      | 4 => s.trapAt f i .set 0 addr
      | 5 => s.trapAt f i .barrierFail 0 addr
      | 6 => s.trapAt f i .copyFault 0 addr
      | _ => s.trapAt f i .page 0x02 addr
  | _ =>
    if s.unreachable l then s.trapAt f i .page 0x01 addr
    else if s.ownAhead f l 32 then s
    else pre ({ s with nextId := s.nextId + 1 }.block f (.remote (l.peerDev.getD 0) s.nextId ends false .other))

/-- The SAT of a phase wait that has retired: a trap at the boundary after it (R44, R67). -/
def satTrap (f : Fibre) (i : Instr) (obj : Nat) : Deferred := ⟨0, .ld, 0, .sat, 0, f.pc, insnWord i, obj⟩
/-- Retire after a phase wait: SAT when the phase was saturated and SATT is set (R67, R150). The trap record's PC is
that of the next instruction, and the wait has retired and counts 1 (R44). A DET tick due there comes first, by the fibre's own step.
In trap mode the fibre parks (R162). -/
def State.afterWait (s : State) (f : Fibre) (i : Instr) (h : Hdr) (sat : Bool) (obj : Nat) : State :=
  let s := s.retire f i { stall := h.s.toNat, flush := true, safe := true }
  if sat && f.satt then
    match s.fib? f.uid with
    | some g =>
      if g.trapMode then s.takeTrap g { cause := .sat, pc := g.pc, iaddr := f.pc, insn := insnWord i, daddr := obj }
      else s.modF f.uid fun g' => { g' with dist := 1, deferred := satTrap f i obj :: g.deferred }
    | none => s
  else s

/-! Barrier instructions (R148 to R150). -/

def barUses (space : BarSpace) (a d : Reg) : List Reg := (if space = .sp then [a] else pairRegs a) ++ [d]
def barSrcs (space : BarSpace) (a : Reg) : List Nat := if space = .sp then [rc a] else pairCodes a

/-- A fibre, of this device or of a peer, waits for a phase of the object. -/
def State.awaited (s : State) (l : Loc) : Bool :=
  (s.fibres.any fun g => g.waits.any fun w => match w with
    | .phase l' _ _ => l' == l
    | _ => false) || s.peerWaits.any fun w => w.2.1 == l
def execBarInit (h : Hdr) (space : BarSpace) (a d : Reg) (s : State) : Result :=
  let i := Instr.barInit h space a d
  issue s i h.g h.s.toNat (barUses space a d) (rc d :: barSrcs space a) fun f =>
    (resolveObj s f space a).andThen s f i fun l s =>
      let fin (s : State) := s.retire f i { stall := h.s.toNat }
      if l.isPeer then atPeer s f i l (objAddr f space a) false id fun s _ => fin s
      else atObject s f i l (objScope space) (objAddr f space a)
        (fun o => if o.isSet || s.awaited l then some .set else none)
        fun s => fin (s.setObj l ⟨0, (f.reg d).toNat, 0, 0, 0, 0⟩)

def execBarExpect (h : Hdr) (space : BarSpace) (a d : Reg) (s : State) : Result :=
  let i := Instr.barExpect h space a d
  issue s i h.g h.s.toNat (barUses space a d) (rc d :: barSrcs space a) fun f =>
    (resolveObj s f space a).andThen s f i fun l s =>
      let fin (s : State) := s.retire f i { stall := h.s.toNat }
      if l.isPeer then atPeer s f i l (objAddr f space a) false id fun s _ => fin s
      else atObject s f i l (objScope space) (objAddr f space a) (fun _ => none) fun s =>
        let o := s.obj l
        fin (s.setObj l { o with bytesExp := (o.bytesExp + (f.reg d).toNat) % 2 ^ 64 })

/-- An arrival that the object cannot take (R148). -/
def arriveCheck (f : Fibre) (l : Loc) (o : Obj) : Option Cause :=
  if o.isSet && f.set ≠ some l then some .set
  else if o.arrived = o.expected then some .barrierFail else none

def execBarArrive (h : Hdr) (space : BarSpace) (a d : Reg) (s : State) : Result :=
  let i := Instr.barArrive h space a d
  issue s i h.g h.s.toNat (barUses space a d) (barSrcs space a) fun f =>
    (resolveObj s f space a).andThen s f i fun l s =>
      let fin (s : State) (p : Word) :=
        match s.fib? f.uid with
        | some g => s.retire (g.setRegNow d p) i { stall := h.s.toNat }
        | none => s
      if l.isPeer then atPeer s f i l (objAddr f space a) false (·.release f.uid) fun s data => fin s (data.setWidth 32)
      else atObject s f i l (objScope space) (objAddr f space a) (arriveCheck f l) fun s =>
        let p := (s.obj l).phase
        fin (s.arrive f l .bar) p

def execBarWait (h : Hdr) (space : BarSpace) (a d : Reg) (s : State) : Result :=
  let i := Instr.barWait h space a d
  issue s i h.g h.s.toNat (barUses space a d) (rc d :: barSrcs space a) fun f =>
    let addr := objAddr f space a
    (resolveObj s f space a).andThen s f i fun l s =>
      if l.isPeer then atPeer s f i l addr true id fun s data => s.afterWait f i h (data.getLsbD 0) addr
      else match f.wait with
        | .released sat =>
          if (s.obj l).failed then s.trapAt f i .copyFault 0 addr else s.afterWait f i h sat addr
        | .collective c d _ => s.trapAt f i (c.getD .copyFault) d addr
        | _ =>
          atObject s f i l (objScope space) addr
            (fun o => if o.isSet && f.set ≠ some l then some .set else if o.failed then some .copyFault else none)
            fun s =>
              let o := s.obj l
              let p := f.reg d
              if o.passed p then s.afterWait f i h (p == o.phase - 1 && o.satph) addr
              else s.block f (.phase l p .bar)

/-! Rallies (R96, R97). -/

/-- Arrive and wait. -/
def State.arriveWait (s : State) (f : Fibre) (l : Loc) (kind : PhaseKind) : State :=
  let s := s.block f (.phase l (s.obj l).phase kind)
  match s.fib? f.uid with
  | some g => s.arrive g l kind
  | none => s
/-- What a rally finds at an object that it cannot arrive on (R96, R148, R150). -/
def rallyCheck (f : Fibre) (l : Loc) (o : Obj) : Option Cause :=
  if f.set ≠ some l || !o.isSet then some .set else if o.failed then some .copyFault
  else if o.arrived = o.expected then some .barrierFail else none

def rallyWith (s : State) (i : Instr) (h : Hdr) (a : Reg) (kind : PhaseKind) : Result :=
  issue s i h.g h.s.toNat [a] [rc a] fun f =>
    let off := (f.reg a).toNat
    match f.wait with
    | .released sat => s.afterWait f i h sat off
    | .collective c d _ => s.trapAt f i (c.getD .copyFault) d off
    | _ =>
      if f.set.isNone then s.trapAt f i .set 0 off
      else if kind = .rallyH && f.held.isSome then s.trapAt f i .held 0 off
      else (resolveObj s f .sp a).andThen s f i fun l s =>
        atObject s f i l .dev off (rallyCheck f l) fun s => s.arriveWait f l kind

def execRally (h : Hdr) (a : Reg) (s : State) : Result := rallyWith s (.rally h a) h a .rally
def execRallyH (h : Hdr) (a : Reg) (s : State) : Result := rallyWith s (.rallyH h a) h a .rallyH

/-! Sets (R151, R152). -/

/-- The plaza that a set is a member of and has not left: its entry here, or a peer's (R295, R296). -/
def State.memberOf (s : State) (l : Loc) : Option DWord :=
  match s.plazas.find? fun p => p.state != .free && p.members.any fun m => m.set == l && !m.left with
  | some p => some (p.handle s.dev)
  | none => (s.away.find? fun m => m.1 == l).map (·.2)

/-- The departure of a fibre from the set it is in is an access to that set's object (R147, R152): its registration. -/
def State.departAcc (s : State) (f : Fibre) (l : Loc) : NewAcc := objAcc s f l 32 .dev
/-- The set that the fibre departs from, if it is not the object at hand. -/
def Fibre.departs (f : Fibre) (at' : Option Loc) : Option Loc := f.set.filter fun l => decide (at' ≠ some l)
/-- Depart from that set, with its own record; a conflict is a precise RACE. -/
def State.departThen (s s0 : State) (f : Fibre) (i : Instr) (at' : Option Loc) (k : State → State) : State :=
  match f.departs at' with
  | none => k s
  | some l => s.registerFrom s0 f i (s.departAcc f l) (l.key.2 % 2 ^ 18) k
/-- Its object is at hand: the fibre's own accesses are performed, and a host line is held. -/
def State.departHeld (s : State) (f : Fibre) (at' : Option Loc) (k : State → State) : State :=
  match f.departs at' with
  | none => k s
  | some l => s.whenHeld f l 32 k

/-- A set instruction: held lanes trap HELD, tagged fibres as given; then the object, and the object of a set that the
fibre leaves by it. -/
def setOp (s : State) (i : Instr) (h : Hdr) (a : Reg) (tagTraps : Bool)
    (check : Fibre → Loc → Obj → Option (Cause × Nat × Nat)) (damage : Bool) (k : Fibre → Loc → State → State) : Result :=
  issue s i h.g h.s.toNat [a] [rc a] fun f =>
    let off := (f.reg a).toNat
    if f.held.isSome then s.trapAt f i .held 0 off
    else if tagTraps && f.tag ≠ 0 then s.trapAt f i .plazaMisuse 0x04 f.tag.toNat
    else (resolveObj s f .sp a).andThen s f i fun l s => s.whenHeld f l 32 fun s => s.departHeld f (some l) fun s =>
      let o := s.obj l
      if damage && o.damaged then s.trapAt f i .barrierFail 0 off
      else match check f l o with
        | some (c, d, x) => s.trapAt f i c d x
        | none => s.registerObj f i (objAcc s f l 32 .dev) off fun u => u.departThen s f i (some l) fun s =>
          let t := k f l s
          match t.fib? f.uid with
          | some g => t.retire g i { stall := h.s.toNat }
          | none => t

def execSetNew (h : Hdr) (a : Reg) (s : State) : Result :=
  setOp s (.setNew h a) h a false (fun _ _ _ => none) false fun f l s =>
    let s := s.depart f
    ({ s with satNext := s.satNext.erase l }.setObj l ⟨0, 1, 0, 0, 0, 8⟩).modF f.uid fun f => { f with set := some l, arrived := none, votes := 0 }

/-- `set.enrol` (R151). On the set of a plaza member it reports 0x04 (DESIGN CHOICE, log 92). -/
def execSetEnrol (h : Hdr) (a : Reg) (s : State) : Result :=
  setOp s (.setEnrol h a) h a true
    (fun f l o => if !o.isSet then some (.set, 0, (f.reg a).toNat)
      else (s.memberOf l).map fun hd => (.plazaMisuse, 0x04, hd.toNat)) true
    fun f l s =>
      let s := s.depart f
      let o := s.obj l
      (s.setObj l { o with expected := o.expected + 1 }).modF f.uid fun f => { f with set := some l, arrived := none, votes := 0 }

def execSetQuit (h : Hdr) (a : Reg) (s : State) : Result :=
  setOp s (.setQuit h a) h a true
    (fun f l _ => if f.set ≠ some l then some (.set, 0, (f.reg a).toNat) else none) true fun f _ s => s.depart f

/-! Sharing groups (R153 to R155). -/

def slotAt (s : State) (l : Loc) (n : Nat) : Nat := s.nat (l.add (4 * n)) 4
/-- A slot with a reserved bit set, or unused and not zero (R153). -/
def slotBad (w : Nat) : Bool := fld w 24 7 ≠ 0 || (fld w 31 1 == 0 && w ≠ 0)

/-- The group object of an instruction: 64 bytes, 64-aligned, homed on the fibre's die (R153, R154); `fits`: the fibre's set is, or is
not, in the group as the instruction asks. -/
def groupOp (s : State) (f : Fibre) (i : Instr) (a : Reg) (fits : Loc → Loc → State → Bool) (k : Loc → Loc → State → State) : State :=
  let va := (f.pair a).toNat
  if va % 64 ≠ 0 then s.trapAt f i .align 0 va
  else match f.set with
  | none => s.trapAt f i .set 0 va
  | some set => (resolveGlobal s f va 64 64 .atomic).andThen s f i fun l s =>
    let onDie := match l with
      | .dram pa => homeDie pa == coreDie f.core
      | _ => false
    if !onDie then s.trapAt f i .prot 0 va
    else match s.meet l 64 f.tag true with
      | (s, .wait h) => s.block f (.plaza h)
      | (s, .go) => s.whenHeld f l 64 fun s => s.soundObj f i l 64 va fun s =>
        if ((List.range 16).any fun n => slotBad (slotAt s l n)) || !fits l set s then s.trapAt f i .set 0 va
        else s.registerObj f i (objAcc s f l 64 .die) va (k l set)

def State.allocOf (s : State) (f : Fibre) : Nat :=
  match s.block? f.launch f.block with
  | some b => b.alloc
  | none => 0

/-- `grp.enter` (R154). Its destination, which R47 puts in no class, holds the slot number as it retires (DESIGN CHOICE,
log 105). -/
def execGrpEnter (h : Hdr) (a d : Reg) (s : State) : Result :=
  let i := Instr.grpEnter h a d
  issue s i h.g h.s.toNat (pairRegs a ++ [d]) (pairCodes a) fun f =>
    groupOp s f i a (fun l set s => !s.windows.any fun w => w.group == l && w.set == set) fun l set s =>
      let s := s.release f.uid
      let free := (List.range 16).find? fun n => fld (slotAt s l n) 31 1 == 0
      let fin (s : State) (v : Word) := s.retire (f.setRegNow d v) i { stall := h.s.toNat }
      match free with
      | none => fin s 0xFFFFFFFF
      | some n =>
        let s := s.homeWrite (l.add (4 * n)) (leBytes 4 (2 ^ 31 + 65536 * (f.core % 256) + s.allocOf f))
        fin { s with windows := s.windows ++ [⟨l, n, set, f.core, s.allocOf f, false⟩] } (.ofNat 32 n)

/-- Operations issued through the windows that a leaving set closes (R155). -/
def State.windowUses (s : State) (l : Loc) (n : Nat) (set : Loc) : List Nat :=
  (s.accs.filter fun a => match a.win with
    | some (g, m) => g == l && (m == n || a.set == some set)
    | none => false).map (·.id) ++
  ((s.copies ++ s.waitingCopies).filter fun c => c.wins.any fun w => w.1 == l && (w.2 == n || c.set == some set)).map (·.id)

/-- A slot's window is shut: no access reaches through it any more (R155, step 1). -/
def State.shutWindow (s : State) (w : Window) : State :=
  { s with windows := s.windows.map fun v => if v = w then { v with shut := true } else v }
/-- A slot clears, and its window is gone (R155, step 3). -/
def State.clearSlot (s : State) (l : Loc) (n : Nat) : State :=
  { s.homeWrite (l.add (4 * n)) (leBytes 4 0) with windows := s.windows.filter fun v => !(v.group == l && v.n == n) }
/-- `grp.leave` (R155): the window is shut, what was issued through it is performed, and the slot clears. -/
def execGrpLeave (h : Hdr) (a : Reg) (s : State) : Result :=
  let i := Instr.grpLeave h a
  issue s i h.g h.s.toNat (pairRegs a) (pairCodes a) fun f =>
    groupOp s f i a (fun l set s => s.windows.any fun w => w.group == l && w.set == set) fun l set s =>
      match s.windows.find? fun w => w.group == l && w.set == set with
      | none => s
      | some w =>
        let s := if w.shut then s else (s.release f.uid).shutWindow w
        let ids := s.windowUses l w.n w.set
        if ids.isEmpty then (s.clearSlot l w.n).retire f i { stall := h.s.toNat, safe := true }
        else s.block f (.window w.n ids)

/-! Plaza instructions other than `plz.open` (R292 to R301). -/

/-- A handle that no instruction may use: unreachable device, or an index of 4096 or more (R292). -/
def State.badHandle (s : State) (h : DWord) : Bool :=
  decide (4096 ≤ fld h.toNat 32 18) ||
  (fld h.toNat 52 12 ≠ s.dev.toNat && !s.reaches (fld h.toNat 52 12))

/-- Arrive on a set for a set-collective plaza instruction and wait. -/
def plzArrive (s : State) (f : Fibre) (i : Instr) (l : Loc) (off minor : Nat) (hd : DWord) : State :=
  atObject s f i l .dev off (rallyCheck f l) fun s => s.arriveWait f l (.plz minor hd)
/-- The wait of a set-collective instruction ends in a trap (R140, R163, R295): a COPY_FAULT names the set's object, the
others the handle. -/
def State.collectiveTrap (s : State) (f : Fibre) (i : Instr) (c : Cause) (detail off : Nat) (hd : DWord) : State :=
  s.trapAt f i c detail (if c = .copyFault then off else hd.toNat)

/-- `plz.enter` (R295). A trap of its own in a saturated phase goes before SAT (DESIGN CHOICE, log 88). -/
def execPlzEnter (h : Hdr) (a d : Reg) (s : State) : Result :=
  let i := Instr.plzEnter h a d
  issue s i h.g h.s.toNat (pairRegs a ++ [d]) (pairCodes a ++ [rc d]) fun f =>
    let hd := f.pair a
    let off := (f.reg d).toNat
    match f.wait with
    | .collective none _ sat => s.afterWait f i h sat off
    | .collective (some c) e _ => s.collectiveTrap f i c e off hd
    | .replied data refused sat =>
      if refused then s.trapAt f i .plazaMisuse 0x03 hd.toNat
      else if data = 0 then s.afterWait f i h sat off
      else s.trapAt f i (if data.getLsbD 8 then .plazaAbort else .plazaMisuse) (data.toNat % 256) hd.toNat
    | _ =>
      if s.badHandle hd then s.trapAt f i .plazaMisuse 0x03 hd.toNat
      else if f.tag ≠ 0 then s.trapAt f i .plazaMisuse 0x02 hd.toNat
      else if f.set.isNone then s.trapAt f i .set 0 off
      else (resolveObj s f .sp d).andThen s f i fun l s => plzArrive s f i l off 1 hd

/-- The set is no member that may still vote or leave: it has voted or left, or never entered (R296, R299). -/
def State.settled (s : State) (hd : DWord) (l : Loc) : Bool :=
  if s.isLocal hd then (match s.current? hd with
    | some p => !(p.members.any fun m => m.set == l && !m.voted && !m.left)
    | none => false)
  else !s.away.contains (l, hd)

/-- The fibre is at its set's ballot (R299). -/
def Fibre.votes? (hd : DWord) (set : Loc) (f : Fibre) : Bool := f.tag == hd && f.plzSet == some set && f.waits.any fun w => match w with
  | .ballot _ => true
  | _ => false
/-- A set's ballot goes to a coordinator on a peer, once for all of its fibres (R296, R299). -/
def State.castAway (s : State) (hd : DWord) (set : Loc) (leave : Bool) : State :=
  { s with
    nextId := s.nextId + 1
    fibres := s.fibres.map fun (f : Fibre) => if f.votes? hd set then f.mapWait fun w => match w with
        | .ballot sat => .remote (fld hd.toNat 52 12) s.nextId true sat (if leave then .leave hd else .other)
        | _ => w
      else f }
/-- A set's vote or leave counts: the plaza is OPEN, and the set is a member that has done neither (R294, R296, R299). -/
def State.mayCast (s : State) (hd : DWord) (set : Loc) : Bool :=
  match s.current? hd with
  | some p => p.state == .opened && p.members.any fun m => m.set == set && !m.voted && !m.left
  | none => false
/-- Count a vote or a leave of a set once, and send its fibres on (R296, R299). A leave that does not count, as the plaza has begun
to abort, lets none go: the abort reaches them (R294, R303). -/
def State.castOnce (s : State) (hd : DWord) (set : Loc) (leave : Bool) : State :=
  if leave && !s.mayCast hd set then s else
  let s := match s.current? hd with
    | some p =>
      if s.mayCast hd set then
        s.setPlaza (Plaza.count { p with
          members := p.members.map fun (m : PlzMember) =>
            if m.set = set then { m with voted := m.voted || !leave, left := m.left || leave } else m
          votes := if leave then p.votes else p.votes + 1
          leaves := if leave then p.leaves + 1 else p.leaves })
      else s
    | none => s
  let cast (f : Fibre) : Fibre := f.mapWait fun w => match w with
    | .ballot t => if leave then .collective none 0 t else .commit t
    | w => w
  { s with fibres := s.fibres.map fun (f : Fibre) =>
      if f.votes? hd set then (if leave then { cast f with tag := 0, plzSet := none } else cast f) else f }

/-- `plz.leave` and `plz.vote` after the drain, the phase and the ballot. -/
def plzCast (s : State) (i : Instr) (h : Hdr) (a d : Reg) (leave : Bool) : Result :=
  issue s i h.g h.s.toNat (pairRegs a ++ [d]) (pairCodes a ++ [rc d]) fun f =>
    let hd := f.pair a
    let off := (f.reg d).toNat
    let out (s : State) (f : Fibre) (sat : Bool) :=
      ({ s with away := s.away.filter fun m => !(m.2 == hd && some m.1 == f.plzSet) }.afterWait
        { f with tag := 0, plzSet := none } i h sat off).freePlazas
    match f.wait with
    | .collective none _ sat => out s f sat
    | .committed sat => out s f sat
    | .collective (some c) e _ => s.collectiveTrap f i c e off hd
    | .replied data refused sat =>
      if refused then s.trapAt f i .plazaMisuse 0x03 hd.toNat
      else if data = 0 then out s f sat
      else s.trapAt f i (if data.getLsbD 8 then .plazaAbort else .plazaMisuse) (data.toNat % 256) hd.toNat
    | .ballot sat =>
      match f.plzSet with
      | none => out s f sat
      | some set => if s.isLocal hd then s.castOnce hd set leave else s.castAway hd set leave
    | _ =>
      if s.badHandle hd then s.trapAt f i .plazaMisuse 0x03 hd.toNat
      else if f.tag ≠ hd || hd = 0 then s.trapAt f i .plazaMisuse 0x03 hd.toNat
      else (resolveObj s f .sp d).andThen s f i fun l s =>
        if s.settled hd l then s.trapAt f i .plazaMisuse 0x06 hd.toNat
        else if f.counter .st = 0 ∧ f.counter .at = 0 ∧ f.counter .rm = 0 then
          plzArrive s f i l off (if leave then 2 else 3) hd
        else s.block f .drainStores

def execPlzLeave (h : Hdr) (a d : Reg) (s : State) : Result := plzCast s (.plzLeave h a d) h a d true
def execPlzVote (h : Hdr) (a d : Reg) (s : State) : Result := plzCast s (.plzVote h a d) h a d false

def execPlzAbort (h : Hdr) (a : Reg) (s : State) : Result :=
  let i := Instr.plzAbort h a
  issue s i h.g h.s.toNat (pairRegs a) (pairCodes a) fun f =>
    if s.badHandle (f.pair a) then s.trapAt f i .plazaMisuse 0x03 (f.pair a).toNat
    else (s.causeAbort (f.pair a) 0x05).retire f i { stall := h.s.toNat }

end Sys2Proof.Machine
end

