-- ==== Sys2Proof/Machine/Fetch.lean ====
section
/-! DEFINITION. Fetching a group (R24): its length, and its bytes through translation. -/

namespace Sys2Proof.Machine

open Sys2Proof.Dec (leNat fld)

/-- Bytes of a group that does not begin with `ext`, as far as the bytes known say (R24, R29). -/
def plainNeed : List Byte → Nat
  | b0 :: rest =>
    if b0.toNat % 2 = 0 then 2
    else match rest with
      | b1 :: b2 :: b3 :: _ =>
        let w := leNat [b0, b1, b2, b3]
        if Dec.twoWord (fld w 7 6) then 8
        else if fld w 7 6 = 0x22 then 4 + 4 * (fld w 13 2 + 1)
        else 4
      | _ => 4
  | [] => 2

/-- Bytes of a group, as far as the bytes known say. -/
def groupNeed (bs : List Byte) : Nat :=
  match bs with
  | b0 :: b1 :: b2 :: b3 :: rest =>
    let w := leNat [b0, b1, b2, b3]
    if w % 2 = 1 ∧ fld w 7 6 = 0 then 4 + plainNeed rest else plainNeed bs
  | _ => plainNeed bs

/-- The outcome of a fetch: bytes, or a trap, or a wait (R24). -/
inductive Fetched where
  | ok (bs : List Byte) (s : State)
  | trap (c : Cause)
  | wait (s : State) (w : Wait)
  | stand (s : State)

/-- Append n half-words from an address. -/
def fetchHalves (s : State) (f : Fibre) : Nat → Nat → List Byte → Fetched
  | _, 0, bs => .ok bs s
  | va, n + 1, bs =>
    if 2 ^ 57 ≤ va then .trap .prot
    else match translateFor s f va .fetch with
      | .ok l t => fetchHalves t f (va + 2) n (bs ++ t.bytes l 2)
      | .trap c _ _ => .trap c
      | .wait t w => .wait t w
      | .stand t => .stand t

/-- Fetch the group at an address: two bytes, then what the bytes so far ask for. -/
def fetchMore (s : State) (f : Fibre) (va : Nat) : Nat → List Byte → Fetched
  | 0, bs => .ok bs s
  | n + 1, bs =>
    if groupNeed bs ≤ bs.length then .ok bs s
    else match fetchHalves s f (va + bs.length) ((groupNeed bs - bs.length + 1) / 2) bs with
      | .ok bs t => fetchMore t f va n bs
      | .trap c => .trap c
      | .wait t w => .wait t w
      | .stand t => .stand t

def fetchGroup (s : State) (f : Fibre) (va : Nat) : Fetched := fetchMore s f va 5 []

/-- The address after n groups (R100). -/
inductive Skipped where
  | ok (va : Nat) (s : State)
  | trap (c : Cause)
  | wait (s : State) (w : Wait)
  | stand (s : State)

/-- Where the n groups from an address end, as far as their bytes can be fetched, and how many are left from there on: the
lengths of a body are read with no effect of their own, and no fault (R100, R145; DEDUCED, log 35). -/
def bodyEnd (s : State) (f : Fibre) : Nat → Nat → Nat × Nat
  | va, 0 => (va, 0)
  | va, n + 1 =>
    match fetchGroup s f va with
    | .ok bs _ => bodyEnd s f (va + bs.length) n
    | .trap _ | .wait _ _ | .stand _ => (va, n + 1)

def skipGroups (s : State) (f : Fibre) : Nat → Nat → Skipped
  | va, 0 => .ok va s
  | va, n + 1 =>
    match fetchGroup s f va with
    | .ok bs t => skipGroups t f (va + bs.length) n
    | .trap c => .trap c
    | .wait t w => .wait t w
    | .stand t => .stand t

end Sys2Proof.Machine
end

