-- ==== Sys2Proof/Machine/Control.lean ====
section
/-! DEFINITION. Branches, calls, `bsel`, priority, `loose` and hardware loops (R91 to R95, R99 to R102). -/

namespace Sys2Proof.Machine

open Sys2Proof.Dec (fld)

/-- The link pair: the top pair of the window (R92). -/
def Fibre.link (f : Fibre) : Reg := .ofNat 6 (f.window - 2)
def State.linkCodes (s : State) : List Nat :=
  match s.cur? with
  | some f => pairCodes f.link
  | none => []

/-- `bra` (R91). -/
def braAt (i : Instr) (v : Option (BitVec 19)) (h : Hdr) (off : BitVec 19) (s : State) : Result :=
  issue s i h.g h.s.toNat [] [] fun f =>
    s.retire f i { stall := h.s.toNat, taken := some (targetE f.pc v off) }
def execBra (h : Hdr) (off : BitVec 19) (s : State) : Result := braAt (.bra h off) none h off s

/-- `call` (R91, R92): the link pair interlocks; loops stand (R102). -/
def callAt (i : Instr) (v : Option (BitVec 19)) (h : Hdr) (off : BitVec 19) (s : State) : Result :=
  issue s i h.g h.s.toNat [] [] fun f =>
    s.retire (f.setPairNow f.link (.ofNat 64 (f.pc + i.size))) i
      { stall := h.s.toNat, taken := some (targetE f.pc v off), leaves := false }
def execCall (h : Hdr) (off : BitVec 19) (s : State) : Result := callAt (.call h off) none h off s

/-- The target of the first case whose guard holds (R94). -/
def Fibre.chooseCase (f : Fibre) : List Case → Option Nat
  | [] => none
  | c :: cs =>
    if f.guard c.g then some (((f.pc : Int) + 2 * c.off.toInt) % (2 ^ 57 : Int)).toNat else f.chooseCase cs

def execBsel (st : BitVec 2) (cases : List Case) (s : State) : Result :=
  let i := Instr.bsel st cases
  issue s i 0 st.toNat [] (cases.map fun c => pc8 (c.g.setWidth 3)) fun f =>
    s.retire f i { stall := st.toNat, taken := f.chooseCase cases }

/-- A jump to a 64-bit address: odd targets trap ALIGN, targets beyond 57 bits PROT, at the branch (R92, R93). -/
def jumpTo (s : State) (f : Fibre) (i : Instr) (t : DWord) (k : Nat → State) : State :=
  if t.getLsbD 0 then s.trapAt f i .align 0 t.toNat
  else if 2 ^ 57 ≤ t.toNat then s.trapAt f i .prot 0 t.toNat
  else k t.toNat

def execRet (h : Hdr) (s : State) : Result :=
  let i := Instr.ret h
  issue s i h.g h.s.toNat [] s.linkCodes fun f =>
    if f.pair f.link = 0 then s.trapAt f i .frame
    else jumpTo s f i (f.pair f.link) fun t => s.retire f i { stall := h.s.toNat, taken := some t }

def execBraR (h : Hdr) (a : Reg) (s : State) : Result :=
  let i := Instr.braR h a
  issue s i h.g h.s.toNat (pairRegs a) (pairCodes a) fun f =>
    jumpTo s f i (f.pair a) fun t => s.retire f i { stall := h.s.toNat, taken := some t }

def execCallR (h : Hdr) (a : Reg) (s : State) : Result :=
  let i := Instr.callR h a
  issue s i h.g h.s.toNat (pairRegs a) (pairCodes a) fun f =>
    jumpTo s f i (f.pair a) fun t =>
      s.retire (f.setPairNow f.link (.ofNat 64 (f.pc + i.size))) i
        { stall := h.s.toNat, taken := some t, leaves := false }

/-- The fibre stands last in the order in which ready fibres of a level issue (R95). -/
def State.goLast (s : State) (uid : Nat) : State :=
  { s with fibres := (s.fibres.filter fun g => g.uid != uid) ++ s.fibres.filter fun g => g.uid == uid }
/-- `yield` (R95): the fibre goes last among those that are ready. -/
def execYield (h : Hdr) (s : State) : Result :=
  let i := Instr.yield h
  issue s i h.g h.s.toNat [] [] fun f => (s.retire f i { stall := h.s.toNat }).goLast f.uid

/-- `loose` (R99). In a vector too, and then the lanes that wait for this one go on without it (R86). -/
def execLoose (h : Hdr) (s : State) : Result :=
  let i := Instr.loose h
  issue s i h.g h.s.toNat [] [] fun f =>
    (((s.retire f i { stall := h.s.toNat }).laneBack f).leaveBatch f).modF f.uid fun g => { g with held := none }

/-- `prio n` and `prio.r a` (R95). -/
def execPrio (h : Hdr) (n : BitVec 4) (s : State) : Result :=
  lane s (.prio h n) h [] [] fun f => { f with prio := n }
def execPrioR (h : Hdr) (a : Reg) (s : State) : Result :=
  lane s (.prioR h a) h [a] [rc a] fun f => { f with prio := (f.reg a).setWidth 4 }

/-- End loop N and every loop installed after it (R100). -/
def Fibre.endLoops (f : Fibre) (n : Nat) : Fibre :=
  if (f.loop n).active then
    let o := (f.loop n).order
    [0, 1, 2].foldl (fun g m => if (f.loop m).active && decide (o ≤ (f.loop m).order) then g.endLoop m else g) f
  else f

/-- `loop` (R100). A count of 0 needs the address after the body, and takes the fault of a group that it cannot fetch; a body
that is entered faults at the instruction that cannot be fetched (R24, R145; DEDUCED, log 35). -/
def execLoop (h : Hdr) (n : BitVec 2) (count : Reg) (lenM1 : BitVec 8) (s : State) : Result :=
  let i := Instr.loop h n count lenM1
  issue s i h.g h.s.toNat [count] [rc count] fun f =>
    let start := f.pc + i.size
    let c := f.reg count
    let g := f.endLoops n.toNat
    if c = 0 then
      match skipGroups s f start (lenM1.toNat + 1) with
      | .trap c => s.trapAt f i c 0 f.pc
      | .wait t w => t.block f w
      | .stand t => t
      | .ok stop t => t.retire (g.setLoop n.toNat ⟨0, start, stop, false, 0, 0⟩) i
          { stall := h.s.toNat, taken := some stop, leaves := false }
    else
      let e := bodyEnd s f start (lenM1.toNat + 1)
      let o := f.loopSeq + 1
      s.retire { g.setLoop n.toNat ⟨c, start, e.1, true, o, e.2⟩ with loopSeq := o } i { stall := h.s.toNat }

end Sys2Proof.Machine
end

