-- ==== Sys2Proof/Machine/Fork.lean ====
section
/-! DEFINITION. Latent frames, promotion and splitting, joins and the end of a fibre (R103 to R117). -/

namespace Sys2Proof.Machine

open Sys2Proof.Dec (fld)

def State.depth (s : State) (f : Fibre) : Nat :=
  match s.launch? f.launch with
  | some l => l.kern.depth
  | none => 64

/-! Frames (R103 to R105). -/

/-- Push a real frame, or record an inline-only one; a 65th inline-only frame traps FRAME (R103). -/
def pushFrame (s : State) (i : Instr) (h : Hdr) (f : Fibre) (call : Bool) (fr : Frame) : State :=
  if f.frames.length < s.depth f then s.retire { f with frames := fr :: f.frames } i { stall := h.s.toNat }
  else if 64 ≤ f.inline.length then s.trapAt f i .frame
  else s.retire { f with inline := call :: f.inline } i { stall := h.s.toNat }

/-- The argument registers of a `fork.c` (R104). -/
def argRegs (k : Reg) (cntM1 : BitVec 2) : List Reg := (List.range (cntM1.toNat + 1)).map fun j => k + .ofNat 6 j

/-- `fork.c` (R104), also behind `ext` (R35). The offset counts from the group's first word, the `ext` word included
(DESIGN CHOICE, log 67: R28 gives that origin for format E only, and R104 says the address of the `fork.c`). -/
def forkCAt (i : Instr) (v : Option (BitVec 19)) (h : Hdr) (off : BitVec 11) (cntM1 : BitVec 2) (k : Reg)
    (s : State) : Result :=
  if 64 ≤ k.toNat + cntM1.toNat then undefined s i
  else
    let rs := argRegs k cntM1
    issue s i h.g h.s.toNat rs (rs.map rc) fun f =>
      pushFrame s i h f true (.call (targetF f.pc v off) (rs.map f.reg) none)
def execForkC (h : Hdr) (off : BitVec 11) (cntM1 : BitVec 2) (k : Reg) (s : State) : Result :=
  forkCAt (.forkC h off cntM1 k) none h off cntM1 k s

def accRegs (acc : Reg) (ty : RedTy) : List Reg := if ty = .i64 then pairRegs acc else [acc]

def execForkR (h : Hdr) (lim idx acc : Reg) (grain : BitVec 20) (ty : RedTy) (op : RedOp) (s : State) : Result :=
  let i := Instr.forkR h lim idx acc grain ty op
  issue s i h.g h.s.toNat ([lim, idx] ++ accRegs acc ty) [] fun f =>
    pushFrame s i h f false (.range ⟨false, idx, lim, 0, grain.toNat, ty, op, acc, [], false, false⟩)
def execForkRL (h : Hdr) (idx : Reg) (n : BitVec 2) (acc : Reg) (grain : BitVec 20) (ty : RedTy) (op : RedOp)
    (s : State) : Result :=
  let i := Instr.forkRL h idx n acc grain ty op
  issue s i h.g h.s.toNat ([idx] ++ accRegs acc ty) [] fun f =>
    pushFrame s i h f false (.range ⟨true, idx, 0, n.toNat, grain.toNat, ty, op, acc, [], false, false⟩)

/-! Created fibres (R56, R110 to R112, R117). -/

/-- Operations of a fibre still incomplete: a child's first instruction waits for them (R112). -/
def State.incomplete (s : State) (f : Fibre) : List Nat :=
  ((f.outs.filter fun o => !o.done).map (·.id)) ++ (s.copies.filter fun c => c.fib == f.uid).map (·.id)

def noLoop : Loop := ⟨0, 0, 0, false, 0, 0⟩
/-- A created fibre's loop: copied and inactive, or none (R56, R110; logs 68 and 87). -/
def Fibre.childLoop (f : Fibre) (o : Origin) (n : Nat) : Loop :=
  if o = .spawn then noLoop else { f.loop n with active := false }

/-- A new fibre on the Crossing, made by fibre f: the state that every created fibre takes (R111, R117). Its `%fid` is
assigned when it starts (R60). A spawned fibre's predicates and loops are 0 (DESIGN CHOICE, log 68). A promoted child's loops are
copied (R56), and inactive (R110; DEDUCED, log 87). An abort
that the creator has still to take reaches it too, since it carries the tag (R303). -/
def State.child (s : State) (f : Fibre) (o : Origin) (pc : Nat) (regs : Vector Word 64) : Fibre where
  uid := s.nextId
  launch := f.launch
  block := f.block
  core := f.core
  fid := 0x80000000
  origin := o
  status := .queued
  pc := pc
  window := f.window
  regs := regs
  preds := if o = .spawn then 0 else f.flush.preds
  pend := []
  landed := []
  wseq := 0
  frames := []
  inline := []
  root := none
  lc0 := f.childLoop o 0
  lc1 := f.childLoop o 1
  lc2 := f.childLoop o 2
  loopSeq := 0
  prio := f.prio
  mode := f.mode
  sat := 0
  outs := []
  set := none
  arrived := none
  votes := 0
  held := none
  tag := f.tag
  plzSet := f.plzSet
  aborted := 0
  hbc := 0
  dist := 0
  passed := f.passed
  seg := none
  tiles := 0xFF
  live := .allOnes 64
  craco := f.craco
  xlat := f.xlat
  vector := f.vector
  trapMode := false
  deferred := []
  fresh := false
  mxFaults := []
  abort := if f.tag = 0 then none else f.abort
  wait := .none
  waited := false
  inst := none
  tickDue := false
  rebody := false
  fuse := none
  rejoin := none
  mxSeq := 0
  preempt := f.preempt
  stopped := false
  result := 0
  closing := []
  after := s.incomplete f
  before := (f.uid, s.nextId) :: f.before
  parent := some f.uid

def State.queue (s : State) (c : Fibre) : State := { s with fibres := s.fibres ++ [c], nextId := s.nextId + 1 }

def zeros : Vector Word 64 := .replicate 64 0

/-- A window that holds words in g1 onward and 0 elsewhere. -/
def argWindow (args : List Word) : Vector Word 64 :=
  (List.range args.length).foldl (fun w j => w.setIfInBounds (j + 1) (args.getD j 0)) zeros

/-! The heartbeat (R106 to R109). -/

/-- The format of a float accumulator. -/
def redFmt : RedTy → Fmt
  | .f16 => fF16
  | .bf16 => fBF16
  | .f32 | .i32 | .i64 => fF32

/-- remaining (R108), on the window with every fixed-latency write visible. -/
def Fibre.remaining (f : Fibre) (r : Range) : Int :=
  if r.formL then (f.loop r.loopN).count.toNat
  else (f.flush.reg r.lim).toInt - (f.flush.reg r.idx).toInt

/-- The conditions of R108 other than not being armed. -/
def Fibre.qualifies (f : Fibre) (r : Range) : Bool :=
  decide (r.kids.length < 7) && (!r.formL || (f.loop r.loopN).active) && decide (2 * (r.grain : Int) ≤ f.remaining r)

/-- What a tick does: nothing, arm the n-th candidate, or promote the call frame that is the n-th (R108). -/
inductive TickAct where
  | none
  | armRoot
  | arm (n : Nat)
  | promote (n target : Nat) (args : List Word)
  deriving DecidableEq, Repr

/-- Examine stack frames from the bottom up. -/
def Fibre.tickFrames (f : Fibre) : Nat → List Frame → TickAct
  | _, [] => .none
  | n, .call t a c :: fs => if c.isNone then .promote n t a else f.tickFrames (n + 1) fs
  | n, .range r :: fs => if !r.armed && f.qualifies r then .arm n else f.tickFrames (n + 1) fs

def Fibre.tickAct (f : Fibre) : TickAct :=
  match f.root with
  | some r => if !r.armed && f.qualifies r then .armRoot else f.tickFrames 0 f.frames.reverse
  | none => f.tickFrames 0 f.frames.reverse

/-- Change the n-th frame from the bottom. -/
def Fibre.modFrame (f : Fibre) (n : Nat) (u : Frame → Frame) : Fibre :=
  let fs := f.frames.reverse
  { f with frames := ((List.range fs.length).zip fs |>.map fun p => if p.1 = n then u p.2 else p.2).reverse }

def Frame.promoted (c : Nat) : Frame → Frame
  | .call t a _ => .call t a (some c)
  | .range r => .range r

/-- One tick (R108, R110). -/
def State.tick (s : State) (f : Fibre) : State :=
  match f.tickAct with
  | .none => s
  | .armRoot => s.modF f.uid fun g => { g with root := g.root.map fun r => { r with armed := true } }
  | .arm n => s.modF f.uid fun g => g.modFrame n (Frame.mapRange fun r => { r with armed := true })
  | .promote n t args =>
    (s.queue (s.child f .call t (argWindow args))).modF f.uid fun g => g.modFrame n (Frame.promoted s.nextId)

/-- A load or atomic of the fibre still to land in register r (R108, R109). -/
def State.landing (s : State) (f : Fibre) (r : Reg) : Bool :=
  r != 0 && s.accs.any fun a => a.fib == f.uid && (match a.op with
    | .load ty d => d == r || (ty == .b64 && odd d == r)
    | .atom _ ty _ _ d => d == r || (ty.wide && odd d == r)
    | .openPlaza d => d == r || odd d == r
    | .store _ => false)
/-- A range's registers wait for a landing. -/
def State.rangeLanding (s : State) (f : Fibre) (r : Range) : Bool :=
  s.landing f r.idx || (!r.formL && s.landing f r.lim)

/-- Deliver a tick now, or leave it due at this boundary until what it must read has landed: the model waits where the
manual treats the write as landed (DEDUCED, log 5). -/
def State.deliverTick (s : State) (f : Fibre) : State :=
  if f.ranges.any fun r => s.rangeLanding f r then s.modF f.uid fun g => { g with tickDue := true }
  else (s.modF f.uid fun g => { g with tickDue := false }).tick { f with tickDue := false }

/-- Identity (R68). -/
def redIdentity (ty : RedTy) (op : RedOp) : DWord :=
  match op, ty with
  | .none, _ => 0
  | .add, .f16 | .add, .bf16 => 0x8000
  | .add, .f32 => 0x80000000
  | .add, .i32 | .add, .i64 => 0
  | .min, .f16 => 0x7C00
  | .min, .bf16 => 0x7F80
  | .min, .f32 => 0x7F800000
  | .min, .i32 => 0x7FFFFFFF
  | .min, .i64 => 0x7FFFFFFFFFFFFFFF
  | .max, .f16 => 0xFC00
  | .max, .bf16 => 0xFF80
  | .max, .f32 => 0xFF800000
  | .max, .i32 => 0x80000000
  | .max, .i64 => 0x8000000000000000

/-- Split (R68). -/
def splitMid (i l : Int) (g : Nat) : Option Int :=
  if l - i < 2 * g then none else some (l - g * ((l - i) / (2 * g)))

def Fibre.setAcc (f : Fibre) (r : Range) (v : DWord) : Fibre :=
  if r.op = .none then f
  else if r.ty = .i64 then f.setPairNow r.acc v else f.setRegNow r.acc (v.setWidth 32)

/-- The split of one range at its split instant (R109): `u` changes the parent's range. The limit of form L is index +
remaining count, and is not wrapped to 32 bits; the middle is written modulo 2^32 (DESIGN CHOICE, log 69: R68 and R120
call the limit a signed 32-bit value). A form-R child's loops are copied as they are, and of a form-L child's all but loop N have
counter 0 (R56, R109; DEDUCED, log 87). -/
def State.splitRange (s : State) (f : Fibre) (r : Range) (u : (Range → Range) → Fibre → Fibre) : State :=
  let clear := s.modF f.uid (u fun r => { r with armed := false, due := false })
  if !f.qualifies r then clear
  else
    let w := f.flush
    let i := (w.reg r.idx).toInt
    let l := if r.formL then i + (f.loop r.loopN).count.toNat else (w.reg r.lim).toInt
    match splitMid i l r.grain with
    | none => clear
    | some mid =>
      let root : Range := { r with kids := [], armed := false, due := false }
      let c := { s.child f .range f.pc w.regs with root := some root }
      let c := c.setRegNow r.idx (.ofInt 32 mid)
      let c :=
        if r.formL then
          ([0, 1, 2].foldl (fun (c : Fibre) n => c.setLoop n { c.loop n with count := 0 }) c).setLoop r.loopN
            { f.loop r.loopN with count := .ofInt 32 (l - mid), order := 0 }
        else { c with lc0 := f.lc0, lc1 := f.lc1, lc2 := f.lc2, loopSeq := f.loopSeq }
      let c := c.setAcc r (redIdentity r.ty r.op)
      (s.queue c).modF f.uid fun g =>
        let g := u (fun r => { r with armed := false, due := false, kids := c.uid :: r.kids }) g
        if r.formL then g.setLoop r.loopN { f.loop r.loopN with count := .ofInt 32 (mid - i) }
        else g.setRegNow r.lim (.ofInt 32 mid)

/-- Change the root range, or the n-th frame. -/
def onRoot (u : Range → Range) (f : Fibre) : Fibre := { f with root := f.root.map u }
def onFrame (n : Nat) (u : Range → Range) (f : Fibre) : Fibre := f.modFrame n (Frame.mapRange u)

/-- The first range, oldest first, that satisfies p, with how to change it. Of two that are due at one instant the older splits
first (DESIGN CHOICE, log 90). -/
def Fibre.findRange (f : Fibre) (p : Range → Bool) : Option (Range × ((Range → Range) → Fibre → Fibre)) :=
  match f.root.filter p with
  | some r => some (r, onRoot)
  | none =>
    let fs := f.frames.reverse
    ((List.range fs.length).zip fs).findSome? fun q => match q.2 with
      | .range r => if p r then some (r, onFrame q.1) else none
      | .call _ _ _ => none

/-! The end of a fibre (R115, R116, R152, R228). -/

/-- The token moves on from blocks that have all passed or have retired (R156). -/
def State.tokenPassed (s : State) (l : Launch) : Bool :=
  match s.block? l.id l.token with
  | none => false
  | some b => b.retired || s.fibres.all fun f => !(f.launch == l.id && f.block == l.token) || f.status == .ended || f.passed
def State.moveToken (s : State) (id : Nat) : Nat → State
  | 0 => s
  | n + 1 =>
    match s.launch? id with
    | some l => if s.tokenPassed l then (s.setLaunch { l with token := l.token + 1 }).moveToken id n else s
    | none => s
def State.tokenMoves (s : State) (launch : Nat) : State := s.moveToken launch (s.blocks.length + 1)

/-- The fibre ends with a result: its set and batch treat it as gone, its records close, its slot and segment free. -/
def State.endFibre (s : State) (f : Fibre) (result : DWord) : State :=
  let s := (s.depart f).leaveBatch f
  let s := s.closeFibre f.uid
  let s := s.modF f.uid fun g => { g with
    status := .ended, result := result, wait := .none, waited := false, inst := none, fresh := false, rejoin := none, frames := [], inline := [], root := none
    held := none, seg := none, stopped := false }
  (s.tokenMoves f.launch).freePlazas

/-- Deliver a recorded matrix fault at a wait (R202): the trap's resume point is the wait. -/
def State.mxTrap (s : State) (f : Fibre) (d : Deferred) : State :=
  s.takeTrap { f with mxFaults := f.mxFaults.filter (· ≠ d) }
    { cause := d.cause, detail := d.detail, pc := f.pc, iaddr := d.iaddr, insn := d.insn, daddr := d.daddr, deferred := true }

/-- Wait until all six counters read 0, take the matrix faults that the drain covers, then go on (R115, R116, R202). -/
def drained (s : State) (f : Fibre) (k : State) : State :=
  if !f.outs.isEmpty then s.block f .drain
  else match f.mxFaults with
    | d :: _ => if f.trapMode then k else s.mxTrap f d
    | [] => k

/-- Retire an instruction that ends its fibre. The departure from its set is an access to that set's object, which a
conflict refuses precisely (R147, R152). -/
def State.finish (s : State) (f : Fibre) (i : Instr) (h : Hdr) (result : DWord) : State :=
  s.departHeld f none fun s => s.departThen s f i none fun s =>
    let t := s.retire f i { stall := h.s.toNat, safe := true }
    match t.fib? f.uid with
    | some g => { t with cur := 0 }.endFibre g result
    | none => t

/-! Joins (R113 to R115). -/

/-- Fold (R68). -/
def Fibre.foldOne (f : Fibre) (ty : RedTy) (op : RedOp) (acc v : DWord) : DWord × Bool :=
  let flt (r : Nat × Bool) : DWord × Bool := (.ofNat 64 r.1, r.2)
  let lo (x : DWord) : Word := x.setWidth 32
  match op, ty with
  | .none, _ => (acc, false)
  | .add, .i32 => ((lo acc + lo v).setWidth 64, false)
  | .add, .i64 => (acc + v, false)
  | .min, .i32 => ((if (lo acc).sle (lo v) then lo acc else lo v).setWidth 64, false)
  | .max, .i32 => ((if (lo v).sle (lo acc) then lo acc else lo v).setWidth 64, false)
  | .min, .i64 => (if acc.sle v then acc else v, false)
  | .max, .i64 => (if v.sle acc then acc else v, false)
  | .add, _ => flt (f.fadd none (redFmt ty) (acc.toNat % 2 ^ ((redFmt ty).width + 1)) (v.toNat % 2 ^ ((redFmt ty).width + 1)))
  | .min, _ => flt (f.fmin (redFmt ty) (acc.toNat % 2 ^ ((redFmt ty).width + 1)) (v.toNat % 2 ^ ((redFmt ty).width + 1)), false)
  | .max, _ => flt (f.fmax (redFmt ty) (acc.toNat % 2 ^ ((redFmt ty).width + 1)) (v.toNat % 2 ^ ((redFmt ty).width + 1)), false)

/-- The accumulator's value, as a read of it stands (R46, R49). -/
def Fibre.getAcc (f : Fibre) (r : Range) : DWord :=
  if r.ty = .i64 then f.pair r.acc else (f.reg r.acc).setWidth 64
/-- An instruction that reads the accumulator where `reads` says: an early read under CHK traps STALL_SHORT (R49). -/
def State.readsAcc (s : State) (f : Fibre) (i : Instr) (r : Range) (reads : Bool) (k : State) : State :=
  let e := ((accRegs r.acc r.ty).map rc).filter f.early
  if reads && r.op ≠ .none && f.chk && !e.isEmpty then s.trapAt f i .stallShort (minCode e) else k

/-- Consume one ended child: fold its result, and its sticky bits (R66, R113). -/
def consume (r : Range) (t : State × Fibre) (kid : Nat) : State × Fibre :=
  match t.1.fib? kid with
  | none => t
  | some c =>
    let v := t.2.foldOne r.ty r.op (t.2.getAcc r) c.result
    let g := if r.op = .none then t.2 else t.2.setAcc r v.1
    let u := t.1.sticky g (c.sat.getLsbD 0) (c.sat.getLsbD 1 || v.2)
    ({ u.1 with fibres := u.1.fibres.filter fun x => x.uid != kid }, u.2)

/-- Block at a join, and note when the wait began: the longest-blocked fibre is the one that is saved (R112). -/
def State.blockJoin (s : State) (f : Fibre) (kids : List Nat) : State :=
  { s with nextId := s.nextId + 1 }.block f (.join kids s.nextId)
/-- Join a range's children: wait for them, then fold, lowest range first. -/
def joinRange (s : State) (f : Fibre) (r : Range) (k : State → Fibre → State) : State :=
  if r.kids.all s.ended then let t := r.kids.foldl (consume r) (s, f); k t.1 t.2 else s.blockJoin f r.kids

/-- `done.r` (R115). -/
def doneRange (s : State) (f : Fibre) (i : Instr) (h : Hdr) : State :=
  match f.root with
  | none => s.trapAt f i .frame
  | some r => s.readsAcc f i r true <|
      drained s f (joinRange s f r fun s f => s.finish f i h (if r.op = .none then 0 else f.getAcc r))

def Fibre.stackEmpty (f : Fibre) : Bool := f.frames.isEmpty && f.inline.isEmpty

def execExit (h : Hdr) (s : State) : Result :=
  let i := Instr.exit h
  issue s i h.g h.s.toNat [] [] fun f =>
    if !f.stackEmpty then s.trapAt f i .frame
    else if f.origin = .range then doneRange s f i h
    else drained s f (s.finish f i h 0)

def execDone (h : Hdr) (a : Reg) (s : State) : Result :=
  let i := Instr.done h a
  issue s i h.g h.s.toNat [a] [rc a] fun f =>
    if !f.stackEmpty || f.origin ≠ .call then s.trapAt f i .frame
    else drained s f (s.finish f i h ((f.reg a).setWidth 64))

def execDoneR (h : Hdr) (s : State) : Result :=
  let i := Instr.doneR h
  issue s i h.g h.s.toNat [] [] fun f =>
    if !f.stackEmpty || f.origin ≠ .range then s.trapAt f i .frame else doneRange s f i h

def execJoinR (h : Hdr) (s : State) : Result :=
  let i := Instr.joinR h
  issue s i h.g h.s.toNat [] [] fun f =>
    match f.inline, f.frames with
    | false :: rest, _ => s.retire { f with inline := rest } i { stall := h.s.toNat }
    | true :: _, _ => s.trapAt f i .frame
    | [], [] => if f.origin = .range then doneRange s f i h else s.trapAt f i .frame
    | [], .call _ _ _ :: _ => s.trapAt f i .frame
    | [], .range r :: rest =>
      s.readsAcc f i r (!r.kids.isEmpty) <| joinRange s f r fun s f =>
        s.retire { f with frames := rest } i
          { stall := h.s.toNat, flush := !r.kids.isEmpty, safe := !r.kids.isEmpty }

def execJoinC (h : Hdr) (pd : Pred) (a : Reg) (s : State) : Result :=
  let i := Instr.joinC h pd a
  issue s i h.g h.s.toNat [a] [] fun f =>
    let no (f : Fibre) : State := s.retire (f.now (pc8 pd) 0) i { stall := h.s.toNat }
    match f.inline, f.frames with
    | true :: rest, _ => no { f with inline := rest }
    | false :: _, _ => s.trapAt f i .frame
    | [], [] => s.trapAt f i .frame
    | [], .range _ :: _ => s.trapAt f i .frame
    | [], .call _ _ none :: rest => no { f with frames := rest }
    | [], .call _ _ (some c) :: rest =>
      match s.fib? c with
      | none => no { f with frames := rest }
      | some k =>
        if k.status = .ended then
          let g := ({ f with frames := rest }.now (pc8 pd) 1).setRegNow a (k.result.setWidth 32)
          let t := s.sticky g (k.sat.getLsbD 0) (k.sat.getLsbD 1)
          { t.1 with fibres := t.1.fibres.filter fun x => x.uid != c }.retire t.2 i
            { stall := h.s.toNat, flush := true, safe := true }
        else s.blockJoin f [c]

/-- `spawn` (R117). -/
def execSpawn (h : Hdr) (d a : Reg) (s : State) : Result :=
  let i := Instr.spawn h d a
  issue s i h.g h.s.toNat ([d] ++ pairRegs a) (rc d :: pairCodes a) fun f =>
    jumpTo s f i (f.pair a) fun t =>
      let c := s.child f .spawn t (argWindow [f.reg d])
      (s.retire f i { stall := h.s.toNat }).queue c

end Sys2Proof.Machine
end

