-- ==== Sys2Proof/Machine/Access.lean ====
section
/-! DEFINITION. Outstanding accesses: how one is posted at issue (R57, R126 to R130, R143, R157, R298), and how it is
performed (R127, R142, R214, R226 to R234, R297). -/

namespace Sys2Proof.Machine

open Sys2Proof.Dec (leNat leBytes fld)

/-! Ranges and lines. -/

/-- The 256-byte line of one space that a Roundabout entry stands for (R129). -/
def Loc.line (l : Loc) : Nat := l.key.1 * 2 ^ 64 + l.key.2 / 256

def AccOp.isLoad : AccOp → Bool
  | .load _ _ | .openPlaza _ => true
  | .store _ | .atom _ _ _ _ _ => false
def AccOp.isAtom : AccOp → Bool
  | .atom _ _ _ _ _ | .openPlaza _ => true
  | .load _ _ | .store _ => false

/-! Posting. -/

/-- The entries after the last one that satisfies p. -/
def afterLast (p : RaEntry → Bool) : List RaEntry → List RaEntry
  | [] => []
  | r :: rs => if rs.any p then afterLast p rs else if p r then rs else r :: rs
/-- Join a Roundabout entry, or open one; none when all 256 are occupied (R129). Loads join loads and stores join stores; an
atomic and a `plz.open` travel alone. A store travels in a later request than every earlier store that writes a common byte. -/
def State.joinRound (s : State) (core : Nat) (a : Access) : Option State :=
  let fits (r : RaEntry) : Bool :=
    r.core == core && r.line == a.loc.line && !a.op.isAtom && !r.alone && r.store == !a.op.isLoad && !r.sent
  let common (r : RaEntry) : Bool := r.core == core && r.store && !a.op.isLoad &&
    s.accs.any fun b => r.accs.contains b.id && b.loc.overlaps b.size a.loc a.size
  if Config.roundaboutEntries ≤ s.roundCount core then none
  else match (afterLast common s.roundabout).find? fits with
    | some r => some { s with roundabout := s.roundabout.map fun q =>
        if q = r then { q with accs := q.accs ++ [a.id] } else q }
    | none => some { s with
        roundabout := s.roundabout ++ [⟨core, a.loc.line, !a.op.isLoad, a.op.isAtom, [a.id], false⟩] }

/-- The token's answer to a global store or atomic of a DET launch (R157). -/
inductive Gate where
  | go | wait | trap
  deriving DecidableEq, Repr

/-- The sector was last touched by another block, or, for an atomic, not by the fibre's own (R157). -/
def gatedBy (op : AccOp) (block : Nat) (toucher : Option Nat) : Bool :=
  match op with
  | .store _ => toucher.isSome && toucher != some block
  | .atom _ _ _ _ _ => toucher != some block
  | .load _ _ | .openPlaza _ => false
def State.gate (s : State) (f : Fibre) (l : Loc) (op : AccOp) : Gate :=
  match s.launch? f.launch, l.sectors 1 with
  | some la, k :: _ =>
    if !(la.flags % 2 == 1 && gatedBy op f.block (s.toucher f.launch k)) then .go
    else if f.passed then .trap
    else if f.block = la.token then .go
    else if la.token < f.block then .wait else .trap
  | _, _ => .go

/-- The counter that an access raises (R130). -/
def classOf (l : Loc) (op : AccOp) : Cls :=
  match op with
  | .openPlaza _ => .at
  | .load _ _ => if l.isPeer then .rm else .ld
  | .store _ => if l.isPeer then .rm else .st
  | .atom _ _ _ _ _ => if l.isPeer then .rm else .at

/-- The access is complete: its Roundabout place frees, its record may close, its counter falls (R129, R130). -/
def State.endAccess (s : State) (a : Access) : State :=
  let t := ((s.recDone a.id).completeOp a.fib a.id).tlbSettle a.id
  { t with
    accs := t.accs.filter fun b => b.id != a.id
    roundabout := (t.roundabout.map fun r => { r with accs := r.accs.filter (· ≠ a.id) }).filter fun r => !r.accs.isEmpty }

/-- Keep deferred traps oldest access first (R132). -/
def insertDeferred (d : Deferred) : List Deferred → List Deferred
  | [] => [d]
  | e :: es => if d.acc < e.acc then d :: e :: es else e :: insertDeferred d es
def State.deferTrap (s : State) (fib : Nat) (d : Deferred) : State :=
  s.modF fib fun f => { f with deferred := insertDeferred d f.deferred }
/-- Younger operations of a class that a fibre has outstanding (R131). -/
def State.youngerOuts (s : State) (fib id : Nat) (c : Cls) : Nat :=
  match s.fib? fib with
  | some f => (f.outs.filter fun o => o.cls == c && decide (id < o.id)).length
  | none => 0
/-- The access fails after it retired (R132). -/
def State.failAccess (s : State) (a : Access) (c : Cause) (detail daddr : Nat) : State :=
  let cls := classOf a.loc a.op
  (s.endAccess a).deferTrap a.fib ⟨a.id, cls, s.youngerOuts a.fib a.id cls, c, detail, a.iaddr, a.insn, daddr⟩

/-- Issue an access whose operand has been checked: counter room, token, plaza wait, Roundabout; then it is posted and
the instruction retires. -/
def postAccess (s : State) (f : Fibre) (i : Instr) (h : Hdr) (a : Access) : State :=
  let cls := classOf a.loc a.op
  if 63 ≤ f.counter cls then s.block f (.counter cls 62)
  else match s.gate f a.loc a.op with
    | .wait => s.block f .token
    | .trap => s.trapAt f i .token 0 a.addr
    | .go =>
      let tag := match a.loc with
        | .dram _ | .host _ | .peer _ _ => f.tag
        | .sp _ | .cb _ => 0
      match if tag = 0 then s.meet a.loc a.size 0 (!a.op.isLoad) else (s, .go) with
      | (t, .wait hd) => t.block f (.plaza hd)
      | (t, .go) =>
        let a := { a with id := t.nextId, tag := tag }
        match t.joinRound f.core a with
        | none => t.block f .roundabout
        | some u =>
          let u := if a.rel then u.release f.uid else u
          let u := { u with accs := u.accs ++ [a], nextId := u.nextId + 1 }.retire (f.raise a.id cls) i { stall := h.s.toNat }
          if u.unreachable a.loc then u.failAccess a .page 0x01 a.addr else u

/-- An access as an instruction names it. -/
def mkAccess (f : Fibre) (i : Instr) (l : Loc) (addr size : Nat) (op : AccOp) : Access where
  id := 0
  fib := f.uid
  iaddr := f.pc
  insn := insnWord i
  loc := l
  addr := addr
  size := size
  op := op
  acq := false
  rel := false
  scope := .dev
  tag := 0
  win := none
  set := f.set
  wseq := f.wseq
  widened := false
  fate := none

/-! Performing. -/

def State.acc? (s : State) (id : Nat) : Option Access := s.accs.find? fun a => a.id == id

/-- A plain load, which may take its fibre's own pending stores (R128) and goes through its L1. -/
def Access.plainLoad (a : Access) : Bool := a.op.isLoad && !a.op.isAtom && !a.acq
def AccOp.isStore : AccOp → Bool
  | .store _ => true
  | .load _ _ | .atom _ _ _ _ _ | .openPlaza _ => false
/-- Earlier accesses of the same fibre to bytes of this one (R128). -/
def State.ownEarlier (s : State) (a : Access) : List Access :=
  s.accs.filter fun b => b.fib == a.fib && decide (b.id < a.id) && b.loc.overlaps b.size a.loc a.size
/-- The access is sent, and no earlier access of its fibre to its bytes is outstanding, but stores whose data are forwarded
to it (R128). -/
def State.accReady (s : State) (a : Access) : Bool :=
  (s.roundabout.all fun r => !r.accs.contains a.id || r.sent) &&
  (s.ownEarlier a).all fun b => a.plainLoad && b.op.isStore

/-- A value lands in a register (R127): at once, or, while an instruction of the fibre waits that has read its operands, as that
retires or traps (R125; DESIGN CHOICE, log 101). -/
def Fibre.land (f : Fibre) (issued : Nat) (r : Reg) (v : Word) : Fibre :=
  if f.midway then { f with landed := f.landed ++ [(issued, rc r, v)] } else f.landNow (issued, rc r, v)
def Fibre.landPair (f : Fibre) (issued : Nat) (r : Reg) (v : DWord) : Fibre :=
  (f.land issued r (v.setWidth 32)).land issued (odd r) (v.extractLsb' 32 32)

/-- What a load writes (R127). -/
def Fibre.landLoad (f : Fibre) (issued : Nat) (ty : LdTy) (d : Reg) (v : Nat) : Fibre :=
  match ty with
  | .n8 => f.land issued d (.ofNat 32 (v % 256))
  | .i8 => f.land issued d ((BitVec.ofNat 8 v).signExtend 32)
  | .n16 => f.land issued d (.ofNat 32 (v % 65536))
  | .i16 => f.land issued d ((BitVec.ofNat 16 v).signExtend 32)
  | .b32 => f.land issued d (.ofNat 32 v)
  | .b64 => f.landPair issued d (.ofNat 64 v)

/-- x' of R141; none when a `cas` fails. -/
def atomNew (op : AtomOp) (ty : AtomTy) (x b d : DWord) : Option Nat :=
  let w := if ty.wide then 64 else 32
  let m := 2 ^ w
  let sx (v : DWord) : Int := if ty.wide then v.toInt else (v.setWidth 32).toInt
  match op with
  | .add =>
    if ty = .f32 then some (fF32.round .ne false false ((fF32.val (x.toNat % m)).add .ne (fF32.val (b.toNat % m)))).1
    else some ((x + b).toNat % m)
  | .min => some (match ty with
    | .f32 => fF32.min (x.toNat % m) (b.toNat % m)
    | .i32 | .i64 => if sx x ≤ sx b then x.toNat % m else b.toNat % m
    | _ => min (x.toNat % m) (b.toNat % m))
  | .max => some (match ty with
    | .f32 => fF32.max (x.toNat % m) (b.toNat % m)
    | .i32 | .i64 => if sx b ≤ sx x then x.toNat % m else b.toNat % m
    | _ => max (x.toNat % m) (b.toNat % m))
  | .and => some ((x &&& b).toNat % m)
  | .or => some ((x ||| b).toNat % m)
  | .xor => some ((x ^^^ b).toNat % m)
  | .exch => some (b.toNat % m)
  | .cas => if x.toNat % m = b.toNat % m then some (d.toNat % m) else none

/-- A pending store's bytes over those of a load (R128). -/
def forwardOne (a : Access) (bs : List Byte) (b : Access) : List Byte :=
  match b.op with
  | .store v => overlay bs a.loc.key.2 ((List.range b.size).map fun i => (b.loc.key.2 + i, .ofNat 8 (v.toNat / 2 ^ (8 * i))))
  | .load _ _ | .atom _ _ _ _ _ | .openPlaza _ => bs
/-- The bytes an access sees: its plaza's view, or the committed ones (R297); a plain load takes its fibre's own pending
stores, in their order (R128). -/
def State.seen (s : State) (a : Access) : List Byte :=
  let bs := if a.tag = 0 then s.bytes a.loc a.size else s.viewBytes a.tag a.loc a.size
  if a.plainLoad then (s.ownEarlier a).foldl (forwardOne a) bs else bs

/-- What the access writes, if it writes. -/
def Access.writesVal (a : Access) (old : Nat) : Option Nat :=
  match a.op with
  | .load _ _ | .openPlaza _ => none
  | .store v => some (v.toNat % 2 ^ (8 * a.size))
  | .atom op ty b d _ => atomNew op ty (.ofNat 64 old) b d

/-- A load of its fibre that hits in the L1: its bytes are not checked again (R233). -/
def State.hits (s : State) (f : Fibre) (a : Access) : Bool :=
  a.plainLoad && a.tag == 0 && (a.loc.sectors a.size).all fun k => s.l1At f.core k != .i
/-- A read's check (R233, R234): the state after it, and whether a poisoned sector is read. -/
def State.checkAcc (s : State) (f : Fibre) (a : Access) : State × Bool :=
  if s.hits f a then (s, (a.loc.sectors a.size).any s.poison.contains)
  else
    let r := checkRead s a.loc a.size 0
    (r.1, !r.2.isEmpty || (a.tag ≠ 0 && s.tentBad a.tag a.loc a.size))

/-- An access of a plaza that is no longer OPEN: it stands while the plaza seals, publishes or aborts, and goes on outside it once
that is over (R298); none: it stands. -/
def State.ofPlaza (s : State) (a : Access) : Option Access :=
  let outside : Option Access := some { a with tag := 0 }
  if a.tag = 0 then some a
  else if s.isLocal a.tag then match s.current? a.tag with
    | none => outside
    | some p => match p.state with
      | .opened => some a
      | .sealing | .publishing | .aborting => none
      | .committed | .aborted | .free => outside
  else if s.awayPlazas.any fun p => p.handle == a.tag && p.finished then outside
  else if s.wsLines.any fun w => w.handle == a.tag && w.sealed && a.loc.lineAddr.any fun l => l / 256 == w.line then none
  else some a
/-- What an access waits for before it reaches its home: order, plaza lines, host copies, a host line, a pin. The state, with
what the waits have begun, and whether the way is clear. -/
def State.wayClear (s : State) (a : Access) (writes meets : Bool) : State × Bool :=
  if !s.accReady a || a.loc.isPeer then (s, false)
  else match s.meet a.loc a.size a.tag meets with
    | (t, .wait _) => (t, false)
    | (t, .go) =>
      if !(t.hostInWay a.loc a.size writes).isEmpty then (t.snoop (t.hostInWay a.loc a.size writes), false)
      else (t, t.mayServe a.loc a.size writes)

/-- A plain access that its L1 still holds the sectors of, under open records of its fibre: it does not register again, and the
records stand for it as well (R227). -/
def State.repeats (s : State) (f : Fibre) (a : Access) (n : NewAcc) : Bool :=
  a.tag == 0 && !a.acq && !a.rel && !a.op.isAtom && !(a.loc.sectors a.size).isEmpty &&
  (a.loc.sectors a.size).all (fun k => s.l1At f.core k != .i) && s.covered n
/-- Registration of an access (R227); a key store that met a record which has closed since then is refused (R254). -/
def State.registerAcc (s : State) (f : Fibre) (a : Access) (writes : Bool) : Registered :=
  let n := a.toNew f writes
  match a.fate with
  | some d => .race d
  | none => if s.repeats f a n then .ok (s.recordAgain n) else s.register n

/-- The checks before an access is performed: order, plaza lines (an atomic meets them as a write, R298), host copies, the
detector, integrity. `k` performs it with the bytes it sees; an access that must wait leaves the rest as it stands. -/
def serve (s : State) (a0 : Access) (k : Access → State → Fibre → List Byte → State) : State :=
  match s.fib? a0.fib, s.ofPlaza a0 with
  | none, _ | _, none => s
  | some f, some a =>
    let writes := (a.writesVal (leNat (s.seen a))).isSome
    let meets := writes || (a.tag == 0 && a.op.isAtom && !a.op.isLoad)
    match s.wayClear a writes meets with
    | (t, false) => t
    | (t, true) => match t.registerAcc f a writes with
      | .race d => t.failAccess a .race d a.addr
      | .full => t
      | .ok u =>
        if writes && !a.op.isAtom then k a u f (u.seen a)
        else
          let r := u.checkAcc f a
          if r.2 then r.1.failAccess a .integrity 0 (a.addr / 64 * 64) else k a r.1 f (r.1.seen a)

/-- The coherence side of a read (R215, R216, R297): a plain load goes through its L1, other reads are served by the
home. -/
def State.touchRead (s : State) (f : Fibre) (a : Access) : State :=
  if a.plainLoad && a.tag == 0 then s.fibreLoad f.core a.loc a.size else s.peekAll a.loc a.size

/-- A tentative access marks its line; a full directory aborts the plaza and the access waits to be dropped (R297). -/
def markLine (s : State) (a : Access) (w : Option (List Byte)) (k : State → State) : State :=
  match if a.tag = 0 then none else a.loc.lineAddr with
  | none => k s
  | some pa => match s.wsMark a.tag pa w with
    | none => s.causeAbort a.tag 0x01
    | some t => k t

/-- LOAD_COMPLETE of a load served with its bytes (R127). -/
def landLoad (s : State) (f : Fibre) (a : Access) (bs : List Byte) : State :=
  match a.op with
  | .load ty d => markLine s a none fun s =>
      ((s.touchRead f a).endAccess a).modF a.fib fun g => g.landLoad a.wseq ty d (leNat bs)
  | .store _ | .atom _ _ _ _ _ | .openPlaza _ => s

/-- A word of `cbuf` that a running pass updates has been written: it is taken up before the next block, or a result computed
without it will overwrite it, as a free value decides (R345). -/
def State.chooseWord (s : State) (key : Nat) : State :=
  if s.mx.any fun e => e.run.any fun p => p.1 == key then
    let v := s.nat (.cb key) 4
    let take := (Config.freeValue s.freeCount).getLsbD 0
    let t := s.draw 1
    if take then { t with mx := t.mx.map fun (e : MxEntry) =>
        { e with run := e.run.map fun (p : Nat × Nat) => if p.1 = key then (key, v) else p } } else t
  else s
def State.chooseRun (s : State) (l : Loc) (n : Nat) : State :=
  match l with
  | .cb k => (List.range (n / 4)).foldl (fun (t : State) (i : Nat) => t.chooseWord (k + 4 * i)) s
  | .dram _ | .host _ | .peer _ _ | .sp _ => s

/-- STORE_PERFORM (R214): tentative bytes to the directory, an ordered store at the home, others through the L1. -/
def performStore (s : State) (f : Fibre) (a : Access) (_ : List Byte) : State :=
  match a.op with
  | .store v =>
    let bs := leBytes a.size v.toNat
    markLine s a (some bs) fun s =>
      ((if a.tag ≠ 0 then s else if a.rel then s.homeWrite a.loc bs else s.fibreStore f.core a.loc bs).chooseRun a.loc
        a.size).endAccess a
  | .load _ _ | .atom _ _ _ _ _ | .openPlaza _ => s

/-- ATOMIC_EXECUTE (R142, R221): one indivisible step at the home. -/
def performAtomic (s : State) (f : Fibre) (a : Access) (bs : List Byte) : State :=
  match a.op with
  | .atom op ty b d dst =>
    let old := leNat bs
    let fin (s : State) : State := (s.endAccess a).modF a.fib fun g =>
      if ty.wide then g.landPair a.wseq dst (.ofNat 64 old) else g.land a.wseq dst (.ofNat 32 old)
    match atomNew op ty (.ofNat 64 old) b d with
    | none => markLine s a none fun s => fin (s.touchRead f a)
    | some v =>
      let nb := leBytes a.size v
      markLine s a (some nb) fun s => fin (if a.tag ≠ 0 then s else s.homeWrite a.loc nb)
  | .load _ _ | .store _ | .openPlaza _ => s

/-! `plz.open` at the coordinator (R290 to R293). -/

/-- The lowest FREE entry of a die, and the generation count it holds. -/
def State.freePlaza (s : State) (die : Nat) : Nat → Nat → Option (Nat × Nat)
  | 0, _ => none
  | n + 1, i =>
    match s.plazas.find? fun p => p.die == die && p.index == i with
    | none => some (i, 0)
    | some p => if p.state = .free then some (i, p.gen) else s.freePlaza die n (i + 1)

/-- `plz.open` as one step (R293). The fabric clock counts on at every opening (DESIGN CHOICE, log 15). -/
def openAt (s : State) (f : Fibre) (a : Access) (bs : List Byte) : State :=
  match a.op with
  | .openPlaza d => markLine s a none fun s =>
    let expect := leNat (bs.take 4)
    let pctrl := leNat (bs.drop 4 |>.take 4)
    let timeout := leNat (bs.drop 8 |>.take 4)
    let s := s.touchRead f a
    if expect < 1 ∨ 4096 < expect ∨ pctrl % 4 = 3 ∨ 8 ≤ pctrl ∨ leNat (bs.drop 12) ≠ 0 then
      s.failAccess a .plazaMisuse 0x07 a.addr
    else
      let die := coreDie f.core
      let fin (s : State) (v : DWord) : State := (s.endAccess a).modF a.fib fun g => g.landPair a.wseq d v
      match s.freePlaza die Config.plazaEntries 0 with
      | none => fin s 0
      | some (i, gen) =>
        let p : Plaza :=
          { die := die, index := i, gen := if gen = 2 ^ 32 - 1 then 1 else gen + 1, state := .opened
            expect := expect, scope := pctrl % 4, yields := fld pctrl 2 1 == 1, timeout := timeout
            opened := s.fabricClock, members := [], votes := 0, leaves := 0, cause := 0, sealed := [], published := []
            peers := [], discarded := [], gone := [] }
        fin { s with
          fabricClock := s.fabricClock + 1
          plazas := s.plazas.filter (fun q => !(q.die == die && q.index == i)) ++ [p] } (p.handle s.dev)
  | .load _ _ | .store _ | .atom _ _ _ _ _ => s

/-! The events. -/

/-- The load is served by a fill on its way, which completes it (R218). -/
def State.byFill (s : State) (id : Nat) : Bool := s.fills.any fun e => e.served.contains id
def execLoadComplete (acc : Nat) (s : State) : Result :=
  .next (match s.acc? acc with
    | some a => if a.op.isLoad && !a.op.isAtom && !s.byFill acc then serve s a (fun a s f bs => landLoad s f a bs) else s
    | none => s)
/-- The Widens of a key store come before it is performed (R240): they take the elements as the store leaves them, in a step
of their own, so that the store may still be refused (R254). -/
def State.widenFirst (s : State) (a : Access) : Option State :=
  match a.op, a.loc with
  | .store v, .dram pa =>
    if a.widened || a.tag ≠ 0 || (s.widens a.loc a.size).isEmpty then none
    else match s.wayClear a true true with
      | (t, false) => some t
      | (t, true) =>
        let u := ({ t with mem := memWrite t.mem pa (leBytes a.size v.toNat) } : State).widen pa a.size
        some { u with
          mem := memWrite u.mem pa (t.bytes a.loc a.size)
          accs := u.accs.map fun (b : Access) => if b.id = a.id then { b with widened := true } else b }
  | _, _ => none
def execStorePerform (acc : Nat) (s : State) : Result :=
  .next (match s.acc? acc with
    | some a => if a.op.isLoad || a.op.isAtom then s
      else (match s.widenFirst a with
        | some t => t
        | none => serve s a fun a s f bs => performStore s f a bs)
    | none => s)
def execAtomicExecute (acc : Nat) (s : State) : Result :=
  .next (match s.acc? acc with
    | some a => match a.op with
      | .atom _ _ _ _ _ => serve s a fun a s f bs => performAtomic s f a bs
      | .openPlaza _ => serve s a fun a s f bs => openAt s f a bs
      | .load _ _ | .store _ => s
    | none => s)

/-- Loads of a core that a request for a sector serves: sent, and taking no pending store of their own fibre. -/
def State.waiting (s : State) (x sector : Nat) : List Access :=
  s.accs.filter fun a => a.plainLoad && a.tag == 0 && a.loc.sectors a.size == [sector] && s.accReady a &&
    (s.ownEarlier a).isEmpty && !s.byFill a.id &&
    (match s.fib? a.fib with
      | some f => f.core == x
      | none => false)
/-- A load is served with a sector's data: it registers now (R218, R227), and the fill will complete it. -/
def serveFill (x sector : Nat) (s : State) (a : Access) : State :=
  serve s a fun _ t _ _ => { t with fills := t.fills.map fun e =>
    if e.core = x ∧ e.sector = sector ∧ !e.killed then { e with served := e.served ++ [a.id] } else e }
/-- Loads sent for a sector whose fill is on its way, and that no write has overtaken, are served by it (R129, R218). -/
def State.joinFill (s : State) (x sector : Nat) : State :=
  if s.fills.any fun e => e.core == x && e.sector == sector && !e.killed then
    (s.waiting x sector).foldl (serveFill x sector) s
  else s

/-- The oldest entry of a line still to be sent: overlapping stores travel in later requests (R129). -/
def sendOldest (core line : Nat) : List RaEntry → List RaEntry
  | [] => []
  | r :: rs => if r.core = core ∧ r.line = line ∧ r.sent = false then { r with sent := true } :: rs
    else r :: sendOldest core line rs
/-- ROUNDABOUT_SEND (R129): an entry of a core is sent on. -/
def execRoundaboutSend (core line : Nat) (s : State) : Result :=
  let t := { s with roundabout := sendOldest core line s.roundabout }
  let ks := ((t.fills.filter fun e => e.core == core).map (·.sector)).filter fun k =>
    decide ((sectorLoc k).line = line)
  .next (ks.foldl (fun u k => u.joinFill core k) t)

end Sys2Proof.Machine
end

