-- ==== Sys2Proof/Machine/Memory.lean ====
section
/-! DEFINITION. Loads, stores, ordered accesses, typed-buffer accesses, atomics, copies, counter waits and `tok.pass`
(R123 to R143, R157, R158, R191), and the events of the copy engine and the walkers (R138, R140, R224, R225, R231). -/

namespace Sys2Proof.Machine

open Sys2Proof.Dec (leNat leBytes fld)

/-! Loads and stores. -/

def ldSize : LdTy → Nat
  | .n8 | .i8 => 1
  | .n16 | .i16 => 2
  | .b32 => 4
  | .b64 => 8
def stSize : StTy → Nat
  | .b8 => 1
  | .b16 => 2
  | .b32 => 4
  | .b64 => 8
/-- The data registers of an access of a size. -/
def dataRegs (size : Nat) (d : Reg) : List Reg := if size = 8 then pairRegs d else [d]
def Fibre.data (f : Fibre) (size : Nat) (d : Reg) : DWord := if size = 8 then f.pair d else (f.reg d).setWidth 64

/-- Where the base of an access stands: a global pair, or an offset register. -/
def baseRegs (glob : Bool) (a : Reg) : List Reg := if glob then pairRegs a else [a]
/-- The address: base plus offset, modulo 2^64 or 2^32 (R124). -/
def Fibre.addrOf (f : Fibre) (glob : Bool) (a : Reg) (off : DWord) : Nat :=
  if glob then (f.pair a + off).toNat else (f.reg a + off.setWidth 32).toNat

/-- The operand of a plain access, global or in `sp`. -/
def State.operand (s : State) (f : Fibre) (glob : Bool) (addr size : Nat) (k : AccKind) : Resolve :=
  if glob then resolveGlobal s f addr size size k else resolveSp s f addr size size false

def plainLoad (s : State) (i : Instr) (h : Hdr) (glob : Bool) (a d : Reg) (ty : LdTy) (off : DWord) : Result :=
  issue s i h.g h.s.toNat (baseRegs glob a ++ dataRegs (ldSize ty) d) ((baseRegs glob a).map rc) fun f =>
    let addr := f.addrOf glob a off
    (s.operand f glob addr (ldSize ty) .read).andThen s f i fun l s =>
      postAccess s f i h (mkAccess f i l addr (ldSize ty) (.load ty d))

def plainStore (s : State) (i : Instr) (h : Hdr) (glob : Bool) (a d : Reg) (size : Nat) (off : DWord) : Result :=
  issue s i h.g h.s.toNat (baseRegs glob a ++ dataRegs size d) ((baseRegs glob a ++ dataRegs size d).map rc) fun f =>
    let addr := f.addrOf glob a off
    (s.operand f glob addr size .write).andThen s f i fun l s =>
      postAccess s f i h (mkAccess f i l addr size (.store (f.data size d)))

def ldB32GlobalAt (i : Instr) (v : Option (BitVec 19)) (h : Hdr) (off : BitVec 7) (a d : Reg) (s : State) : Result :=
  plainLoad s i h true a d .b32 (offM v off 4)
def ldB64GlobalAt (i : Instr) (v : Option (BitVec 19)) (h : Hdr) (off : BitVec 7) (a d : Reg) (s : State) : Result :=
  plainLoad s i h true a d .b64 (offM v off 8)
def stB32GlobalAt (i : Instr) (v : Option (BitVec 19)) (h : Hdr) (off : BitVec 7) (a d : Reg) (s : State) : Result :=
  plainStore s i h true a d 4 (offM v off 4)
def stB64GlobalAt (i : Instr) (v : Option (BitVec 19)) (h : Hdr) (off : BitVec 7) (a d : Reg) (s : State) : Result :=
  plainStore s i h true a d 8 (offM v off 8)
def ldB32SpAt (i : Instr) (v : Option (BitVec 19)) (h : Hdr) (off : BitVec 7) (a d : Reg) (s : State) : Result :=
  plainLoad s i h false a d .b32 (offM v off 4)
def stB32SpAt (i : Instr) (v : Option (BitVec 19)) (h : Hdr) (off : BitVec 7) (a d : Reg) (s : State) : Result :=
  plainStore s i h false a d 4 (offM v off 4)
def ldPlainAt (i : Instr) (v : Option (BitVec 19)) (h : Hdr) (ty : LdTy) (sp : Bool) (a d : Reg) (s : State) : Result :=
  plainLoad s i h (!sp) a d ty (offD v)
def stPlainAt (i : Instr) (v : Option (BitVec 19)) (h : Hdr) (ty : StTy) (sp : Bool) (a d : Reg) (s : State) : Result :=
  plainStore s i h (!sp) a d (stSize ty) (offD v)

def execLdB32Global (h : Hdr) (off : BitVec 7) (a d : Reg) (s : State) : Result :=
  ldB32GlobalAt (.ldB32Global h off a d) none h off a d s
def execLdB64Global (h : Hdr) (off : BitVec 7) (a d : Reg) (s : State) : Result :=
  ldB64GlobalAt (.ldB64Global h off a d) none h off a d s
def execStB32Global (h : Hdr) (off : BitVec 7) (a d : Reg) (s : State) : Result :=
  stB32GlobalAt (.stB32Global h off a d) none h off a d s
def execStB64Global (h : Hdr) (off : BitVec 7) (a d : Reg) (s : State) : Result :=
  stB64GlobalAt (.stB64Global h off a d) none h off a d s
def execLdB32Sp (h : Hdr) (off : BitVec 7) (a d : Reg) (s : State) : Result :=
  ldB32SpAt (.ldB32Sp h off a d) none h off a d s
def execStB32Sp (h : Hdr) (off : BitVec 7) (a d : Reg) (s : State) : Result :=
  stB32SpAt (.stB32Sp h off a d) none h off a d s
def execLdPlain (h : Hdr) (ty : LdTy) (sp : Bool) (a d : Reg) (s : State) : Result :=
  ldPlainAt (.ldPlain h ty sp a d) none h ty sp a d s
def execStPlain (h : Hdr) (ty : StTy) (sp : Bool) (a d : Reg) (s : State) : Result :=
  stPlainAt (.stPlain h ty sp a d) none h ty sp a d s

/-! Sharing windows (R136). -/

/-- The group and number of a window the fibre reaches, for R155. -/
def State.winOf (s : State) (f : Fibre) (w : Nat) : Option (Loc × Nat) := (s.window? f w).map fun x => (x.group, x.n)

def ldSwAt (i : Instr) (v : Option (BitVec 19)) (h : Hdr) (w : BitVec 4) (a d : Reg) (s : State) : Result :=
  issue s i h.g h.s.toNat [a, d] [rc a] fun f =>
    let addr := f.addrOf false a (offD v)
    (resolveSw s f w.toNat addr 4).andThen s f i fun l s =>
      postAccess s f i h { mkAccess f i l addr 4 (.load .b32 d) with win := s.winOf f w.toNat }
def execLdSw (h : Hdr) (w : BitVec 4) (a d : Reg) (s : State) : Result := ldSwAt (.ldSw h w a d) none h w a d s

def stSwAt (i : Instr) (v : Option (BitVec 19)) (h : Hdr) (w : BitVec 4) (a d : Reg) (s : State) : Result :=
  issue s i h.g h.s.toNat [a, d] [rc a, rc d] fun f =>
    let addr := f.addrOf false a (offD v)
    (resolveSw s f w.toNat addr 4).andThen s f i fun l s =>
      postAccess s f i h { mkAccess f i l addr 4 (.store (f.data 4 d)) with win := s.winOf f w.toNat }
def execStSw (h : Hdr) (w : BitVec 4) (a d : Reg) (s : State) : Result := stSwAt (.stSw h w a d) none h w a d s

/-! Ordered accesses (R133 to R135). -/

def wideSize (wide : Bool) : Nat := if wide then 8 else 4

def ldAcqAt (i : Instr) (v : Option (BitVec 19)) (h : Hdr) (sc : Scope) (wide : Bool) (a d : Reg) (s : State) : Result :=
  let size := wideSize wide
  issue s i h.g h.s.toNat (pairRegs a ++ dataRegs size d) (pairCodes a) fun f =>
    let addr := f.addrOf true a (offD v)
    (resolveGlobal s f addr size size .read).andThen s f i fun l s =>
      postAccess s f i h { mkAccess f i l addr size (.load (if wide then .b64 else .b32) d) with acq := true, scope := sc }
def execLdAcq (h : Hdr) (sc : Scope) (wide : Bool) (a d : Reg) (s : State) : Result :=
  ldAcqAt (.ldAcq h sc wide a d) none h sc wide a d s

def stRelAt (i : Instr) (v : Option (BitVec 19)) (h : Hdr) (sc : Scope) (wide : Bool) (a d : Reg) (s : State) : Result :=
  let size := wideSize wide
  issue s i h.g h.s.toNat (pairRegs a ++ dataRegs size d) (pairCodes a ++ (dataRegs size d).map rc) fun f =>
    let addr := f.addrOf true a (offD v)
    (resolveGlobal s f addr size size .write).andThen s f i fun l s =>
      postAccess s f i h { mkAccess f i l addr size (.store (f.data size d)) with rel := true, scope := sc }
def execStRel (h : Hdr) (sc : Scope) (wide : Bool) (a d : Reg) (s : State) : Result :=
  stRelAt (.stRel h sc wide a d) none h sc wide a d s

/-! Typed buffers (R191). -/

def ldCbAt (i : Instr) (v : Option (BitVec 19)) (h : Hdr) (buf : Buf) (wide : Bool) (a d : Reg) (s : State) : Result :=
  let size := wideSize wide
  issue s i h.g h.s.toNat ([a] ++ dataRegs size d) [rc a] fun f =>
    let addr := f.addrOf false a (offD v)
    (resolveCb s f buf addr size).andThen s f i fun l s =>
      postAccess s f i h (mkAccess f i l addr size (.load (if wide then .b64 else .b32) d))
def execLdCb (h : Hdr) (buf : Buf) (wide : Bool) (a d : Reg) (s : State) : Result :=
  ldCbAt (.ldCb h buf wide a d) none h buf wide a d s

def stCbAt (i : Instr) (v : Option (BitVec 19)) (h : Hdr) (buf : Buf) (wide : Bool) (a d : Reg) (s : State) : Result :=
  let size := wideSize wide
  issue s i h.g h.s.toNat ([a] ++ dataRegs size d) (rc a :: (dataRegs size d).map rc) fun f =>
    let addr := f.addrOf false a (offD v)
    (resolveCb s f buf addr size).andThen s f i fun l s =>
      postAccess s f i h (mkAccess f i l addr size (.store (f.data size d)))
def execStCb (h : Hdr) (buf : Buf) (wide : Bool) (a d : Reg) (s : State) : Result :=
  stCbAt (.stCb h buf wide a d) none h buf wide a d s

/-! Atomics (R141). -/

def execAtom (h : Hdr) (sp : Bool) (b a d : Reg) (ty : AtomTy) (sc : Scope) (sem : Sem) (op : AtomOp) (s : State) :
    Result :=
  let i := Instr.atom h sp b a d ty sc sem op
  let size := wideSize ty.wide
  issue s i h.g h.s.toNat (baseRegs (!sp) a ++ dataRegs size b ++ dataRegs size d)
    ((dataRegs size d ++ baseRegs (!sp) a ++ dataRegs size b).map rc) fun f =>
    let addr := f.addrOf (!sp) a 0
    (s.operand f (!sp) addr size .atomic).andThen s f i fun l s =>
      postAccess s f i h { mkAccess f i l addr size (.atom op ty (f.data size b) (f.data size d) d) with
        acq := sem = .acq || sem = .acqrel, rel := sem = .rel || sem = .acqrel, scope := sc }

/-! `plz.open` (R292, R293). -/

def execPlzOpen (h : Hdr) (a d : Reg) (s : State) : Result :=
  let i := Instr.plzOpen h a d
  issue s i h.g h.s.toNat (pairRegs a ++ pairRegs d) (pairCodes a) fun f =>
    let addr := (f.pair a).toNat
    if addr % 16 ≠ 0 then s.trapAt f i .align 0 addr
    else (resolveGlobal s f addr 16 16 .read).andThen s f i fun l s =>
      postAccess s f i h (mkAccess f i l addr 16 (.openPlaza d))

/-! Counter waits and the token. -/

def execCwait (h : Hdr) (c : Cls) (n : BitVec 6) (s : State) : Result :=
  let i := Instr.cwait h c n
  issue s i h.g h.s.toNat [] [] fun f =>
    if f.counter c ≤ n.toNat then
      let due := f.mxFaults.find? fun d => c == .mx && !f.trapMode && decide (d.acc + n.toNat ≤ f.mxSeq)
      match due with
      | some d => s.mxTrap f d
      | none => s.retire f i { stall := h.s.toNat, flush := true, safe := true }
    else s.block f (.counter c n.toNat)

/-- `tok.pass` (R158): without DET, and a second time, it retires with no effect. -/
def execTokPass (h : Hdr) (s : State) : Result :=
  let i := Instr.tokPass h
  issue s i h.g h.s.toNat [] [] fun f =>
    if s.det f && !f.passed then
      (((s.release f.uid).retire { f with passed := true } i { stall := h.s.toNat }).tokenMoves f.launch)
    else s.retire f i { stall := h.s.toNat }

/-! Copies (R137 to R140). -/

/-- An end of a copy, checked over its range; a copy's global pages are translated piece by piece. -/
inductive EndCheck where
  | ok (e : CopyEnd) (w : List (Loc × Nat))
  | trap (c : Cause) (addr : Nat)

def spaceRegs (space : Space) (r : Reg) : List Reg := if space = .global then pairRegs r else [r]

def copyEnd (s : State) (f : Fibre) (space : Space) (r : Reg) (win len : Nat) : EndCheck :=
  let off := (f.reg r).toNat
  let typed (b : Buf) : EndCheck :=
    if !s.holdsQuad f then .trap .prot off
    else if Config.bufBytes < off + len then .trap .prot off
    else .ok (.here (.cb (cbKey (coreQuad f.core) b.code off))) []
  match space with
  | .global =>
    let va := (f.pair r).toNat
    if 2 ^ 57 < va + len ∨ 2 ^ 57 ≤ va then .trap .prot va
    else if s.inFrames (s.asidOf f) va len then .trap .prot va
    else .ok (.global va) []
  | .sp => match s.spBase f false with
    | none => .trap .prot off
    | some (base, size) => if size < off + len then .trap .prot off else .ok (.here (.sp (base + off))) []
  | .sw => match s.window? f win with
    | none => .trap .revoked off
    | some w =>
      if s.windowSize w < off + len then .trap .prot off
      else .ok (.here (.sp (spKey w.core w.alloc off))) (s.winOf f win).toList
  | .wbuf => typed .wbuf
  | .abuf => typed .abuf
  | .cbuf => typed .cbuf

def CopyEnd.addr (e : CopyEnd) : Nat :=
  match e with
  | .global va => va
  | .here (.sp k) => k % 2 ^ 18
  | .here (.cb k) => k % 2 ^ 19
  | .here l => l.key.2
def CopyEnd.overlaps (a : CopyEnd) (n : Nat) (b : CopyEnd) (m : Nat) : Bool :=
  match a, b with
  | .global x, .global y => decide (0 < n ∧ 0 < m ∧ x < y + m ∧ y < x + n)
  | .here x, .here y => decide (0 < n ∧ 0 < m) && x.overlaps n y m
  | _, _ => false

/-- One comparison group (R139): one set, or one block where a fibre has no set. The issuer of the copy in flight counts by
its set at that copy's issue (DESIGN CHOICE, log 91). -/
def comparable (f : Fibre) (c : Copy) : Bool :=
  match f.set, c.set with
  | some a, some b => a == b
  | _, _ => c.launch == f.launch && c.block == f.block

/-- The copy's overlap with one in flight in another queue (R139): that queue. -/
def State.copyOverlap (s : State) (f : Fibre) (q : Nat) (dst : CopyEnd) (len asid : Nat) : Option Nat :=
  (s.copies.find? fun c => c.node.isNone && !(c.core == f.core && c.queue == q) && comparable f c &&
    c.asid == asid && dst.overlaps len c.dst c.len).map (·.queue)

/-- The barrier of a copy: its object's location, or its trap or wait. In `sp` it lies in the issuing core's own
scratchpad (R147). -/
def copyBar (s : State) (f : Fibre) (present glob : Bool) (bar : Reg) : Resolve ⊕ Unit :=
  let off := (f.reg bar).toNat
  if !present then .inr ()
  else .inl (if glob then (match resolveObj s f .dev bar with
      | .ok (.peer _ _) _ => .trap .prot 0 (f.pair bar).toNat
      | r => r)
    else if off % 32 ≠ 0 then .trap .align 0 off else resolveSp s f off 32 32 false)

/-- A checked copy waits for a slot and for room in its counter; then it takes its name, the counter rises, and it joins its queue
(R137). `c` bears the next name. -/
def queueCopy (s : State) (f : Fibre) (i : Instr) (h : Hdr) (c : Copy) : State :=
  if Config.copySlots ≤ s.copyCount f.core ∨ 63 ≤ f.counter .cp then { s with nextId := s.nextId + 1 }.block f (.copySlot c)
  else
    { s with copies := s.copies ++ [c], nextId := s.nextId + 2 }.retire (f.raise c.id .cp) i { stall := h.s.toNat }

/-- The name a waiting copy takes at its next try: the ages of those in flight follow the order in which they started (R137). -/
def State.nameCopy (s : State) (c : Copy) : State × Copy :=
  ({ s with tlbBusy := s.tlbBusy.map fun n => if n = c.id then s.nextId else n }, { c with id := s.nextId })

/-- `cpy` (R137): every check once, and then the wait. Its barrier is checked after both ranges and before COPY_OVERLAP (DESIGN
CHOICE, log 71: the rule's list does not place that check). The ALIGN of a length names the destination (DESIGN CHOICE, log 122: R163
has one data address). -/
def execCpy (h : Hdr) (b a d : Reg) (devScope : Bool) (srcWin dstWin : BitVec 4) (barGlobal : Bool)
    (src dst : Space) (q : BitVec 3) (barPresent : Bool) (bar : Reg) (s : State) : Result :=
  let i := Instr.cpy h b a d devScope srcWin dstWin barGlobal src dst q barPresent bar
  let br := if !barPresent then [] else if barGlobal then pairRegs bar else [bar]
  let rs := spaceRegs dst d ++ spaceRegs src a ++ [b] ++ br
  issue s i h.g h.s.toNat rs (rs.map rc) fun f => match f.wait with
  | .copySlot c => queueCopy (s.nameCopy c).1 f i h (s.nameCopy c).2
  | _ =>
    let len := (f.reg b).toNat
    let da := if dst = .global then (f.pair d).toNat else (f.reg d).toNat
    let sa := if src = .global then (f.pair a).toNat else (f.reg a).toNat
    if f.tag ≠ 0 then s.trapAt f i .plazaMisuse 0x04 f.tag.toNat
    else if da % 4 ≠ 0 then s.trapAt f i .align 0 da
    else if sa % 4 ≠ 0 then s.trapAt f i .align 0 sa
    else if len % 4 ≠ 0 then s.trapAt f i .align 0 da
    else match copyEnd s f dst d dstWin.toNat len, copyEnd s f src a srcWin.toNat len with
      | .trap c x, _ => s.trapAt f i c 0 x
      | _, .trap c x => s.trapAt f i c 0 x
      | .ok de dw, .ok se sw =>
        let go (s : State) (bl : Option Loc) : State :=
          match s.copyOverlap f q.toNat de len (s.asidOf f) with
          | some n => s.trapAt f i .copyOverlap n da
          | none => queueCopy s f i h
              { id := s.nextId, fib := f.uid, launch := f.launch, block := f.block, set := f.set, core := f.core
                queue := q.toNat, asid := s.asidOf f, iaddr := f.pc, insn := insnWord i, src := se, dst := de
                len := len, landed := 0, sent := 0, buf := [], bar := bl
                barAddr := if barGlobal then (f.pair bar).toNat else (f.reg bar).toNat, barGlobal := barPresent && barGlobal
                barScope := if barGlobal && !devScope then .die else .dev
                wins := dw ++ sw, hold := .none, failed := false, race := none, node := none, before := f.before }
        match copyBar s f barPresent barGlobal bar with
        | .inr () => go s none
        | .inl r => r.andThen s f i fun l s => go s (some l)

/-! COPY_PIECE_LAND. -/

/-- Locations of [a, a + n) of a copy's end, page by page. -/
inductive Pieces where
  | ok (ls : List (Loc × Nat)) (s : State)
  | fail (s : State)
  | hold (s : State) (h : Hold)
  /-- A page flips its bias, or a walker waits for the host (R260, R261). -/
  | wait (s : State)

def pieceLocs (s : State) (agent quad die asid : Nat) (k : AccKind) : Nat → Nat → Nat → Pieces
  | 0, _, _ => .ok [] s
  | fuel + 1, va, n =>
    if n = 0 then .ok [] s
    else
      let m := min n (4096 - va % 4096)
      let r := s.lookup none quad asid va k
      match r.2 with
      | .prot => .fail r.1
      | .flip | .busy => .wait r.1
      | .fault why lv ea => let x := openFault r.1 die asid va k agent why lv ea; .hold x.1 x.2
      | .ok l _ =>
        match pieceLocs r.1 agent quad die asid k fuel (va + m) (n - m) with
        | .ok ls t => .ok ((l, m) :: ls) t
        | o => o

/-- A location of a copy's end at byte `at'`. -/
def CopyEnd.locs (e : CopyEnd) (s : State) (c : Copy) (k : AccKind) (at' n : Nat) : Pieces :=
  match e with
  | .global va => pieceLocs s 1 (coreQuad c.core) (coreDie c.core) c.asid k 3 (va + at') n
  | .here l => .ok [(l.add at', n)] s

/-- Bytes of a peer arrive as free values: its memory is no state of this machine (DESIGN CHOICE, log 11). -/
def freeBytes (s : State) : Nat → List Byte × State
  | 0 => ([], s)
  | n + 1 =>
    let r := freeBytes { s with freeCount := s.freeCount + 1 } n
    ((Config.freeValue s.freeCount).setWidth 8 :: r.1, r.2)

/-- Read and check locations in order (R217, R234): no bytes when a sector read is poisoned. -/
def readLocs (s : State) (agent : Nat) : List (Loc × Nat) → State × Option (List Byte)
  | [] => (s, some [])
  | (l, n) :: ls =>
    let b : State × Option (List Byte) :=
      if l.isPeer then let x := freeBytes s n; (x.2, some x.1)
      else
        let r := checkRead (s.peekAll l n) l n agent
        (r.1, if r.2.isEmpty then some (r.1.bytes l n) else none)
    match b.2 with
    | none => (b.1, none)
    | some bs => let r := readLocs b.1 agent ls; (r.1, r.2.map (bs ++ ·))

/-- The outcome of the registrations of a copy or an engine: done, the refused access's DETAIL and address, or a wait for
room in the table. -/
inductive RegAll where
  | ok (s : State)
  | race (detail addr : Nat)
  | full
/-- Register accesses of a copy or engine at locations, in order; a peer's are not registered (R287). -/
def registerLocs (s : State) (mk : Loc → Nat → NewAcc) : List (Loc × Nat) → RegAll
  | [] => .ok s
  | (l, n) :: ls =>
    if l.isPeer then registerLocs s mk ls
    else match s.register (mk l n) with
      | .race d => .race d l.key.2
      | .full => .full
      | .ok t => registerLocs t mk ls

/-- Locations that an agent outside every plaza must wait for, or whose host copies must be snooped first. -/
def meetLocs (s : State) (writes : Bool) : List (Loc × Nat) → State × Bool
  | [] => (s, true)
  | (l, n) :: ls =>
    match s.meet l n 0 writes with
    | (t, .wait _) => (t, false)
    | (t, .go) =>
      if !(t.hostInWay l n writes).isEmpty then (t.snoop (t.hostInWay l n writes), false)
      else if !t.mayServe l n writes then (t, false)
      else meetLocs t writes ls

/-- Write bytes at locations, in order. -/
def writeLocs (s : State) : List (Loc × Nat) → List Byte → State
  | [], _ => s
  | (l, n) :: ls, bs => writeLocs ((s.homeWrite l (bs.take n)).chooseRun l n) ls (bs.drop n)

def State.setCopy (s : State) (c : Copy) : State := { s with copies := s.copies.map fun d => if d.id = c.id then c else d }

/-- The cp counter falls for a copy, when every earlier one of its fibre has fallen; the source records of those for which
it falls close (R137, R228). A fault found at a later landing is delivered after a `cwait.cp` that this lets retire
(DESIGN CHOICE, log 109: R131 and R137 differ). -/
def State.copySent (s : State) (c : Copy) : State :=
  match s.fib? c.fib with
  | none => s.closeOwner c.id
  | some f =>
    let g := f.complete c.id
    (((f.outs.filter fun o => o.cls == .cp && !g.outs.any fun q => q.id == o.id).map (·.id)).foldl (fun t id => t.closeOwner id)
      (s.setF g)).closeDrained c.fib
/-- A copy leaves its queue; an aborted one counts as completed (R138, R140, R228). -/
def State.endCopy (s : State) (c : Copy) : State :=
  { ((s.closeOwner (c.id + 1)).copySent c).tlbSettle c.id with copies := s.copies.filter fun d => d.id != c.id }

/-- A node stops its graph: no further node starts (R276, R277). -/
def State.stopReplay (s : State) (node : Nat × Nat) (code : Nat) : State :=
  { s with replays := s.replays.map fun (r : Replay) =>
      if r.id = node.1 ∧ r.stopped = none then { r with stopped := some (node.2, code) } else r }

/-- A deferred trap of a copy's issuer (R132). -/
def State.copyTrap (s : State) (c : Copy) (why : Cause) (detail addr : Nat) : State :=
  s.deferTrap c.fib ⟨c.id, .cp, s.youngerOuts c.fib c.id .cp, why, detail, c.iaddr, c.insn, addr⟩
/-- COPY_ABORT (R140, R276): FAIL on its barrier, a deferred RACE where the detector refused it, or a deferred COPY_FAULT. -/
def abortNow (s : State) (c : Copy) (race : Option (Nat × Nat)) : State :=
  let s := s.endCopy c
  let s := match c.bar with
    | some l => s.failObj l
    | none => s
  match c.node, race, c.bar with
  | some n, r, _ => s.stopReplay n (if r.isSome then Cause.race.code else Cause.copyFault.code)
  | none, some (d, addr), _ => s.copyTrap c .race d addr
  | none, none, none => s.copyTrap c .copyFault 0 c.dst.addr
  | none, none, some _ => s
/-- An abort waits until its barrier's object can be written (R216, R260, R298). -/
def abortCopy (s : State) (c : Copy) (race : Option (Nat × Nat)) : State :=
  let m := meetLocs s true (c.bar.toList.map fun l => (l, 32))
  if m.2 then abortNow m.1 c race else m.1.setCopy { c with failed := true, race := race, hold := .none }

/-- The location of an address in an end, for the DADDR of a refused piece. -/
def pieceAcc (c : Copy) (writes : Bool) (owner : Nat) (l : Loc) (n : Nat) : NewAcc :=
  { fib := c.fib, launch := c.launch, block := c.block, loc := l, size := n, writes := writes, sync := false
    core := c.core, owner := owner, engine := true
    before := c.before }

/-- The first byte after the piece that holds byte `at'` of a copy: pieces end at 256-byte boundaries of the destination
(R138); and how many bytes of the piece stand before an end. -/
def Copy.pieceEnd (c : Copy) (at' : Nat) : Nat := min c.len (at' + (256 - (c.dst.addr + at') % 256))
def Copy.pieceBytes (c : Copy) (e : Nat) : Nat := min e ((c.dst.addr + e - 1) % 256 + 1)
def Copy.pieceStart (c : Copy) (at' : Nat) : Bool := at' == 0 || (c.dst.addr + at') % 256 == 0

/-- The byte count of a landed piece, a synchronising access to the object at the copy's barrier scope (R137, R147). A
conflict refuses it: the bytes are not counted, and the issuer takes a deferred RACE at the barrier's address (R232; DESIGN
CHOICE, log 72). So does a barrier in a poisoned sector, or in one whose check value does not match: INTEGRITY (R233, R234; DESIGN
CHOICE, log 104). The piece's destination records close as it is counted (R228). False: it has to wait. -/
def countPiece (s : State) (c : Copy) (n : Nat) : State × Bool :=
  match c.bar with
  | none => (s, true)
  | some l =>
    let m := meetLocs s true [(l, 32)]
    let landed := m.1.closeOwner (c.id + 1)
    let r := checkRead landed l 32 1
    if !m.2 then (m.1, false)
    else if !r.2.isEmpty then (r.1.copyTrap c .integrity 0 (c.barAddr / 64 * 64), true)
    else match r.1.register { pieceAcc c true (c.id + 1) l 32 with sync := true, scope := c.barScope } with
      | .full => (m.1, false)
      | .race d => (r.1.copyTrap c .race d c.barAddr, true)
      | .ok t => (t.landBytes l n, true)

/-- Locations of n bytes of an end for a step of a copy; a page that faults suspends it, one that cannot be used or a peer
that no path reaches aborts it (R140, R288). -/
def copyLocs (s : State) (c : Copy) (e : CopyEnd) (k : AccKind) (at' n : Nat) (go : State → List (Loc × Nat) → State) : State :=
  match e.locs s c k at' n with
  | .fail t => abortCopy t c none
  | .wait t => t
  | .hold t h => t.setCopy { c with hold := h }
  | .ok ls t =>
    if ls.any fun p => t.unreachable p.1 then abortCopy t c none
    else
      let m := meetLocs t (k == .write) ls
      if m.2 then go m.1 ls else m.1
/-- Register a piece's read or write as its first word is handled (R227). -/
def copyRegister (s : State) (c : Copy) (e : CopyEnd) (k : AccKind) (owner at' n : Nat) (go : State → State) : State :=
  if !c.pieceStart at' then go s
  else copyLocs s c e k at' n fun s ls =>
    match registerLocs s (pieceAcc c (k == .write) owner) ls with
    | .race d _ => abortCopy s c (some (d, e.addr + at'))
    | .full => s
    | .ok s => go s

/-- A word of the source is read (R137, R310): after the last byte the cp counter falls. -/
def readWord (s : State) (c : Copy) : State :=
  let n := min 4 (c.pieceEnd c.landed - c.sent)
  copyRegister s c c.src .read c.id c.sent (c.pieceEnd c.landed - c.sent) fun s =>
    copyLocs s c c.src .read c.sent n fun s ls =>
      match readLocs s 1 ls with
      | (t, none) => abortCopy t c none
      | (t, some bs) =>
        let d := { c with sent := c.sent + n, buf := c.buf ++ bs }
        let t := t.setCopy d
        if d.sent = d.len then t.copySent d else t

/-- A word lands (R138, R310): with the last of a piece its bytes are counted, and with the last of all the copy ends. -/
def landWord (s : State) (c : Copy) : State :=
  let e := c.pieceEnd c.landed
  let n := min 4 (c.sent - c.landed)
  copyRegister s c c.dst .write (c.id + 1) c.landed (e - c.landed) fun s =>
    copyLocs s c c.dst .write c.landed n fun s ls =>
      let d := { c with landed := c.landed + n, buf := c.buf.drop n }
      let r := if d.landed = e then countPiece s d (c.pieceBytes e) else (s, true)
      if !r.2 then r.1
      else
        let t := (writeLocs r.1 ls (c.buf.take n)).setCopy d
        if d.landed = d.len then t.endCopy d else t

/-- A step of a copy (R138, R140): its pieces are read and landed word by word; a copy of no bytes adds 0 to its barrier
and is complete. -/
def landPiece (s : State) (c : Copy) : State :=
  if c.failed then abortCopy s c c.race
  else if c.hold ≠ .none then s
  else if c.len = 0 then
    let r := countPiece s c 0
    if r.2 then r.1.endCopy c else r.1
  else if c.sent < c.pieceEnd c.landed then readWord s c else landWord s c

def execCopyPieceLand (copy : Nat) (s : State) : Result :=
  .next (match s.copies.find? fun c => c.id == copy with
    | none => s
    | some c =>
      if s.copies.any fun d => d.core == c.core && d.queue == c.queue && d.node.isSome == c.node.isSome && decide (d.id < c.id)
      then s else landPiece s c)

/-! Translation events. -/

/-- TABLE_WALK (R224): a walk for an access of a quad; only successful translations are kept. -/
def execTableWalk (quad : Nat) (asid : BitVec 8) (va : Nat) (kind : AccKind) (s : State) : Result :=
  let r := s.lookup none quad asid.toNat va kind
  .next (match r.2 with
    | .fault why lv ea => (openFault r.1 (quadDie quad) asid.toNat va kind 0 why lv ea).1
    | .ok _ _ | .prot | .flip | .busy => r.1)

/-- A launch completes: its blocks and the identities of R230 go with it. -/
def State.launchOver (s : State) (l : Launch) : State :=
  { s.setLaunch { l with status := .complete } with
    blocks := s.blocks.filter fun b => b.launch != l.id
    touched := s.touched.filter fun t => t.1 != l.id }
/-- A completion write that cannot be made (R278): an error record, and the launch completes without it. -/
def State.completionFailed (s : State) (l : Launch) : State := makeError (s.launchOver l) 0x05 10 0 l.doneaddr

/-- Close a record: those that wait for it, or for any record of the die, go on (R225). -/
def State.closeFault (s : State) (die rec : Nat) (resolved : Bool) : State :=
  let va := match s.faults.find? fun r => r.die == die && r.index == rec with
    | some r => r.va / 4096
    | none => 0
  let mine (h : Hold) := h == .fault die rec
  let freed (h : Hold) := mine h || h == .faultFull die
  let fib (f : Fibre) : Fibre :=
    if f.wait = .fault die rec then { f with wait := if resolved then .none else .faultFailed va }
    else if f.wait = .faultFull die then { f with wait := .none } else f
  let copy (c : Copy) : Copy :=
    if freed c.hold then { c with hold := .none, failed := c.failed || (mine c.hold && !resolved) } else c
  let entry (e : MxEntry) : MxEntry :=
    if freed e.hold then { e with hold := .none, failed := e.failed || (mine e.hold && !resolved) } else e
  let s := { s with
    faults := s.faults.filter fun r => !(r.die == die && r.index == rec)
    fibres := s.fibres.map fib
    copies := s.copies.map copy
    mx := s.mx.map entry }
  s.launches.foldl (fun t l => match l.status with
    | .completing h =>
      if mine h && !resolved then t.completionFailed l
      else if freed h then t.setLaunch { l with status := .completing .none } else t
    | .running | .posted _ | .complete => t) s

def execFaultdoneResolved (die rec : Nat) (s : State) : Result := .next (s.closeFault die rec true)
def execFaultdoneUnresolvable (die rec : Nat) (s : State) : Result := .next (s.closeFault die rec false)

/-- DETECTOR_FULL (R231): a die's table has stayed full for 2^24 cycles. An error record is made, and until the table has
drained below half, a registration that cannot be stored succeeds unrecorded. At a table that is not full the event does
nothing. -/
def execDetectorFull (die : Nat) (s : State) : Result :=
  .next (if 4 ≤ die || !s.tableFull die || s.detectorFull.contains die then s
    else makeError { s with detectorFull := die :: s.detectorFull } 0x04 9 die 0)

end Sys2Proof.Machine
end

