-- ==== Sys2Proof/Machine/Reads.lean ====
section
/-! DEFINITION. The general registers that each instruction reads as sources, for the split instant of a form-R range
(R109), and the guard and stall fields of an instruction. -/

namespace Sys2Proof.Machine

/-- Source registers, in a window of w registers. An instruction not listed reads none; `join.r`, `done.r` and `exit` name no register,
and the accumulators that they fold are taken for no source of theirs (DESIGN CHOICE, log 100). -/
def sources (w : Nat) : Instr → List Reg
  | .ext _ j => sources w j
  | .addI32 _ b a _ => [a, b]
  | .subI32 _ b a _ => [a, b]
  | .mulLoI32 _ b a _ => [a, b]
  | .mulHiI32 _ b a _ => [a, b]
  | .mulHiN32 _ b a _ => [a, b]
  | .andB32 _ b a _ => [a, b]
  | .orB32 _ b a _ => [a, b]
  | .xorB32 _ b a _ => [a, b]
  | .andnB32 _ b a _ => [a, b]
  | .shlB32 _ b a _ => [a, b]
  | .shrN32 _ b a _ => [a, b]
  | .shrI32 _ b a _ => [a, b]
  | .rotB32 _ b a _ => [a, b]
  | .minI32 _ b a _ => [a, b]
  | .maxI32 _ b a _ => [a, b]
  | .minN32 _ b a _ => [a, b]
  | .maxN32 _ b a _ => [a, b]
  | .mulWideI32 _ b a _ => [a, b]
  | .mulWideN32 _ b a _ => [a, b]
  | .faddF32 _ b a _ => [a, b]
  | .fsubF32 _ b a _ => [a, b]
  | .fmulF32 _ b a _ => [a, b]
  | .fminF32 _ b a _ => [a, b]
  | .fmaxF32 _ b a _ => [a, b]
  | .haddH2 _ b a _ => [a, b]
  | .hmulH2 _ b a _ => [a, b]
  | .madLoI32 _ b a d => [a, b, d]
  | .ffmaF32 _ b a d => [a, b, d]
  | .hfmaH2 _ b a d => [a, b, d]
  | .hfmaBh2 _ b a d => [a, b, d]
  | .addI64 _ b a _ => pairRegs a ++ pairRegs b
  | .subI64 _ b a _ => pairRegs a ++ pairRegs b
  | .faddF64 _ b a _ => pairRegs a ++ pairRegs b
  | .fsubF64 _ b a _ => pairRegs a ++ pairRegs b
  | .fmulF64 _ b a _ => pairRegs a ++ pairRegs b
  | .ffmaF64 _ b a d => pairRegs a ++ pairRegs b ++ pairRegs d
  | .leaN32 _ b a _ _ => pairRegs a ++ [b]
  | .leaI32 _ b a _ _ => pairRegs a ++ [b]
  | .addI32Imm _ _ d => [d]
  | .subI32Imm _ _ d => [d]
  | .mulLoI32Imm _ _ d => [d]
  | .andB32Imm _ _ d => [d]
  | .orB32Imm _ _ d => [d]
  | .xorB32Imm _ _ d => [d]
  | .shlB32Imm _ _ d => [d]
  | .shrN32Imm _ _ d => [d]
  | .shrI32Imm _ _ d => [d]
  | .minI32Imm _ _ d => [d]
  | .maxI32Imm _ _ d => [d]
  | .faddF32Imm _ _ d => [d]
  | .fmulF32Imm _ _ d => [d]
  | .fmaxF32Imm _ _ d => [d]
  | .haddH2Imm _ _ d => [d]
  | .mov _ a _ => [a]
  | .notB32 _ a _ => [a]
  | .negI32 _ a _ => [a]
  | .absI32 _ a _ => [a]
  | .popcB32 _ a _ => [a]
  | .clzB32 _ a _ => [a]
  | .brevB32 _ a _ => [a]
  | .fabsF32 _ a _ => [a]
  | .fnegF32 _ a _ => [a]
  | .frintF32 _ a _ => [a]
  | .cvtToNarrow _ _ a _ => [a]
  | .cvtFromNarrow _ _ a _ => [a]
  | .rcpF32 _ a _ => [a]
  | .rsqrtF32 _ a _ => [a]
  | .exp2F32 _ a _ => [a]
  | .log2F32 _ a _ => [a]
  | .sinF32 _ a _ => [a]
  | .cosF32 _ a _ => [a]
  | .cmpI32Imm _ _ _ _ a => [a]
  | .cmpN32Imm _ _ _ _ a => [a]
  | .pset _ a => [a]
  | .xlBcastB32 _ a _ => [a]
  | .xlBflyB32 _ _ a _ => [a]
  | .xlUpB32 _ _ a _ => [a]
  | .xlDownB32 _ _ a _ => [a]
  | .xlRed _ _ a _ => [a]
  | .prioR _ a => [a]
  | .rally _ a => [a]
  | .rallyH _ a => [a]
  | .done _ a => [a]
  | .setNew _ a => [a]
  | .setEnrol _ a => [a]
  | .setQuit _ a => [a]
  | .mxa _ a => [a]
  | .asel _ a => [a]
  | .agat _ a => [a]
  | .ksumRebuild _ a => [a]
  | .ldB32Sp _ _ a _ => [a]
  | .ldSw _ _ a _ => [a]
  | .ldCb _ _ _ a _ => [a]
  | .movB64 _ a _ => pairRegs a
  | .addI64Imm _ _ a _ => pairRegs a
  | .fabsF64 _ a _ => pairRegs a
  | .fnegF64 _ a _ => pairRegs a
  | .callR _ a => pairRegs a
  | .braR _ a => pairRegs a
  | .spkI8 _ _ a _ => pairRegs a
  | .spkF8 _ _ a _ => pairRegs a
  | .grpEnter _ a _ => pairRegs a
  | .grpLeave _ a => pairRegs a
  | .plzOpen _ a _ => pairRegs a
  | .plzAbort _ a => pairRegs a
  | .launch _ a => pairRegs a
  | .ldB32Global _ _ a _ => pairRegs a
  | .ldB64Global _ _ a _ => pairRegs a
  | .ldAcq _ _ _ a _ => pairRegs a
  | .haddBh2 _ a d => [a, d]
  | .hmulBh2 _ a d => [a, d]
  | .hminH2 _ a d => [a, d]
  | .hmaxH2 _ a d => [a, d]
  | .hminBh2 _ a d => [a, d]
  | .hmaxBh2 _ a d => [a, d]
  | .stB32Sp _ _ a d => [a, d]
  | .stSw _ _ a d => [a, d]
  | .mxs _ _ a d => [a, d]
  | .fminF64 _ a d => pairRegs d ++ pairRegs a
  | .fmaxF64 _ a d => pairRegs d ++ pairRegs a
  | .cvt _ _ src a _ => if src.wide then pairRegs a else [a]
  | .cmpI32 _ _ _ b a => [a, b]
  | .cmpN32 _ _ _ b a => [a, b]
  | .cmpF32 _ _ _ b a => [a, b]
  | .cmpF64 _ _ _ b a => pairRegs a ++ pairRegs b
  | .loop _ _ count _ => [count]
  | .forkC _ _ cntM1 k => argRegs k cntM1
  | .ret _ => pairRegs (.ofNat 6 (w - 2))
  | .spawn _ d a => d :: pairRegs a
  | .stB32Global _ _ a d => d :: pairRegs a
  | .plzEnter _ a d => d :: pairRegs a
  | .plzLeave _ a d => d :: pairRegs a
  | .plzVote _ a d => d :: pairRegs a
  | .stB64Global _ _ a d => pairRegs d ++ pairRegs a
  | .ldPlain _ _ sp a _ => baseRegs (!sp) a
  | .stPlain _ ty sp a d => baseRegs (!sp) a ++ dataRegs (stSize ty) d
  | .stRel _ _ wide a d => dataRegs (wideSize wide) d ++ pairRegs a
  | .stCb _ _ wide a d => a :: dataRegs (wideSize wide) d
  | .cpy _ b a d _ _ _ barGlobal src dst _ barPresent bar => spaceRegs dst d ++ spaceRegs src a ++ [b] ++ (if !barPresent then [] else if barGlobal then pairRegs bar else [bar])
  | .atom _ sp b a d ty _ _ _ => dataRegs (wideSize ty.wide) d ++ baseRegs (!sp) a ++ dataRegs (wideSize ty.wide) b
  | .barInit _ space a d => d :: (if space = .sp then [a] else pairRegs a)
  | .barExpect _ space a d => d :: (if space = .sp then [a] else pairRegs a)
  | .barWait _ space a d => d :: (if space = .sp then [a] else pairRegs a)
  | .barArrive _ space a _ => if space = .sp then [a] else pairRegs a
  | .spkBf16 _ _ a _ => pairRegs a ++ pairRegs (a + 2)
  | .sset _ idx a => if idx = 0x0B then pairRegs a else [a]
  | .mov16 i a _ => if i then [] else [wide5 a]
  | .addI3216 i a d => wide5 d :: (if i then [] else [wide5 a])
  | .subI3216 i a d => wide5 d :: (if i then [] else [wide5 a])
  | .mulLoI3216 i a d => wide5 d :: (if i then [] else [wide5 a])
  | .andB3216 i a d => wide5 d :: (if i then [] else [wide5 a])
  | .orB3216 i a d => wide5 d :: (if i then [] else [wide5 a])
  | .xorB3216 i a d => wide5 d :: (if i then [] else [wide5 a])
  | .shlB3216 i a d => wide5 d :: (if i then [] else [wide5 a])
  | .shrN3216 i a d => wide5 d :: (if i then [] else [wide5 a])
  | .shrI3216 i a d => wide5 d :: (if i then [] else [wide5 a])
  | .minI3216 i a d => wide5 d :: (if i then [] else [wide5 a])
  | .maxI3216 i a d => wide5 d :: (if i then [] else [wide5 a])
  | .faddF3216 i a d => wide5 d :: (if i then [] else [wide5 a])
  | .fmulF3216 i a d => wide5 d :: (if i then [] else [wide5 a])
  | .fmaxF3216 i a d => wide5 d :: (if i then [] else [wide5 a])
  | .haddH216 i a d => wide5 d :: (if i then [] else [wide5 a])
  | _ => []

/-- The guard and stall fields of an instruction (R24, R26); a 16-bit form has neither, and a `bsel` no guard (R29, R30). -/
def hdrOf : Instr → Hdr
  | .ext _ j => hdrOf j
  | .bsel st _ => ⟨0, st⟩
  | .addI32 h _ _ _ => h
  | .subI32 h _ _ _ => h
  | .mulLoI32 h _ _ _ => h
  | .madLoI32 h _ _ _ => h
  | .mulHiI32 h _ _ _ => h
  | .mulHiN32 h _ _ _ => h
  | .andB32 h _ _ _ => h
  | .orB32 h _ _ _ => h
  | .xorB32 h _ _ _ => h
  | .andnB32 h _ _ _ => h
  | .shlB32 h _ _ _ => h
  | .shrN32 h _ _ _ => h
  | .shrI32 h _ _ _ => h
  | .rotB32 h _ _ _ => h
  | .minI32 h _ _ _ => h
  | .maxI32 h _ _ _ => h
  | .minN32 h _ _ _ => h
  | .maxN32 h _ _ _ => h
  | .addI64 h _ _ _ => h
  | .subI64 h _ _ _ => h
  | .mulWideI32 h _ _ _ => h
  | .mulWideN32 h _ _ _ => h
  | .leaN32 h _ _ _ _ => h
  | .leaI32 h _ _ _ _ => h
  | .addI32Imm h _ _ => h
  | .subI32Imm h _ _ => h
  | .mulLoI32Imm h _ _ => h
  | .andB32Imm h _ _ => h
  | .orB32Imm h _ _ => h
  | .xorB32Imm h _ _ => h
  | .shlB32Imm h _ _ => h
  | .shrN32Imm h _ _ => h
  | .shrI32Imm h _ _ => h
  | .minI32Imm h _ _ => h
  | .maxI32Imm h _ _ => h
  | .faddF32Imm h _ _ => h
  | .fmulF32Imm h _ _ => h
  | .fmaxF32Imm h _ _ => h
  | .haddH2Imm h _ _ => h
  | .movImm h _ _ => h
  | .mov h _ _ => h
  | .movB64 h _ _ => h
  | .notB32 h _ _ => h
  | .negI32 h _ _ => h
  | .absI32 h _ _ => h
  | .popcB32 h _ _ => h
  | .clzB32 h _ _ => h
  | .brevB32 h _ _ => h
  | .addI64Imm h _ _ _ => h
  | .faddF32 h _ _ _ => h
  | .fsubF32 h _ _ _ => h
  | .fmulF32 h _ _ _ => h
  | .ffmaF32 h _ _ _ => h
  | .fminF32 h _ _ _ => h
  | .fmaxF32 h _ _ _ => h
  | .faddF64 h _ _ _ => h
  | .fsubF64 h _ _ _ => h
  | .fmulF64 h _ _ _ => h
  | .ffmaF64 h _ _ _ => h
  | .haddH2 h _ _ _ => h
  | .hmulH2 h _ _ _ => h
  | .hfmaH2 h _ _ _ => h
  | .hfmaBh2 h _ _ _ => h
  | .fabsF32 h _ _ => h
  | .fnegF32 h _ _ => h
  | .fabsF64 h _ _ => h
  | .fnegF64 h _ _ => h
  | .haddBh2 h _ _ => h
  | .hmulBh2 h _ _ => h
  | .fminF64 h _ _ => h
  | .fmaxF64 h _ _ => h
  | .hminH2 h _ _ => h
  | .hmaxH2 h _ _ => h
  | .hminBh2 h _ _ => h
  | .hmaxBh2 h _ _ => h
  | .frintF32 h _ _ => h
  | .cvt h _ _ _ _ => h
  | .cvtToNarrow h _ _ _ => h
  | .cvtFromNarrow h _ _ _ => h
  | .rcpF32 h _ _ => h
  | .rsqrtF32 h _ _ => h
  | .exp2F32 h _ _ => h
  | .log2F32 h _ _ => h
  | .sinF32 h _ _ => h
  | .cosF32 h _ _ => h
  | .cmpI32 h _ _ _ _ => h
  | .cmpN32 h _ _ _ _ => h
  | .cmpF32 h _ _ _ _ => h
  | .cmpF64 h _ _ _ _ => h
  | .cmpI32Imm h _ _ _ _ => h
  | .cmpN32Imm h _ _ _ _ => h
  | .pand h _ _ _ => h
  | .por h _ _ _ => h
  | .pxor h _ _ _ => h
  | .pandn h _ _ _ => h
  | .pget h _ => h
  | .pset h _ => h
  | .xlElect h _ => h
  | .xlBcastB32 h _ _ => h
  | .xlCount h _ _ => h
  | .xlBflyB32 h _ _ _ => h
  | .xlUpB32 h _ _ _ => h
  | .xlDownB32 h _ _ _ => h
  | .xlRed h _ _ _ => h
  | .bra h _ => h
  | .call h _ => h
  | .ret h => h
  | .exit h => h
  | .yield h => h
  | .loose h => h
  | .prio h _ => h
  | .prioR h _ => h
  | .callR h _ => h
  | .braR h _ => h
  | .rally h _ => h
  | .rallyH h _ => h
  | .loop h _ _ _ => h
  | .forkC h _ _ _ => h
  | .forkR h _ _ _ _ _ _ => h
  | .forkRL h _ _ _ _ _ _ => h
  | .joinR h => h
  | .joinC h _ _ => h
  | .done h _ => h
  | .doneR h => h
  | .spawn h _ _ => h
  | .ldB32Global h _ _ _ => h
  | .ldB64Global h _ _ _ => h
  | .stB32Global h _ _ _ => h
  | .stB64Global h _ _ _ => h
  | .ldB32Sp h _ _ _ => h
  | .stB32Sp h _ _ _ => h
  | .ldPlain h _ _ _ _ => h
  | .stPlain h _ _ _ _ => h
  | .ldSw h _ _ _ => h
  | .stSw h _ _ _ => h
  | .ldAcq h _ _ _ _ => h
  | .stRel h _ _ _ _ => h
  | .ldCb h _ _ _ _ => h
  | .stCb h _ _ _ _ => h
  | .cpy h _ _ _ _ _ _ _ _ _ _ _ _ => h
  | .atom h _ _ _ _ _ _ _ _ => h
  | .plzOpen h _ _ => h
  | .plzEnter h _ _ => h
  | .plzLeave h _ _ => h
  | .plzVote h _ _ => h
  | .plzAbort h _ => h
  | .barInit h _ _ _ => h
  | .barExpect h _ _ _ => h
  | .barArrive h _ _ _ => h
  | .barWait h _ _ _ => h
  | .setNew h _ => h
  | .setEnrol h _ => h
  | .setQuit h _ => h
  | .grpEnter h _ _ => h
  | .grpLeave h _ => h
  | .cwait h _ _ => h
  | .tokPass h => h
  | .mxa h _ => h
  | .mxs h _ _ _ => h
  | .spkI8 h _ _ _ => h
  | .spkF8 h _ _ _ => h
  | .spkBf16 h _ _ _ => h
  | .asel h _ => h
  | .agat h _ => h
  | .ksumRebuild h _ => h
  | .smov h _ _ => h
  | .sset h _ _ => h
  | .trap h _ => h
  | .tret h => h
  | .launch h _ => h
  | .safept h _ => h
  | .nap h _ => h
  | .tretLabel h _ => h
  | _ => noGuard
/-- The guard of an instruction. -/
def guardOf (i : Instr) : BitVec 4 := (hdrOf i).g

end Sys2Proof.Machine
end

