-- ==== Sys2Proof/Machine/System.lean ====
section
/-! DEFINITION. Special registers, traps and their return, safe points and `nap` (R51, R58 to R62, R159 to R164). -/

namespace Sys2Proof.Machine

open Sys2Proof.Dec (leNat fld)

/-! `smov` and `sset` (R60, R62). -/

/-- The heartbeat register `%hbp` (R60). -/
def State.hbp (s : State) (f : Fibre) : Word :=
  match s.launch? f.launch with
  | some l => if l.flags % 2 = 1 then .ofNat 32 (2 ^ 31 + l.h) else .ofNat 32 l.period
  | none => 0

/-- `%bset` (R60): the block set's offset, all ones in a created fibre. -/
def State.bset (s : State) (f : Fibre) : Word :=
  if f.origin ≠ .launch then 0xFFFFFFFF
  else match s.launch? f.launch with
    | some l => .ofNat 32 l.kern.bset
    | none => 0xFFFFFFFF

/-- The value of a 32-bit special register. -/
def State.special (s : State) (f : Fibre) (idx : Nat) : Word :=
  match idx with
  | 0x00 => .ofNat 32 Config.laneCount
  | 0x01 => match f.held with
    | some (_, n) => .ofNat 32 n
    | none => 0xFFFFFFFF
  | 0x02 => f.fid
  | 0x03 => s.bset f
  | 0x04 => .ofNat 32 (f.core % 256)
  | 0x05 => .ofNat 32 (f.core % 256 / 4)
  | 0x06 => .ofNat 32 (coreDie f.core)
  | 0x07 => s.dev.setWidth 32
  | 0x08 => f.mode
  | 0x09 => s.hbp f
  | 0x0A => f.sat
  | 0x0C => Config.feat0
  | _ => 0

def execSmov (h : Hdr) (idx : BitVec 4) (d : Reg) (s : State) : Result :=
  let i := Instr.smov h idx d
  issue s i h.g h.s.toNat (if idx = 0x0B then pairRegs d else [d]) [] fun f =>
    let g :=
      if idx = 0x0B then f.setPair 4 d Config.partHash
      else if idx = 0x08 ∨ idx = 0x0A then f.setRegNow d (s.special f idx.toNat)
      else f.setReg 4 d (s.special f idx.toNat)
    s.retire g i { stall := h.s.toNat }

/-- Every `sset` interlocks; only `%mode` and `%sat` have writable fields (R60). One with a false guard keeps its own stall
field (DESIGN CHOICE, log 73: R62 interlocks every `sset`, R26 says that the stall field still applies). -/
def execSset (h : Hdr) (idx : BitVec 4) (a : Reg) (s : State) : Result :=
  let i := Instr.sset h idx a
  issue s i h.g h.s.toNat (if idx = 0x0B then pairRegs a else [a]) (if idx = 0x0B then pairCodes a else [rc a]) fun f =>
    let v := f.reg a
    let g :=
      if idx = 0x08 then { f with mode := (f.mode &&& 0xFFFFFE00) ||| (v &&& 0x1FF) }
      else if idx = 0x0A then { f with sat := f.sat &&& ~~~(v &&& 3) }
      else f
    s.retire g i { stall := 3 }

/-! Traps (R164). -/

/-- `trap n`: it retires, and SOFT is taken at the boundary after it; in trap mode the fibre parks. -/
def execTrap (h : Hdr) (n : BitVec 6) (s : State) : Result :=
  let i := Instr.trap h n
  issue s i h.g h.s.toNat [] [] fun f =>
    if f.trapMode then
      s.takeTrap f { cause := .soft, detail := n.toNat, pc := f.pc + i.size, iaddr := f.pc, insn := insnWord i }
    else
      s.retire { f with deferred := ⟨0, .ld, 0, .soft, n.toNat, f.pc, insnWord i, 0⟩ :: f.deferred } i { stall := h.s.toNat }

def execTret (h : Hdr) (s : State) : Result :=
  let i := Instr.tret h
  issue s i h.g h.s.toNat [] [] fun f =>
    if !f.trapMode then s.trapAt f i .undef
    else s.readRecord f i fun s rb =>
      jumpTo s f i (.ofNat 64 (leNat (rb.drop 8 |>.take 8))) fun _ => (s.returnTrap f i h.s.toNat rb none).freePlazas

def tretLabelAt (i : Instr) (v : Option (BitVec 19)) (h : Hdr) (off : BitVec 19) (s : State) : Result :=
  issue s i h.g h.s.toNat [] [] fun f =>
    if !f.trapMode then s.trapAt f i .undef
    else s.readRecord f i fun s rb => (s.returnTrap f i h.s.toNat rb (some (targetE f.pc v off))).freePlazas
def execTretLabel (h : Hdr) (off : BitVec 19) (s : State) : Result := tretLabelAt (.tretLabel h off) none h off s

/-! Safe points (R159 to R161). -/

/-- A safe-point entry with a reserved field not zero, or a DEPTH above 64: the device rejects it (R6, R159). -/
def badEntry (e : List Byte) : Bool := leNat (e.drop 10) ≠ 0 || decide (64 < (e.getD 9 0).toNat)
/-- The 16 bytes of a safe-point entry, read uncached; an entry that cannot be read holds free values (DESIGN CHOICE,
log 6), one that is rejected traps FRAME (DEDUCED, log 63), and while a flip or the host comes first the fibre
stands at its instruction. -/
def withEntry (s : State) (f : Fibre) (i : Instr) (l : Launch) (n : Nat) (k : State → List Byte → State) : State :=
  match vread s (some f.core) (coreQuad f.core) l.asid 0 (l.kern.safetab + 16 * n) 8 2 with
  | .ok e t => if badEntry e then t.trapAt f i .frame else k t e
  | .fail t => k (t.draw 16) (t.freeBytesAt 16)
  | .wait t => t

def regMask (rs : List Reg) : DWord := rs.foldl (fun m r => m ||| (1#64 <<< r.toNat)) 0
/-- The registers of the fibre's range frames, live at every safe point (R160). -/
def Fibre.rangeMask (f : Fibre) : DWord :=
  f.ranges.foldl (fun m r => m ||| regMask ([r.idx, r.lim, r.acc] ++ if r.ty = .i64 then [odd r.acc] else [])) 0

/-! Bodies (R266, R273). -/

/-- The immediate of a format-C word under `ext` (R31). -/
def wide13 (v : BitVec 19) (n : BitVec 13) : Nat := (v ++ n).toNat

/-- The reserved bytes of n variant entries are 0 (R6, R270). -/
def variantsOk (vs : List Byte) (n : Nat) : Bool :=
  (List.range n).all fun i => leNat ((vs.drop (32 * i + 10)).take 6) == 0

/-- Defect-map signature (R266). -/
def State.sig (s : State) : Nat :=
  s.classes.getD 0 0 + 16 * s.classes.getD 1 0 + 256 * s.classes.getD 2 0 + 4096 * s.classes.getD 3 0
/-- The native variant (R273): the lowest that matches this part and its defect map. -/
def State.variant (s : State) (vs : List Byte) (n : Nat) : Option (List Byte) :=
  ((List.range n).map fun i => (vs.drop (32 * i)).take 32).find? fun v =>
    decide (leNat (v.take 8) = Config.partHash.toNat) && leNat ((v.drop 8).take 2) == s.sig

/-! A body and its translation (R53, R273, R346). -/

/-- The fibre's loops stand at the addresses of the other body: a swap moves no loop-back, and no tick (R346). -/
def Fibre.across (f : Fibre) (pairs ends : List (Nat × Nat)) : Fibre :=
  [0, 1, 2].foldl (fun g n =>
    g.setLoop n { g.loop n with start := standsFor pairs (g.loop n).start, stop := standsFor ends (g.loop n).stop }) f
/-- The fibre goes over to the translated body. -/
def XBody.enter (x : XBody) (f : Fibre) : Fibre :=
  { f.across x.pairs x.ends with craco := false, xlat := true, vector := x.vector }
/-- The fibre goes back to the Craco body. -/
def XBody.leave (x : XBody) (vector : Nat) (f : Fibre) : Fibre :=
  { f.across (x.pairs.map Prod.swap) (x.ends.map Prod.swap) with craco := true, xlat := false, vector := vector }
/-- A swap leaves every frame as it is (R273), so a return may lead from one of the two bodies to the other: the body that a fibre
runs on is the one that its PC lies in. -/
def State.inBody (s : State) (f : Fibre) : Fibre :=
  match s.launch? f.launch with
  | none => f
  | some l =>
    if f.craco then match s.xcache.find? fun x => x.fits l && x.nativeAt f.pc && !x.cracoAt f.pc with
      | some x => x.enter f
      | none => f
    else if f.xlat then match s.xcache.find? fun x => x.fits l && x.cracoAt f.pc && !x.nativeAt f.pc with
      | some x => x.leave l.kern.cvec f
      | none => f
    else f

/-- The instruction at an address, where it can be fetched and decodes. -/
def State.nextAt (s : State) (f : Fibre) (va : Nat) : Option Instr :=
  match fetchGroup s f va with
  | .ok bs _ => (match decode bs with
    | .ok i => some i
    | .error _ => none)
  | .trap _ | .wait _ _ | .stand _ => none
/-- The address of `safept n` in a body, under an `ext` too (R31): the first one from its entry on, instruction by instruction
(DESIGN CHOICE, log 78). -/
def State.findSafept (s : State) (f : Fibre) (n : Nat) : Nat → Nat → Option Nat
  | 0, _ => none
  | fuel + 1, va => match s.nextAt f va with
    | some (.safept h m) => if m.toNat = n then some va else s.findSafept f n fuel (va + (Instr.safept h m).size)
    | some (.ext v (.safept h m)) =>
      if wide13 v m = n then some va else s.findSafept f n fuel (va + (Instr.ext v (.safept h m)).size)
    | some i => s.findSafept f n fuel (va + i.size)
    | none => none
/-- The body chosen again for a restored fibre (R273), with its address of `safept n`: the variant that matches, else the
Craco body. -/
def State.rechosen (s : State) (l : Launch) (f : Fibre) (n : Nat) (vs : List Byte) : Option (Nat × Nat × Bool) :=
  let e : Nat × Nat × Bool := match s.variant vs l.kern.nvar with
    | some v => (leNat ((v.drop 16).take 8), leNat ((v.drop 24).take 8), false)
    | none => (l.kern.craco, l.kern.cvec, true)
  (s.findSafept f n 65536 e.1).map fun pc => (pc, e.2)
/-- A restored fibre at `safept n` goes on in the body chosen again, where another is chosen; else as given. Where none can be
found it stays in its body, and so it does where the variant table is rejected for a reserved field (R6; DESIGN CHOICE, log 86). -/
def State.rebody (s : State) (l : Launch) (f : Fibre) (n : Nat) (k : State → Fibre → State) : State :=
  if !f.rebody then k s f
  else match vread s none 256 l.asid 10 l.kern.vartab 32 l.kern.nvar with
    | .wait t => t
    | .fail t => k t { f with rebody := false }
    | .ok vs t => match if variantsOk vs l.kern.nvar then t.rechosen l f n vs else none with
      | some (pc, vector, craco) =>
        if pc = f.pc then k t { f with rebody := false }
        else
          let g := match f.xlat && craco, s.xcache.find? fun x => x.fits l && x.nativeAt f.pc with
            | true, some x => x.leave vector f
            | _, _ => f
          (t.setF { g.flush with
            pc := pc, craco := craco, xlat := false, vector := vector, rebody := false, waited := false, inst := none }).laneDone f
      | none => k t { f with rebody := false }

/-- The native body published for the fibre's kernel (R273). -/
def State.published (s : State) (l : Launch) (f : Fibre) (n : Nat) : Option (XBody × Nat) :=
  if !f.craco then none
  else match s.xcache.find? fun x => x.fits l && x.sig == s.sig with
    | some x => (x.points.find? fun p => p.1 == n).map fun p => (x, p.2)
    | none => none

def safeptAt (i : Instr) (h : Hdr) (n : Nat) (s : State) : Result :=
  match (s.cur?.bind fun f => s.launch? f.launch) with
  | none => undefined s i
  | some l =>
    if l.kern.nsafe ≤ n then undefined s i
    else issue s i h.g h.s.toNat [] [] fun f => withEntry s f i l n fun s e =>
      if (e.getD 9 0).toNat < f.frames.length then s.trapAt f i .frame
      else s.rebody l f n fun s f => match s.published l f n with
        | some (x, pc) => (s.setF (x.enter { f.flush with pc := pc, waited := false, inst := none })).laneDone f
        | none =>
          s.retire { f with tiles := e.getD 8 0xFF } i
            { stall := h.s.toNat, safe := true, live := .ofNat 64 (leNat (e.take 8)) ||| f.rangeMask }
def execSafept (h : Hdr) (n : BitVec 13) (s : State) : Result := safeptAt (.safept h n) h n.toNat s

/-- `nap` (R51): the fibre is blocked until NAP_END, then it retires and adds n to the distance. `nap 0` with a stall
count of 0 only advances; a Craco body's stall counts are 3 (R52), and its translation has the same safe points (R273). -/
def napAt (i : Instr) (h : Hdr) (n : Nat) (s : State) : Result :=
  issue s i h.g h.s.toNat [] [] fun f =>
    let naps := decide (n ≠ 0) || decide (h.s ≠ 0) || f.craco || f.xlat
    if f.wait = .napOver ∨ !naps then s.retire f i { stall := h.s.toNat, nap := n, safe := naps }
    else s.block f .nap
def execNap (h : Hdr) (n : BitVec 13) (s : State) : Result := napAt (.nap h n) h n.toNat s

end Sys2Proof.Machine
end

