-- ==== Sys2Proof/Machine/Beat.lean ====
section
/-! DEFINITION. The steps that fall at a fibre's boundaries, and the Crossing: ticks and splits (R106 to R109), child
start, join save and restore (R112), deferred traps (R132, R202, R303), SAFE_DISTANCE (R161), the end of a `nap` (R51)
and the progress limit (R95). -/

namespace Sys2Proof.Machine

open Sys2Proof.Dec (leNat fld)

/-! What stands at a fibre's PC. -/

def State.nextInstr (s : State) (f : Fibre) : Option Instr := s.nextAt f f.pc
/-- The instruction that the fibre issues next: one that has waited has been fetched. -/
def State.standsAt (s : State) (f : Fibre) : Option Instr := if f.waited && f.inst.isSome then f.inst else s.nextInstr f

/-- First word at the PC, as the INSN field holds it; a free value where it cannot be fetched (DESIGN CHOICE, log 7). -/
def State.insnAt (s : State) (f : Fibre) : Nat :=
  match fetchGroup s f f.pc with
  | .ok bs _ => leNat (bs.take 4)
  | .trap _ | .wait _ _ | .stand _ => leNat (s.freeBytesAt 4)
def State.drawInsn (s : State) (f : Fibre) : State :=
  match fetchGroup s f f.pc with
  | .ok _ _ => s
  | .trap _ | .wait _ _ | .stand _ => s.draw 4

/-! Fused groups (R54, R55). -/

/-- An `add.i32` that reads x. -/
def addsTo (x : Reg) : Instr → Bool
  | .addI32 _ b a _ => a == x || b == x
  | .addI32Imm _ _ d => d == x
  | .addI3216 i a d => wide5 d == x || (!i && wide5 a == x)
  | _ => false
/-- An `fadd.f32` whose first operand is x. -/
def faddsTo (x : Reg) : Instr → Bool
  | .faddF32 _ _ a _ => a == x
  | .faddF32Imm _ _ d => d == x
  | .faddF3216 _ _ d => wide5 d == x
  | _ => false
/-- A format-M global access with base x; a load alone where that is asked. -/
def basedOn (x : Reg) (loads : Bool) : Instr → Bool
  | .ldB32Global _ _ a _ => a == x
  | .ldB64Global _ _ a _ => a == x
  | .stB32Global _ _ a _ => a == x && !loads
  | .stB64Global _ _ a _ => a == x && !loads
  | _ => false
/-- The predicate that a compare writes. -/
def cmpPred : Instr → Option Pred
  | .cmpI32 _ _ p _ _ => some p
  | .cmpN32 _ _ p _ _ => some p
  | .cmpF32 _ _ p _ _ => some p
  | .cmpF64 _ _ p _ _ => some p
  | .cmpI32Imm _ _ p _ _ => some (p.setWidth 3)
  | .cmpN32Imm _ _ p _ _ => some (p.setWidth 3)
  | _ => none
/-- The header of an instruction that can stand first or second in a group of R54. -/
def headOf : Instr → Option Hdr
  | .shlB32Imm h _ _ => some h
  | .leaN32 h _ _ _ _ => some h
  | .leaI32 h _ _ _ _ => some h
  | .mulWideN32 h _ _ _ => some h
  | .addI64 h _ _ _ => some h
  | .fmulF32 h _ _ _ => some h
  | .fmulF32Imm h _ _ => some h
  | .addI32 h _ _ _ => some h
  | .addI32Imm h _ _ => some h
  | .cmpI32 h _ _ _ _ => some h
  | .cmpN32 h _ _ _ _ => some h
  | .cmpF32 h _ _ _ _ => some h
  | .cmpF64 h _ _ _ _ => some h
  | .cmpI32Imm h _ _ _ _ => some h
  | .cmpN32Imm h _ _ _ _ => some h
  | _ => none
/-- A branch or a dispatch on predicate p. -/
def dispatches (p : Pred) (bsel : Bool) : Instr → Bool
  | .bra h _ => h.g.setWidth 3 == p
  | .bsel _ cs => bsel && (match cs with
    | c :: _ => c.g.setWidth 3 == p
    | [] => false)
  | _ => false
/-- Two instructions form a group of R54; a branch's guard is the one its row gives, and the row of a dispatch gives none
(DEDUCED, log 74). -/
def fusesTwo (i j : Instr) : Bool :=
  match i with
  | .shlB32Imm h _ d => addsTo d j && guardOf j == h.g
  | .leaN32 h _ _ d _ => basedOn d false j && guardOf j == h.g
  | .leaI32 h _ _ d _ => basedOn d false j && guardOf j == h.g
  | .fmulF32 h _ _ d => faddsTo d j && guardOf j == h.g
  | .fmulF32Imm h _ d => faddsTo d j && guardOf j == h.g
  | _ => match cmpPred i with
    | some p => dispatches p true j
    | none => false
def fusesThree (i j k : Instr) : Bool :=
  let step (d : Reg) : Bool := (sources 64 j).contains d && (match cmpPred j with
    | some p => dispatches p false k
    | none => false)
  match i with
  | .mulWideN32 h _ _ d => (match j with
    | .addI64 g b _ y => b == d && g.g == h.g && basedOn y true k && guardOf k == h.g
    | _ => false)
  | .addI32 h _ a d => a == d && step d && guardOf j == h.g
  | .addI32Imm h _ d => step d && guardOf j == h.g
  | _ => false
/-- The fused group that begins with the instruction at the PC of a native body: its first and last address. -/
def State.fuseAt (s : State) (f : Fibre) (i : Instr) : Option (Nat × Nat) :=
  let three (x : Option Instr) : Bool := match x with
    | some j => (match headOf j with
      | some h => h.s == 3
      | none => false)
    | none => false
  if f.craco || !three (some i) then none
  else
    let va := f.pc + i.size
    match s.nextAt f va with
    | none => none
    | some j =>
      if fusesTwo i j then some (f.pc, va)
      else if !three (some j) then none
      else match s.nextAt f (va + j.size) with
        | some k => if fusesThree i j k then some (f.pc, va + j.size) else none
        | none => none

/-! Ticks and splits. -/

/-- A timer tick reaches a fibre: now, or at the boundary after the fused group it stands in (R106). -/
def State.timerTick (s : State) (f : Fibre) : State :=
  if f.inGroup then s.modF f.uid fun g => { g with tickDue := true } else s.deliverTick f
/-- HEARTBEAT_TICK (R106): the timer of a core for a launch without DET expires. Blocked fibres and fibres in trap mode
receive nothing, nor does one that has stopped at its safe point for a save (R165). -/
def execHeartbeatTick (launch core : Nat) (s : State) : Result :=
  .next (if s.detLaunch launch then s
    else (s.fibres.filter fun f => f.launch == launch && f.core == core && f.status == .resident && f.wait == .none &&
        !f.trapMode && !f.stopped).foldl (fun t f => match t.fib? f.uid with
      | some g => t.timerTick g
      | none => t) s)

/-- DET_HEARTBEAT (R107): a tick is due. -/
def execDetHeartbeat (fib : Nat) (s : State) : Result :=
  .next (match s.fib? fib with
    | some f =>
      if f.status = .resident ∧ s.detDue f then (s.modF fib fun g => { g with hbc := 0 }).deliverTick { f with hbc := 0 }
      else s
    | none => s)

/-- The range whose split instant the fibre stands at (R109): form L after its loop-back, form R before a reader of its
limit whose guard holds. -/
def State.dueRange (s : State) (f : Fibre) : Option (Range × ((Range → Range) → Fibre → Fibre)) :=
  match f.findRange fun r => r.formL && r.armed && r.due with
  | some r => some r
  | none =>
    if !(f.ranges.any fun r => r.armed && !r.formL) || f.wait ≠ .none || f.midway then none
    else match s.standsAt f with
      | none => none
      | some i =>
        if f.guard (guardOf i) then
          f.findRange fun r => r.armed && !r.formL && (sources f.window i).contains r.lim
        else none
def execRangeSplit (fib : Nat) (s : State) : Result :=
  .next (match s.fib? fib with
    | some f =>
      if f.status ≠ .resident then s
      else match s.dueRange f with
        | some (r, u) => if s.rangeLanding f r then s else s.splitRange f r u
        | none => s
    | none => s)

/-! The Crossing (R112). -/

/-- Fibres that hold a slot of a core. -/
def State.slotHolders (s : State) (core : Nat) : List Fibre :=
  s.fibres.filter fun f => f.core == core && (f.status == .resident || f.status == .parked)
/-- A block holds the quad of a core exclusively against another block (R190). -/
def State.quadHeld (s : State) (launch block core : Nat) : Bool :=
  s.blocks.any fun b => !(b.launch == launch && b.id == block) && !b.retired && !b.saved && (match s.launch? b.launch with
    | some k => k.kern.rmask ≠ 0 && b.cores.any fun c => coreQuad c == coreQuad core
    | none => false)
/-- The launch holds all the slots that it may (R271). -/
def State.capReached (s : State) (l : Launch) : Bool :=
  decide (l.slotcap ≤ (s.fibres.filter fun f => f.launch == l.id && (f.status == .resident || f.status == .parked)).length)
/-- The core has no room for a window of the launch (R57). -/
def State.coreFull (s : State) (l : Launch) (core : Nat) : Bool :=
  let hs := s.slotHolders core
  decide (Config.slotMax ≤ hs.length) || decide (Config.regFile < (hs.foldl (fun n f => n + f.window) 0) + l.window)
/-- The core is of a block's gang, or no gang has reserved it and no other block holds its quad (R190, R280). -/
def State.coreOpen (s : State) (l : Launch) (block core : Nat) : Bool :=
  !s.quadHeld l.id block core &&
  ((match s.block? l.id block with
    | some b => b.cores.contains core
    | none => false) || !(s.launches.any fun k => k.gangProtected && k.reserved.contains core))
/-- The core has a free slot that a block of the launch may use (R57, R190, R271). -/
def State.slotFree (s : State) (l : Launch) (block core : Nat) : Bool :=
  !s.coreFull l core && !s.capReached l && s.coreOpen l block core
/-- Segments of a launch's frame-stack region (R271). -/
def Launch.segments (l : Launch) : Nat := l.framesize / (32 * l.kern.depth)
/-- The lowest free segment. -/
def State.freeSeg (s : State) (l : Launch) : Option Nat :=
  freeIndex ((s.fibres.filter fun f => f.launch == l.id).filterMap (·.seg)) l.segments 0

/-- The fibre waits to be restored at its join (R112): the join can complete, or a trap is due in its wait (R132, R303). -/
def State.restorable (s : State) (f : Fibre) : Bool := f.status == .joinSaved && !f.preempt && (s.waitOver f || f.deferredDue)
/-- CHILD_START (R112): a queued child takes a slot and a segment, after every fibre of the die that waits to be restored. -/
def execChildStart (fib core : Nat) (fid : BitVec 31) (s : State) : Result :=
  .next (match s.fib? fib with
    | none => s
    | some f => match s.launch? f.launch with
      | none => s
      | some l =>
        let id : Word := .ofNat 32 (2 ^ 31 + fid.toNat)
        let taken := s.fibres.any fun g => g.uid != fib && g.launch == f.launch && coreDie g.core == coreDie core &&
          g.fid == id && g.status != .ended && g.status != .queued
        let waiting := s.fibres.any fun g => s.restorable g && coreDie g.core == coreDie core
        if f.status ≠ .queued ∨ f.preempt ∨ coreDie core ≠ coreDie f.core ∨ 1024 ≤ core ∨ taken ∨ waiting ∨
            s.gated.contains core ∨ !s.slotFree l f.block core then s
        else match s.freeSeg l with
          | none => s
          | some n => s.modF fib fun g => { g with status := .resident, core := core, fid := id, seg := some n })

/-- A fibre blocked in a join that cannot complete yet. -/
def State.stuck (s : State) (f : Fibre) : Bool :=
  f.status == .resident && !s.waitOver f && (match f.wait with
    | .join _ _ => true
    | _ => false)
/-- Those of a list, when all of them are stuck. -/
def State.allStuck (s : State) (fs : List Fibre) : List Fibre := if fs.all s.stuck then fs else []
/-- The fibres blocked in joins that hold every segment of the launch, every slot that it may have, or every slot of the
cores of the die that a child's block may use (R112); none where some other fibre holds one, or one is free. -/
def State.crowdedBy (s : State) (l : Launch) (block die : Nat) : List Fibre :=
  let mine := s.fibres.filter fun f => f.launch == l.id
  let segs := mine.filter (·.seg.isSome)
  let slots := mine.filter fun f => f.status == .resident || f.status == .parked
  let cores := ((List.range 256).map fun c => 256 * die + c).filter (s.coreOpen l block)
  let by' := if (s.freeSeg l).isNone then s.allStuck segs
    else if s.capReached l then s.allStuck slots
    else if cores.all (s.coreFull l) then s.allStuck (cores.flatMap s.slotHolders)
    else []
  by'.filter fun f => coreDie f.core == die
/-- When a join's wait began. -/
def Fibre.since (f : Fibre) : Nat :=
  match f.wait with
  | .join _ n => n
  | _ => 0
/-- JOIN_SAVE (R112): for want of a slot or a segment, the longest-blocked of the fibres whose joins hold them is saved at
its join: for a queued child, or for a fibre that waits to be restored (DEDUCED, log 29). -/
def execJoinSave (fib : Nat) (s : State) : Result :=
  .next (match s.fib? fib with
    | none => s
    | some f =>
      let die := coreDie f.core
      let due := (s.fibres.filter fun g => (g.status == .queued || s.restorable g) && coreDie g.core == die).any fun g =>
        match s.launch? g.launch with
        | some l =>
          let fs := s.crowdedBy l g.block die
          fs.any (fun h => h.uid == fib) && fs.all fun h => decide (f.since ≤ h.since)
        | none => false
      if due && f.outs.isEmpty then s.modF fib fun g => { g.flush with status := .joinSaved, seg := none } else s)

/-- JOIN_RESTORE (R112). -/
def execJoinRestore (fib core : Nat) (s : State) : Result :=
  .next (match s.fib? fib with
    | none => s
    | some f => match s.launch? f.launch with
      | none => s
      | some l =>
        if !s.restorable f ∨ coreDie core ≠ coreDie f.core ∨
            s.gated.contains core ∨ !s.slotFree l f.block core then s
        else match s.freeSeg l with
          | none => s
          | some n => s.modF fib fun g => { g with status := .resident, core := core, seg := some n })

/-- A core on which a fibre that waits for a slot could take one: its own, or else the first of its die. -/
def State.coreFor (s : State) (f : Fibre) : Nat :=
  match s.launch? f.launch with
  | none => f.core
  | some l =>
    let takes (c : Nat) : Bool := s.slotFree l f.block c && !s.gated.contains c
    if takes f.core then f.core else (((List.range 256).map (256 * coreDie f.core + ·)).find? takes).getD f.core

/-! Traps at a boundary. -/

/-- The fibre has taken the PLAZA_ABORT of a plaza, or needs not. -/
def Fibre.abortTaken (f : Fibre) (h : DWord) : Bool :=
  match f.abort with
  | some a => a.2 != h || f.status == .ended
  | none => true
/-- Directories that have to discard a plaza's entries (R294, R303): this device's, as 0, and as 4 + device those of peers
that hold entries or have members. -/
def Plaza.discards (p : Plaza) : List Nat := 0 :: (p.peers ++ p.members.filterMap fun m => m.set.peerDev).map (4 + ·)
/-- A plaza that every directory has discarded and that has no fibre left to trap is ABORTED (R294). -/
def State.abortsDone (s : State) : State :=
  let done (p : Plaza) : Bool := p.state == .aborting && p.discards.all p.discarded.contains &&
    s.plazaIdle (p.handle s.dev) && s.fibres.all fun f => f.abortTaken (p.handle s.dev)
  { s with
    plazas := s.plazas.map fun p => if done p then { p with state := .aborted, members := p.members.filter (·.set.isPeer) } else p
    wsLines := s.wsLines.filter fun w => !(w.gone && s.plazas.any fun p => w.handle == p.handle s.dev && done p) }

/-- The arrival of a fibre that takes a trap in the phase wait of a rally or a plaza instruction stands, and its wait goes on
under the trap (DESIGN CHOICE, log 62). -/
def Fibre.standing (f : Fibre) : Fibre :=
  match f.wait with
  | .phase _ _ k => if k ≠ .bar ∧ f.arrived.isSome then { f with rejoin := some (f.pc, f.wait) } else f
  | _ => f
/-- So does every wait that has a result, under a deferred trap (R132, R165, R202; log 62). -/
def Fibre.keeps (f : Fibre) : Fibre :=
  match f.wait with
  | .released _ | .collective _ _ _ | .ballot _ | .commit _ | .committed _ | .remote _ _ _ _ _ | .replied _ _ _ | .napOver =>
    { f with rejoin := some (f.pc, f.wait) }
  | _ => f.standing
/-- A wait that is part of a plaza's collective instruction, or for a phase at a peer: an abort ends it (R303). -/
def Wait.endsAt : Wait → Bool
  | .ballot _ | .commit _ | .remote _ _ true _ _ => true
  | _ => false
/-- The wait that stood under a trap is the fibre's again as it resumes at its instruction. -/
def Fibre.rejoins (f : Fibre) : Option Fibre :=
  match f.rejoin with
  | some (pc, w) => if pc = f.pc ∧ f.wait = .none ∧ !f.trapMode then
      some { f with wait := w, waited := true, rejoin := none }.atSafePoint else none
  | none => none
/-- PLAZA_ABORT and deferred traps of a fibre (R132, R303), one at a time: the abort first, then the one that is due. -/
def State.takeDeferred (s0 : State) (f : Fibre) : State := s0.whenRecord f fun s =>
  match f.abort, f.dueDeferred with
  | some (detail, h), _ =>
    let g := { f.standing with
      abort := none, tag := 0, plzSet := none, aborted := h, rejoin := f.standing.rejoin.filter fun p => !p.2.endsAt }
    (((({ s with away := s.away.filter fun m => !(m.2 == h && some m.1 == f.plzSet) }).drawInsn f).takeTrap g
      { cause := .plazaAbort, detail := detail, pc := f.pc, iaddr := f.pc, insn := s.insnAt f, daddr := h.toNat }).abortsDone).freePlazas.tlbSweep
  | none, some d =>
    let g := { f.keeps with deferred := f.deferred.erase d }
    State.sweepCopy (f := f) <|
    if d.cause = .held then
      (s.drawInsn f).takeTrap g { cause := .held, pc := f.pc, iaddr := f.pc, insn := s.insnAt f, daddr := d.daddr }
    else
      s.takeTrap g
        { cause := d.cause, detail := d.detail, pc := f.pc, iaddr := d.iaddr, insn := d.insn, daddr := d.daddr
          deferred := d.cause ≠ .sat && d.cause ≠ .soft }
  | none, none => s

def execDeferredTrap (fib : Nat) (s : State) : Result :=
  .next (match s.fib? fib with
    | some f => if f.status = .resident ∧ !f.stopped ∧ f.deferredDue then s.takeDeferred f else s
    | none => s)

/-- SAFE_DISTANCE is due (R161). No rule says which instruction is its IADDR and INSN: the one at the boundary (DESIGN CHOICE,
log 107). -/
def Fibre.tooFar (f : Fibre) : Bool := f.preempt && decide (4096 < f.distNow) && !f.trapMode && f.wait == .none
def execSafeDistance (fib : Nat) (s : State) : Result :=
  .next (match s.fib? fib with
    | some f =>
      if f.status = .resident ∧ !f.stopped ∧ f.tooFar then
        s.whenRecord f fun s => (s.drawInsn f).takeTrap f { cause := .safeDistance, pc := f.pc, iaddr := f.pc, insn := s.insnAt f }
      else s
    | none => s)

/-- Something ends a nap early (R51): every write then counts as visible. -/
def Fibre.wakes (f : Fibre) : Bool := f.preempt || f.abort.isSome || !f.deferred.isEmpty
def execNapEnd (fib : Nat) (s : State) : Result :=
  .next (match s.fib? fib with
    | some f =>
      if f.wait = .nap then
        s.modF fib fun g => { g with wait := .napOver, waited := g.wakes, stopped := false }
      else s
    | none => s)

/-- ISSUE_STARVATION (R95): a fibre that has stayed ready for 65,536 cycles issues next, whatever its level. -/
def execIssueStarvation (fib : Nat) (s : State) : Result :=
  .next (match s.fib? fib with
    | some f => if s.mayRun f then { s with starved := some fib } else s
    | none => s)

end Sys2Proof.Machine
end

