-- ==== Sys2Proof/Machine/Coherence.lean ====
section
/-! DEFINITION. The steps of sector coherence, by requester, home and L1 (R215 to R220). A sector is its address divided
by 64, and a core is numbered across the package. -/

namespace Sys2Proof.Machine

open Sys2Proof.Dec (leNat)

/-- A sector that a home serves to a core that is awake: of program-visible DRAM, or a host line that the die-0 slice
holds (R255). -/
def State.serves (s : State) (x sector : Nat) (writes : Bool) : Bool :=
  decide (x < 1024) && !s.gated.contains x &&
  if sector < hostSector then inDram (64 * sector) 64 else s.mayServe (sectorLoc sector) 64 writes

/-- Until the host's copies are out of the way, the home only snoops them (R260); a write waits for a pin (R216). -/
def State.whenFree (s : State) (sector : Nat) (writes : Bool) (k : State → State) : State :=
  let l := sectorLoc sector
  if !(s.hostInWay l 64 writes).isEmpty then s.snoop (s.hostInWay l 64 writes)
  else if writes && s.pinned l 64 then s else k s

/-- GETS (R216): the home serves the waiting loads of a core, and a fill with the sector is on its way. -/
def execGets (x sector : Nat) (s : State) : Result :=
  .next (if s.serves x sector false && s.l1At x sector == .i &&
        !(s.fills.any fun e => e.core == x && e.sector == sector && !e.killed) then
      s.whenFree sector false fun s =>
        let r := s.getS x sector
        let t := (checkRead r.1 (sectorLoc sector) 64 0).1
        let e : FillEntry := ⟨x, sector, t.bytes (sectorLoc sector) 64, r.2, [], false⟩
        State.joinFill { t with fills := t.fills ++ [e] } x sector
    else s)

/-- GETM and UPGRADE (R215, R216): the requester gains M, and a fill on its way to it gives no more data. -/
def State.gainM (s : State) (x sector : Nat) : State := s.whenFree sector true fun s => s.getM x sector
def execGetm (x sector : Nat) (s : State) : Result :=
  .next (if s.serves x sector true && s.l1At x sector == .i then
      (checkRead s (sectorLoc sector) 64 0).1.gainM x sector else s)
def execUpgrade (x sector : Nat) (s : State) : Result :=
  .next (if s.serves x sector true && (s.l1At x sector == .s || s.l1At x sector == .o) then s.gainM x sector else s)

/-- HOME_WRITE (R216, R217): an agent that does not cache writes bytes of one sector. -/
def execHomeWrite (addr : Nat) (data : List Byte) (s : State) : Result :=
  .next (if inDram addr data.length && !data.isEmpty && (addr + data.length - 1) / 64 == addr / 64 then
      match s.meet (.dram addr) data.length 0 true with
      | (t, .wait _) => t
      | (t, .go) => t.whenFree (addr / 64) true fun t => t.homeWrite (.dram addr) data
    else s)

/-- What an upset does to a sector as it is read (R233 to R235): a check value that no longer matches, a DRAM or SRAM error
that is not corrected, which poisons it, or a corrected soft error of an array class, which is counted. An uncorrectable
SRAM error poisons as a DRAM error does (DEDUCED, log 75). -/
def State.upset (s : State) (sector : Nat) (u : Upset) : State :=
  let die := homeDie (64 * sector)
  let bad (kind agent : Nat) : State :=
    makeError { s with poison := sector :: s.poison.filter (· ≠ sector) } kind agent die (64 * sector)
  match u with
  | .none => s
  | .check v => { s with checks := (sector, v.toNat) :: s.checks.filter fun c => c.1 != sector }
  | .dram => bad 0x02 7
  | .sram => bad 0x03 8
  | .soft c => { s with bar := { s.bar with
      softerr := s.bar.softerr.set (5 * die + c.val) (min 0xFFFFFFFF (s.bar.softerr.getD (5 * die + c.val) 0 + 1)) } }

/-- UNCACHED_READ (R216, R217, R234): a read at the home by an agent that does not cache, with the upset that it finds. -/
def execUncachedRead (read : SectorRead) (s : State) : Result :=
  let sector := read.sector
  .next (if inDram (64 * sector) 64 then
      match s.meet (.dram (64 * sector)) 64 0 false with
      | (t, .wait _) => t
      | (t, .go) => t.whenFree sector false fun t =>
          (checkRead ((t.homePeek sector).upset sector read.upset) (.dram (64 * sector)) 64 read.agent.toNat).1
    else s)

/-- The directory that lists a core, or a proxy at its home. -/
def dirOf (x sector : Nat) : Option Nat := if x < 1024 then servedBy x sector else none
/-- PROBE_SHARE (R215): the owner keeps a copy that others may share. -/
def execProbeShare (x sector : Nat) (s : State) : Result :=
  .next (match (s.dirAt (dirOf x sector) sector).state with
    | .em y => if y = x then s.share (dirOf x sector) sector x [] else s
    | .i | .s | .o _ => s)

/-- PROBE_INVALIDATE (R215, R218): the copy goes; a fill in flight completes its loads and is not installed. -/
def execProbeInvalidate (x sector : Nat) (s : State) : Result :=
  .next (let t := s.invalidate sector x
    t.setDir (dirOf x sector) ((t.dirAt (dirOf x sector) sector).without x))

/-- PUTM (R216): the write-back of an M or O sector. -/
def execPutm (x sector : Nat) (s : State) : Result :=
  .next (if decide (x < 1024) && (s.l1At x sector == .m || s.l1At x sector == .o) then s.drop x sector else s)
/-- PUTS (R216): the notice of a clean eviction. -/
def execPuts (x sector : Nat) (s : State) : Result :=
  .next (if decide (x < 1024) && (s.l1At x sector == .s || s.l1At x sector == .e) then s.drop x sector else s)

/-- LINE_EVICT (R215): the four sectors of a line. -/
def execLineEvict (x line : Nat) (s : State) : Result :=
  .next ((List.range 4).foldl (fun t n => if t.l1At x (4 * line + n) = .i ∨ 1024 ≤ x then t else t.drop x (4 * line + n)) s)

/-- A load that a fill serves completes with its data (R218); it has registered as the home served it (R227). -/
def landFill (e : FillEntry) (s : State) (id : Nat) : State :=
  match s.acc? id with
  | none => s
  | some a => match a.op with
    | .load ty d => (s.endAccess a).modF a.fib fun g =>
        g.landLoad a.wseq ty d (leNat ((e.data.drop (a.loc.key.2 % 64)).take a.size))
    | .store _ | .atom _ _ _ _ _ | .openPlaza _ => s

/-- FILL (R218): the oldest fill of the sector arrives. It is installed unless a probe has overtaken it, and the loads that
it serves complete. -/
def execFill (x sector : Nat) (s : State) : Result :=
  .next (match s.fills.find? fun e => e.core == x && e.sector == sector with
    | none => s
    | some e =>
      let s := { s with fills := s.fills.erase e }
      let s := if !e.killed && !s.gated.contains x then s.setL1 x sector (if e.excl then .e else .s) else s
      e.served.foldl (landFill e) s)

/-- CORE_POWER_GATE (R220): dirty sectors are written back; the directory keeps the clean ones listed. -/
def execCorePowerGate (core : Nat) (s : State) : Result :=
  .next (if 1024 ≤ core || s.gated.contains core || s.roundCount core ≠ 0 ||
      s.fibres.any (fun f => f.core == core && (f.status == .resident || f.status == .parked)) then s
    else
      let mine := s.l1.filter fun e => e.1 == core
      let s := mine.foldl (fun t e => if e.2.2 = .m ∨ e.2.2 = .o then t.drop core e.2.1 else t.setL1 core e.2.1 .i) s
      { s with gated := core :: s.gated })

/-- CORE_WAKE (R220). -/
def execCoreWake (core : Nat) (s : State) : Result := .next { s with gated := s.gated.filter (· ≠ core) }

end Sys2Proof.Machine
end

