-- ==== Sys2Proof/Machine/Fabric.lean ====
section
/-! DEFINITION. The fabric: flits and ports (R284, R285), requests of peers and replies (R286 to R288), and the commit
and the abort of plazas (R294, R300 to R303). -/

namespace Sys2Proof.Machine

open Sys2Proof.Dec (leNat leBytes fld)

/-- A quad number that no TLB has: the boot processor walks the tables afresh. -/
def noQuad : Nat := 256

/-! Ports. -/

/-- The first path is the shorter, or as short and at no higher port (R285). -/
def shorter (a b : Nat × Nat × Nat) : Bool := decide (a.2.2 < b.2.2) || (a.2.2 == b.2.2 && decide (a.2.1 ≤ b.2.1))
/-- The route to each reachable peer over the ports that are up: the shortest path, and the lowest port of those (R285). -/
def State.bestRoutes (s : State) : List (Nat × Nat) :=
  let live := s.paths.filter fun p => decide (p.2.1 < 16) && s.ports.getLsbD p.2.1 && p.1 != s.dev.toNat
  ((live.filter fun p => live.all fun q => q.1 != p.1 || shorter p q).map fun p => (p.1, p.2.1)).eraseDups

/-- Operations on peers that no path reaches any more fail, and fibres that wait for such a peer look again (R285,
R287). Those on other peers are resent and stay outstanding. -/
def State.strand (s : State) : State :=
  let s := { s with fibres := s.fibres.map (Fibre.mapWait fun w => match w with
    | .remote d _ _ _ _ => if s.reaches d then w else .none
    | w => w) }.tlbSweep
  (s.accs.filter fun a => s.unreachable a.loc).foldl (fun t a => t.failAccess a .page 0x01 a.addr) s
/-- A completion write at a peer is over (R278): refused, it makes an error record. -/
def State.donePosted (s : State) (id : Nat) (refused : Bool) : State :=
  match s.launches.find? fun l => l.status == .posted id with
  | some l => if refused then s.completionFailed l else s.launchOver l
  | none => s

/-- Completion writes on the way to a peer that no path reaches (R278). -/
def State.strandDone (s : State) : State :=
  s.launches.foldl (fun (t : State) (l : Launch) => match l.status with
    | .posted id => (match t.translate noQuad l.asid l.doneaddr .write with
      | .ok loc _ => if t.unreachable loc then t.donePosted id true else t
      | .prot | .fault _ _ _ | .flip | .busy => t)
    | .running | .completing _ | .complete => t) s
/-- The routes are computed again (R285). -/
def State.reroute (s : State) : State := State.strandDone (State.strand { s with routes := s.bestRoutes })

/-- FLIT_RECEIVE (R284, R285): a good flit clears the count of failures; a flit's first failure has it replayed, and the
sixteenth failed replay in a row takes the port down, and the routes are computed again. -/
def execFlitReceive (port : Nat) (ok : Bool) (s : State) : Result :=
  .next (if 16 ≤ port || !s.ports.getLsbD port then s
    else if ok then { s with failedReplays := s.failedReplays.set port 0 }
    else
      let n := s.failedReplays.getD port 0 + 1
      if n ≤ 16 then { s with failedReplays := s.failedReplays.set port n }
      else State.reroute { s with
        failedReplays := s.failedReplays.set port 0
        ports := s.ports &&& ~~~(1#16 <<< port) })

/-! Requests of peers. -/

/-- The name under which the accesses of a peer's fibre are recorded: no fibre or launch of this device has it. -/
def peerName (peer fib : Nat) : Nat := 2 ^ 64 + fib * 4096 + peer
def fibreName (p : PeerFibre) : Nat := peerName p.dev p.fib
/-- An access of a peer's fibre, from its core (R287): the numbers of a peer's cores are no number of this device. -/
def peerAcc (s : State) (peer : PeerFibre) (pa size : Nat) (writes : Bool) (sc : Scope) : NewAcc :=
  { fib := fibreName peer, launch := fibreName peer, block := 0, loc := .dram pa, size := size, writes := writes
    sync := true, scope := sc, core := 1024 * (peer.dev + 1) + peer.core % 1024, owner := s.nextId }

/-- A reply to a peer: the first byte 0 and the data, or 1 and why it is refused: 0 the page, 1 poison, 2 RACE with
its DETAIL, 3 a plaza's error, 4 to 6 SET, BARRIER_FAIL or COPY_FAULT at an object, 7 PLAZA_ABORT with its DETAIL (DESIGN
CHOICE, log 17). -/
def State.reply (s : State) (bs : List Byte) : State := { s with replies := s.replies ++ [0 :: bs] }
def State.refuse (s : State) (why detail : Nat) : State :=
  { s with replies := s.replies ++ [[1, .ofNat 8 why, .ofNat 8 detail]] }

/-- A request's access at the home once the host's copies and plazas, which an atomic meets as a write, are out of its way; until
then it waits. -/
def State.atHome (s : State) (pa n : Nat) (tag : DWord) (writes : Bool) (k : State → State) (meets : Bool := writes) : State :=
  match s.meet (.dram pa) n tag meets with
  | (t, .wait _) => t
  | (t, .go) =>
    if !(t.hostInWay (.dram pa) n writes).isEmpty then t.snoop (t.hostInWay (.dram pa) n writes)
    else if !t.mayServe (.dram pa) n writes then t else k t

/-- An uncached read for a peer: the sector's check, then the bytes (R217, R234, R284). -/
def State.peerRead (s : State) (agent pa n : Nat) (k : State → List Byte → State) : State :=
  let r := checkRead (s.peekAll (.dram pa) n) (.dram pa) n agent
  if r.2.isEmpty then k r.1 (memBytes r.1.mem pa n) else r.1.refuse 1 0
/-- The agent of Causeway ingress in error records (R235), and of egress (DEDUCED, log 56). -/
def causeway : Nat := 6

/-- Register an access of a peer's fibre (R287). -/
def State.peerSync (s : State) (a : NewAcc) (k : State → State) : State :=
  match s.register a with
  | .race d => s.refuse 2 d
  | .full => s
  | .ok t => (k { t with nextId := t.nextId + 1 }).recDone a.owner

/-- An atomic for a peer (R142, R287); it meets plazas as a write (R298), and a failed `cas` is an uncached read otherwise (R221). -/
def State.peerAtomic (s : State) (peer : PeerFibre) (pa size : Nat) (sc : Scope) (op : AtomOp) (ty : AtomTy) (sem : Sem) (b d : DWord) : State :=
  let old := s.rd pa size
  let new := atomNew op ty (.ofNat 64 old) b d
  s.atHome pa size 0 new.isSome (meets := true) fun s => s.peerSync (peerAcc s peer pa size new.isSome (syncScope (sem == .rlx) sc)) fun s =>
    s.peerRead causeway pa size fun s bs =>
      let s := match new with
        | some v => s.homeWrite (.dram pa) (leBytes size v)
        | none => s
      s.reply bs

/-- A tentative access of a peer's fibre through this directory (R297): a plain one, or at its scope an ordered one or an atomic,
which is checked against the records of accesses outside its plaza (R229, R287). `reads`: its data are checked (R234). -/
def State.peerTent (s : State) (peer : PeerFibre) (h : DWord) (pa size : Nat) (sync : Option Scope) (reads : Bool)
    (new : Nat → Option Nat) : State :=
  if s.isLocal h && !((s.current? h).any fun p => p.state == .opened) then s.refuse 3 3
  else
    let loc := Loc.dram pa
    let old := leNat (s.viewBytes h loc size)
    let writes := (new old).isSome
    s.atHome pa size h writes fun s =>
      (match sync with
        | some sc => s.peerSync { peerAcc s peer pa size writes sc with tag := h }
        | none => fun k => k s) fun s =>
        let r := if !reads then (s, true) else
          let c := checkRead (s.peekAll loc size) loc size causeway
          (c.1, c.2.isEmpty && !s.tentBad h loc size)
        if !r.2 then r.1.refuse 1 0
        else match r.1.wsMark h pa ((new old).map (leBytes size)) with
          | none => r.1.causeAbort h 0x01
          | some t => t.reply (leBytes size old)

/-- A barrier object in this device's memory, for a peer's fibre (R147, R287). -/
def State.peerObj (s : State) (peer : PeerFibre) (pa : Nat) (sc : Scope) (check : Obj → Option Nat) (k : State → Obj → State) : State :=
  s.atHome pa 32 0 true fun s => s.peerRead causeway pa 32 fun s _ =>
    let o := s.obj (.dram pa)
    match if o.damaged then some 5 else check o with
    | some why => s.refuse why 0
    | none => s.peerSync (peerAcc s peer pa 32 true sc) fun s =>
        k ((Loc.sectors (.dram pa) 32).foldl (fun t q => t.homeClear q) s) o
/-- What a wait of a peer's fibre finds at an object (R147, R150): it is no member of a set of this device. -/
def peerWaitCheck (o : Obj) : Option Nat := if o.isSet then some 4 else if o.failed then some 6 else none

/-! Plazas: directories. -/

def State.dirLines (s : State) (h : DWord) (dir : Nat) : List WsLine :=
  s.wsLines.filter fun w => w.handle == h && lineDie w.line == dir && !w.gone

/-- Seal a plaza's lines of a die (R300). -/
def State.sealLines (s : State) (h : DWord) (dir : Nat) : State :=
  { s with wsLines := s.wsLines.map fun w =>
      if w.handle = h ∧ lineDie w.line = dir then { w with sealed := true } else w }

/-- The runs of consecutive bytes among n cells from the i-th on: an element of a key page is written by one write, so that
it widens with its merged value (R240). -/
def cellRuns (cells : List Host.Cell) (base : Nat) : Nat → Nat → List (Nat × List Byte)
  | 0, _ => []
  | n + 1, i =>
    let rest := cellRuns cells base n (i + 1)
    match cells.find? fun c => c.1 == base + i, rest with
    | none, _ => rest
    | some c, (j, bs) :: more => if j = i + 1 then (i, c.2 :: bs) :: more else (i, [c.2]) :: rest
    | some c, [] => [(i, [c.2])]
/-- Write the tentative bytes of one sector at its home. -/
def State.publishSector (s : State) (cells : List Host.Cell) (base : Nat) : State :=
  (cellRuns cells base 64 0).foldl (fun t q => t.homeWrite (addrLoc (base + q.1)) q.2) s
/-- Publish one line (R300): its tentative bytes are written at the home, bad ones poison their sectors (R234), and its entry is
freed. -/
def State.publishLine (s : State) (w : WsLine) : State :=
  let s := if w.written then (List.range 4).foldl (fun t n => t.publishSector w.bytes (256 * w.line + 64 * n)) s else s
  { s with
    poison := w.bad ++ s.poison.filter fun k => !w.bad.contains k
    wsLines := s.wsLines.filterMap fun v => if v.handle = w.handle ∧ v.line = w.line then v.over else some v }
/-- A plaza is COMMITTED or ABORTED: a write that has waited for that goes on (R298). -/
def State.letWrites (s : State) (h : DWord) : State := { s with wsLines := s.wsLines.filter fun w => !(w.handle == h && w.gone) }
/-- Publish a die's lines of a plaza, once the host's copies and other plazas' lines of signposts are out of the way, and its
lines of host memory are held. -/
def State.publishDir (s : State) (h : DWord) (dir : Nat) (k : State → State) : State :=
  let ws := s.dirLines h dir
  let out := ws.filter (·.written)
  let ks := out.flatMap fun w => s.hostInWay (addrLoc (256 * w.line)) 256 true
  let signs := out.flatMap fun w => (s.widens (addrLoc (256 * w.line)) 256).map (· / 256)
  match meetLines s 0 true (s.wsLines.filter fun v => v.handle != h && signs.contains v.line) with
  | (t, .wait _) => t
  | (t, .go) =>
    if !ks.isEmpty then t.snoop ks
    else if out.all fun w => (List.range 4).all fun n => t.mayServe (addrLoc (256 * w.line + 64 * n)) 64 true then
      k (ws.foldl (fun t w => t.publishLine w) t)
    else t

/-- The plaza's end in the fibres that carry its tag (R303): outstanding tentative accesses are dropped, arrivals of
votes and leaves withdrawn, and PLAZA_ABORT is due; in trap mode the tag goes at once. -/
def State.dropAccesses (s : State) (uid : Nat) (h : DWord) : State :=
  (s.accs.filter fun a => a.fib == uid && a.tag == h).foldl (fun t a => t.endAccess a) s
def State.withdraw (s : State) (f : Fibre) : State :=
  match f.set with
  | none => s
  | some l =>
    if f.votes = 0 then s
    else
      let o := s.obj l
      (s.setObj l { o with arrived := o.arrived - f.votes }).modF f.uid fun g =>
        { g.plzGoes l .none with votes := 0, arrived := if g.arrived = some .mixed then some .bar else none }
def State.abortFibre (s : State) (h : DWord) (cause : Nat) (f : Fibre) : State :=
  ((s.dropAccesses f.uid h).withdraw f).modF f.uid fun g =>
    let g := { g with abort := some (cause, h) }
    if g.trapMode then { g with tag := 0, plzSet := none } else g
def State.abortFibres (s : State) (h : DWord) (cause : Nat) : State :=
  (s.fibres.filter fun f => f.tag == h && h != 0 && f.status != .ended).foldl (fun t f => t.abortFibre h cause f) s
/-- Every directory of this device discards the plaza's entries (R303). -/
def State.discard (s : State) (h : DWord) (cause : Nat) : State :=
  ({ s with
    wsLines := s.wsLines.filterMap fun (w : WsLine) => if w.handle = h then w.over else some w
    away := s.away.filter fun m => m.2 != h
    records := s.records.filter fun r => r.tag != h || h == 0 }).abortFibres h cause

/-- A peer's member set enters (R295). -/
def State.peerEnter (s : State) (peer addr : Nat) (h : DWord) : State :=
  match s.enterCheck h (.peer peer addr) [] with
  | some (.plazaAbort, d) => s.refuse 7 d
  | some (_, d) => s.refuse 3 d
  | none => match s.current? h with
    | none => s.refuse 3 3
    | some p =>
      if p.scope ≠ 2 then s.refuse 3 5
      else (s.setPlaza { p with members := p.members ++ [⟨.peer peer addr, false, false⟩] }).reply []

/-- What a peer coordinator tells of its plaza (R293, R298); a plaza opened here later has a later open time. Fibres that wait at
its lines look again: what they meet is known now. Where the plaza is over here, that stands. -/
def State.awayTold (s : State) (h : DWord) (opened : Nat) (yields sealing : Bool) : State :=
  let asked := s.awayPlazas.any fun a => a.handle == h && a.asked
  if s.awayPlazas.any fun a => a.handle == h && a.finished then { s with fabricClock := max s.fabricClock (opened + 1) }
  else ({ s with
    fabricClock := max s.fabricClock (opened + 1)
    fibres := s.fibres.map (Fibre.mapWait fun w => if w = .plaza h then .none else w)
    awayPlazas := (s.awayPlazas.filter fun a => a.handle != h) ++ [⟨h, true, opened, yields, sealing, asked, false⟩] } : State)
/-- The plaza of a peer is over here, but for its fibres and for the writes that wait at its lines (R294, R298). -/
def State.awayOver (s : State) (h : DWord) : State :=
  { s with awayPlazas := (s.awayPlazas.filter fun a => a.handle != h) ++ [⟨h, false, 0, false, false, true, true⟩] }
/-- A peer's coordinator has every directory of this device publish (R300): the report follows the last. -/
def State.publishAway (s : State) (h : DWord) : State :=
  s.publishDir h 0 fun s => s.publishDir h 1 fun s => s.publishDir h 2 fun s => s.publishDir h 3 fun s => ((s.awayOver h).reply []).tellLeft
/-- A fibre here waits for the answer to its set's entry into the plaza, or to its leave (R295, R296). -/
def Fibre.asks (h : DWord) (f : Fibre) : Bool := f.waits.any fun w => match w with
  | .remote _ _ _ _ (.enter e) | .remote _ _ _ _ (.leave e) => e == h
  | _ => false
/-- A peer's coordinator discards its plaza (R303), which comes after its answers to sets that enter or leave: the answer follows the
last fibre's trap (R294). -/
def State.discardAway (s : State) (h : DWord) (cause : Nat) : State :=
  if h ≠ 0 && s.fibres.any (Fibre.asks h) then s
  else
    let t := s.discard h cause
    if t.plazaIdle h && t.fibres.all fun f => f.abortTaken h then ((t.awayOver h).reply []).tellLeft else t
/-- A plaza of this device changes by a peer's message. -/
def State.tellPlaza (s : State) (h : DWord) (u : Plaza → Plaza) : State :=
  match s.current? h with
  | some p => s.setPlaza (u p)
  | none => s

/-- A peer's message about a plaza (R292 to R303). -/
def State.peerPlaza (s : State) (peer addr : Nat) : PeerOp → State
  | .plzEnter h => s.peerEnter peer addr h
  | .plzVote h => s.castOnce h (.peer peer addr) false
  | .plzLeave h =>
    if s.mayCast h (.peer peer addr) then (s.castOnce h (.peer peer addr) true).reply []
    else match s.current? h with
      | some p => if p.state = .aborting ∨ p.state = .aborted then s.refuse 7 p.cause else s.refuse 3 6
      | none => s.refuse 3 3
  | .plzAbort h cause => s.abortPlaza h cause.toNat
  | .plzTouch h =>
    let t := s.tellPlaza h fun (p : Plaza) => if p.peers.contains peer then p else { p with peers := peer :: p.peers }
    match s.view? h with
    | some v => t.reply (leBytes 8 v.opened ++ leBytes 1 (v.yields.toNat + 2 * v.sealing.toNat))
    | none => t.refuse 3 3
  | .plzDiscarded h => ((s.tellPlaza h fun (p : Plaza) =>
      if p.state = .aborting then { p with discarded := (4 + peer) :: p.discarded } else p).abortsDone).freePlazas
  | .plzLeft h => (s.tellPlaza h fun (p : Plaza) => { p with gone := peer :: p.gone }).freePlazas
  | .plzInfo h opened yields sealing => if s.isLocal h then s else s.awayTold h opened yields sealing
  | .plzSeal h => if s.isLocal h then s else
      let t := [0, 1, 2, 3].foldl (fun t d => t.sealLines h d) s
      { t with awayPlazas := t.awayPlazas.map fun (a : AwayPlaza) => if a.handle = h then { a with sealing := true } else a }.reply []
  | .plzPublish h => if s.isLocal h then s else s.publishAway h
  | .plzDiscard h cause => if s.isLocal h then s else s.discardAway h cause.toNat
  | .plzOver h => if s.isLocal h then s else s.letWrites h
  | _ => s

/-- The operation, apart from what its data met on the way (R284), and how many bytes it writes. -/
def plainOp : PeerOp → PeerOp
  | .badCheck o | .poisoned o => o
  | o => o
def writtenBy (size : Nat) : PeerOp → Nat
  | .store _ | .stRel _ => size
  | .copyWrite data => data.length
  | _ => 0
/-- Sectors that arrive poisoned, or with a check value that does not match, which makes an error record, are poisoned at
their home (R233 to R235, R284). -/
def State.ingress (s : State) (addr n : Nat) (bad : Bool) : State :=
  (sectorsOf addr n).foldl (fun t k =>
    let u := { t with poison := k :: t.poison.filter (· ≠ k) }
    if bad then makeError u 0x01 causeway (homeDie (64 * k)) (64 * k) else u) s

/-- The same for tentative bytes: their line notes the sector. -/
def State.tentIngress (s : State) (h : DWord) (addr : Nat) (bad : Bool) : State :=
  let k := addr / 64
  let t : State := { s with wsLines := s.wsLines.map fun w =>
    if w.handle = h ∧ w.line = addr / 256 ∧ !w.bad.contains k then { w with bad := k :: w.bad } else w }
  if bad then makeError t 0x01 causeway (homeDie (64 * k)) (64 * k) else t
/-- A sector is not poisoned, and its check value matches. -/
def State.sound (s : State) (k : Nat) : Bool := !s.poison.contains k && !s.mismatch k
/-- The wait of a peer's fibre for a phase of an object here begins, or is over (R148, R287). -/
def State.peerWait (s : State) (peer : PeerFibre) (w : Option (Loc × Word)) : State :=
  let rest := s.peerWaits.filter fun q => q.1 != peer
  { s with peerWaits := match w with
      | some p => (peer, p) :: rest
      | none => rest }

/-- An operation of a peer's fibre, performed at its home here. A page outside the program-visible DRAM is refused. A release
that is itself such an operation closes no record as it arrives: the peer tells of it (R228). -/
def State.peerRequest (s : State) (peer : PeerFibre) (addr size : Nat) (sc : Scope) (op : PeerOp) : State :=
  let within (n : Nat) (k : State) : State := if inDram addr n then k else s.refuse 0 0
  match op with
    | .released bound => s.closeRecs fun r => r.fib == (fibreName peer) && r.complete && !r.engine && decide (r.owner < bound)
    | .ended => (s.closeFibre (fibreName peer)).peerWait peer none
    | .clock ns => { s with fabricClock := max s.fabricClock ns }
    | .paths ps => State.reroute { s with
        paths := ps.filter fun p => decide (p.1 < 4096) && p.1 != s.dev.toNat && decide (p.2.1 < 16) }
    | .load => within size (s.atHome addr size 0 false fun s => s.peerRead causeway addr size fun s bs => s.reply bs)
    | .store v => within size (s.atHome addr size 0 true fun s =>
        (s.homeWrite (.dram addr) (leBytes size v.toNat)).reply [])
    | .ldAcq => within size (s.atHome addr size 0 false fun s => s.peerSync (peerAcc s peer addr size false sc) fun s =>
        s.peerRead causeway addr size fun s bs => s.reply bs)
    | .stRel v => within size (s.atHome addr size 0 true fun s => s.peerSync (peerAcc s peer addr size true sc) fun s =>
        (s.homeWrite (.dram addr) (leBytes size v.toNat)).reply [])
    | .atomic aop ty sem b d =>
      let n := if ty.wide then 8 else 4
      within n (s.peerAtomic peer addr n sc aop ty sem b d)
    | .copyRead len => within len (s.atHome addr len 0 false fun s => s.peerRead causeway addr len fun s bs => s.reply bs)
    | .copyWrite data => within data.length (s.atHome addr data.length 0 true fun s =>
        (s.homeWrite (.dram addr) data).reply [])
    | .barInit n => within 32 (s.peerObj peer addr sc (fun o => if o.isSet || s.awaited (.dram addr) then some 4 else none)
        fun s _ => (s.setObj (.dram addr) ⟨0, n.toNat, 0, 0, 0, 0⟩).reply [])
    | .barExpect n => within 32 (s.peerObj peer addr sc (fun _ => none) fun s o =>
        (s.setObj (.dram addr) { o with bytesExp := (o.bytesExp + n.toNat) % 2 ^ 64 }).reply [])
    | .barArrive => within 32 (s.peerObj peer addr sc
        (fun o => if o.isSet then some 4 else if o.arrived = o.expected then some 5 else none) fun s o =>
          ((s.setObj (.dram addr) { o with arrived := o.arrived + 1 }).completeObj (.dram addr)).reply (leBytes 4 o.phase.toNat))
    | .barWait p => within 32 (
        let o := s.obj (.dram addr)
        if !o.damaged && (peerWaitCheck o).isNone && !o.passed p && (sectorsOf addr 32).all s.sound then s.peerWait peer (some (.dram addr, p))
        else (s.peerWait peer none).peerObj peer addr sc peerWaitCheck fun s o =>
          s.reply [if p = o.phase - 1 ∧ o.satph then 1 else 0])
    | .tentLoad h => within size (s.peerTent peer h addr size none true fun _ => none)
    | .tentStore h v => within size (s.peerTent peer h addr size none false fun _ => some (v.toNat % 2 ^ (8 * size)))
    | .tentAcq h => within size (s.peerTent peer h addr size (some sc) true fun _ => none)
    | .tentRel h v => within size (s.peerTent peer h addr size (some sc) false fun _ => some (v.toNat % 2 ^ (8 * size)))
    | .tentAtomic h aop ty sem b d =>
      let n := if ty.wide then 8 else 4
      within n (s.peerTent peer h addr n (some (syncScope (sem == .rlx) sc)) true fun old => atomNew aop ty (.ofNat 64 old) b d)
    | _ => s.peerPlaza peer.dev addr op
/-- REMOTE_REQUEST (R284, R286 to R288, R297, R300). -/
def execRemoteRequest (peer : PeerFibre) (addr size : Nat) (sc : Scope) (op : PeerOp) (s : State) : Result :=
  let t := s.peerRequest peer addr size sc (plainOp op)
  let done := decide (s.replies.length < t.replies.length) && (t.replies.getLast?.bind (·.head?)) == some 0
  let arrives (bad : Bool) : State := match plainOp op with
    | .tentStore h _ | .tentRel h _ => t.tentIngress h addr bad
    | o => t.ingress addr (writtenBy size o) bad
  .next (match op with
    | .badCheck _ => if done then arrives true else t
    | .poisoned _ => if done then arrives false else t
    | _ => t)

/-- The reply to an access of a fibre at a peer (R286, R287): the value lands, with its fibre's own pending stores (R128),
or the access fails. A tentative access that the directory refuses waits to be dropped with its plaza. -/
def ackAccess (s : State) (f : Fibre) (a : Access) (data : DWord) (refused : Bool) : State :=
  if refused then
    (match data.toNat % 256 with
      | 1 => s.failAccess a .integrity 0 (a.addr / 64 * 64)
      | 2 => s.failAccess a .race (fld data.toNat 8 8) a.addr
      | 3 => s
      | _ => s.failAccess a .page 0x02 a.addr)
  else match a.op with
    | .load ty d =>
      let bs := leBytes a.size data.toNat
      let v := leNat (if a.plainLoad then (s.ownEarlier a).foldl (forwardOne a) bs else bs)
      (s.endAccess a).modF a.fib fun g => g.landLoad a.wseq ty d v
    | .store _ => s.endAccess a
    | .atom _ ty _ _ dst => (s.endAccess a).modF a.fib fun g =>
      if ty.wide then g.landPair a.wseq dst data else g.land a.wseq dst (data.setWidth 32)
    | .openPlaza _ =>
      let r := freeBytes s 8
      openAt r.2 f a (leBytes 8 data.toNat ++ r.1)
/-- Data that arrive from a peer with a check value that does not match make an error record, and their access fails as one of a
poisoned sector does (R284, R234; the record's address is the peer's, log 56). -/
def ackMismatch (s : State) (f : Fibre) (a : Access) : State :=
  makeError (s.failAccess a .integrity 0 (a.addr / 64 * 64)) 0x01 causeway (coreDie f.core) (a.loc.key.2 / 64 * 64)

/-- An end of a copy at a byte lies on a peer. -/
def State.endAtPeer (s : State) (c : Copy) (e : CopyEnd) (at' : Nat) (k : AccKind) : Bool :=
  match e with
  | .global va => (match s.translate (coreQuad c.core) c.asid (va + at') k with
    | .ok l _ => l.isPeer
    | .prot | .fault _ _ _ | .flip | .busy => false)
  | .here _ => false
/-- A peer refuses an operation of this device that is no fibre's access: a piece of a copy aborts it (R288), an operand
is remembered for its operation, with the sector (R286). -/
def State.refusedAt (s : State) (id why sector : Nat) : State :=
  match s.copies.find? fun c => c.id == id with
  | some c => if s.endAtPeer c c.src c.sent .read || s.endAtPeer c c.dst c.landed .write then abortCopy s c none else s
  | none => { s with mx := s.mx.map fun (e : MxEntry) => if e.id = id ∧ e.refused = none ∧ !e.stage.applies then { e with refused := some (why, 64 * sector) } else e }

/-- What the operation of a name that the fibre waits for asks of a plaza's coordinator. -/
def Fibre.askedBy (acc : Nat) (f : Fibre) : Asks := (f.waits.findSome? fun w => match w with
  | .remote _ id _ _ a => if id = acc then some a else none
  | _ => none).getD .other
/-- The answer to the operation of a name that a fibre waits for: where it is the entry of its set into a plaza, the fibre and its
set are members from now on (R295), and where it is its leave they no longer are (R296). A leave that the plaza's abort forestalls
waits for that (R303). -/
def Fibre.answered (acc : Nat) (data : DWord) (refused : Bool) (f : Fibre) : Fibre :=
  let g := f.mapWait fun w => match w with
    | .remote _ id _ sat (.leave _) => if id ≠ acc then w
      else if refused ∧ data.toNat % 256 = 7 then .commit sat else .replied data refused sat
    | .remote _ id _ sat _ => if id = acc then .replied data refused sat else w
    | w => w
  match f.askedBy acc with
  | .enter h => if refused || data ≠ 0 then g else { g with tag := h, plzSet := f.set }
  | .leave _ => if refused || data ≠ 0 then g else { g with tag := 0, plzSet := none }
  | .other => g
/-- The member sets of this device at a peer's plaza, with those that have entered and without those that have left. -/
def State.joinAway (s : State) (acc : Nat) (data : DWord) (refused : Bool) : List (Loc × DWord) :=
  let changed (was : Bool) := s.fibres.filterMap fun f =>
    let g := f.answered acc data refused
    let h := if was then f else g
    if f.tag = g.tag || h.tag = 0 then none else h.plzSet.map fun l => (l, h.tag)
  s.away.filter (fun m => !(changed true).contains m) ++ ((changed false).filter fun m => !s.away.contains m).eraseDups

/-- REMOTE_ACK (R284, R286 to R288): the reply to an access, to an object or plaza operation that a fibre waits for, or to a
copy or an engine operation, whose data may fail their check. A refusal's data hold why in bits 7:0, the DETAIL of a RACE in
15:8, and for an engine operation the sector's virtual address / 64 in 63:8 (DESIGN CHOICE, log 17). -/
def execRemoteAck (acc : Nat) (data : DWord) (kind : AckKind) (s : State) : Result :=
  let refused := decide (kind ≠ .ok)
  let why := if kind = .mismatch then 1 else data.toNat % 256
  .next (match s.acc? acc with
    | some a => match s.fib? a.fib with
      | some f => if a.loc.isPeer && s.accReady a then
          (if kind = .mismatch ∧ !a.op.isStore then ackMismatch s f a else ackAccess s f a data (kind == .refused)) else s
      | none => s
    | none =>
      let t := (if refused then s.refusedAt acc why (data.toNat / 256) else s).donePosted acc refused
      let t : State := { t with
        away := t.joinAway acc data refused
        fibres := t.fibres.map (Fibre.answered acc (if kind = .mismatch then 1 else data) refused) }
      State.tlbSweep (if kind = .mismatch ∧ t ≠ s then makeError t 0x01 causeway 0 (64 * (data.toNat / 256)) else t))

/-! Commit and abort at the coordinator. -/

def State.plazaAt (s : State) (die index : Nat) : Option Plaza := s.plazas.find? fun p => p.die == die && p.index == index

/-- The directories that take part (R300): the dies that hold lines, and, as 4 + device, the peers whose directories hold entries or that have members. -/
def State.participants (s : State) (p : Plaza) : List Nat :=
  ((List.range 4).filter fun d => !(s.dirLines (p.handle s.dev) d).isEmpty) ++
  (p.peers ++ p.members.filterMap fun m => m.set.peerDev).map (4 + ·)

/-- SEAL_ACK (R300): a directory has sealed; the last acknowledgement is the commit instant. -/
def execSealAck (die index dir : Nat) (s : State) : Result :=
  .next (match s.plazaAt die index with
    | none => s
    | some p =>
      if p.state ≠ .sealing then s
      else
        let p := if p.sealed.contains dir then p else { p with sealed := dir :: p.sealed }
        let p := if (s.participants p).all p.sealed.contains then { p with state := .publishing } else p
        (s.sealLines (p.handle s.dev) dir).setPlaza p)

/-- The plaza is COMMITTED: every member's vote returns (R300). -/
def State.released (s : State) (p : Plaza) : State :=
  let h := p.handle s.dev
  let s := (s.setPlaza { p with state := .committed }).letWrites h
  let s := { s with fibres := s.fibres.map fun (f : Fibre) => f.mapWait fun w => match w with
    | .commit sat => if f.tag = h then .committed sat else w
    | w => w }
  (p.members.foldl (fun t m => if m.set.isPeer && m.voted then t.reply (leBytes 8 h.toNat) else t) s).freePlazas

/-- PUBLISH_REPORT (R300): a directory of this device publishes its lines, or a peer reports that it has. -/
def execPublishReport (die index dir : Nat) (s : State) : Result :=
  .next (match s.plazaAt die index with
    | none => s
    | some p =>
      if p.state ≠ .publishing || p.published.contains dir then s
      else s.publishDir (p.handle s.dev) dir fun s =>
        let p := { p with published := dir :: p.published }
        if p.sealed.all fun d => !((s.participants p).contains d) || p.published.contains d then s.released p
        else s.setPlaza p)

/-- PLAZA_TIMEOUT (R302): the fabric clock has reached the plaza's limit. -/
def execPlazaTimeout (die index : Nat) (s : State) : Result :=
  .next (match s.plazaAt die index with
    | none => s
    | some p =>
      if p.state = .opened ∧ p.timeout ≠ 0 then
        { s with fabricClock := max s.fabricClock (p.opened + 1000 * p.timeout) }.abortPlaza (p.handle s.dev) 0x04
      else s)

/-- PLAZA_DISCARD (R303): the directories of this device discard, and every tagged fibre has its trap to take. Member sets
of this device stop being members. -/
def execPlazaDiscard (die index : Nat) (s : State) : Result :=
  .next (match s.plazaAt die index with
    | none => s
    | some p =>
      if p.state = .aborting ∧ 0 ∉ p.discarded then
        (((s.setPlaza { p with discarded := 0 :: p.discarded, members := p.members.filter (·.set.isPeer) }).discard
          (p.handle s.dev) p.cause).abortsDone).freePlazas
      else s)

end Sys2Proof.Machine
end

