-- ==== Sys2Proof/Machine/Matrix.lean ====
section
/-! DEFINITION. The matrix engine: number formats (R171 to R179), accumulation (R180 to R186), the parameter block and
its checks (R193, R194, R196), the reservation table and the arbiter (R195, R199), passes and their fetches (R192,
R195 to R198), completion and faults (R201, R202). -/

namespace Sys2Proof.Machine

open Sys2Proof.Dec (leNat leBytes fld)

/-! Formats (R171). -/

def mxInt (c : FmtCode) : Bool := c == 8 || c == 9
def mxBits (c : FmtCode) : Nat :=
  match c with
  | 0 => 32
  | 1 | 2 => 16
  | 3 | 4 | 8 | 11 => 8
  | 5 | 6 | 12 => 6
  | _ => 4
/-- The class, from the 4-bit class to f32 upwards. -/
def mxClass (c : FmtCode) : Nat :=
  match mxBits c with
  | 32 => 3
  | 16 => 2
  | 8 | 6 => 1
  | _ => 0
/-- Bytes of a scale entry (R173); 0 for an unscaled format. -/
def mxScale (c : FmtCode) : Nat :=
  match c with
  | 10 => 2
  | 11 | 12 | 13 => 1
  | _ => 0
/-- Bytes of k elements from the start of a row (R172). -/
def rowBytes (c : FmtCode) (k : Nat) : Nat :=
  match mxBits c with
  | 4 => (k + 1) / 2
  | 6 => 3 * ((k + 3) / 4)
  | b => b / 8 * k
/-- Element j of packed bytes (R172). -/
def element (c : FmtCode) (bs : List Byte) (j : Nat) : Nat :=
  match mxBits c with
  | 4 => (bs.getD (j / 2) 0).toNat / 2 ^ (4 * (j % 2)) % 16
  | 6 => leNat ((bs.drop (3 * (j / 4))).take 3) / 2 ^ (6 * (j % 4)) % 64
  | b => leNat ((bs.drop (b / 8 * j)).take (b / 8))

/-- The value of an E8M0 code (R178). -/
def e8m0 (s : Nat) : FVal := if s = 255 then .nan else .fin false 1 ((s : Int) - 127)
/-- The exact value of a float element, unscaled (R174). -/
def mxVal (c : FmtCode) (x : Nat) : FVal :=
  match c with
  | 0 => fF32.val x
  | 1 => fBF16.val x
  | 2 => fF16.val x
  | 3 | 11 => fE4M3.val x
  | 4 => fE5M2.val x
  | 5 => fE3M2.val x
  | 6 | 12 => fE2M3.val x
  | _ => fE2M1.val x
/-- A two's-complement code of w bits. -/
def twos (w x : Nat) : Int := if 2 ^ (w - 1) ≤ x then (x : Int) - 2 ^ w else x
/-- One value of an o4 pair (R177): the code, its partner, and whether it stands in the even slot. -/
def o4Val (code other : Nat) (even' : Bool) (s oe : FVal) : FVal :=
  if s.isNan || oe.isNan then .nan
  else if code = 8 ∧ (even' ∨ other ≠ 8) then ((fE2M1.val other).mul s).mul oe
  else if other = 8 then .fin false 0 0
  else (FVal.ofInt (twos 4 code)).mul s
/-- The value of element j of a row of codes, with the row's scale entries (R174 to R178). -/
def rowVal (c : FmtCode) (codes : Nat → Nat) (scales : List Byte) (j : Nat) : FVal :=
  if c = 10 then
    let e := 2 * (j / 32)
    o4Val (codes j) (codes (if j % 2 = 0 then j + 1 else j - 1)) (j % 2 == 0)
      (e8m0 (scales.getD e 0).toNat) (e8m0 (scales.getD (e + 1) 0).toNat)
  else if mxScale c = 1 then (mxVal c (codes j)).mul (e8m0 (scales.getD (j / 32) 0).toNat)
  else mxVal c (codes j)

/-! Accumulation (R180). -/

def FVal.isInf : FVal → Bool
  | .inf _ => true
  | .nan | .fin _ _ _ => false
/-- BlockAdd: the accumulator's bits, and whether it saturated. -/
def blockAdd (acc : Nat) (ps : List FVal) : Nat × Bool :=
  if (fF32.val acc).isNan then (fF32.canon, false)
  else if ps.any (·.isNan) then (fF32.canon, false)
  else
    let s := match ps with
      | [] => FVal.fin false 0 0
      | p :: rest => rest.foldl (fun s p => s.add .ne p) p
    fF32.round .ne false true ((fF32.val acc).add .ne s)
/-- One integer block: the accumulator, and whether it saturated. -/
def blockInt (acc : Int) (ps : List Int) : Int × Bool :=
  let t := ps.foldl (· + ·) acc
  if 2 ^ 31 - 1 < t then (2 ^ 31 - 1, true) else if t < -(2 ^ 31) then (-(2 ^ 31), true) else (t, false)
/-- The first values of the fixed point: the identity of the sum (R195). -/
def mxIdentity (c : FmtCode) : Nat := if mxInt c then 0 else 0x80000000

/-! The parameter block (R193). -/

/-- A field of a block. -/
def fb (bs : List Byte) (off n : Nat) : Nat := leNat ((bs.drop off).take n)

structure MxBlk where
  areg : Nat
  acc : Bool
  plane : Nat
  reload : Bool
  waitb : Bool
  arrb : Bool
  afmt : FmtCode
  wfmt : FmtCode
  wsrc : Nat
  asrc : Nat
  wssrc : Nat
  assrc : Nat
  m : Nat
  n : Nat
  k : Nat
  wstride : Nat
  astride : Nat
  waitoff : Nat
  waitph : Nat
  arroff : Nat
  waddr : Nat
  aaddr : Nat
  wsaddr : Nat
  asaddr : Nat

def MxBlk.read (b : List Byte) : MxBlk :=
  let c := fb b 0 4
  { areg := fld c 21 3, acc := fld c 20 1 == 1, plane := fld c 19 1, reload := fld c 18 1 == 1
    waitb := fld c 17 1 == 1, arrb := fld c 16 1 == 1, afmt := fld c 12 4, wfmt := fld c 8 4
    wsrc := fld c 6 2, asrc := fld c 4 2, wssrc := fld c 2 2, assrc := fld c 0 2
    m := fb b 4 1 + 1, n := fb b 5 1 + 1, k := fb b 8 2 + 1, wstride := fb b 12 4, astride := fb b 16 4
    waitoff := fb b 20 4, waitph := fb b 24 4, arroff := fb b 28 4
    waddr := fb b 32 8, aaddr := fb b 40 8, wsaddr := fb b 48 8, asaddr := fb b 56 8 }

/-- The class of a pass, the dense K it covers and its block size (R179, R192). -/
def MxBlk.cls (x : MxBlk) : Nat := max (mxClass x.wfmt) (mxClass x.afmt)
def denseK (cls : Nat) : Nat :=
  match cls with
  | 3 => 16
  | 2 => 64
  | 1 => 128
  | _ => 256
def blockB (cls : Nat) : Nat :=
  match cls with
  | 3 => 4
  | 2 => 16
  | _ => 32
def MxBlk.kp (x : MxBlk) (sparse : Bool) : Nat := denseK x.cls * if sparse then 2 else 1
def MxBlk.passes (x : MxBlk) (sparse : Bool) : Nat := (x.k + x.kp sparse - 1) / x.kp sparse

/-- A buffer or global address within its field (R193). -/
def addrOk (src a : Nat) : Bool := a % 4 == 0 && (src == 1 || decide (a < 2 ^ 19))
/-- A barrier offset, reserved when unused. -/
def barOk (used : Bool) (off : Nat) : Bool := if used then decide (off < 2 ^ 18) && off % 32 == 0 else off == 0

/-- Check 2 of R194: reserved fields, limits and barrier offsets. A reserved format code counts as unscaled, and sets no limit on
a stride (DESIGN CHOICE, log 93). -/
def mxFields (b : List Byte) (x : MxBlk) (sparse : Bool) : Bool :=
  let c := fb b 6 1
  fld (fb b 0 4) 24 8 == 0 && (if sparse then x.wsrc == 0 else decide (x.wsrc < 2)) && decide (x.asrc < 2) &&
  (if mxScale x.wfmt = 0 then x.wssrc == 0 else decide (x.wssrc < 2)) &&
  (if mxScale x.afmt = 0 then x.assrc == 0 else decide (x.assrc < 2)) &&
  decide (x.m ≤ 128) && decide (x.n ≤ 128) && (decide (c < 128) || c == 255) && fb b 7 1 == 0 && fb b 10 2 == 0 &&
  (if sparse then x.wstride == 0 && x.waddr == 0
    else x.wstride % 4 == 0 && (decide (14 ≤ x.wfmt) || decide (rowBytes x.wfmt x.k ≤ x.wstride)) && addrOk x.wsrc x.waddr) &&
  x.astride % 4 == 0 && (decide (14 ≤ x.afmt) || decide (rowBytes x.afmt x.k ≤ x.astride)) && addrOk x.asrc x.aaddr &&
  barOk x.waitb x.waitoff && (x.waitb || x.waitph == 0) && barOk x.arrb x.arroff &&
  (if mxScale x.wfmt = 0 then x.wsaddr == 0 else addrOk x.wssrc x.wsaddr) &&
  (if mxScale x.afmt = 0 then x.asaddr == 0 else addrOk x.assrc x.asaddr)

/-- Groups of a line of a sparse stream, and lines of a row (R196). -/
def sparseG (c : FmtCode) : Nat := if mxBits c = 16 then 12 else 24
def sparseL (c : FmtCode) (k : Nat) : Nat := (k + 8 * sparseG c - 1) / (8 * sparseG c)

/-- Bytes of one scale row. -/
def scaleRow (c : FmtCode) (k : Nat) : Nat := mxScale c * ((k + 31) / 32)

/-- An extent of `rows` rows stays inside its buffer or the address space. -/
def extentOk (src a stride rows row : Nat) : Bool :=
  let e := a + (rows - 1) * stride + row
  if src = 1 then decide (e ≤ 2 ^ 57) else decide (e ≤ Config.bufBytes)

/-- Check 8 of R194: the first address whose extent is wrong, in the order planes, activations, their scales, barriers
(DESIGN CHOICE, log 112). -/
def mxExtents (x : MxBlk) (stream : Option Nat) (spad : Nat) : Option Nat :=
  let c (ok : Bool) (a : Nat) : Option Nat := if ok then none else some a
  let w := match stream with
    | some d => c (decide (d + 128 * sparseL x.wfmt x.k * x.n ≤ Config.bufBytes)) d
    | none => c (extentOk x.wsrc x.waddr x.wstride x.n (rowBytes x.wfmt x.k)) x.waddr
  ((((w.orElse fun _ => c (extentOk x.asrc x.aaddr x.astride x.m (rowBytes x.afmt x.k)) x.aaddr).orElse fun _ =>
    c (mxScale x.wfmt == 0 || extentOk x.wssrc x.wsaddr (scaleRow x.wfmt x.k) x.n (scaleRow x.wfmt x.k)) x.wsaddr).orElse fun _ =>
    c (mxScale x.afmt == 0 || extentOk x.assrc x.asaddr (scaleRow x.afmt x.k) x.m (scaleRow x.afmt x.k)) x.asaddr).orElse fun _ =>
    c (!x.waitb || decide (x.waitoff + 32 ≤ spad)) x.waitoff).orElse fun _ =>
    c (!x.arrb || decide (x.arroff + 32 ≤ spad)) x.arroff

/-- The checks of R194 from the second on, for a block of a fibre: the first trap. The DADDR of check 7's PROT is the
block's offset in `sp` (DESIGN CHOICE, log 112). -/
def mxCheck (s : State) (f : Fibre) (b : List Byte) (off : Nat) (stream : Option Nat) : Option (Cause × Nat × Nat) :=
  let x := MxBlk.read b
  let sparse := stream.isSome
  let l := s.launch? f.launch
  let bad (d : Nat) : Option (Cause × Nat × Nat) := some (.mxFormat, d, off)
  if !mxFields b x sparse then bad 6
  else if 14 ≤ x.wfmt ∨ 14 ≤ x.afmt then bad 1
  else if mxInt x.wfmt ≠ mxInt x.afmt then bad 2
  else if (mxScale x.wfmt ≠ 0 ∨ mxScale x.afmt ≠ 0) ∧ x.k % 32 ≠ 0 then bad 3
  else if sparse ∧ x.wfmt = 10 then bad 5
  else if !x.reload ∧ (sparse ∨ 1 < x.passes sparse) then bad 7
  else if sparse ∧ (x.cls = 3 ∨ x.k % 8 ≠ 0) then bad 8
  else if !(l.any fun l => fld l.kern.rmask x.areg 1 == 1) then bad 9
  else if !s.holdsQuad f then some (.prot, 0, off)
  else match mxExtents x stream ((l.map (·.kern.spad)).getD 0) with
    | some a => some (.prot, 0, a)
    | none =>
      if (stream.getD 0) % 128 ≠ 0 then some (.align, 0, stream.getD 0)
      else if f.tag ≠ 0 then some (.plazaMisuse, 4, f.tag.toNat)
      else none

/-- The wait barrier of an operation and its phase (R195, R249). -/
def mxWait (kind : MxKind) (barBase : Nat) (blk : List Byte) : Option (Loc × Word) :=
  match kind with
  | .dense | .sparse _ _ =>
    let x := MxBlk.read blk
    if x.waitb then some (.sp (barBase + x.waitoff), .ofNat 32 x.waitph) else none
  | .agat => if fld (fb blk 0 4) 1 1 = 1 then some (.sp (barBase + fb blk 16 4), .ofNat 32 (fb blk 20 4)) else none
  | .asel | .ksum _ _ => none

/-- Its issuer's mx counter rises, and the entry takes its place in the table, behind those posted before (R195). Its wait
barrier is looked at: FAIL, or the phase's completion. -/
def tableMx (s : State) (f : Fibre) (i : Instr) (h : Hdr) (e : MxEntry) : State :=
  let e := { e with tabled := true }
  let e := match e.waitAt with
    | none => { e with released := true }
    | some (l, p) =>
      if (s.obj l).failed then { e with refused := some (2, 0) } else { e with released := (s.obj l).passed p }
  let s : State := { s with mx := (s.mx.filter fun (g : MxEntry) => g.id != e.id) ++ [e] }
  s.retire { f.raise e.id .mx with mxSeq := f.mxSeq + 1 } i
    { stall := h.s.toNat }

/-- A matrix operation: its barriers name `sp` as barrier instructions do (R193), those of a selection the issuing core's own
(R147). -/
def MxKind.array : MxKind → Bool
  | .dense | .sparse _ _ => true
  | .asel | .agat | .ksum _ _ => false

/-- Post an operation of a fibre (R195, R246, R249). Its block has been read; while the quad's table is full, or the mx
counter stands at 63, the entry waits outside the table, and the fibre with it. -/
def postMx (s : State) (f : Fibre) (i : Instr) (h : Hdr) (kind : MxKind) (off : Nat) (blk mask : List Byte) (cls : Nat) : State :=
  let quad := coreQuad f.core
  let barBase := ((s.spBase f kind.array).map (·.1)).getD 0
  let e : MxEntry :=
    { id := s.nextId, fib := f.uid, launch := f.launch, block := f.block, quad := quad, core := f.core
      asid := s.asidOf f, iaddr := f.pc, insn := insnWord i, kind := kind, ord := f.mxSeq + 1, off := off
      spBase := ((s.spBase f false).map (·.1)).getD 0, barBase := barBase, blk := blk, mask := mask, cls := cls
      pass := 0, ovf := false, hold := .none, heldVa := 0, failed := false, starved := false, tabled := false
      released := false, waitAt := mxWait kind barBase blk, refused := none, stage := .idle, rows := [], bsize := 0
      run := [], pins := [], page := none }
  let s := { s with nextId := s.nextId + 1 }
  if (kind.tabled && decide (Config.tableEntries ≤ s.tableCount quad)) || decide (63 ≤ f.counter .mx) then
    { s with mx := s.mx ++ [e] }.block f (.table e.id)
  else tableMx s f i h e

/-- An instruction that posts: at its first issue it reads its operands, and when the wait for its entry is over the entry
that it left takes its place, with the block read then (R195). -/
def posting (s : State) (f : Fibre) (i : Instr) (h : Hdr) (first : State) : State :=
  match f.wait with
  | .table op => (match s.mx.find? fun e => e.id == op with
    | some e => tableMx s f i h e
    | none => first)
  | _ => first

/-- A block in `sp` is read as a data access (R227), after the fibre's own earlier accesses to it (R128). A conflict is a RACE at
the instruction, which cannot go on without its block (DEDUCED, log 97). `s0`: the state before the instruction's reads. -/
def State.readBlock (s s0 : State) (f : Fibre) (i : Instr) (l : Loc) (n addr : Nat) (k : List Byte → State → State) : State :=
  if s.ownAhead f l n then s.unread s0
  else match s.register { objAcc s f l n .dev with writes := false, sync := false } with
    | .race d => (s.unread s0).trapAt f i .race d addr
    | .full => (s.unread s0).block f (.room l n)
    | .ok t => k (t.bytes l n) ({ t with nextId := t.nextId + 1 }.recDone s.nextId)
/-- The 64-byte block at an `sp` offset (R194, R247): ALIGN, then PROT. -/
def atBlock (s : State) (f : Fibre) (i : Instr) (off : Nat) (k : List Byte → State → State) : State :=
  if off % 64 ≠ 0 then s.trapAt f i .align 0 off
  else (resolveSp s f off 64 64 false).andThen s f i fun l s => s.readBlock s f i l 64 off k

/-- The class of an operation (R193). -/
def mxClassOf (s : State) (f : Fibre) (b : List Byte) : Nat :=
  let p := ((s.launch? f.launch).map (·.prio)).getD 0
  if fb b 6 1 = 255 then p else min (fb b 6 1) p

def mxIssue (s : State) (f : Fibre) (i : Instr) (h : Hdr) (a : Reg) (kind : MxKind) (stream : Option Nat) : State :=
  let off := (f.reg a).toNat
  posting s f i h <| atBlock s f i off fun b t =>
    match mxCheck t f b off stream with
    | some (c, d, x) => (t.unread s).trapAt f i c d x
    | none => postMx t f i h kind off b [] (mxClassOf t f b)

def execMxa (h : Hdr) (a : Reg) (s : State) : Result :=
  let i := Instr.mxa h a
  issue s i h.g h.s.toNat [a] [rc a] fun f => mxIssue s f i h a .dense none
def execMxs (h : Hdr) (two : Bool) (a d : Reg) (s : State) : Result :=
  let i := Instr.mxs h two a d
  issue s i h.g h.s.toNat [a, d] [rc a, rc d] fun f =>
    mxIssue s f i h a (.sparse two (f.reg d).toNat) (some (f.reg d).toNat)

/-! Ends of an operation (R201). -/

def State.setMx (s : State) (e : MxEntry) : State := { s with mx := s.mx.map fun g => if g.id = e.id then e else g }

/-- Sticky(OVF) of an operation (R182): the issuer, and its set. The SAT of the arrival barrier goes with the arrival, which
a phase may hold back; it is set at once where the arrival is dropped. -/
def mxSticky (s : State) (e : MxEntry) (arr : Option Loc) : State :=
  if !e.ovf then s
  else
    let s := match s.fib? e.fib with
      | none => s
      | some f =>
        if f.set.isSome && f.set == arr then s.setF (f.stick false true)
        else let t := s.sticky f false true; t.1.setF t.2
    match arr with
    | some l => if (s.obj l).expected = 0 then s.markSat l else s
    | none => s

/-- Finish: sticky, the arrival, then the end, which follows the arrival (R201). -/
def finishMx (s : State) (e : MxEntry) (arr : Option Loc) : State :=
  let s := mxSticky (s.tlbSettle e.id) e arr
  match arr with
  | some l => (s.setMx { e with stage := .ended, pins := [], rows := [], run := [] }).engineArrive ⟨l, e.id, e.ovf⟩
  | none => s.leaveMx e
/-- A fault recorded for the issuer (R202). -/
def State.recordMx (s : State) (e : MxEntry) (c : Cause) (detail daddr : Nat) : State :=
  s.modF e.fib fun f => { f with mxFaults := insertDeferred ⟨e.ord, .mx, 0, c, detail, e.iaddr, e.insn, daddr⟩ f.mxFaults }
def abortMx (s : State) (e : MxEntry) (arr : Option Loc) (c : Cause) (detail daddr : Nat) : State :=
  finishMx (s.recordMx e c detail daddr) e arr

/-! Fetches of an engine (R198). -/

/-- Bytes that an engine reads: a global range, or a range of a typed buffer or scratchpad. -/
structure Src where
  glob : Bool
  addr : Nat
  loc : Loc
  len : Nat
  deriving DecidableEq, Repr

/-- A piece of a source: its address, location and length. -/
abbrev Piece := Nat × Loc × Nat

/-- The outcome of a walk over sources, or of the checks on them. -/
inductive Walked (α : Type) where
  | ok (x : α) (s : State)
  | fail (s : State) (c : Cause) (detail addr : Nat)
  /-- Suspended on a fault record, at an address. -/
  | hold (s : State) (h : Hold) (addr : Nat)
  /-- A flip, a sealed line, the host's copy or a full detector table comes first. -/
  | stall (s : State)

/-- A peer has refused the operation for this reason (R286) at an address of the page, or of the bytes. -/
def MxEntry.refusedIn (e : MxEntry) (why va n : Nat) : Bool :=
  e.refused.any fun r => r.1 == why && (r.2 / 4096 == va / 4096 && why == 0 || decide (va < r.2 + 64) && decide (r.2 < va + n))
/-- The pieces of a virtual range; the first page that cannot be translated, or a peer that cannot be reached or has refused
it, ends the walk (R198, R286). -/
def walkRange (s : State) (e : MxEntry) (agent : Nat) : Nat → Nat → Nat → Walked (List Piece)
  | 0, _, _ => .ok [] s
  | fuel + 1, va, n =>
    if n = 0 then .ok [] s
    else if 2 ^ 57 ≤ va then .fail s .prot 0 va
    else
      let m := min n (4096 - va % 4096)
      let r := s.lookup none e.quad e.asid va .read
      match r.2 with
      | .prot => .fail r.1 .prot 0 va
      | .flip | .busy => .stall r.1
      | .fault why lv ea =>
        let x := openFault r.1 (quadDie e.quad) e.asid va .read agent why lv ea
        .hold x.1 x.2 va
      | .ok l _ =>
        if r.1.unreachable l then .fail r.1 .page 1 va
        else if l.isPeer && e.refusedIn 0 va m then .fail r.1 .page 2 va
        else match walkRange r.1 e agent fuel (va + m) (n - m) with
          | .ok ps t => .ok ((va, l, m) :: ps) t
          | w => w

def Src.walked (x : Src) (s : State) (e : MxEntry) (agent : Nat) : Walked (List Piece) :=
  if x.glob then walkRange s e agent (x.len / 4096 + 2) x.addr x.len else .ok [(x.addr, x.loc, x.len)] s

/-- All sources with their pieces, in the order given. -/
def walkAll (s : State) (e : MxEntry) (agent : Nat) : List Src → Walked (List (Src × List Piece))
  | [] => .ok [] s
  | x :: xs =>
    match x.walked s e agent with
    | .ok ps t => (match walkAll t e agent xs with
      | .ok qs u => .ok ((x, ps) :: qs) u
      | w => w)
    | .fail t c d a => .fail t c d a
    | .hold t h a => .hold t h a
    | .stall t => .stall t

/-- Insert a source by address. -/
def insertSrc (x : Src) : List Src → List Src
  | [] => [x]
  | y :: ys => if x.addr ≤ y.addr then x :: y :: ys else y :: insertSrc x ys

/-- The access of an engine, as the detector sees it. -/
def mxAcc (s : State) (e : MxEntry) (l : Loc) (n : Nat) : NewAcc :=
  { fib := e.fib, launch := e.launch, block := e.block, loc := l, size := n, writes := false, sync := false
    core := e.core, owner := e.id, engine := true
    before := match s.fib? e.fib with
      | some f => f.before
      | none => [] }

/-- Integrity of the pieces, lowest address first (R234, R286). -/
def checkPieces (s : State) (e : MxEntry) (agent : Nat) : List Piece → State × Option Nat
  | [] => (s, none)
  | (va, l, n) :: ps =>
    if l.isPeer && e.refusedIn 1 va n then (s, e.refused.map (·.2))
    else
      let r := checkRead (s.peekAll l n) l n agent
      match r.2 with
      | k :: _ => (r.1, some (va / 4096 * 4096 + 64 * k % 4096))
      | [] => checkPieces r.1 e agent ps

/-- Registration of the pieces: the first address refused, with the DETAIL of its RACE (R198). -/
def registerPieces (s : State) (mk : Loc → Nat → NewAcc) : List Piece → Walked Unit
  | [] => .ok () s
  | (va, l, n) :: ps =>
    if l.isPeer then registerPieces s mk ps
    else match s.register (mk l n) with
      | .race d => .fail s .race d va
      | .full => .stall s
      | .ok t => registerPieces t mk ps

/-- The bytes of pieces as they stand. -/
def readPieces (s : State) : List Piece → List Byte × State
  | [] => ([], s)
  | (_, l, n) :: ps =>
    let a := if l.isPeer then freeBytes s n else (s.bytes l n, s)
    let r := readPieces a.2 ps
    (a.1 ++ r.1, r.2)
def readAll (s : State) : List (List Piece) → List (List Byte) × State
  | [] => ([], s)
  | ps :: rest =>
    let a := readPieces s ps
    let r := readAll a.2 rest
    (a.1 :: r.1, r.2)

/-- The sources admitted, in the order of R201: translation, integrity, the detector; with the plaza lines and the host's
copies out of the way first. -/
def admitSrcs (s : State) (e : MxEntry) (agent : Nat) (xs : List Src) : Walked (List (List Piece)) :=
  if e.failed then .fail s .page 0 e.heldVa
  else match walkAll s e agent ((xs.filter (·.glob)).foldr insertSrc []) with
    | .fail t c d a => .fail t c d a
    | .hold t h a => .hold t h a
    | .stall t => .stall t
    | .ok qs t =>
      let ps := qs.flatMap (·.2)
      let m := meetLocs t false (ps.map fun p => p.2)
      if !m.2 then .stall m.1
      else match checkPieces m.1 e agent ps, e.refused with
        | (u, some a), _ => .fail u .integrity 0 a
        | (u, none), some (why, a) => if why = 1 then .fail u .integrity 0 a else .fail u .page 2 a
        | (u, none), none =>
          let own (x : Src) : List Piece := if x.glob then ((qs.find? fun q => q.1 == x).map (·.2)).getD []
            else [(x.addr, x.loc, x.len)]
          match registerPieces u (mxAcc u e) (ps ++ ((xs.filter fun x => !x.glob).map fun x => (x.addr, x.loc, x.len))) with
          | .ok _ v => .ok (xs.map own) v
          | .fail v c d a => .fail v c d a
          | .hold v h a => .hold v h a
          | .stall _ => .stall u

/-- Sources admitted and read at once. -/
def fetchSrcs (s : State) (e : MxEntry) (agent : Nat) (xs : List Src) : Walked (List (List Byte)) :=
  match admitSrcs s e agent xs with
  | .ok ps t => let r := readAll t ps; .ok r.1 r.2
  | .fail t c d a => .fail t c d a
  | .hold t h a => .hold t h a
  | .stall t => .stall t
/-- An operation suspended. -/
def State.holdMx (s : State) (e : MxEntry) (h : Hold) (addr : Nat) : State := s.setMx { e with hold := h, heldVa := addr }

/-! Passes (R192, R195 to R197). -/

def planeKey (quad p n k : Nat) : Nat := (((quad * 2 + p) * 128 + n) * 512 + k) * 4

/-- Load a plane: the codes of n < N and of the pass's k, zero elsewhere, and the latched format. -/
def State.loadPlane (s : State) (quad p : Nat) (fmt : FmtCode) (rows : List (List Nat)) : State :=
  let base := planeKey quad p 0 0
  let m := memDrop s.planeMem base (base + 4 * 128 * 512)
  let m := (List.range rows.length).foldl (fun m n =>
    memWrite m (planeKey quad p n 0) ((rows.getD n []).flatMap (leBytes 4))) m
  { s with planeMem := m, latched := (2 * quad + p, fmt) :: s.latched.filter fun x => x.1 != 2 * quad + p }
def State.planeCode (s : State) (quad p n k : Nat) : Nat := leNat (memBytes s.planeMem (planeKey quad p n k) 4)
def State.latchedFmt (s : State) (quad p : Nat) : Option FmtCode := (s.latched.find? fun x => x.1 == 2 * quad + p).map (·.2)

/-- A sparse row keeps dense position j (R196). -/
def sparseKept (c : FmtCode) (row : List Byte) (j : Nat) : Bool :=
  let g := j / 8
  fld ((row.drop (128 * (g / sparseG c))).getD (96 + g % sparseG c) 0).toNat (j % 8) 1 == 1
/-- A sparse row's code at dense position j: its kept value, or 0 (R196). Lines are 128 bytes from byte 0 of the row. -/
def sparseCode (c : FmtCode) (row : List Byte) (j : Nat) : Nat :=
  let g := j / 8
  let line := row.drop (128 * (g / sparseG c))
  let i := g % sparseG c
  let mask := (line.getD (96 + i) 0).toNat
  if fld mask (j % 8) 1 = 0 then 0
  else element c line (4 * i + (List.range (j % 8)).foldl (fun n b => n + fld mask b 1) 0)

def popc (x lo n : Nat) : Nat := (List.range n).foldl (fun c b => c + fld x (lo + b) 1) 0

/-- The check of one line (R197), l-th of its row of K elements: the DETAIL of MX_META; the masks come first (DESIGN CHOICE,
log 94). -/
def checkLine (c : FmtCode) (two : Bool) (k l : Nat) (line : List Byte) : Option Nat :=
  let g := sparseG c
  let tile := min g ((k + 7) / 8 - g * l)
  let badMask := (List.range tile).any fun i =>
    let m := (line.getD (96 + i) 0).toNat
    if two then popc m 0 4 ≠ 2 || popc m 4 4 ≠ 2 else popc m 0 8 ≠ 4
  let bits := 4 * tile * mxBits c
  let vals := leNat (line.take 96)
  let badRest := vals / 2 ^ bits ≠ 0 || (line.drop (96 + tile)).any (· != 0)
  if badMask then some 1 else if badRest then some 2 else none

/-- The sources of pass p (R192, R196, R198): weights, activations, and their scales. Weight rows of a sparse stream
come as whole lines. -/
def cbSrc (quad : Nat) (buf : Nat) (src addr len : Nat) : Src :=
  { glob := src == 1, addr := addr, loc := .cb (cbKey quad buf addr), len := len }
def passSrcs (e : MxEntry) (x : MxBlk) (sparse : Bool) (stream k0 n : Nat) : List Src × List Src × List Src × List Src :=
  let rows (cnt src buf addr stride fmt : Nat) : List Src := (List.range cnt).map fun r =>
    cbSrc e.quad buf src (addr + r * stride + rowBytes fmt k0) (rowBytes fmt n)
  let scales (cnt src buf addr fmt : Nat) : List Src := (List.range cnt).map fun r =>
    cbSrc e.quad buf src (addr + r * scaleRow fmt x.k + mxScale fmt * (k0 / 32)) (scaleRow fmt n)
  let w := if !x.reload then []
    else if sparse then (List.range x.n).map fun r =>
      let len := 128 * sparseL x.wfmt x.k
      cbSrc e.quad 0 0 (stream + r * len) len
    else rows x.n x.wsrc 0 x.waddr x.wstride x.wfmt
  (w, rows x.m x.asrc 1 x.aaddr x.astride x.afmt,
    (if mxScale x.wfmt = 0 then [] else scales x.n x.wssrc 0 x.wsaddr x.wfmt),
    if mxScale x.afmt = 0 then [] else scales x.m x.assrc 1 x.asaddr x.afmt)

/-- Lines of a row that a pass is the first to need, and the first failed check among the rows (R197). -/
def lineFault (x : MxBlk) (two : Bool) (k0 n : Nat) (rows : List (List Byte)) : Option Nat :=
  let per := 8 * sparseG x.wfmt
  let first := if k0 = 0 then 0 else (k0 - 1) / per + 1
  let last := (k0 + n - 1) / per
  rows.findSome? fun row => (List.range (last + 1 - first)).findSome? fun i =>
    checkLine x.wfmt two x.k (first + i) ((row.drop (128 * (first + i))).take 128)

/-- Precision relief of a pass (R185). -/
def relief (s : State) (e : MxEntry) (x : MxBlk) : Bool :=
  x.cls == 1 && !mxInt x.wfmt && decide (s.bar.clock.toNat < 1500) && (match s.launch? e.launch with
    | some l => fld l.flags 2 1 == 1 && l.flags % 2 == 0
    | none => false)

/-- One element of the region (R188, R195). -/
def elementLoc (quad areg m n : Nat) : Loc := .cb (cbKey quad 2 (65536 * areg + 512 * m + 4 * n))
def elementKey (quad areg m n : Nat) : Nat := cbKey quad 2 (65536 * areg + 512 * m + 4 * n)

/-- The rows of a pass, apart. -/
structure PassRows where
  w : List (List Byte)
  a : List (List Byte)
  ws : List (List Byte)
  as : List (List Byte)
def passRows (q : List Src × List Src × List Src × List Src) (rows : List (List Byte)) : PassRows :=
  let r1 := rows.drop q.1.length
  let r2 := r1.drop q.2.1.length
  ⟨rows.take q.1.length, r1.take q.2.1.length, r2.take q.2.2.1.length, r2.drop q.2.2.1.length⟩

/-- One block of one element (R180, R184): the k in ks of products of the plane's row n with the activation row. A dropped
position counts as a product of +0 whatever its activation, the sign and the NaN of a dense product with a weight of +0
not being formed (DESIGN CHOICE, log 111: R184's sentences differ). -/
def blockOf (s : State) (x : MxBlk) (quad plane : Nat) (dropped : Nat → Bool) (arow wsc asc : List Byte) (n acc : Nat)
    (ks : List Nat) : Nat × Bool :=
  let wc (k : Nat) : Nat := s.planeCode quad plane n k
  let ac (k : Nat) : Nat := element x.afmt arow k
  if mxInt x.wfmt then
    let r := blockInt (twos 32 acc) (ks.map fun k => twos (mxBits x.wfmt) (wc k) * twos (mxBits x.afmt) (ac k))
    ((r.1 % 2 ^ 32).toNat, r.2)
  else blockAdd acc (ks.map fun k =>
    if dropped k then .fin false 0 0 else (rowVal x.wfmt wc wsc k).mul (rowVal x.afmt ac asc k))

/-! The arbiter (R199). -/

/-- Ready for a pass: in the table, released, not suspended, and no earlier entry of its issuer on its region. -/
def MxEntry.ready (s : State) (e : MxEntry) : Bool :=
  e.kind.array && e.tabled && e.released && e.hold == .none && e.stage == .idle &&
  s.mx.all fun g => !(g.kind.array && g.tabled && g.fib == e.fib && decide (g.id < e.id) &&
    (MxBlk.read g.blk).areg == (MxBlk.read e.blk).areg && g.quad == e.quad)
/-- The array is busy with a pass of the entry. -/
def MxEntry.busy (e : MxEntry) : Bool :=
  e.kind.array && match e.stage with
  | .fetching _ | .applying _ => true
  | .idle | .ended => false

/-- The entry that the array works for: the one whose pass is under way; else a starved one, the first of several in table
order (DESIGN CHOICE, log 113), else the highest class, else the first posted. -/
def granted (s : State) (quad : Nat) : Option MxEntry :=
  let rs := s.mx.filter fun e => e.quad == quad && e.ready s
  ((s.mx.find? fun e => e.quad == quad && e.busy).orElse fun _ => rs.find? (·.starved)).orElse fun _ =>
    rs.find? fun e => rs.all fun g => decide (g.cls ≤ e.cls)

/-! A granted pass (R195), step by step: it begins, each source is fetched, the plane is loaded, each block is applied, the results
are written. -/

/-- The pattern and the stream of a sparse operation. -/
def MxKind.stream : MxKind → Option (Bool × Nat)
  | .sparse two d => some (two, d)
  | .dense | .asel | .agat | .ksum _ _ => none
def MxBlk.arrLoc (x : MxBlk) (e : MxEntry) : Option Loc := if x.arrb then some (.sp (e.barBase + x.arroff)) else none
/-- The first k of the entry's next pass, and how many it covers. -/
def MxEntry.k0 (e : MxEntry) : Nat := e.pass * (MxBlk.read e.blk).kp e.kind.stream.isSome
def MxEntry.kn (e : MxEntry) : Nat :=
  min ((MxBlk.read e.blk).kp e.kind.stream.isSome) ((MxBlk.read e.blk).k - e.k0)
def MxEntry.srcs (e : MxEntry) : List Src × List Src × List Src × List Src :=
  passSrcs e (MxBlk.read e.blk) e.kind.stream.isSome ((e.kind.stream.map (·.2)).getD 0) e.k0 e.kn
/-- The plane of the entry's pass. -/
def MxEntry.plane (e : MxEntry) : Nat := ((MxBlk.read e.blk).plane + e.pass) % 2

/-- Sectors of the L2 lines that pieces lie in (R198). -/
def pinsOf (ps : List Piece) : List Nat :=
  (ps.flatMap fun p => ((p.2.1.sectors p.2.2).map (· / 4)).eraseDups.flatMap fun l =>
    (List.range 4).map (4 * l + ·)).eraseDups

/-- The pass begins: the latched format, then its operands admitted and pinned. Relief is fixed (R185): a pass that has been suspended
before its operands were admitted has not begun (DESIGN CHOICE, log 124). -/
def beginPass (s : State) (e : MxEntry) : State :=
  let x := MxBlk.read e.blk
  if !x.reload ∧ s.latchedFmt e.quad (x.plane % 2) ≠ some x.wfmt then abortMx s e (x.arrLoc e) .mxFormat 4 e.off
  else
    let q := e.srcs
    match admitSrcs s e 2 (q.1 ++ q.2.1 ++ q.2.2.1 ++ q.2.2.2) with
    | .fail t c d a => abortMx t e (x.arrLoc e) c d a
    | .hold t h a => t.holdMx e h a
    | .stall t => t
    | .ok ps t => t.setMx { e with
        starved := false, stage := .fetching ((List.range ps.length).zip ps), rows := List.replicate ps.length [], run := []
        bsize := if relief s e x then 16 else blockB x.cls, pins := pinsOf ps.flatten }

/-- One of n things, as a free value has it: the first step of any order (R345). -/
def State.pick (s : State) (n : Nat) : Nat := (Config.freeValue s.freeCount).toNat % n
/-- One source is fetched, in an order that no rule fixes (R204, R345). A peer's refusal makes the pass begin again, and fail. -/
def fetchNext (s : State) (e : MxEntry) (todo : List (Nat × List Piece)) : State :=
  let src := todo.getD (s.pick todo.length) (0, [])
  let ps := src.2
  if e.refused.isSome then (s.tlbSettle e.id).setMx { e with stage := .idle, pins := [], rows := [] }
  else
    let m := meetLocs s false (ps.map fun p => p.2)
    if !m.2 then m.1
    else match checkPieces m.1 e 2 ps with
      | (t, some a) => abortMx t e ((MxBlk.read e.blk).arrLoc e) .integrity 0 a
      | (t, none) =>
        let r := readPieces (t.draw 1) ps
        r.2.setMx { e with stage := .fetching (todo.eraseIdx (s.pick todo.length)), rows := e.rows.set src.1 r.1 }

/-- Every byte is fetched: the lines of a sparse stream are checked, and the plane is loaded (R192, R197). -/
def loadPass (s : State) (e : MxEntry) : State :=
  let x := MxBlk.read e.blk
  let w := (passRows e.srcs e.rows).w
  match e.kind.stream.bind fun p => lineFault x p.1 e.k0 e.kn w with
  | some d => abortMx s e (x.arrLoc e) .mxMeta d e.off
  | none =>
    let s := if !x.reload then s
      else s.loadPlane e.quad e.plane x.wfmt (w.map fun row => (List.range e.kn).map fun k =>
        if e.kind.stream.isSome then sparseCode x.wfmt row (e.k0 + k) else element x.wfmt row k)
    (s.tlbSettle e.id).setMx { e with stage := .applying 0 }

/-- Blocks of a pass. -/
def MxEntry.blocks (e : MxEntry) : Nat := (e.kn + e.bsize - 1) / e.bsize
/-- The k of block b. -/
def MxEntry.blockKs (e : MxEntry) (b : Nat) : List Nat := (List.range (min e.bsize (e.kn - e.bsize * b))).map (e.bsize * b + ·)
/-- Where the elements of an operation start (R195): the region as it stands, or the identity. -/
def MxEntry.start (s : State) (e : MxEntry) (m n : Nat) : Nat :=
  let x := MxBlk.read e.blk
  if e.pass = 0 ∧ !x.acc then mxIdentity x.wfmt else s.nat (elementLoc e.quad x.areg m n) 4
/-- The elements that an operation writes. -/
def MxBlk.elements (x : MxBlk) : List (Nat × Nat) := (List.range x.m).flatMap fun m => (List.range x.n).map (m, ·)
/-- The running value of an element. -/
def MxEntry.value (s : State) (e : MxEntry) (m n : Nat) : Nat :=
  let key := elementKey e.quad (MxBlk.read e.blk).areg m n
  match e.run.find? fun p => p.1 == key with
  | some p => p.2
  | none => e.start s m n

/-- Block b of every element (R180, R183): its results are computed from what stood before. -/
def applyBlock (s : State) (e : MxEntry) (b : Nat) : State :=
  let x := MxBlk.read e.blk
  let rows := passRows e.srcs e.rows
  let res := x.elements.map fun (p : Nat × Nat) =>
    (elementKey e.quad x.areg p.1 p.2, blockOf s x e.quad e.plane
      (fun k => e.kind.stream.isSome && !sparseKept x.wfmt (rows.w.getD p.2 []) (e.k0 + k))
      (rows.a.getD p.1 []) (rows.ws.getD p.2 []) (rows.as.getD p.1 []) p.2 (e.value s p.1 p.2) (e.blockKs b))
  let e := { e with ovf := e.ovf || res.any (fun (r : Nat × Nat × Bool) => r.2.2), run := res.map fun (r : Nat × Nat × Bool) => (r.1, r.2.1) }
  s.setMx { e with stage := .applying (b + 1) }
/-- After its last block the results of a pass come to stand in the region (R195, R198), word by word in an order that no rule fixes:
an `ld.cb` reads of each the value before or after this pass (R204, R345). A word that `st.cb` has written since the last block was
computed is overwritten, or its value stands (R345). -/
def writeWord (s : State) (e : MxEntry) : State :=
  let p := e.run.getD (s.pick e.run.length) (0, 0)
  ((s.draw 1).setBytes (.cb p.1) (leBytes 4 p.2)).setMx { e with run := e.run.eraseIdx (s.pick e.run.length) }
/-- With its last word the pass is over. -/
def writePass (s : State) (e : MxEntry) : State :=
  if !e.run.isEmpty then writeWord s e
  else
    let x := MxBlk.read e.blk
    let e := { e with pass := e.pass + 1, stage := .idle, pins := [], rows := [] }
    if e.pass = x.passes e.kind.stream.isSome then finishMx s e (x.arrLoc e) else s.setMx e

/-- A step of the pass that the array works at. -/
def runPass (s : State) (e : MxEntry) : State :=
  match e.stage with
  | .idle => beginPass s e
  | .fetching [] => loadPass s e
  | .fetching todo => fetchNext s e todo
  | .applying b => if b < e.blocks then applyBlock s e b else writePass s e
  | .ended => s

/-- FAIL stands at the wait barrier of an operation that it has not released (R195). -/
def MxEntry.barFails (e : MxEntry) : Bool := e.refused.any fun r => r.1 == 2

/-- MX_PASS (R195, R199): a step of the entry's pass, if the array works for it; an operation whose wait barrier has failed
aborts before any grant. -/
def execMxPass (quad entry : Nat) (s : State) : Result :=
  .next (match s.mx.find? fun e => e.id == entry && e.quad == quad && e.kind.array && e.tabled with
    | none => s
    | some e =>
      if e.barFails then (if e.stage == .idle then abortMx s e ((MxBlk.read e.blk).arrLoc e) .copyFault 0 e.off else s)
      else match granted s quad with
        | some g => if g.id = entry then runPass s g else s
        | none => s)

/-- ARBITER_STARVATION (R199): an entry has been ready for 2^20 cycles. -/
def execArbiterStarvation (quad entry : Nat) (s : State) : Result :=
  .next { s with mx := s.mx.map fun e => if e.id = entry ∧ e.quad = quad ∧ e.ready s then { e with starved := true } else e }

end Sys2Proof.Machine
end

