-- ==== Sys2Proof/Machine/Selection.lean ====
section
/-! DEFINITION. Selection: `asel`, `agat` and `ksum.rebuild` (R236, R237, R241 to R249), and the binding of key pages
(R239). -/

namespace Sys2Proof.Machine

open Sys2Proof.Dec (leNat leBytes fld)

/-! Summarised key pages (R236, R237). -/

structure SumDesc where
  kbase : Nat
  sbase : Nat
  npg : Nat
  dcode : Nat
  kfmt : Bool

/-- The fields of a descriptor; none where one is malformed (R237). -/
def SumDesc.read (bs : List Byte) : Option SumDesc :=
  let kbase := fb bs 0 8
  let sbase := fb bs 8 8
  let npg := fb bs 16 4
  let cfg := fb bs 20 4
  if kbase % 65536 ≠ 0 ∨ sbase % 256 ≠ 0 ∨ npg < 1 ∨ 2 ^ 24 < npg ∨ cfg % 4 = 3 ∨ 8 ≤ cfg ∨ fb bs 24 8 ≠ 0 then none
  else some ⟨kbase, sbase, npg, cfg % 4, fld cfg 2 1 == 1⟩
/-- Address of the descriptor of a leaf's SIDX; none at or above NSUM, or outside the DRAM (R237, R269). -/
def State.descAt (s : State) (asid sidx : Nat) : Option Nat :=
  let a := s.ctxStab asid + 32 * sidx
  if s.ctxNsum asid ≤ sidx || !inDram a 32 then none else some a
def SumDesc.holds (d : SumDesc) (va : Nat) : Bool := decide (d.kbase ≤ va) && decide (va < d.kbase + 16384 * d.npg)
/-- Virtual address of a page's signpost. -/
def SumDesc.sign (d : SumDesc) (va : Nat) : Nat := d.sbase + 4 * dCount d.dcode * ((va - d.kbase) / 16384)

/-- The checks that a page's two sides agree, in the order of R247's rows: the DETAIL of SUMMARY, or the signpost's
virtual address and its binding. A poisoned descriptor or context entry is the walker's fault (R234; DEDUCED, log 63). `cfg` is the block's D
and KFMT where one asks. -/
inductive PageCheck where
  | bad (s : State) (detail : Nat)
  | ok (s : State) (sva : Nat) (b : Binding)
  | fault (s : State) (level eaddr : Nat)
  /-- The host's copy or a sealed line comes first. -/
  | wait (s : State)

/-- The checks on a page of a descriptor. -/
def checkDesc (s : State) (va pa : Nat) (d : SumDesc) (cfg : Option (Nat × Bool)) : PageCheck :=
  if !d.holds va then .bad s 7
  else if (match cfg with
      | some (dc, kf) => d.dcode != dc || d.kfmt != kf
      | none => false) then .bad s 3
  else match s.bindings.find? fun b => b.page == pa / 16384 with
    | none => .bad s 8
    | some b => if b.dcode ≠ d.dcode ∨ b.kfmt ≠ d.kfmt then .bad s 8 else .ok s (d.sign va) b
/-- The descriptor of a summarised page, read uncached by the walker once the context entry is known. -/
def readDesc (s : State) (asid va pa sidx : Nat) (cfg : Option (Nat × Bool)) : PageCheck :=
  match s.descAt asid sidx with
  | none => .bad s 4
  | some a => match readLoc s 4 (.dram a) 32 with
    | .wait t => .wait t
    | .fail t => .fault t 0 a
    | .ok bs t => match SumDesc.read bs with
      | none => .bad t 4
      | some d => checkDesc t va pa d cfg
def checkPage (s : State) (asid va : Nat) (l : Loc) (e : TlbEntry) (cfg : Option (Nat × Bool)) : PageCheck :=
  match l with
  | .dram pa =>
    if !e.summ then .bad s 2
    else (match s.ctxRead 4 asid with
      | .wait t => .wait t
      | .fail t => .fault t 4 (t.ctxAt asid)
      | .ok _ t => if t.ctxBad asid then .fault t 4 (t.ctxAt asid) else readDesc t asid va pa e.sidx cfg)
  | .host _ | .peer _ _ | .sp _ | .cb _ => .bad s 2

/-! Bindings (R239). -/

/-- Signpost bytes of a page. -/
def Binding.signLo (b : Binding) : Nat := b.spa
def Binding.signHi (b : Binding) : Nat := b.spa + 4 * dCount b.dcode

/-- The pages that a KEYBIND word names. -/
def bindPages (s : State) (w : Word) : List Binding :=
  let dcode := fld w.toNat 29 2
  (List.range (w.toNat % 2 ^ 24 + 1)).map fun j =>
    ⟨s.bar.keypa.toNat / 16384 + j, dcode, fld w.toNat 28 1 == 1, s.bar.signpa.toNat + 4 * dCount dcode * j⟩

/-- R239's refusal. A run of pages that leaves the DRAM is refused without listing it. -/
def bindRefused (s : State) (w : Word) : Bool :=
  let n := w.toNat % 2 ^ 24 + 1
  let unbind := fld w.toNat 31 1 = 1
  let ds := 4 * dCount (fld w.toNat 29 2)
  let pa := s.bar.keypa.toNat
  let sp := s.bar.signpa.toNat
  pa % 16384 ≠ 0 || !inDram pa (16384 * n) || fld s.bar.sync.toNat 3 1 == 1 ||
  (!decide unbind && (sp % 256 ≠ 0 || fld w.toNat 29 2 == 3 || !inDram sp (ds * n) ||
    (decide (sp < pa + 16384 * n) && decide (pa < sp + ds * n)) ||
    (s.bindings.any fun b => decide (sp < 16384 * (b.page + 1)) && decide (16384 * b.page < sp + ds * n)) ||
    (s.bindings.any fun b => !(decide (pa ≤ 16384 * b.page) && decide (16384 * b.page < pa + 16384 * n)) &&
      decide (b.signLo < pa + 16384 * n) && decide (pa < b.signHi))))

/-- SYNC's refusal bit after a command. -/
def State.syncBit (s : State) (bit : Nat) (v : Bool) : State :=
  { s with bar := { s.bar with sync := if v then s.bar.sync ||| (1#32 <<< bit) else s.bar.sync &&& ~~~(1#32 <<< bit) } }

/-- L1 copies of a page's sectors that R240 does not allow are recalled: none may be E or M. -/
def State.unshare (s : State) (page : Nat) : State :=
  (s.dir.filter fun d => d.sector / 256 == page).foldl (fun t d => t.homeClear d.sector) s

def execKeybindBind (w : Word) (s : State) : Result :=
  .next (if fld w.toNat 31 1 = 1 then s
    else if bindRefused s w then s.syncBit 4 true
    else
      let bs := bindPages s w
      let old := s.bindings.filter fun (b : Binding) => !(bs.any fun (c : Binding) => c.page == b.page)
      let s : State := { s with bindings := bs ++ old }
      (bs.foldl (fun (t : State) (b : Binding) => t.unshare b.page) s).syncBit 4 false)
def execKeybindUnbind (w : Word) (s : State) : Result :=
  .next (if fld w.toNat 31 1 ≠ 1 then s
    else if bindRefused s w then s.syncBit 4 true
    else
      let lo := s.bar.keypa.toNat / 16384
      { s with bindings := s.bindings.filter fun b => !(decide (lo ≤ b.page) && decide (b.page ≤ lo + w.toNat % 2 ^ 24)) }.syncBit 4 false)

/-! `asel`: the block and its issue checks (R242, R243, R247). -/

structure SelBlk where
  bounds : Bool
  arrb : Bool
  rule : Bool
  qf32 : Bool
  dcode : Nat
  kfmt : Bool
  npages : Nat
  topn : Nat
  tau : Nat
  qoff : Nat
  maskoff : Nat
  listoff : Nat
  boundoff : Nat
  arroff : Nat
  pladdr : Nat

def SelBlk.read (b : List Byte) : SelBlk :=
  let c := fb b 0 4
  { bounds := fld c 11 1 == 1, arrb := fld c 10 1 == 1, rule := fld c 9 1 == 1, qf32 := fld c 8 1 == 1
    dcode := fld c 6 2, kfmt := fld c 5 1 == 1, npages := fb b 4 4, topn := fb b 8 4, tau := fb b 12 4
    qoff := fb b 16 4, maskoff := fb b 20 4, listoff := fb b 24 4, boundoff := fb b 28 4, arroff := fb b 32 4
    pladdr := fb b 40 8 }
/-- Bytes of the query. -/
def SelBlk.qlen (x : SelBlk) : Nat := dCount x.dcode * if x.qf32 then 4 else 2

/-- The block's fields are within their limits and its extents inside the allocation (R247, row 2). -/
def selFields (b : List Byte) (x : SelBlk) (spad : Nat) : Bool :=
  let c := fb b 0 4
  c / 2 ^ 12 == 0 && c % 32 == 0 && x.dcode != 3 && decide (1 ≤ x.npages) && decide (x.npages ≤ 4096) &&
  (if x.rule then x.topn == 0 else decide (x.topn ≤ 4096) && x.tau == 0) && !(fF32.val x.tau).isNan &&
  x.qoff % 4 == 0 && x.maskoff % 64 == 0 && x.listoff % 4 == 0 &&
  (if x.bounds then x.boundoff % 4 == 0 else x.boundoff == 0) && barOk x.arrb x.arroff && fb b 36 4 == 0 &&
  x.pladdr % 8 == 0 && leNat (b.drop 48) == 0 &&
  decide (x.qoff + x.qlen ≤ spad) && decide (x.maskoff + 64 ≤ spad) && decide (x.listoff + 4 + 2 * x.npages ≤ spad) &&
  (!x.bounds || decide (x.boundoff + 4 * x.npages ≤ spad)) && (!x.arrb || decide (x.arroff + 32 ≤ spad))

/-- The mask block's fields are within their limits (R243). -/
def maskFields (m : List Byte) : Bool :=
  let fl := fb m 8 4
  let n := fld fl 8 4
  decide (fb m 4 4 ≤ 2 ^ 31) && fld fl 1 7 == 0 && fl / 2 ^ 12 == 0 && decide (n ≤ 12) &&
  leNat ((m.drop (12 + 4 * n)).take (48 - 4 * n)) == 0 && fb m 60 4 == 0

def State.spadOf (s : State) (f : Fibre) : Nat := ((s.launch? f.launch).map (·.kern.spad)).getD 0

/-- `asel` (R242, R243). The DADDR of a SUMMARY trap of its block or mask, where no page is concerned, is the block's
offset in `sp` (DESIGN CHOICE, log 110). -/
def execAsel (h : Hdr) (a : Reg) (s : State) : Result :=
  let i := Instr.asel h a
  issue s i h.g h.s.toNat [a] [rc a] fun f =>
    let off := (f.reg a).toNat
    posting s f i h <| atBlock s f i off fun b t =>
      let x := SelBlk.read b
      if !selFields b x (s.spadOf f) then (t.unread s).trapAt f i .summary 1 off
      else
        t.readBlock s f i (.sp (((s.spBase f false).map (·.1)).getD 0 + x.maskoff)) 64 x.maskoff fun m t =>
          if !maskFields m then (t.unread s).trapAt f i .summary 1 off
          else if f.tag ≠ 0 then (t.unread s).trapAt f i .plazaMisuse 4 f.tag.toNat
          else postMx t f i h .asel off b m 0

/-! The run of an `asel` (R243 to R247). -/

inductive PageClass where
  | excluded | demanded | candidate
  deriving DecidableEq, Repr

/-- Keys of a page (R236). -/
def keysOf (dcode : Nat) (kfmt : Bool) : Nat := 16384 / (dCount dcode * if kfmt then 1 else 2)
def classify (m : List Byte) (t i : Nat) : PageClass :=
  let qpos := fb m 0 4
  let win := fb m 4 4
  let lo := i * t
  let hi := lo + t - 1
  if fld (fb m 8 4) 0 1 = 1 ∧ qpos < lo then .excluded
  else if (0 < win ∧ lo ≤ qpos ∧ (qpos + 1) - win ≤ hi) ∨
      (List.range (fld (fb m 8 4) 8 4)).any (fun j => decide (lo ≤ fb m (12 + 4 * j) 4) && decide (fb m (12 + 4 * j) 4 ≤ hi))
    then .demanded
  else .candidate

/-- RoundUp (R244): into f32 toward +∞. -/
def roundUp (v : FVal) : Nat := (fF32.round .up false false v).1
def f32Inf : Nat := 0x7F800000
def f32NegInf : Nat := 0xFF800000
/-- A product in which ±∞·zero is +∞. -/
def boundMul (a b : FVal) : FVal :=
  match a.mul b with
  | .nan => .inf false
  | v => v
def fgt (a b : FVal) : Bool := a.cmp b == some .gt
/-- The term of one channel (R244), as an f32 code: q is not NaN. -/
def boundTerm (q : FVal) (mn mx : Nat) : Nat :=
  let open' := (fBF16.val mn).isNan || (fBF16.val mx).isNan
  let lo := if open' then .inf true else fBF16.val mn
  let hi := if open' then .inf false else fBF16.val mx
  if fgt lo hi then f32NegInf
  else match q with
    | .fin _ 0 _ => 0
    | _ => fF32.max (roundUp (boundMul q lo)) (roundUp (boundMul q hi))
/-- Bound (R244). -/
def bound (qs : List FVal) (sign : List Byte) : Nat :=
  if qs.any (·.isNan) then f32Inf
  else
    let ts := (List.range qs.length).map fun c => boundTerm (qs.getD c .nan) (fb sign (4 * c) 2) (fb sign (4 * c + 2) 2)
    if ts.contains f32Inf then f32Inf
    else if ts.contains f32NegInf then f32NegInf
    else ts.foldl (fun a t => roundUp ((fF32.val a).add .up (fF32.val t))) 0

/-- One page of the list: its checks, then its signpost's bytes (R246, R247). -/
def readPage (s : State) (e : MxEntry) (x : SelBlk) (va : Nat) : Walked (List Byte) :=
  if va % 16384 ≠ 0 then .fail s .summary 5 va
  else if 2 ^ 57 ≤ va then .fail s .prot 0 va
  else
    let r := s.lookup none e.quad e.asid va .read
    let open' (t : State) (why lv ea : Nat) : Walked (List Byte) :=
      let o := openFault t (quadDie e.quad) e.asid va .read 3 why lv ea
      .hold o.1 o.2 va
    match r.2 with
    | .prot => .fail r.1 .prot 0 va
    | .flip | .busy => .stall r.1
    | .fault why lv ea => open' r.1 why lv ea
    | .ok l t =>
      match checkPage r.1 e.asid va l t (some (x.dcode, x.kfmt)) with
      | .bad u d => .fail u .summary d va
      | .wait u => .stall u
      | .fault u level ea => open' u 1 level ea
      | .ok u sva b =>
        let q := u.lookup none e.quad e.asid sva .read
        match q.2 with
        | .ok l' _ => if l' ≠ .dram b.spa then .fail q.1 .summary 8 va else signs q.1 sva
        | .prot | .fault _ _ _ | .flip | .busy => signs q.1 sva
where
  /-- The signpost's bytes. -/
  signs (s : State) (sva : Nat) : Walked (List Byte) :=
    match fetchSrcs s e 3 [⟨true, sva, .dram 0, 4 * dCount x.dcode⟩] with
    | .ok rows t => .ok (rows.headD []) t
    | .fail t c d a => .fail t c d a
    | .hold t h a => .hold t h a
    | .stall t => .stall t

/-- Page after page, in the order of the list: the first that fails ends it. -/
def readPages (s : State) (e : MxEntry) (x : SelBlk) : List Nat → Walked (List (List Byte))
  | [] => .ok [] s
  | va :: vas =>
    match readPage s e x va with
    | .ok row t => (match readPages t e x vas with
      | .ok signs u => .ok (row :: signs) u
      | w => w)
    | .fail t c d a => .fail t c d a
    | .hold t h a => .hold t h a
    | .stall t => .stall t

/-- Insert a candidate by descending bound, ties to the lower index. -/
def insertBound (bs : List Nat) (i : Nat) : List Nat → List Nat
  | [] => [i]
  | j :: js => if fgt (fF32.val (bs.getD i 0)) (fF32.val (bs.getD j 0)) then i :: j :: js else j :: insertBound bs i js

/-- The pages kept (R246), ascending; no candidate of bound −∞ is added under either rule (R250). -/
def selected (x : SelBlk) (cls : List PageClass) (bs : List Nat) : List Nat :=
  let idx := List.range cls.length
  let cand := idx.filter fun i => cls.getD i .excluded = .candidate ∧ bs.getD i 0 ≠ f32NegInf
  let more :=
    if x.rule then cand.filter fun i => (fF32.val (bs.getD i 0)).cmp (fF32.val x.tau) ∈ [some .gt, some .eq]
    else (cand.foldl (fun l i => insertBound bs i l) []).take x.topn
  idx.filter fun i => cls.getD i .excluded = .demanded || more.contains i

/-- A write of the selection unit to its issuer's scratchpad, as the detector sees it (R227). -/
def selAcc (s : State) (e : MxEntry) (l : Loc) (n : Nat) : NewAcc := { mxAcc s e l n with writes := true }
/-- An `asel` that fails (R247): the list's COUNT is all ones, and the arrival is made. The write is registered as the others are
(R227); one that a conflict refuses is not made, and its RACE is recorded beside the failure (DEDUCED, log 43). -/
def abortSel (s : State) (e : MxEntry) (x : SelBlk) (arr : Option Loc) (c : Cause) (detail addr : Nat) : State :=
  let l : Loc := .sp (e.spBase + x.listoff)
  match s.register (selAcc s e l 4) with
  | .race d => abortMx (s.recordMx e c detail addr) e arr .race d x.listoff
  | .full => s
  | .ok t => abortMx (t.setBytes l (leBytes 4 0xFFFFFFFF)) e arr c detail addr

/-- The list, and the bounds where the block asks for them: offsets and bytes (R246). -/
def selOut (e : MxEntry) (x : SelBlk) (qb : List Byte) (signs : List (List Byte)) : List (Nat × List Byte) :=
  let qs := (List.range (dCount x.dcode)).map fun c =>
    if x.qf32 then fF32.val (fb qb (4 * c) 4) else fBF16.val (fb qb (2 * c) 2)
  let cls := (List.range x.npages).map (classify e.mask (keysOf x.dcode x.kfmt))
  let bs := (List.range x.npages).map fun i =>
    if cls.getD i .excluded = .excluded then f32NegInf else bound qs (signs.getD i [])
  let keep := selected x cls bs
  (x.listoff, leBytes 4 keep.length ++ keep.flatMap (leBytes 2)) ::
    if x.bounds then [(x.boundoff, bs.flatMap (leBytes 4))] else []

/-- The run of an `asel` (R246): the query, the list and every signpost are read, then the outputs are written. -/
def runSel (s : State) (e : MxEntry) : State :=
  let x := SelBlk.read e.blk
  let arr : Option Loc := if x.arrb then some (.sp (e.barBase + x.arroff)) else none
  match fetchSrcs s e 3 [⟨false, x.qoff, .sp (e.spBase + x.qoff), x.qlen⟩, ⟨true, x.pladdr, .dram 0, 8 * x.npages⟩] with
  | .fail t c d a => abortSel t e x arr c d a
  | .hold t h a => t.holdMx e h a
  | .stall t => t
  | .ok rows t =>
    match readPages t e x ((List.range x.npages).map fun i => fb (rows.getD 1 []) (8 * i) 8) with
    | .fail t c d a => abortSel t e x arr c d a
    | .hold t h a => t.holdMx e h a
    | .stall t => t
    | .ok signs t =>
      let out := selOut e x (rows.getD 0 []) signs
      match registerPieces t (selAcc t e) (out.map fun p => (p.1, .sp (e.spBase + p.1), p.2.length)) with
      | .fail t c d a => abortSel t e x arr c d a
      | .hold t h a => t.holdMx e h a
      | .stall t => t
      | .ok _ t => finishMx (out.foldl (fun (t : State) (p : Nat × List Byte) => t.setBytes (.sp (e.spBase + p.1)) p.2) t) e arr

/-- ASEL_RUN (R246). -/
def execAselRun (entry : Nat) (s : State) : Result :=
  .next (match s.mx.find? fun e => e.id == entry && e.kind == .asel && e.tabled && e.stage == .idle with
    | some e => if e.hold ≠ .none then s else runSel s e
    | none => s)

/-! `agat` (R249). -/

structure GatBlk where
  wbuf : Bool
  waitb : Bool
  cntb : Bool
  listoff : Nat
  doff : Nat
  baroff : Nat
  waitoff : Nat
  waitph : Nat
  npages : Nat
  pladdr : Nat

def GatBlk.read (b : List Byte) : GatBlk :=
  let c := fb b 0 4
  { wbuf := fld c 0 1 == 1, waitb := fld c 1 1 == 1, cntb := fld c 2 1 == 1, listoff := fb b 4 4, doff := fb b 8 4
    baroff := fb b 12 4, waitoff := fb b 16 4, waitph := fb b 20 4, npages := fb b 24 4, pladdr := fb b 32 8 }

def gatFields (b : List Byte) (x : GatBlk) (spad : Nat) : Bool :=
  fb b 0 4 / 8 == 0 && x.listoff % 4 == 0 && x.doff % 256 == 0 && barOk x.cntb x.baroff && barOk x.waitb x.waitoff &&
  (x.waitb || x.waitph == 0) && decide (1 ≤ x.npages) && decide (x.npages ≤ 4096) && fb b 28 4 == 0 &&
  x.pladdr % 8 == 0 && leNat (b.drop 40) == 0 && decide (x.listoff + 4 + 2 * x.npages ≤ spad) &&
  (!x.cntb || decide (x.baroff + 32 ≤ spad)) && (!x.waitb || decide (x.waitoff + 32 ≤ spad))

def execAgat (h : Hdr) (a : Reg) (s : State) : Result :=
  let i := Instr.agat h a
  issue s i h.g h.s.toNat [a] [rc a] fun f =>
    let off := (f.reg a).toNat
    posting s f i h <| atBlock s f i off fun b t =>
      if !gatFields b (GatBlk.read b) (s.spadOf f) then (t.unread s).trapAt f i .summary 1 off
      else if f.tag ≠ 0 then (t.unread s).trapAt f i .plazaMisuse 4 f.tag.toNat
      else if !s.holdsQuad f then (t.unread s).trapAt f i .prot 0 off
      else postMx t f i h .agat off b [] 0

/-- Abort of an `agat` (R249): its barrier fails where it counts bytes. -/
def abortGat (s : State) (e : MxEntry) (x : GatBlk) (c : Cause) (detail addr : Nat) : State :=
  let s := if x.cntb then s.failObj (.sp (e.barBase + x.baroff)) else s
  abortMx s e none c detail addr

/-- The list of an `agat` whose COUNT has been read (R249): a COUNT above 4096 has an index that is too high or not ascending. -/
def listGat (s : State) (e : MxEntry) (x : GatBlk) (count : List Byte) : State :=
  let n := leNat count
  let list : Src := ⟨false, x.listoff + 4, .sp (e.spBase + x.listoff + 4), 2 * n⟩
  if 4096 < n then abortGat s e x .summary 6 e.off
  else match fetchSrcs s e 2 (if n = 0 then [] else [list]) with
    | .fail t c d a => abortGat t e x c d a
    | .hold t h a => t.holdMx e h a
    | .stall t => t
    | .ok rows t =>
      let b := count ++ rows.headD []
      let idx := (List.range n).map fun j => fb b (4 + 2 * j) 2
      if idx.any (fun i => decide (x.npages ≤ i)) || !(List.range (n - 1)).all (fun j => decide (idx.getD j 0 < idx.getD (j + 1) 0))
        then abortGat t e x .summary 6 e.off
      else if Config.bufBytes < x.doff + 16384 * n then abortGat t e x .prot 0 x.doff
      else if n = 0 then t.leaveMx e
      else t.setMx { e with mask := b }

/-- The start of an `agat`, once its wait barrier has released it: COUNT and the list, both data accesses (R227), kept for the
run. -/
def startGat (s : State) (e : MxEntry) (x : GatBlk) : State :=
  match fetchSrcs s e 2 [⟨false, x.listoff, .sp (e.spBase + x.listoff), 4⟩] with
  | .fail t c d a => abortGat t e x c d a
  | .hold t h a => t.holdMx e h a
  | .stall t => t
  | .ok rows t => listGat t e x (rows.headD [])

/-- The page-list entry of an `agat`'s current page, read once for the page. -/
def pageGat (s : State) (e : MxEntry) (x : GatBlk) : State :=
  let i := fb e.mask (4 + 2 * (e.pass / 64)) 2
  match fetchSrcs s e 2 [⟨true, x.pladdr + 8 * i, .dram 0, 8⟩] with
  | .fail t c d a => abortGat t e x c d a
  | .hold t h a => t.holdMx e h a
  | .stall t => t
  | .ok rows t =>
    let va := leNat (rows.headD [])
    if va % 16384 ≠ 0 then abortGat t e x .summary 5 va else t.setMx { e with page := some va }

/-- One 256-byte piece of an `agat`. -/
def pieceGat (s : State) (e : MxEntry) (x : GatBlk) (va : Nat) : State :=
  match fetchSrcs s e 2 [⟨true, va + 256 * (e.pass % 64), .dram 0, 256⟩] with
  | .fail t c d a => abortGat t e x c d a
  | .hold t h a => t.holdMx e h a
  | .stall t => t
  | .ok rows t =>
    let t := t.setBytes (.cb (cbKey e.quad (if x.wbuf then 0 else 1) (x.doff + 256 * e.pass))) (rows.headD [])
    let e := { e with pass := e.pass + 1, page := if (e.pass + 1) % 64 = 0 then none else e.page }
    let t := t.setMx e
    let t := if x.cntb then t.landBytes (.sp (e.barBase + x.baroff)) 256 else t
    if e.pass = 64 * fb e.mask 0 4 then t.leaveMx e else t

/-- A step of an `agat`: FAIL at its wait barrier, the start, a page-list entry, or the next piece. -/
def runGat (s : State) (e : MxEntry) : State :=
  let x := GatBlk.read e.blk
  if e.barFails then abortGat s e x .copyFault 0 e.off
  else if e.hold ≠ .none || !e.released then s
  else if e.mask.isEmpty then startGat s e x
  else match e.page with
    | none => pageGat s e x
    | some va => pieceGat s e x va

/-- AGAT_RUN (R249). -/
def execAgatRun (entry : Nat) (s : State) : Result :=
  .next (match s.mx.find? fun e => e.id == entry && e.kind == .agat && e.tabled with
    | some e => runGat s e
    | none => s)

/-! `ksum.rebuild` (R241). -/

def execKsumRebuild (h : Hdr) (a : Reg) (s : State) : Result :=
  let i := Instr.ksumRebuild h a
  issue s i h.g h.s.toNat (pairRegs a) (pairCodes a) fun f =>
    let va := (f.pair a).toNat
    let page := va / 16384 * 16384
    let bad (s : State) (d : Nat) : State := s.trapAt f i .summary d page
    if f.tag ≠ 0 then s.trapAt f i .plazaMisuse 4 f.tag.toNat
    else posting s f i h <| (resolveGlobal s f va 1 1 .read).andThen s f i fun l s =>
      match s.l1Find f.core (s.asidOf f) va with
      | some e => (match checkPage s (s.asidOf f) va l e none with
        | .bad t d => bad t d
        | .wait t => t
        | .fault t level ea =>
          let o := openFault t (coreDie f.core) (s.asidOf f) va .read 0 1 level ea
          o.1.block f o.2.wait
        | .ok t sva b =>
          (translateFor t f sva .read).andThen t f i fun l' t =>
            if l' ≠ .dram b.spa then bad t 8 else postMx t f i h (.ksum page b) page [] [] 0)
      | none => s

/-- An all-empty signpost (R238). -/
def emptySign (d : Nat) : List Byte := (List.range d).flatMap fun _ => leBytes 2 0x7F80 ++ leBytes 2 0xFF80
/-- The rebuild begins (R241): the page's sectors, each to be read through its physical home, and a signpost that is empty but for
the Widens that arrive from now on. -/
def startKsum (s : State) (e : MxEntry) (va : Nat) (b : Binding) : State :=
  if e.failed then abortMx s e none .page 0 e.heldVa
  else match walkRange s e 3 6 va 16384 with
    | .fail t c d a => abortMx t e none c d a
    | .hold t h a => t.holdMx e h a
    | .stall t => t
    | .ok ps t =>
      let sectors := ps.flatMap fun p => (List.range (p.2.2 / 64)).map fun i => [(p.1 + 64 * i, p.2.1.add (64 * i), 64)]
      t.setMx { e with stage := .fetching (sectors.map (0, ·)), mask := emptySign (dCount b.dcode) }
/-- A signpost widened by the elements of bytes that begin at an offset of their page. -/
def widenBytes (b : Binding) (off : Nat) (bs sign : List Byte) : List Byte :=
  let es := if b.kfmt then 1 else 2
  (List.range (bs.length / es)).foldl (fun g k =>
    widenSign g ((off / es + k) % dCount b.dcode) (keyCode b.kfmt (fb bs (k * es) es))) sign
/-- One sector of the page is read (R241): a free value says which is next. -/
def readKsum (s : State) (e : MxEntry) (va : Nat) (b : Binding) (todo : List (Nat × List Piece)) : State :=
  let ps := (todo.getD (s.pick todo.length) (0, [])).2
  let m := meetLocs s false (ps.map fun p => p.2)
  if !m.2 then m.1
  else match checkPieces m.1 e 3 ps with
    | (t, some a) => abortMx t e none .integrity 0 a
    | (t, none) =>
      let r := readPieces (t.draw 1) ps
      r.2.setMx { e with
        stage := .fetching (todo.eraseIdx (s.pick todo.length)), mask := widenBytes b ((ps.headD (va, .dram 0, 0)).1 - va) r.1 e.mask }
/-- A step of the rebuild: it begins, reads a sector, or writes the signpost by one home write. -/
def runKsum (s : State) (e : MxEntry) (va : Nat) (b : Binding) : State :=
  match e.stage with
  | .idle => startKsum s e va b
  | .fetching [] =>
    let m := meetLocs s true [(.dram b.spa, 4 * dCount b.dcode)]
    if !m.2 then m.1 else (m.1.homeWrite (.dram b.spa) e.mask).leaveMx e
  | .fetching todo => readKsum s e va b todo
  | .applying _ | .ended => s

/-- KSUM_REBUILD_RUN (R241). -/
def execKsumRebuildRun (entry : Nat) (s : State) : Result :=
  .next (match s.mx.find? fun e => e.id == entry && e.tabled with
    | some e => (match e.kind with
      | .ksum va b => if e.hold ≠ .none then s else runKsum s e va b
      | .dense | .sparse _ _ | .asel | .agat => s)
    | none => s)

end Sys2Proof.Machine
end

