-- ==== Sys2Proof/Machine/Launch.lean ====
section
/-! DEFINITION. Launches: records and their checks (R270 to R272), the body chosen (R266, R267, R273), `launch` (R274),
placement by the Square (R279 to R281), retirement (R116) and completion (R278). -/

namespace Sys2Proof.Machine

open Sys2Proof.Dec (leNat leBytes fld)

/-! The checks (R270 to R272). -/

def blkCount (r : List Byte) : Nat := fb r 32 2 * fb r 34 2 * fb r 36 2
def clAbsent (r : List Byte) : Bool := leNat ((r.drop 40).take 6) == 0
def clCount (r : List Byte) : Nat := if clAbsent r then 1 else fb r 40 2 * fb r 42 2 * fb r 44 2
/-- A dimension of the grid and of the cluster shape. -/
def dimOk (r : List Byte) (grid cl : Nat) : Bool :=
  decide (1 ≤ fb r grid 4) && decide (fb r grid 4 ≤ 65535) &&
  (clAbsent r || (fb r cl 2 ≠ 0 && fb r grid 4 % fb r cl 2 == 0))

/-- A launch record within its limits (R271). -/
def recordOk (s : State) (r : List Byte) : Bool :=
  let h := fb r 50 2
  let period := fb r 52 4
  fb r 0 2 == 1 && fb r 2 2 == 0 && decide (fb r 4 4 < 32) && fb r 8 8 % 64 == 0 &&
  dimOk r 16 40 && dimOk r 20 42 && dimOk r 24 44 && fb r 28 4 == 0 &&
  decide (1 ≤ blkCount r) && decide (blkCount r ≤ 32768) && fb r 38 2 == 0 &&
  [16, 32, 48, 64].contains (fb r 46 1) && decide (fb r 47 1 < 128) && decide (fb r 48 1 ≤ 127) &&
  s.ctxRoot (fb r 49 1) % 2 == 1 && !s.ctxBad (fb r 49 1) && (h == 0 || decide (256 ≤ h)) &&
  (period == 0 || (decide (1024 ≤ period) && decide (period ≤ 1048576))) &&
  fb r 56 8 % 8 == 0 && fb r 64 4 % 8 == 0 && decide (fb r 64 4 ≤ 4096) && fb r 72 8 % 4096 == 0 &&
  fb r 88 8 % 64 == 0 && fb r 96 8 % 4 == 0 && leNat (r.drop 108) == 0

/-- A kernel descriptor (R270). -/
def Kernel.read (k : List Byte) : Kernel where
  depth := fb k 3 1
  spad := fb k 4 4
  bset := fb k 8 4
  rmask := fb k 12 1
  nsafe := fb k 14 2
  safetab := fb k 16 8
  craco := fb k 24 8
  cvec := fb k 32 8
  nvar := fb k 40 2
  argslots := fb k 42 2
  vartab := fb k 48 8
def kernelOk (k : List Byte) (argsize : Nat) : Bool :=
  let d := Kernel.read k
  fb k 0 2 == 1 && fb k 2 1 == 0 && decide (1 ≤ d.depth) && decide (d.depth ≤ 64) && d.spad % 256 == 0 &&
  decide (d.spad ≤ 262144) && d.bset % 32 == 0 && decide (d.bset < d.spad) && fb k 13 1 == 0 &&
  decide (d.nsafe ≤ 1024) && d.safetab % 16 == 0 && decide (d.nvar ≤ 64) && decide (d.argslots ≤ 512) &&
  fb k 44 4 == 0 && d.vartab % 32 == 0 && fb k 56 8 == 0 && decide (8 * d.argslots ≤ argsize)

/-- Fibres per core (R279). -/
def perCore (window : Nat) : Nat := min Config.slotMax (Config.regFile / window)
/-- Cores of a gang, whole quads where the kernel has a region mask (R279). -/
def gangSize (fibres window rmask : Nat) : Nat :=
  let g := (fibres + perCore window - 1) / perCore window
  if rmask = 0 then g else 4 * ((g + 3) / 4)

/-- SLOTCAP, where 0 names the device's whole capacity (R271). -/
def slotCap (r : List Byte) : Nat := if fb r 68 4 = 0 then 1024 * perCore (fb r 46 1) else fb r 68 4
/-- Capacity (R272, code 0x43). -/
def fitsPart (r : List Byte) (k : Kernel) : Bool :=
  let g := gangSize (blkCount r) (fb r 46 1) k.rmask
  decide (g ≤ 16) && decide (clCount r * g ≤ 256) && decide (slotCap r ≤ fb r 80 8 / (32 * k.depth))

/-- The launch that a record describes. -/
def mkLaunch (r : List Byte) (k : Kernel) (v : Option (List Byte)) (node : Option (Nat × Nat)) (before : List (Nat × Nat))
    (id : Nat) : Launch where
  id := id
  asid := fb r 49 1
  flags := fb r 4 4
  gridX := fb r 16 4
  gridY := fb r 20 4
  gridZ := fb r 24 4
  blkX := fb r 32 2
  blkY := fb r 34 2
  blkZ := fb r 36 2
  clX := fb r 40 2
  clY := fb r 42 2
  clZ := fb r 44 2
  window := fb r 46 1
  modeField := fb r 47 1
  prio := fb r 48 1
  h := if fb r 50 2 = 0 then 4096 else fb r 50 2
  period := if fb r 52 4 = 0 then 8192 else fb r 52 4
  args := fb r 56 8
  argsize := fb r 64 4
  slotcap := slotCap r
  frames := fb r 72 8
  framesize := fb r 80 8
  traps := fb r 88 8
  doneaddr := fb r 96 8
  doneval := fb r 104 4
  kdesc := fb r 8 8
  kern := k
  entry := match v with
    | some v => fb v 16 8
    | none => k.craco
  vector := match v with
    | some v => fb v 24 8
    | none => k.cvec
  craco := v.isNone
  token := 0
  placed := 0
  overtakes := 0
  gangProtected := false
  reserved := []
  status := .running
  node := node
  before := before

/-- The outcome of the checks: an error code, the launch to queue, or a wait for a page that flips or for the host's copy of
what the boot processor reads (R260, R261). -/
inductive Checked where
  | refuse (code : Nat) (s : State)
  | ok (l : Launch) (s : State)
  | wait (s : State)

/-- The checks once the record, the descriptor and the variants have been read (R272): those on sizes, then the body. -/
def State.judge (s : State) (r : List Byte) (k : Kernel) (vs : List Byte) (node : Option (Nat × Nat))
    (before : List (Nat × Nat)) : Checked :=
  let v := s.variant vs k.nvar
  if !variantsOk vs k.nvar then .refuse 0x40 s
  else if !fitsPart r k then .refuse 0x43 s
  else if fld (fb r 4 4) 4 1 = 1 ∧ v.isNone then .refuse 0x42 s
  else if v.isNone ∧ k.craco = 0 then .refuse 0x41 s
  else .ok (mkLaunch r k v node before s.nextId) s
/-- The checks of R272 in their order. The descriptor and the variant table are read uncached by the boot processor: a
poisoned sector is unreadable. -/
def State.checkLaunch (s0 : State) (r : List Byte) (node : Option (Nat × Nat)) (before : List (Nat × Nat)) : Checked :=
  let asid := fb r 49 1
  match s0.ctxRead 10 asid with
  | .fail t => .refuse 0x40 t
  | .wait t => .wait t
  | .ok _ s =>
  if !recordOk s r then .refuse 0x40 s
  else match vread s none noQuad asid 10 (fb r 8 8) 64 1 with
    | .fail t => .refuse 0x40 t
    | .wait t => .wait t
    | .ok kb t =>
      let k := Kernel.read kb
      if !kernelOk kb (fb r 64 4) then .refuse 0x40 t
      else match vread t none noQuad asid 10 k.vartab 32 k.nvar with
        | .fail u => .refuse 0x40 u
        | .wait u => .wait u
        | .ok vs u => u.judge r k vs node before

/-- A launch is queued to the Square. -/
def State.queueLaunch (s : State) (l : Launch) : State :=
  { s with launches := s.launches ++ [l], nextId := s.nextId + 1 }

/-! `launch` (R274). -/

/-- The outcome of reading the record for a fibre. -/
inductive RecRead where
  | ok (bs : List Byte) (s : State)
  | trap (c : Cause) (detail daddr : Nat)
  | wait (s : State) (w : Wait)
  /-- The host's copies are not out of the way yet. -/
  | stall (s : State)

/-- The record's bytes as data accesses at device scope, 64 bytes at a time, after the fibre's own accesses to them (R317). -/
def readRecord (s : State) (f : Fibre) (va : Nat) : Nat → RecRead
  | 0 => .ok [] s
  | n + 1 =>
    match resolveGlobal s f va 64 64 .read with
    | .trap c d a => .trap c d a
    | .wait t w => .wait t w
    | .stand t => .stall t
    | .ok l t =>
      let rest (t : State) (bs : List Byte) : RecRead :=
        match readRecord t f (va + 64) n with
        | .ok more u => .ok (bs ++ more) u
        | .trap c d a => .trap c d a
        | .wait u w => .wait u w
        | .stall u => .stall u
      if t.ownAhead f l 64 then .stall t
      else if l.isPeer then
        if t.unreachable l then .trap .page 0x01 va else let b := freeBytes t 64; rest b.2 b.1
      else match t.meet l 64 0 false with
        | (t, .wait h) => .wait t (.plaza h)
        | (t, .go) =>
          if !(t.hostInWay l 64 false).isEmpty then .stall (t.snoop (t.hostInWay l 64 false))
          else if !t.mayServe l 64 false then .stall t
          else match t.register { objAcc t f l 64 .dev with writes := false, sync := false } with
            | .race d => .trap .race d va
            | .full => .stall t
            | .ok t =>
              let r := checkRead ({ t with nextId := t.nextId + 1 }.recDone t.nextId) l 64 0
              if r.2.isEmpty then rest (r.1.fibreLoad f.core l 64) (r.1.bytes l 64) else .trap .integrity 0 va

/-- The code that stopped the fibre's graph (R274, R277). -/
def State.graphStop (s : State) (f : Fibre) : Option Nat :=
  match (s.launch? f.launch).bind (·.node) with
  | some n => ((s.replays.find? fun (r : Replay) => r.id == n.1).bind (·.stopped)).map (·.2)
  | none => none

/-- `launch` (R274). As a release it closes the fibre's records of complete accesses at once, and the others once the counters have
drained (R228; DESIGN CHOICE, log 119). One that finds `st` at 0 and does not wait makes every pending write visible as well, as a
counter wait does (DESIGN CHOICE, log 118). -/
def execLaunch (h : Hdr) (a : Reg) (s : State) : Result :=
  let i := Instr.launch h a
  issue s i h.g h.s.toNat (pairRegs a) (pairCodes a) fun f =>
    let va := (f.pair a).toNat
    if va % 64 ≠ 0 then s.trapAt f i .align 0 va
    else if f.tag ≠ 0 then s.trapAt f i .plazaMisuse 0x04 f.tag.toNat
    else match s.graphStop f with
      | some code => s.trapAt f i .graph code
      | none =>
        if f.counter .st ≠ 0 then s.block f (.counter .st 0)
        else match readRecord s f va 4 with
          | .trap c d x => s.trapAt f i c d x
          | .wait t w => (t.unread s).block f w
          | .stall t => t.unread s
          | .ok r t =>
            match if fb r 49 1 ≠ t.asidOf f then .refuse 0x40 t else t.checkLaunch r none f.before with
            | .refuse code t => (t.unread s).trapAt f i .launch code
            | .wait t => t.unread s
            | .ok l t =>
              (((t.release f.uid).queueLaunch l).retire { f with closing := f.closing ++ [t.nextId] } i
                { stall := h.s.toNat, safe := true, flush := true }).closeDrained f.uid

/-! Placement (R279 to R281). -/

/-- Blocks that hold a core's capacity. -/
def State.residents (s : State) (core : Nat) : List Block :=
  s.blocks.filter fun b => !b.retired && !b.saved && b.cores.contains core
def State.kernelOf (s : State) (b : Block) : Option Kernel := (s.launch? b.launch).map (·.kern)
/-- Scratchpad bytes reserved on a core. -/
def State.spadUsed (s : State) (core : Nat) : Nat :=
  (s.residents core).foldl (fun n b => n + match s.kernelOf b with
    | some k => k.spad
    | none => 0) 0
/-- Nothing runs on the core's quad. -/
def State.quadFree (s : State) (core : Nat) : Bool :=
  (List.range 4).all fun n => (s.residents (4 * coreQuad core + n)).isEmpty && (s.slotHolders (4 * coreQuad core + n)).isEmpty
/-- A core can take n fibres of a launch and an allocation for its next block (R57, R279); a core that a protected
gang has reserved is that gang's (R280). -/
def State.coreTakes (s : State) (l : Launch) (core n : Nat) : Bool :=
  let hs := s.slotHolders core
  decide (hs.length + n ≤ Config.slotMax) &&
  decide ((hs.foldl (fun m f => m + f.window) 0) + n * l.window ≤ Config.regFile) &&
  decide (s.spadUsed core + l.kern.spad ≤ 262144) && !s.gated.contains core &&
  !(s.launches.any fun k => k.id != l.id && k.gangProtected && k.reserved.contains core)
/-- A gang of cores for a block: distinct, on one die, whole free quads where the kernel asks for them (R190, R279). -/
def State.gangOk (s : State) (l : Launch) (block die : Nat) (cores : List Nat) : Bool :=
  decide (die < 4) && cores.all (fun c => coreDie c == die) && decide cores.Nodup &&
  (if l.kern.rmask = 0 then cores.all fun c => !s.quadHeld l.id block c
   else cores.all fun c => s.quadFree c && (List.range 4).all fun n => cores.contains (4 * coreQuad c + n))

/-! Logical ids (R281). -/

/-- HilbertXY, from side s up. -/
def hilbert : Nat → Nat → Nat → Nat → Nat → Nat × Nat
  | 0, _, _, x, y => (x, y)
  | k + 1, s, t, x, y =>
    let rx := t / 2 % 2
    let ry := (t ^^^ rx) % 2
    let p : Nat × Nat := if ry = 0 then (if rx = 1 then (s - 1 - y, s - 1 - x) else (y, x)) else (x, y)
    hilbert k (2 * s) (t / 4) (p.1 + s * rx) (p.2 + s * ry)
def hilbertXY (bits d : Nat) : Nat × Nat := hilbert bits 1 d 0 0
/-- The least power of two that is at least m, as its exponent. -/
def bitsFor (m : Nat) : Nat := ((List.range 17).find? fun k => decide (m ≤ 2 ^ k)).getD 17
/-- The r-th place from d on that lies in an Xc × Yc grid. -/
def rankedFrom (bits xc yc : Nat) : Nat → Nat → Nat → Nat × Nat
  | 0, _, _ => (0, 0)
  | fuel + 1, d, r =>
    let p := hilbertXY bits d
    if p.1 < xc ∧ p.2 < yc then (if r = 0 then p else rankedFrom bits xc yc fuel (d + 1) (r - 1))
    else rankedFrom bits xc yc fuel (d + 1) r

def Launch.blockFibres (l : Launch) : Nat := l.blkX * l.blkY * l.blkZ
def Launch.blocks (l : Launch) : Nat := l.gridX * l.gridY * l.gridZ
def Launch.clusterBlocks (l : Launch) : Nat := if l.clX = 0 then 1 else l.clX * l.clY * l.clZ
def Launch.gang (l : Launch) : Nat := gangSize l.blockFibres l.window l.kern.rmask
/-- Launch fibres of a block on its k-th gang core. -/
def Launch.fibresOn (l : Launch) (k : Nat) : Nat := min (perCore l.window) (l.blockFibres - k * perCore l.window)
/-- The place in the grid of the block of a logical id: its cluster's, then x fastest within the cluster. -/
def Launch.place (l : Launch) (id : Nat) : Nat × Nat × Nat :=
  let c : Nat × Nat × Nat := if l.clX = 0 then (1, 1, 1) else (l.clX, l.clY, l.clZ)
  let xc := l.gridX / c.1
  let yc := l.gridY / c.2.1
  let rank := id / l.clusterBlocks
  let i := id % l.clusterBlocks
  let bits := bitsFor (max xc yc)
  let p := rankedFrom bits xc yc (4 ^ bits) 0 (rank % (xc * yc))
  (p.1 * c.1 + i % c.1, p.2 * c.2.1 + i / c.1 % c.2.1, rank / (xc * yc) * c.2.2 + i / (c.1 * c.2.1))

/-! The Square. -/

/-- The order of the Square (R280): launch k goes before launch l. -/
def Launch.ahead (k l : Launch) : Bool := decide (l.prio < k.prio) || (k.prio == l.prio && decide (k.id < l.id))
/-- The launch has a block that waits for cores. -/
def Launch.waits (l : Launch) : Bool := l.status == .running && decide (l.placed < l.blocks)
/-- Every waiting gang that a placement passes counts it; eight protect it (R280). -/
def State.overtake (s : State) (l : Launch) : State :=
  { s with launches := s.launches.map fun (k : Launch) =>
      if k.waits && k.ahead l then
        { k with overtakes := k.overtakes + 1, gangProtected := k.gangProtected || decide (8 ≤ k.overtakes + 1) }
      else k }

/-- The lowest n free segments of a launch (R112). -/
def State.freeSegs (s : State) (l : Launch) (n : Nat) : List Nat :=
  let used := (s.fibres.filter fun f => f.launch == l.id).filterMap (·.seg)
  ((List.range (min l.segments (used.length + n))).filter fun k => !used.contains k).take n

/-- A launch fibre (R20, R56, R58): n is its block-linear index. -/
def launchFibre (l : Launch) (block core uid n seg : Nat) (set : Loc) : Fibre where
  uid := uid
  launch := l.id
  block := block
  core := core
  fid := .ofNat 32 n
  origin := .launch
  status := .resident
  pc := l.entry
  window := l.window
  regs := (zeros.setIfInBounds 2 (.ofNat 32 l.args)).setIfInBounds 3 (.ofNat 32 (l.args / 2 ^ 32))
  preds := 0
  pend := []
  landed := []
  wseq := 0
  frames := []
  inline := []
  root := none
  lc0 := noLoop
  lc1 := noLoop
  lc2 := noLoop
  loopSeq := 0
  prio := 0
  mode := .ofNat 32 (l.modeField % 128 + 128 * fld l.flags 1 1 + 256 * fld l.flags 3 1)
  sat := 0
  outs := []
  set := some set
  arrived := none
  votes := 0
  held := none
  tag := 0
  plzSet := none
  aborted := 0
  hbc := 0
  dist := 0
  passed := false
  seg := some seg
  tiles := 0xFF
  live := .allOnes 64
  craco := l.craco
  xlat := false
  vector := l.vector
  trapMode := false
  deferred := []
  fresh := false
  mxFaults := []
  abort := none
  wait := .none
  waited := false
  inst := none
  tickDue := false
  rebody := false
  fuse := none
  rejoin := none
  mxSeq := 0
  preempt := false
  stopped := false
  result := 0
  closing := []
  after := []
  before := l.before
  parent := none

/-- A block's state as it is placed: its allocation, its set, its fibres (R123, R151, R279). -/
def State.placeBlock (s : State) (l : Launch) (die : Nat) (cores : List Nat) (segs : List Nat) (alloc : Nat) : State :=
  let set := Loc.sp (spKey (cores.headD 0) alloc l.kern.bset)
  let block : Block := ⟨l.id, l.placed, l.place l.placed, die, cores, alloc, false, false, [], [], [], []⟩
  let fs := (List.range l.blockFibres).map fun n =>
    launchFibre l l.placed (cores.getD (n / perCore l.window) 0) (s.nextId + n) n (segs.getD n 0) set
  let s := (s.overtake l).setLaunch { l with placed := l.placed + 1, overtakes := 0, gangProtected := false, reserved := [] }
  let s := { s with blocks := s.blocks ++ [block], fibres := s.fibres ++ fs, nextId := s.nextId + l.blockFibres }
  s.setObj set ⟨0, l.blockFibres, 0, 0, 0, 8⟩

/-- The launch's next block goes to a gang of cores, if they can take it and the launch may hold its fibres (R271, R279). -/
def State.placeOn (s : State) (l : Launch) (die : Nat) (cores : List Nat) : Option State :=
  let live := (s.fibres.filter fun f => f.launch == l.id && (f.status == .resident || f.status == .parked)).length
  let segs := s.freeSegs l l.blockFibres
  let fits := (List.range cores.length).all fun k => s.coreTakes l (cores.getD k 0) (l.fibresOn k)
  if cores.length == l.gang && s.gangOk l l.placed die cores && fits && decide (live + l.blockFibres ≤ l.slotcap) &&
      segs.length == l.blockFibres then
    (freeIndex ((s.blocks.filter fun b => !b.retired).map (·.alloc)) 65535 1).map fun alloc => s.placeBlock l die cores segs alloc
  else none
/-- The lowest gang of a die that can take the launch's next block. -/
def State.findGang (s : State) (l : Launch) (die : Nat) : Option (List Nat) :=
  let n := l.gang
  if l.kern.rmask ≠ 0 then
    let qs := (((List.range 64).map (64 * die + ·)).filter fun q => s.quadFree (4 * q) &&
      (List.range 4).all fun k => s.coreTakes l (4 * q + k) (l.fibresOn 0)).take (n / 4)
    if 4 * qs.length = n then some (qs.flatMap fun q => (List.range 4).map (4 * q + ·)) else none
  else
    let open' := ((List.range 256).map (256 * die + ·)).filter fun c => !s.quadHeld l.id l.placed c
    let firsts := (open'.filter fun c => s.coreTakes l c (l.fibresOn 0)).take (n - 1)
    match open'.find? fun c => !firsts.contains c && s.coreTakes l c (l.fibresOn (n - 1)) with
    | some c => if firsts.length = n - 1 then some (firsts ++ [c]) else none
    | none => none

/-- The blocks of a cluster go together, since they are co-resident (R279): one gang after another. -/
def State.placeAll (s : State) (launch die : Nat) : List (List Nat) → Option State
  | [] => some s
  | c :: cs => match s.launch? launch with
    | some l => (s.placeOn l die c).bind fun t => t.placeAll launch die cs
    | none => none
/-- Gangs found for the blocks of the launch's next cluster on a die. -/
def State.findCluster (s : State) (launch die : Nat) : Nat → Option (List Nat)
  | 0 => some []
  | n + 1 => match s.launch? launch with
    | some l => (match s.findGang l die with
      | some c => (match s.placeOn l die c with
        | some t => (t.findCluster launch die n).map (c ++ ·)
        | none => none)
      | none => none)
    | none => none
/-- A launch before this one in the Square's order has blocks that the die can take: they go first (R280). -/
def State.behind (s : State) (l : Launch) (die : Nat) : Bool :=
  s.launches.any fun k => k.id != l.id && k.waits && k.ahead l && (s.findCluster k.id die k.clusterBlocks).isSome

/-- Cores of a die that a gang of the launch could use now. -/
def State.takers (s : State) (l : Launch) (die : Nat) : List Nat :=
  ((List.range 256).map (256 * die + ·)).filter fun c =>
    s.coreTakes l c (l.fibresOn 0) && !s.quadHeld l.id l.placed c && (l.kern.rmask = 0 || (s.slotHolders c).isEmpty)
/-- The cores in which a gang looks for its own: for a kernel with a region mask as many quads of the die as it needs, those
first in which it has most (R279, R280); which quads is the model's choice (DESIGN CHOICE, log 76). -/
def Launch.candidates (l : Launch) (die : Nat) (mine : List Nat) : List Nat :=
  let all := (List.range 256).map (256 * die + ·)
  if l.kern.rmask = 0 then all
  else
    let has (n q : Nat) : Bool := (mine.filter fun c => coreQuad c == q).length == n
    let qs := [4, 3, 2, 1, 0].flatMap fun n => ((List.range 64).map (64 * die + ·)).filter (has n)
    (qs.take (l.gang * l.clusterBlocks / 4)).flatMap fun q => (List.range 4).map (4 * q + ·)
/-- A waiting gang reserves cores of one die one at a time, as they are free, until it has what it needs (R280). One that is
protected keeps them; another block may still take those of one that is not. Of the four dies, the one that has most cores for
it (DESIGN CHOICE, log 76). -/
def State.reserveFor (s : State) (l : Launch) : State :=
  let kept := if l.gangProtected then l.reserved else []
  let die := match kept with
    | c :: _ => coreDie c
    | [] => [1, 2, 3].foldl (fun d e => if (s.takers l d).length < (s.takers l e).length then e else d) 0
  let mine := kept ++ (s.takers l die).filter fun c => !kept.contains c
  s.setLaunch { l with reserved := (mine.filter (l.candidates die mine).contains).take (l.gang * l.clusterBlocks) }
def State.reserve (s : State) : State :=
  s.launches.foldl (fun (t : State) (k : Launch) => match t.launch? k.id with
    | some l => if l.waits then t.reserveFor l else t
    | none => t) s

/-- A list cut into lists of n. -/
def gangs (n : Nat) : Nat → List Nat → List (List Nat)
  | 0, _ => []
  | k + 1, cs => cs.take n :: gangs n k (cs.drop n)
/-- BLOCK_PLACE (R279 to R281): the blocks of the launch's next cluster go to gangs of cores that can take them. -/
def execBlockPlace (launch die : Nat) (cores : List Nat) (s : State) : Result :=
  .next (let s := s.reserve
    match s.launch? launch with
    | none => s
    | some l =>
      if s.bar.status = 5 && l.waits && cores.length == l.gang * l.clusterBlocks && !s.behind l die then
        (s.placeAll launch die (gangs l.gang l.clusterBlocks cores)).getD s
      else s)

/-- GANG_PROTECTION (R280): the next block of the launch has waited 100 µs. -/
def execGangProtection (launch block : Nat) (s : State) : Result :=
  .next (match s.launch? launch with
    | some l => if l.waits && l.placed == block then (s.setLaunch { l with gangProtected := true }).reserve else s
    | none => s)

/-! Retirement (R116, R155, R281). -/

/-- A scratchpad location lies in a block's allocations. -/
def Block.owns (b : Block) (l : Loc) : Bool :=
  match l with
  | .sp k => b.cores.any fun c => k / 2 ^ 18 == c * 2 ^ 16 + b.alloc
  | .dram _ | .host _ | .peer _ _ | .cb _ => false

/-- The block's set leaves every group it is in (R155): its windows are shut, what was issued through them is performed, and its
slots clear; then `k`. -/
def State.leaveGroups (s : State) (b : Block) (k : State → State) : State :=
  let mine (w : Window) : Bool := w.alloc == b.alloc && b.cores.contains w.core
  let s := { s with windows := s.windows.map fun w => if mine w then { w with shut := true } else w }
  let ws := s.windows.filter mine
  if ws.any fun w => !(s.windowUses w.group w.n w.set).isEmpty then s
  else
    let m := meetLocs s true (ws.map fun w => (w.group, 64))
    if m.2 then k (ws.foldl (fun t w => t.clearSlot w.group w.n) m.1) else m.1

/-- Operations still to reach the block's allocations. -/
def State.reaching (s : State) (b : Block) : Bool :=
  (s.accs.any fun a => b.owns a.loc) || s.copies.any fun c => match c.dst, c.src with
    | .here l, .here m => b.owns l || b.owns m
    | .here l, .global _ | .global _, .here l => b.owns l
    | .global _, .global _ => false

/-- BLOCK_RETIRE (R116, R281): every fibre of the block has ended, and under DET every earlier block has retired. -/
def execBlockRetire (launch block : Nat) (s : State) : Result :=
  .next (match s.launch? launch, s.block? launch block with
    | some l, some b =>
      let mine (f : Fibre) : Bool := f.launch == launch && f.block == block
      let inOrder := l.flags % 2 == 0 || (List.range block).all fun j => match s.block? launch j with
        | some c => c.retired
        | none => false
      if b.retired || b.saved || !inOrder || s.fibres.any (fun f => mine f && f.status != .ended) then s
      else s.leaveGroups b fun s =>
        if s.reaching b then s
        else
          let s := s.setBlock { b with retired := true }
          { s with
            heldArrivals := s.heldArrivals.filter fun a => !b.owns a.loc
            satNext := s.satNext.filter fun l => !b.owns l
            fibres := s.fibres.filter fun f => !mine f }.tokenMoves launch |>.reserve
    | _, _ => s)

/-! Completion (R278). -/

/-- The entry at which a walk has stopped is a leaf that breaks a rule (R278): no driver resolves it. -/
def State.leafMalformed (s : State) (level ea : Nat) : Bool :=
  let e := s.rd ea 8
  inDram ea 8 && decide (level < 4) && (fld e 1 1 == 1 || level == 0) && e % 2 == 1 &&
  !s.poison.contains (ea / 64) && !s.mismatch (ea / 64) && malformed s level (ea / 4096 * 4096) (ea % 4096 / 8) e
/-- DONEVAL is written at DONEADDR (R278); at a peer, its reply ends the launch (R287). -/
def State.writeDone (s : State) (l : Launch) : State :=
  if 2 ^ 57 ≤ l.doneaddr then s.completionFailed l
  else
    let r := s.lookup none noQuad l.asid l.doneaddr .write
    match r.2 with
    | .prot => r.1.completionFailed l
    | .flip | .busy => r.1.setLaunch { l with status := .completing .none }
    | .fault reason level ea =>
      if reason = 1 ∧ r.1.leafMalformed level ea then r.1.completionFailed l
      else
        let o := openFault r.1 0 l.asid l.doneaddr .write 4 reason level ea
        o.1.setLaunch { l with status := .completing o.2 }
    | .ok loc _ =>
      if r.1.unreachable loc then r.1.completionFailed l
      else if loc.isPeer then
        let t : State := { r.1 with nextId := r.1.nextId + 1 }
        t.setLaunch { l with status := .posted r.1.nextId }
      else
        let m := meetLocs r.1 true [(loc, 4)]
        if !m.2 then m.1.setLaunch { l with status := .completing .none }
        else (m.1.homeWrite loc (leBytes 4 l.doneval)).launchOver l

/-- LAUNCH_COMPLETE (R278): every block has been placed and has retired. -/
def execLaunchComplete (launch : Nat) (s : State) : Result :=
  .next (match s.launch? launch with
    | none => s
    | some l =>
      let retired := l.placed == l.blocks && (s.blocks.filter fun b => b.launch == launch).all (·.retired)
      match l.status with
      | .running => if !retired then s else if l.doneaddr = 0 then s.launchOver l else s.writeDone l
      | .completing .none => s.writeDone l
      | .completing (.fault _ _) | .completing (.faultFull _) | .posted _ | .complete => s)

end Sys2Proof.Machine
end

