-- ==== Sys2Proof/Machine/Translate.lean ====
section
/-! DEFINITION. The on-die translator (R273): a native body is its Craco body instruction for instruction. -/

namespace Sys2Proof.Machine

/-! One instruction and its translation. -/

/-- The 32-bit form that a 16-bit form is short for (R30); the operands of a 16-bit form are d and a, in this order. -/
def wideForm : Instr → Instr
  | .mov16 i a d => if i then .movImm noGuard (a.setWidth 13) (wide5 d) else .mov noGuard (wide5 a) (wide5 d)
  | .addI3216 i a d => if i then .addI32Imm noGuard (a.setWidth 9) (wide5 d) else .addI32 noGuard (wide5 a) (wide5 d) (wide5 d)
  | .subI3216 i a d => if i then .subI32Imm noGuard (a.setWidth 9) (wide5 d) else .subI32 noGuard (wide5 a) (wide5 d) (wide5 d)
  | .mulLoI3216 i a d =>
    if i then .mulLoI32Imm noGuard (a.setWidth 9) (wide5 d) else .mulLoI32 noGuard (wide5 a) (wide5 d) (wide5 d)
  | .andB3216 i a d => if i then .andB32Imm noGuard (a.setWidth 9) (wide5 d) else .andB32 noGuard (wide5 a) (wide5 d) (wide5 d)
  | .orB3216 i a d => if i then .orB32Imm noGuard (a.setWidth 9) (wide5 d) else .orB32 noGuard (wide5 a) (wide5 d) (wide5 d)
  | .xorB3216 i a d => if i then .xorB32Imm noGuard (a.setWidth 9) (wide5 d) else .xorB32 noGuard (wide5 a) (wide5 d) (wide5 d)
  | .shlB3216 i a d => if i then .shlB32Imm noGuard (a.setWidth 9) (wide5 d) else .shlB32 noGuard (wide5 a) (wide5 d) (wide5 d)
  | .shrN3216 i a d => if i then .shrN32Imm noGuard (a.setWidth 9) (wide5 d) else .shrN32 noGuard (wide5 a) (wide5 d) (wide5 d)
  | .shrI3216 i a d => if i then .shrI32Imm noGuard (a.setWidth 9) (wide5 d) else .shrI32 noGuard (wide5 a) (wide5 d) (wide5 d)
  | .minI3216 i a d => if i then .minI32Imm noGuard (a.setWidth 9) (wide5 d) else .minI32 noGuard (wide5 a) (wide5 d) (wide5 d)
  | .maxI3216 i a d => if i then .maxI32Imm noGuard (a.setWidth 9) (wide5 d) else .maxI32 noGuard (wide5 a) (wide5 d) (wide5 d)
  | .faddF3216 i a d =>
    if i then .faddF32Imm noGuard (a.setWidth 9) (wide5 d) else .faddF32 noGuard (wide5 a) (wide5 d) (wide5 d)
  | .fmulF3216 i a d =>
    if i then .fmulF32Imm noGuard (a.setWidth 9) (wide5 d) else .fmulF32 noGuard (wide5 a) (wide5 d) (wide5 d)
  | .fmaxF3216 i a d =>
    if i then .fmaxF32Imm noGuard (a.setWidth 9) (wide5 d) else .fmaxF32 noGuard (wide5 a) (wide5 d) (wide5 d)
  | .haddH216 i a d => if i then .haddH2Imm noGuard (a.setWidth 9) (wide5 d) else .haddH2 noGuard (wide5 a) (wide5 d) (wide5 d)
  | i => i

/-- The addresses that an instruction at an address names: its targets. -/
def targetsOf (va : Nat) : Instr → List Nat
  | .bra _ off | .call _ off | .tretLabel _ off => [targetE va none off]
  | .ext v (.bra _ off) | .ext v (.call _ off) | .ext v (.tretLabel _ off) => [targetE va (some v) off]
  | .forkC _ off _ _ => [targetF va none off]
  | .ext v (.forkC _ off _ _) => [targetF va (some v) off]
  | .bsel _ cs => cs.map fun c => (((va : Int) + 2 * c.off.toInt) % (2 ^ 57 : Int)).toNat
  | _ => []
/-- The instruction with its targets left out. -/
def untargeted : Instr → Instr
  | .bra h _ => .bra h 0
  | .call h _ => .call h 0
  | .tretLabel h _ => .tretLabel h 0
  | .forkC h _ n k => .forkC h 0 n k
  | .ext _ (.bra h _) => .ext 0 (.bra h 0)
  | .ext _ (.call h _) => .ext 0 (.call h 0)
  | .ext _ (.tretLabel h _) => .ext 0 (.tretLabel h 0)
  | .ext _ (.forkC h _ n k) => .ext 0 (.forkC h 0 n k)
  | .bsel st cs => .bsel st (cs.map fun c => { c with off := 0 })
  | i => i
/-- The bytes of an instruction with its stall field 0: bits 2:1 of the word that bears it (R25, R29, R31). -/
def unstalled (i : Instr) : List Byte :=
  let at' := match i with
    | .ext _ _ => 4
    | _ => 0
  let bs := encode i
  bs.set at' (bs.getD at' 0 &&& 0xF9)
/-- The native instruction j is the Craco instruction i: only its stall field and its length may differ (R273). -/
def translates (i j : Instr) : Bool := unstalled (untargeted (wideForm j)) == unstalled (untargeted i)

/-- An instruction after which the next one in memory may be executed. -/
def runsOn (i : Instr) : Bool :=
  guardOf i != 0 || match i with
    | .exit _ | .done _ _ | .doneR _ | .ret _ | .bra _ _ | .ext _ (.bra _ _) | .braR _ _ | .tret _ | .tretLabel _ _ => false
    | _ => true

/-- Two bodies, instruction by instruction from pairs of addresses on, along every path that the instructions name: the pairs
that stand for one another, or none where they differ. -/
def State.lockstep (s : State) (f : Fibre) : Nat → List (Nat × Nat) → List (Nat × Nat) → Option (List (Nat × Nat))
  | 0, _, _ => none
  | _, seen, [] => some seen
  | n + 1, seen, (c, v) :: todo =>
    if seen.contains (c, v) then s.lockstep f n seen todo
    else if seen.any fun p => p.1 == c || p.2 == v then none
    else match s.nextAt f c, s.nextAt f v with
      | some i, some j =>
        if translates i j && (targetsOf c i).length == (targetsOf v j).length then
          s.lockstep f n ((c, v) :: seen)
            ((if runsOn i then [(c + i.size, v + j.size)] else []) ++ (targetsOf c i).zip (targetsOf v j) ++ todo)
        else none
      | none, none => s.lockstep f n ((c, v) :: seen) todo
      | _, _ => none

/-- The pairs of addresses of a body with its vector and its safe points, if it is a translation of the kernel's Craco body. -/
def State.translation (s : State) (f : Fibre) (k : Kernel) (entry vector : Nat) (points : List (Nat × Nat)) :
    Option (List (Nat × Nat)) :=
  let places := points.map fun p => (s.findSafept f p.1 65536 k.craco).map fun c => (c, p.2)
  if places.all (·.isSome) && (k.cvec == 0) == (vector == 0) then
    s.lockstep f 65536 [] ((k.craco, entry) :: (if k.cvec = 0 then [] else [(k.cvec, vector)]) ++ places.filterMap id)
  else none
/-- The addresses after the instructions of pairs: where a loop's body may end (R100). -/
def State.endsOf (s : State) (f : Fibre) (pairs : List (Nat × Nat)) : List (Nat × Nat) :=
  pairs.filterMap fun p => match s.nextAt f p.1, s.nextAt f p.2 with
    | some i, some j => some (p.1 + i.size, p.2 + j.size)
    | _, _ => none

/-! The event. -/

/-- Bytes that the bodies of an address space take up in its translation cache. -/
def State.xcacheUsed (s : State) (asid : Nat) : Nat := ((s.xcache.filter fun x => x.asid == asid).map (·.bytes)).foldl (· + ·) 0
/-- A fibre that runs a kernel on its Craco body, and its launch. -/
def State.runsCraco (s : State) (kdesc asid : Nat) (f : Fibre) : Option (Fibre × Launch) :=
  if f.craco ∧ f.status = .resident then
    (s.launches.find? fun l => l.id == f.launch && l.craco && l.kdesc == kdesc && l.asid == asid && l.status == .running).map (f, ·)
  else none
/-- A translated body is published, where the cache has room and it is the first of its key. -/
def State.publish (s : State) (kdesc a entry vector : Nat) (points : List (Nat × Nat)) (r : Fibre × Launch) : State :=
  let bytes := (Config.bodyBytes kdesc).toNat
  if s.ctxBad a || s.ctxXcache a = 0 || decide (s.ctxXsize a < s.xcacheUsed a + bytes) ||
      (s.xcache.any fun x => x.kdesc == kdesc && x.asid == a && x.sig == s.sig) then s
  else match s.translation r.1 r.2.kern entry vector points with
    | some m => { s with xcache := s.xcache ++ [⟨kdesc, a, s.sig, entry, vector, points, m, s.endsOf r.1 m, bytes⟩] }
    | none => s
/-- TRANSLATION_PUBLISH (R273): the body for a kernel that runs on its Craco body becomes the one to swap to. Where the
translator has put it, and how many bytes it takes, come with the event and from Config (DESIGN CHOICE, log 77); a body that is
no translation, a full cache, and a context entry that cannot be read, publish nothing. -/
def execTranslationPublish (kdesc : Nat) (asid : BitVec 8) (entry vector : Nat) (points : List (Nat × Nat)) (s : State) :
    Result :=
  .next (match s.fibres.findSome? (s.runsCraco kdesc asid.toNat) with
    | none => s
    | some r => match s.ctxRead 10 asid.toNat with
      | .ok _ t => t.publish kdesc asid.toNat entry vector points r
      | .wait t | .fail t => t)

end Sys2Proof.Machine
end

