-- ==== Sys2Proof/Machine/Graph.lean ====
section
/-! DEFINITION. Task graphs (R275 to R278): registration and checks, kicks and patches, nodes and their completion. -/

namespace Sys2Proof.Machine

open Sys2Proof.Dec (leNat leBytes fld)

/-! Graph objects (R275). -/

/-- A node of the node table. -/
structure GNode where
  kind : Nat
  npred : Nat
  nsucc : Nat
  nfalse : Nat
  succ : List Nat
  /-- Physical address of its body. -/
  body : Nat
  reserved : Bool

def State.nnodes (s : State) (pa : Nat) : Nat := s.rd pa 4
def State.gnode (s : State) (pa n : Nat) : GNode :=
  let a := pa + 64 + 32 * n
  let nsucc := s.rd (a + 4) 2
  let list := pa + s.rd (a + 8) 8
  { kind := s.rd a 1, npred := s.rd (a + 2) 2, nsucc := nsucc, nfalse := s.rd (a + 6) 2
    succ := (List.range nsucc).map fun j => s.rd (list + 2 * j) 2, body := pa + s.rd (a + 16) 8
    reserved := s.rd (a + 1) 1 == 0 && s.rd (a + 24) 8 == 0 }
def State.gnodes (s : State) (pa : Nat) : List GNode := (List.range (s.nnodes pa)).map (s.gnode pa)

/-- Bytes of a node's body. -/
def bodySize (kind : Nat) : Nat :=
  match kind with
  | 0 => 256
  | 1 => 32
  | _ => 16
/-- Predecessors of a node, an edge each. -/
def preds (ns : List GNode) (n : Nat) : List Nat :=
  (List.range ns.length).flatMap fun m => match ns[m]? with
    | some g => (g.succ.filter (· = n)).map fun _ => m
    | none => []

/-- The nodes before a node, from a list of them on, after that many rounds. -/
def ancestors (ns : List GNode) : Nat → List Nat → List Nat
  | 0, ms => ms
  | k + 1, ms =>
    let more := (ms.flatMap (preds ns)).eraseDups.filter fun m => !ms.contains m
    if more.isEmpty then ms else ancestors ns k (ms ++ more)

/-- Nodes reached in an order that respects the edges, after that many rounds. -/
def sorted (ns : List GNode) : Nat → List Nat → List Nat
  | 0, ds => ds
  | k + 1, ds =>
    let more := (List.range ns.length).filter fun n => !ds.contains n && (preds ns n).all ds.contains
    if more.isEmpty then ds else sorted ns k (ds ++ more)

/-- The check at GRAPHREG (R275): counts agree with the edges, reserved fields are 0, no cycle. -/
def State.graphOk (s : State) (pa : Nat) : Bool :=
  let n := s.nnodes pa
  let ns := s.gnodes pa
  pa % 64 == 0 && inDram pa 64 && decide (1 ≤ n) && decide (n ≤ 65535) && s.rd (pa + 4) 4 == 0 &&
  s.rd (pa + 24) 40 == 0 && inDram pa (64 + 32 * n) &&
  ns.all (fun g => decide (g.kind ≤ 2) && g.reserved && decide (g.nfalse ≤ g.nsucc) && (g.kind == 2 || g.nfalse == 0) &&
    g.succ.all (fun m => decide (m < n)) && inDram g.body (bodySize g.kind)) &&
  (List.range n).all (fun i => match ns[i]? with
    | some g => (preds ns i).length == g.npred
    | none => false) &&
  (sorted ns n []).length == n

/-- The bytes of a graph object, for the host's copies of them (R260). -/
def State.graphSpans (s : State) (pa : Nat) : List (Loc × Nat) :=
  (.dram pa, 64 + 32 * s.nnodes pa) ::
  (List.range (s.nnodes pa)).flatMap fun i =>
    let g := s.gnode pa i
    [(Loc.dram (pa + s.rd (pa + 64 + 32 * i + 8) 8), 2 * g.nsucc), (.dram g.body, bodySize g.kind)]
/-- Its header, node table and lists of successors: what the boot processor reads again at each completion. -/
def State.tableSpans (s : State) (pa : Nat) : List (Loc × Nat) :=
  (.dram pa, 64 + 32 * s.nnodes pa) ::
  (List.range (s.nnodes pa)).map fun i => (Loc.dram (pa + s.rd (pa + 64 + 32 * i + 8) 8), 2 * (s.gnode pa i).nsucc)
/-- Work on a graph object once the host's copies and every plaza are out of its way: the boot processor's accesses are served
like every device access (R260). -/
def State.onSpans (s : State) (writes : Bool) (spans : List (Loc × Nat)) (k : State → State) : State :=
  let m := meetLocs s writes (spans.filter fun p => p.2 ≠ 0)
  if m.2 then k m.1 else m.1
/-- The boot processor's uncached reads of bytes that nothing stands in the way of (R217, R233): whether each sector holds good
data (R234). -/
def State.readSpans (s : State) (spans : List (Loc × Nat)) : State × Bool :=
  (spans.filter fun p => p.2 ≠ 0).foldl (fun r p =>
    let c := checkRead (r.1.peekAll p.1 p.2) p.1 p.2 10
    (c.1, r.2 && c.2.isEmpty)) (s, true)
/-- Work on bytes that the boot processor reads, with whether they are good. -/
def State.onReads (s : State) (spans : List (Loc × Nat)) (k : State → Bool → State) : State :=
  s.onSpans false spans fun s =>
    let r := s.readSpans spans
    k r.1 r.2

def regIndex (w : DWord) : Nat := fld w.toNat 52 12
def regAt (w : DWord) : Nat := w.toNat % 2 ^ 52
/-- The registration of an index is settled: another graph object, or none, and nothing waits. -/
def State.setGraph (s : State) (index : Nat) (g : Option Graph) : State :=
  { s with
    graphs := g.toList ++ s.graphs.filter fun (h : Graph) => h.index != index
    graphRegs := s.graphRegs.filter fun v => regIndex v != index }
/-- GRAPHREG (R258, R275). The write stands until the object can be read, and no kick of its index starts before. An object
with a poisoned sector fails the check (DESIGN CHOICE, log 114). -/
def execGraphreg (w : DWord) (s : State) : Result :=
  .next (
    let index := regIndex w
    let pa := regAt w
    if s.bar.status ≠ 5 then s
    else if pa = 0 then s.setGraph index none
    else if !inDram pa 64 then s.setGraph index (some ⟨index, pa, true⟩)
    else
      let s := if s.graphRegs.contains w then s
        else { s with graphRegs := (s.graphRegs.filter fun v => regIndex v != index) ++ [w] }
      s.onReads (s.graphSpans pa) fun s whole => s.setGraph index (some ⟨index, pa, !(whole && s.graphOk pa)⟩))

/-! The end of a graph (R276 to R278). -/

/-- The name under which the accesses that a node makes itself are recorded (DEDUCED, log 99). -/
def nodeName (replay node : Nat) : Nat := 2 ^ 65 + replay * 2 ^ 16 + node
/-- The accesses of the nodes before a node happen before it (R229, R278). -/
def nodeBefore (ns : List GNode) (replay n bound : Nat) : List (Nat × Nat) :=
  (ancestors ns ns.length (preds ns n).eraseDups).map fun m => (nodeName replay m, bound)

/-- FAULT of the completion record: the node, and the code. -/
def faultWord (stopped : Option (Nat × Nat)) : Nat :=
  match stopped with
  | none => 0
  | some (node, code) => node * 2 ^ 48 + code

/-- Write the completion record of a header that has been read: DONEVAL, then FAULT. -/
def State.doneRecord (s : State) (pa : Nat) (stopped : Option (Nat × Nat)) (k : State → State) : State :=
  let done := s.rd (pa + 8) 8
  let bs := leBytes 8 (s.rd (pa + 16) 8) ++ leBytes 8 (faultWord stopped)
  if inDram done 16 then s.onSpans true [(.dram done, 16)] fun s => k (s.homeWrite (.dram done) bs)
  else if 2 ^ 39 ≤ done then s.onSpans true [(.host done, 16)] fun s => k (s.homeWrite (.host done) bs)
  else k (makeError s 0x05 10 0 done)
/-- Write a graph's completion record (R275, R278), once its header is read. A header that cannot be read names no address: an
error record of kind 0x05 for address 0 (DESIGN CHOICE, log 114). -/
def State.graphRecord (s : State) (pa : Nat) (stopped : Option (Nat × Nat)) (k : State → State) : State :=
  if !inDram pa 64 then k (makeError s 0x05 10 0 0)
  else s.onReads [(.dram pa, 64)] fun s whole =>
    if whole then s.doneRecord pa stopped k else k (makeError s 0x05 10 0 0)

/-- The completion record of a kick that has ended without a replay is written once its line is free. -/
def State.recordEnd (s : State) (e : Nat × Nat) : State :=
  s.graphRecord e.1 (some (0xFFFF, e.2)) fun t => { t with kickEnds := t.kickEnds.erase e }
def State.recordEnds (s : State) : State := s.kickEnds.foldl State.recordEnd s
/-- A kick ends at once (R275, R276). -/
def State.endKick (s : State) (g : Graph) (code : Nat) : State :=
  { s with kickEnds := s.kickEnds ++ [(g.pa, code)] }.recordEnds

/-! Nodes. -/

def State.replay? (s : State) (graph : Nat) : Option Replay := s.replays.find? fun r => r.graph == graph
def State.setReplay (s : State) (r : Replay) : State :=
  { s with replays := s.replays.map fun (q : Replay) => if q.id = r.id then r else q }
def Replay.node (r : Replay) (n : Nat) : NodeState := r.nodes.getD n .skipped
def Replay.setNode (r : Replay) (n : Nat) (v : NodeState) : Replay := { r with nodes := r.nodes.set n v }

/-- A copy node's checks (R124, R137): the code that stops the graph, if any. -/
def State.copyNodeBad (s : State) (src dst len asid : Nat) : Option Nat :=
  if src % 4 ≠ 0 ∨ dst % 4 ≠ 0 ∨ len % 4 ≠ 0 then some Cause.align.code
  else if 2 ^ 57 < src + len ∨ 2 ^ 57 < dst + len then some Cause.prot.code
  else if s.inFrames asid src len ∨ s.inFrames asid dst len then some Cause.prot.code
  else none

/-- A copy node's copy: any engine makes it, in no queue of a core (R276). -/
def nodeCopy (id src dst len asid replay node : Nat) (before : List (Nat × Nat)) : Copy where
  id := id
  fib := nodeName replay node
  launch := nodeName replay node
  block := 0
  set := none
  core := 0
  queue := id
  asid := asid
  iaddr := 0
  insn := 0
  src := .global src
  dst := .global dst
  len := len
  landed := 0
  sent := 0
  buf := []
  bar := none
  barAddr := 0
  barGlobal := false
  barScope := .dev
  wins := []
  hold := .none
  failed := false
  race := none
  node := some (replay, node)
  before := before

/-- A node starts (R276, R277), after the nodes before it (R278). A conditional reads its predicate at its NODE_COMPLETE; a launch whose descriptor cannot be
read yet leaves its node waiting (R260, R261). A poisoned copy body stops the graph with INTEGRITY (DESIGN CHOICE, log 114). -/
def State.startNode (s : State) (r : Replay) (ns : List GNode) (g : GNode) (n : Nat) : State :=
  let r := r.setNode n .running
  let before := nodeBefore ns r.id n s.nextId
  match g.kind with
  | 0 =>
    let c := s.readSpans [(.dram g.body, 256)]
    (match if c.2 then c.1.checkLaunch (memBytes c.1.mem g.body 256) (some (r.id, n)) before else .refuse 0x40 c.1 with
    | .refuse code t => (t.setReplay (r.setNode n .completed)).stopReplay (r.id, n) code
    | .wait t => t
    | .ok l t => (t.setReplay r).queueLaunch l)
  | 1 =>
    let c := s.readSpans [(.dram g.body, 32)]
    let s := c.1
    let src := s.rd g.body 8
    let dst := s.rd (g.body + 8) 8
    let len := s.rd (g.body + 16) 8
    let asid := s.rd (g.body + 24) 1
    (match if c.2 then s.copyNodeBad src dst len asid else some Cause.integrity.code with
    | some code => (s.setReplay (r.setNode n .completed)).stopReplay (r.id, n) code
    | none => { s.setReplay r with
        copies := s.copies ++ (if len = 0 then [] else [nodeCopy s.nextId src dst len asid r.id n before])
        nextId := s.nextId + 2 })
  | _ => s.setReplay r

/-- A node whose predecessors are all over: skipped when all were skipped, else started (R277). -/
def State.release1 (s : State) (pa graph n : Nat) : State :=
  match s.replay? graph with
  | none => s
  | some r =>
    let ns := s.gnodes pa
    let ps := preds ns n
    let past (m : Nat) : Bool := r.node m == .completed || r.node m == .skipped
    if r.stopped.isSome || r.node n != .waiting || !ps.all past then s
    else if !ps.isEmpty && ps.all fun m => r.node m == .skipped then s.setReplay (r.setNode n .skipped)
    else s.startNode r ns (s.gnode pa n) n

/-- Release every node that can start, round by round, since a skipped node releases its successors. -/
def State.releaseAll (s : State) (pa graph : Nat) : Nat → State
  | 0 => s
  | k + 1 =>
    let t := (List.range (s.nnodes pa)).foldl (fun t n => t.release1 pa graph n) s
    match s.replay? graph, t.replay? graph with
    | some a, some b => if a.nodes = b.nodes then t else t.releaseAll pa graph k
    | _, _ => t

/-! Kicks (R276). -/

/-- One entry of a patch table: node, offset, value. -/
def State.patchEntry (s : State) (patch j : Nat) : Nat × Nat × Nat :=
  let a := patch + 8 + 16 * j
  (s.rd a 4, s.rd (a + 4) 4, s.rd (a + 8) 8)
def State.patchOk (s : State) (pa patch : Nat) : Bool :=
  inDram patch 8 && decide (s.rd patch 4 ≤ 4096) && s.rd (patch + 4) 4 == 0 && inDram patch (8 + 16 * s.rd patch 4) &&
  (List.range (s.rd patch 4)).all fun j =>
    let e := s.patchEntry patch j
    decide (e.1 < s.nnodes pa) && e.2.1 % 8 == 0 && decide (e.2.1 < bodySize (s.gnode pa e.1).kind)
/-- Apply the entries in order. -/
def State.applyPatch (s : State) (pa patch : Nat) : State :=
  (List.range (s.rd patch 4)).foldl (fun t j =>
    let e := t.patchEntry patch j
    t.homeWrite (.dram ((t.gnode pa e.1).body + e.2.1)) (leBytes 8 e.2.2)) s

/-- Start a replay, or end it at once: the patch, then the roots. A poisoned patch table or object ends it with INTEGRITY
(DESIGN CHOICE, log 114). -/
def State.startReplay (s : State) (g : Graph) (patch : Nat) (whole : Bool) : State :=
  if g.bad then s.endKick g 0x46
  else if !whole then s.endKick g Cause.integrity.code
  else if patch ≠ 0 && !s.patchOk g.pa patch then s.endKick g 0x48
  else
    let s := if patch = 0 then s else s.applyPatch g.pa patch
    let n := s.nnodes g.pa
    let r : Replay := ⟨s.nextId, g.index, g.pa, List.replicate n .waiting, none⟩
    { s with replays := s.replays ++ [r], nextId := s.nextId + 1 }.releaseAll g.pa g.index (n + 1)

def kickGraph (w : DWord) : Nat := fld w.toNat 52 12
def kickPatch (w : DWord) : Nat := w.toNat % 2 ^ 52 / 8 * 8
def State.graph? (s : State) (index : Nat) : Option Graph := s.graphs.find? fun g => g.index == index

/-- A write of GRAPHREG for the index that waits for the bytes of its object. -/
def State.regWaits (s : State) (index : Nat) : Option DWord := s.graphRegs.find? fun v => regIndex v == index
/-- The graph that a kick of an index is of. -/
def State.kickOf (s : State) (index : Nat) : Option Graph :=
  match s.regWaits index with
  | some v => some ⟨index, regAt v, false⟩
  | none => s.graph? index
/-- The oldest kick of a graph that has no replay running starts, once its registration is settled. -/
def State.nextKick (s : State) (index : Nat) : State :=
  match s.graph? index, s.kicks.find? fun w => kickGraph w == index with
  | some g, some w =>
    if (s.replay? index).isSome || (s.regWaits index).isSome then s
    else
      let p := kickPatch w
      let table := if g.bad || p = 0 || !inDram p 8 then [] else [(Loc.dram p, 8 + 16 * min 4096 (s.rd p 4))]
      let object := if g.bad then [] else s.graphSpans g.pa
      s.onReads table fun s tableGood => s.onSpans (p ≠ 0) object fun s =>
        let r := s.readSpans object
        { r.1 with kicks := r.1.kicks.erase w }.startReplay g p (tableGood && r.2)
  | _, _ => s

/-- KICK (R276). A graph that is not registered has nothing to run. -/
def execKick (w : DWord) (s : State) : Result :=
  .next (match s.kickOf (kickGraph w) with
    | none => s
    | some g =>
      if s.bar.status ≠ 5 then s
      else if g.bad then s.endKick g 0x46
      else if 16 ≤ (s.kicks.filter fun v => kickGraph v == g.index).length then s.endKick g 0x47
      else { s with kicks := s.kicks ++ [w] }.nextKick g.index)

/-! Completion of nodes (R276 to R278). -/

/-- The outcome of a predicate's read. -/
inductive PredRead where
  | value (v : Nat) (s : State)
  | stop (code : Nat) (s : State)
  | wait (s : State)

/-- The read of a conditional's predicate: an acquire at device scope, registered (R277), after the nodes before it (R278). A
body or a predicate that is poisoned stops the graph with INTEGRITY (DESIGN CHOICE, log 114). -/
def State.readPredicate (s : State) (r : Replay) (node body : Nat) : PredRead :=
  let name := nodeName r.id node
  let c := s.readSpans [(.dram body, 16)]
  let s := c.1
  let va := s.rd body 8
  let asid := s.rd (body + 8) 1
  if !c.2 then .stop Cause.integrity.code s
  else if va % 4 ≠ 0 then .stop Cause.align.code s
  else if 2 ^ 57 ≤ va then .stop Cause.prot.code s
  else
    let x := s.lookup none noQuad asid va .read
    let s := x.1
    match x.2 with
    | .prot => .stop Cause.prot.code s
    | .fault _ _ _ => .stop Cause.page.code s
    | .flip | .busy => .wait s
    | .ok l _ =>
      if l.isPeer then (if s.unreachable l then .stop Cause.page.code s
        else let b := freeBytes s 4; .value (leNat b.1) b.2)
      else
        let m := meetLocs s false [(l, 4)]
        if !m.2 then .wait m.1
        else match m.1.register
            { fib := name, launch := name, block := 0, loc := l, size := 4, writes := false, sync := true, scope := .dev
              core := 0, owner := m.1.nextId, before := nodeBefore (s.gnodes r.pa) r.id node m.1.nextId } with
          | .race _ => .stop Cause.race.code m.1
          | .full => .wait m.1
          | .ok t => match readLocs { t with nextId := t.nextId + 1 } 10 [(l, 4)] with
            | (t, some bs) => .value (leNat bs) t
            | (t, none) => .stop Cause.integrity.code t

/-- The node's own work is over: its launch is complete, or its copy has left its queue. -/
def State.nodeOver (s : State) (r : Replay) (kind n : Nat) : Bool :=
  match kind with
  | 0 => s.launches.all fun l => l.node != some (r.id, n) || l.status == .complete
  | 1 => s.copies.all fun c => c.node != some (r.id, n)
  | _ => true

/-- Successors that a predicate skips (R277). -/
def GNode.skips (g : GNode) (v : Nat) : List Nat :=
  if v ≠ 0 then g.succ.drop (g.nsucc - g.nfalse) else g.succ.take (g.nsucc - g.nfalse)

/-- A node completes; every node that can start does. -/
def State.nodeDone (s : State) (pa : Nat) (r : Replay) (n : Nat) (skip : List Nat) : State :=
  let r := skip.foldl (fun r m => if r.node m = .waiting then r.setNode m .skipped else r) (r.setNode n .completed)
  (s.setReplay r).releaseAll pa r.graph (s.nnodes pa + 1)

/-- No node of the replay is running, and none will start. -/
def Replay.settled (r : Replay) : Bool :=
  r.nodes.all fun v => v == .completed || v == .skipped || (v == .waiting && r.stopped.isSome)
/-- A graph completes: its records close, its completion record is written, its next kick starts (R276, R278). -/
def State.graphEnds (s : State) (index : Nat) : State :=
  match s.replay? index with
  | none => s
  | some r =>
    if !r.settled then s
    else s.graphRecord r.pa r.stopped fun s =>
      let s := s.closeRecs fun c => decide (nodeName r.id 0 ≤ c.fib) && decide (c.fib < nodeName (r.id + 1) 0)
      { s with replays := s.replays.filter fun q => q.id != r.id }.nextKick index

/-- The table of a replay is poisoned: the graph stops with INTEGRITY, and a running node whose work is over completes
(DESIGN CHOICE, log 114). -/
def State.tableLost (s : State) (r : Replay) (node : Nat) : State :=
  let idle := [0, 1].all fun kind => s.nodeOver r kind node
  let r := if r.node node == .running && idle then r.setNode node .completed else r
  ((s.setReplay r).stopReplay (r.id, 0xFFFF) Cause.integrity.code).graphEnds r.graph

/-- NODE_COMPLETE (R276, R277): a running node whose work is over completes. The graph object is read as the boot processor
goes on, after the host's copies of it (R260). -/
def execNodeComplete (graph node : Nat) (s : State) : Result :=
  .next (
    let s := s.recordEnds
    match s.replay? graph with
    | none => s.nextKick graph
    | some r => s.onSpans false (s.graphSpans r.pa) fun s => s.onReads (s.tableSpans r.pa) fun s whole =>
      let d := s.gnode r.pa node
      if !whole then s.tableLost r node
      else if r.node node ≠ .running ∨ !s.nodeOver r d.kind node then (s.releaseAll r.pa graph (s.nnodes r.pa + 1)).graphEnds graph
      else if d.kind < 2 then (s.nodeDone r.pa r node []).graphEnds graph
      else match s.readPredicate r node d.body with
        | .wait t => t
        | .stop code t => ((t.setReplay (r.setNode node .completed)).stopReplay (r.id, node) code).graphEnds graph
        | .value v t => (t.nodeDone r.pa r node (d.skips v)).graphEnds graph)

end Sys2Proof.Machine
end

