-- ==== Sys2Proof/Machine/Preempt.lean ====
section
/-! DEFINITION. Pre-emption and restore of the blocks of an address space (R165, R166, R206). -/

namespace Sys2Proof.Machine

open Sys2Proof.Dec (leNat leBytes)

/-! The blocks that go together (R155, R165). -/

def Block.has (b : Block) (f : Fibre) : Bool := f.launch == b.launch && f.block == b.id
def Block.window (b : Block) (w : Window) : Bool := w.alloc == b.alloc && b.cores.contains w.core
/-- Two blocks are members of one sharing group. -/
def State.partners (s : State) (a b : Block) : Bool :=
  s.windows.any fun w => a.window w && s.windows.any fun v => v.group == w.group && b.window v
/-- Blocks of the list with every block that a group ties to them. -/
def State.tied (s : State) (all : List Block) : Nat → List Block → List Block
  | 0, bs => bs
  | n + 1, bs =>
    let more := all.filter fun b => !bs.contains b && bs.any fun a => s.partners a b
    if more.isEmpty then bs else s.tied all n (bs ++ more)
/-- The blocks that a command for an ASID names: those resident, or those saved. -/
def State.commanded (s : State) (asid : Nat) (saved : Bool) : List Block :=
  let all := s.blocks.filter fun b => !b.retired && b.saved == saved
  s.tied all all.length (all.filter fun b => match s.launch? b.launch with
    | some l => l.asid == asid
    | none => false)

/-! The save (R165). -/

/-- A request reaches a fibre: a blocked one has stopped at its wait, a `nap` ends early (R51, R160). -/
def Fibre.request (f : Fibre) : Fibre :=
  if f.preempt || f.status == .ended then f
  else match f.wait with
    | .none | .napOver => { f with preempt := true }
    | .nap => { f with preempt := true, wait := .napOver, waited := true }
    | _ => { f with preempt := true, stopped := f.status == .resident }
/-- The fibre stands still. -/
def Fibre.quiet (f : Fibre) : Bool :=
  match f.status with
  | .resident => f.stopped
  | .queued | .parked | .joinSaved | .saved | .ended => true
/-- Nothing of the block is under way: its counters are 0 and its allocations have every byte. -/
def State.drainedBlock (s : State) (b : Block) : Bool :=
  let fs := s.fibres.filter b.has
  let mine (u : Nat) := fs.any fun f => f.uid == u
  fs.all (fun f => f.quiet && f.outs.isEmpty && !(f.status == .resident && s.beatStands f)) &&
  !(s.accs.any fun a => mine a.fib) && !(s.copies.any fun c => c.launch == b.launch && c.block == b.id) &&
  !(s.mx.any fun e => e.launch == b.launch && e.block == b.id && e.tabled) && !s.reaching b

/-- Registers that are not live read 0 after a restore (R166). -/
def Fibre.masked (f : Fibre) : Vector Word 64 := .ofFn fun i => if f.live.getLsbD i.val then f.regs[i.val] else 0
/-- Recorded matrix faults become due at the fibre's first boundary (R202), after the deferred traps of its accesses, which no rule
puts in one order with them (DESIGN CHOICE, log 120). -/
def Fibre.dueFaults (f : Fibre) : Fibre := { f with deferred := f.deferred ++ f.mxFaults, mxFaults := [] }
/-- A fibre's context is kept, with its recorded faults due; one that was saved at its join already has the rest kept (R112). A
parked fibre, kept with its whole window, stays marked. A `cpy` that waits for its slot has queued nothing, and is checked anew. -/
def Fibre.save (f : Fibre) : Fibre :=
  match f.status with
  | .resident =>
    let g := f.flush.dueFaults
    { g with
      regs := g.masked, status := .saved, stopped := false, inst := none, dist := g.distNow
      wait := match g.wait with
        | .copySlot _ => .none
        | w => w }
  | .joinSaved => f.dueFaults
  | .parked => { f with status := .saved, stopped := true }
  | .queued | .saved | .ended => f

def Block.quads (b : Block) : List Nat := (b.cores.map coreQuad).eraseDups
/-- Live accumulator regions (R160, R206). -/
def State.tilesOf (s : State) (b : Block) : BitVec 8 :=
  (s.fibres.filter fun f => b.has f && f.status != .ended).foldl (fun m f => m ||| f.tiles) 0

/-- A quad's typed buffers, with the live regions of `cbuf`. -/
def State.quadBufs (s : State) (quad : Nat) (tiles : BitVec 8) : List Memory :=
  let part (b : Nat) := memPart s.tbMem (cbKey quad b 0) (cbKey quad (b + 1) 0)
  [part 0, part 1, (part 2).filter fun c => tiles.getLsbD (c.1 / 65536)]
def State.quadPlanes (s : State) (quad : Nat) : List (Memory × Option FmtCode) :=
  [0, 1].map fun p => (memPart s.planeMem (planeKey quad p 0 0) (planeKey quad (p + 1) 0 0),
    (s.latched.find? fun x => x.1 == 2 * quad + p).map (·.2))
def State.clearQuad (s : State) (quad : Nat) : State :=
  { s with
    tbMem := memDrop s.tbMem (cbKey quad 0 0) (cbKey (quad + 1) 0 0)
    planeMem := memDrop s.planeMem (planeKey quad 0 0 0) (planeKey (quad + 1) 0 0 0)
    latched := s.latched.filter fun x => x.1 / 2 != quad }

/-- The context header (R166). SLOTS counts the fibres of the core that holds most. -/
def State.ctxHeader (s : State) (b : Block) (l : Launch) (tiles : BitVec 8) : List Byte :=
  let fs := s.fibres.filter fun f => b.has f && (f.status == .resident || f.status == .parked)
  let slots := fs.foldl (fun n f => max n (fs.filter fun g => g.core == f.core).length) 0
  let depth := (s.fibres.filter b.has).foldl (fun n f => max n f.frames.length) 0
  leBytes 2 b.cores.length ++ leBytes 2 l.window ++ leBytes 4 slots ++ leBytes 1 depth ++ leBytes 1 tiles.toNat ++
  leBytes 2 s.sig ++ leBytes 4 l.kern.spad ++ (leBytes 4 Config.feat0.toNat ++ leBytes 12 0) ++
  leBytes 8 Config.partHash.toNat ++ leBytes 24 0

/-- The block's context is written, and its cores are free. A fibre that waits for a copy slot
or for a table entry has posted nothing yet, and issues again after the restore (DEDUCED, log 37). -/
def State.saveBlock (s : State) (b : Block) : State :=
  let rmask := match s.kernelOf b with
    | some k => k.rmask
    | none => 0
  let quads := if rmask = 0 then [] else b.quads
  let tiles := s.tilesOf b
  let lo (c : Nat) := spKey c b.alloc 0
  let kept : Block := { b with
    saved := true
    ctxSp := b.cores.map fun c => memPart s.spMem (lo c) (lo c + 2 ^ 18)
    ctxBufs := quads.flatMap fun q => s.quadBufs q tiles
    ctxPlanes := quads.flatMap s.quadPlanes
    ctxHeader := match s.launch? b.launch with
      | some l => s.ctxHeader b l tiles
      | none => [] }
  let s := quads.foldl State.clearQuad (s.setBlock kept)
  State.tlbSweep { s with
    spMem := b.cores.foldl (fun m c => memDrop m (lo c) (lo c + 2 ^ 18)) s.spMem
    mx := s.mx.filter fun e => e.tabled || !(e.launch == b.launch && e.block == b.id)
    fibres := s.fibres.map fun (f : Fibre) => if b.has f then f.save else f }

/-- PREEMPT_SAVE (R165): the request at first, and the save once every fibre has stopped and everything has drained. -/
def execPreemptSave (asid : BitVec 8) (s : State) : Result :=
  .next (
    let bs := s.commanded asid.toNat false
    let s := { s with fibres := s.fibres.map fun (f : Fibre) => if bs.any (·.has f) then f.request else f }
    if !bs.isEmpty && bs.all s.drainedBlock then bs.foldl State.saveBlock s else s)

/-! The restore (R166). -/

/-- Where a core of the gang, or a core on which a created fibre ran, goes. -/
def Block.newCore (b : Block) (cores : List Nat) (c : Nat) : Nat :=
  match b.cores.findIdx? (· == c) with
  | some k => cores.getD k 0
  | none => cores.headD 0
/-- Where a scratchpad location goes. -/
def Block.move (b : Block) (cores : List Nat) (l : Loc) : Loc :=
  match l with
  | .sp k => if b.owns l then .sp (spKey (b.newCore cores (k / 2 ^ 34)) b.alloc (k % 2 ^ 18)) else l
  | .dram _ | .host _ | .peer _ _ | .cb _ => l
def Wait.move (u : Loc → Loc) : Wait → Wait
  | .phase l p k => .phase (u l) p k
  | .room l n => .room (u l) n
  | w => w

/-- Whether a partition takes a context back (R166): it does; or 0x44, it lacks cores, slots or scratchpad; or 0x45, its
feature words differ. A header with a reserved byte that is not 0 is rejected with 0x44 (R6; DESIGN CHOICE, log 121). -/
inductive TakeBack where
  | yes | capacity | feature
  deriving DecidableEq, Repr
def State.takesBack (s : State) (b : Block) (cores : List Nat) : TakeBack :=
  match s.launch? b.launch with
  | none => .capacity
  | some l =>
    let die := coreDie (cores.headD 0)
    let mine := s.fibres.filter fun f => b.has f && f.status == .saved
    let live := (s.fibres.filter fun f => f.launch == l.id && (f.status == .resident || f.status == .parked)).length
    if !(leNat (b.ctxHeader.drop 40) == 0 && cores.length == fb b.ctxHeader 0 2 && s.gangOk l b.id die cores && decide (live + mine.length ≤ l.slotcap) &&
        (die == b.die || !(s.windows.any b.window)) &&
        cores.all fun c => s.coreTakes l c (mine.filter fun f => b.newCore cores f.core == c).length) then .capacity
    else if (b.ctxHeader.drop 16).take 16 ≠ leBytes 4 Config.feat0.toNat ++ leBytes 12 0 then .feature
    else .yes
/-- The body has to be chosen again: SIG or PART differs from this part's (R166). -/
def State.bodyDiffers (s : State) (b : Block) : Bool :=
  fb b.ctxHeader 10 2 ≠ s.sig || fb b.ctxHeader 32 8 ≠ Config.partHash.toNat

def putPart (m : Memory) (base : Nat) (part : Memory) : Memory := part.foldl (fun m c => memSet m (base + c.1) c.2) m
/-- Buffers and planes of a quad as they were saved. -/
def State.putQuad (s : State) (quad : Nat) (bufs : List Memory) (planes : List (Memory × Option FmtCode)) : State :=
  let s := s.clearQuad quad
  { s with
    tbMem := (List.range 3).foldl (fun m i => putPart m (cbKey quad i 0) (bufs.getD i [])) s.tbMem
    planeMem := (List.range 2).foldl (fun m p => putPart m (planeKey quad p 0 0) (planes.getD p ([], none)).1) s.planeMem
    latched := s.latched ++ (List.range 2).filterMap fun p => (planes.getD p ([], none)).2.map fun v => (2 * quad + p, v) }

/-- A saved fibre resumes; a parked one stays parked. It keeps its `%fid`, on whichever die it resumes: no rule says what
holds where a live fibre of its launch there has the same one (DESIGN CHOICE, log 79). -/
def Fibre.resume (f : Fibre) (b : Block) (cores : List Nat) (rebody : Bool) : Fibre :=
  let u := b.move cores
  let status : Status := match f.status with
    | .saved => if f.stopped then .parked else .resident
    | v => v
  { f with
    status := status, core := b.newCore cores f.core, preempt := false, stopped := false, fresh := !f.deferred.isEmpty
    set := f.set.map u, plzSet := f.plzSet.map u, wait := f.wait.move u
    rejoin := f.rejoin.map fun (p : Nat × Wait) => (p.1, p.2.move u), rebody := f.rebody || rebody }

def State.restoreBlock (s : State) (b : Block) (cores : List Nat) : State :=
  let u := b.move cores
  let back : Block := { b with
    saved := false, die := coreDie (cores.headD 0), cores := cores, ctxSp := [], ctxBufs := [], ctxPlanes := [], ctxHeader := [] }
  let rebody := s.bodyDiffers b
  let s := s.setBlock back
  let s := if b.ctxBufs.isEmpty then s
    else (List.range back.quads.length).foldl (fun t i =>
      t.putQuad (back.quads.getD i 0) ((b.ctxBufs.drop (3 * i)).take 3) ((b.ctxPlanes.drop (2 * i)).take 2)) s
  let slots := s.windows.filter b.window
  let s : State := { s with
    spMem := (List.range cores.length).foldl (fun m k =>
      putPart m (spKey (cores.getD k 0) b.alloc 0) (b.ctxSp.getD k [])) s.spMem
    fibres := s.fibres.map fun (f : Fibre) => if b.has f then f.resume b cores rebody else f
    plazas := s.plazas.map fun (p : Plaza) =>
      { p with members := p.members.map fun (m : PlzMember) => { m with set := u m.set } }
    windows := s.windows.map fun (w : Window) =>
      if b.window w then { w with set := u w.set, core := b.newCore cores w.core } else w
    heldArrivals := s.heldArrivals.map fun (a : HeldArrival) => { a with loc := u a.loc }
    satNext := s.satNext.map u
    away := s.away.map fun (m : Loc × DWord) => (u m.1, m.2)
    records := s.records.map fun (r : RegionRec) => if r.space ≠ 1 then r
      else match u (.sp (4 * r.word)) with
        | .sp k => { r with word := k / 4 }
        | .dram _ | .host _ | .peer _ _ | .cb _ => r }
  slots.foldl (fun t w => t.homeWrite (w.group.add (4 * w.n))
    (leBytes 4 (2 ^ 31 + 65536 * (b.newCore cores w.core % 256) + b.alloc))) s

/-- Restore block after block; the error code when one does not fit. -/
def State.restoreAll (s : State) : List (Block × List Nat) → Except Nat State
  | [] => .ok s
  | (b, cores) :: rest => match s.takesBack b cores with
    | .yes => (s.restoreBlock b cores).restoreAll rest
    | .capacity => .error 0x44
    | .feature => .error 0x45

/-- PREEMPT_RESTORE (R166): every saved block of the ASID goes to the gang of cores given for it, or the restore is
refused with 0x44 or 0x45, the contexts stay, and the plazas of their members abort (R302). -/
def execPreemptRestore (asid : BitVec 8) (place : List (List Nat)) (s : State) : Result :=
  .next (
    let bs := s.commanded asid.toNat true
    if bs.isEmpty then s
    else match if bs.length = place.length then s.restoreAll (bs.zip place) else .error 0x44 with
      | .ok t => t
      | .error code =>
        let tags := (s.fibres.filter fun f => f.tag != 0 && bs.any (·.has f)).map (·.tag)
        (tags.foldl (fun (t : State) h => t.causeAbort h 0x06) s).reply [.ofNat 8 code])

end Sys2Proof.Machine
end

