-- ==== Sys2Proof/Machine/Crypto.lean ====
section
/-! DEFINITION. The two algorithms that bring-up names: SHA-256 and ECDSA verification over P-256 (R265, R267, R268).
The manual names them and does not restate them; they are taken from their published standards (PRESUMED, log 13). -/

namespace Sys2Proof.Machine

open Sys2Proof.Dec (leNat leBytes)

/-! SHA-256. -/

def sha.k : List Word := [
  0x428a2f98, 0x71374491, 0xb5c0fbcf, 0xe9b5dba5, 0x3956c25b, 0x59f111f1, 0x923f82a4, 0xab1c5ed5] ++ [
  0xd807aa98, 0x12835b01, 0x243185be, 0x550c7dc3, 0x72be5d74, 0x80deb1fe, 0x9bdc06a7, 0xc19bf174] ++ [
  0xe49b69c1, 0xefbe4786, 0x0fc19dc6, 0x240ca1cc, 0x2de92c6f, 0x4a7484aa, 0x5cb0a9dc, 0x76f988da] ++ [
  0x983e5152, 0xa831c66d, 0xb00327c8, 0xbf597fc7, 0xc6e00bf3, 0xd5a79147, 0x06ca6351, 0x14292967] ++ [
  0x27b70a85, 0x2e1b2138, 0x4d2c6dfc, 0x53380d13, 0x650a7354, 0x766a0abb, 0x81c2c92e, 0x92722c85] ++ [
  0xa2bfe8a1, 0xa81a664b, 0xc24b8b70, 0xc76c51a3, 0xd192e819, 0xd6990624, 0xf40e3585, 0x106aa070] ++ [
  0x19a4c116, 0x1e376c08, 0x2748774c, 0x34b0bcb5, 0x391c0cb3, 0x4ed8aa4a, 0x5b9cca4f, 0x682e6ff3] ++ [
  0x748f82ee, 0x78a5636f, 0x84c87814, 0x8cc70208, 0x90befffa, 0xa4506ceb, 0xbef9a3f7, 0xc67178f2]
def sha.init : List Word :=
  [0x6a09e667, 0xbb67ae85, 0x3c6ef372, 0xa54ff53a, 0x510e527f, 0x9b05688c, 0x1f83d9ab, 0x5be0cd19]

/-- The schedule, newest word first: n more words. -/
def sha.extend : Nat → List Word → List Word
  | 0, w => w
  | n + 1, w =>
    let x := w.getD 14 0
    let y := w.getD 1 0
    let s0 := x.rotateRight 7 ^^^ x.rotateRight 18 ^^^ (x >>> 3)
    let s1 := y.rotateRight 17 ^^^ y.rotateRight 19 ^^^ (y >>> 10)
    sha.extend n ((w.getD 15 0 + s0 + w.getD 6 0 + s1) :: w)

/-- One round on the eight working words. -/
def sha.round (v : List Word) (kw : Word) : List Word :=
  match v with
  | [a, b, c, d, e, f, g, h] =>
    let t1 := h + (e.rotateRight 6 ^^^ e.rotateRight 11 ^^^ e.rotateRight 25) + ((e &&& f) ^^^ (~~~e &&& g)) + kw
    let t2 := (a.rotateRight 2 ^^^ a.rotateRight 13 ^^^ a.rotateRight 22) + ((a &&& b) ^^^ (a &&& c) ^^^ (b &&& c))
    [t1 + t2, a, b, c, d + t1, e, f, g]
  | v => v

/-- Big-endian words of bytes. -/
def beWords : List Byte → List Word
  | a :: b :: c :: d :: rest => (a ++ b ++ c ++ d) :: beWords rest
  | _ => []
def sha.block (v : List Word) (ws : List Word) : List Word :=
  let w := (sha.extend 48 ws.reverse).reverse
  let r := (List.zipWith (· + ·) sha.k w).foldl sha.round v
  List.zipWith (· + ·) v r
def sha.blocks : Nat → List Word → List Word → List Word
  | 0, v, _ => v
  | n + 1, v, ws => sha.blocks n (sha.block v (ws.take 16)) (ws.drop 16)

/-- The 32-byte digest, as its big-endian number. -/
def sha256 (bs : List Byte) : BitVec 256 :=
  let n := bs.length
  let padded := bs ++ (0x80 : Byte) :: List.replicate ((119 - n % 64) % 64) 0 ++ (leBytes 8 (8 * n)).reverse
  let v := sha.blocks (padded.length / 64) sha.init (beWords padded)
  .ofNat 256 (v.foldl (fun a w => a * 2 ^ 32 + w.toNat) 0)
/-- A digest's bytes in their order. -/
def digestBytes (d : BitVec 256) : List Byte := (leBytes 32 d.toNat).reverse

/-! ECDSA over P-256. -/

def p256.p : Nat := 0xffffffff00000001000000000000000000000000ffffffffffffffffffffffff
def p256.n : Nat := 0xffffffff00000000ffffffffffffffffbce6faada7179e84f3b9cac2fc632551
def p256.b : Nat := 0x5ac635d8aa3a93e7b3ebbd55769886bc651d06b0cc53b0f63bce3c3e27d2604b
def p256.g : Nat × Nat :=
  (0x6b17d1f2e12c4247f8bce6e563a440f277037d812deb33a0f4a13945d898c296,
   0x4fe342e2fe1a7f9b8ee7eb4a7c0f9e162bce33576b315ececbb6406837bf51f5)

/-- x^e mod m, by the low bits of e. -/
def powMod (m : Nat) : Nat → Nat → Nat → Nat
  | 0, _, _ => 1
  | k + 1, x, e =>
    let r := powMod m k (x * x % m) (e / 2)
    if e % 2 = 1 then x * r % m else r
def invMod (m x : Nat) : Nat := powMod m 256 (x % m) (m - 2)
def subMod (m a b : Nat) : Nat := (a + m - b % m) % m

/-- A point of the curve; none is the point at infinity. -/
abbrev Point := Option (Nat × Nat)
def addPoint (a b : Point) : Point :=
  let m := p256.p
  let third (l x1 y1 x2 : Nat) : Point :=
    let x := subMod m (subMod m (l * l % m) x1) x2
    some (x, subMod m (l * subMod m x1 x % m) y1)
  match a, b with
  | none, q => q
  | q, none => q
  | some (x1, y1), some (x2, y2) =>
    if x1 = x2 then
      if (y1 + y2) % m = 0 then none
      else third ((3 * x1 * x1 + (m - 3)) * invMod m (2 * y1) % m) x1 y1 x1
    else third (subMod m y2 y1 * invMod m (subMod m x2 x1) % m) x1 y1 x2
def mulPoint : Nat → Nat → Point → Point
  | 0, _, _ => none
  | k + 1, e, q =>
    let r := mulPoint k (e / 2) (addPoint q q)
    if e % 2 = 1 then addPoint q r else r
def onCurve (x y : Nat) : Bool :=
  let m := p256.p
  decide (x < m) && decide (y < m) && y * y % m == (x * x * x + (m - 3) * x + p256.b) % m

/-- The signature (r, s) of a digest holds under the key (x, y). -/
def ecdsaHolds (x y r s : Nat) (digest : BitVec 256) : Bool :=
  let n := p256.n
  if !onCurve x y || r = 0 || n ≤ r || s = 0 || n ≤ s then false
  else
    let w := invMod n s
    match addPoint (mulPoint 256 (digest.toNat * w % n) (some p256.g)) (mulPoint 256 (r * w % n) (some (x, y))) with
    | none => false
    | some (u, _) => u % n == r

end Sys2Proof.Machine
end

