-- ==== Sys2Proof/Machine/Boot.lean ====
section
/-! DEFINITION. Power-up, the boot states and their commands (R256, R264 to R268, R285), the trip and the clock (R282,
R283). -/

namespace Sys2Proof.Machine

open Sys2Proof.Dec (leNat leBytes fld)

def State.setStatus (s : State) (v : Nat) : State := { s with bar := { s.bar with status := v } }

/-- POWER_UP (R256, R264, R285): the host link trains in one mode and the device takes its id; the rest is the reset
state. Host memory is the host's. -/
def execPowerUp (shortReach : Bool) (dev : BitVec 12) (s : State) : Result :=
  .next { State.reset with
    shortReach := shortReach
    dev := dev
    hostMem := s.hostMem
    freeCount := s.freeCount
    agenda := s.agenda }

/-! The firmware image (R264, R265). -/

/-- Payload bytes that a header names: whether SIZE is within its limits is step 4's to say (R265). -/
def imageSize (hdr : List Byte) : Nat := fb hdr 8 4

/-- CMD LOAD (R264): the image at IMAGE is read. -/
def execCmdLoad (s : State) : Result :=
  .next (if s.bar.status ≠ 1 then s
    else
      let a := s.bar.image.toNat
      { s.setStatus 2 with image := memBytes s.hostMem a (256 + imageSize (memBytes s.hostMem a 256)) })

/-- Step 2 of R265: the digest of header bytes 0 to 95 and the payload. -/
def imageDigest (img : List Byte) : BitVec 256 := sha256 (img.take 96 ++ img.drop 256)

/-- The header fields (R265): SIZE, "1 to 8 MiB", is 1 MiB to 8 MiB (DEDUCED, log 80). -/
def headerOk (img : List Byte) : Bool :=
  let size := fb img 8 4
  fb img 0 4 == 0x57464C50 && decide (2 ^ 20 ≤ size) && decide (size ≤ 2 ^ 23) && decide (fb img 12 4 < size) &&
  fb img 24 8 == 0 && leNat ((img.drop 160).take 96) == 0

/-- The boot ROM's steps in order (R265), and the manufacturing record's check: the next STATUS. -/
def verifyStatus (img : List Byte) : Nat :=
  let key := (sha256 ((img.drop 32).take 64)).toNat
  if key ≠ Config.fusedKeyHash false ∧ key ≠ Config.fusedKeyHash true then 0x82
  else if !ecdsaHolds (fb img 32 32) (fb img 64 32) (fb img 96 32) (fb img 128 32) (imageDigest img) then 0x82
  else if fb img 16 8 < Config.fusedRollback then 0x83
  else if !headerOk img then 0x81
  else if !Config.recordSignatureHolds then 0x84
  else 3

/-- VERIFY (R265). -/
def execVerify (s : State) : Result :=
  .next (if s.bar.status ≠ 2 then s
    else
      let v := verifyStatus s.image
      if v = 3 then { s.setStatus 3 with imageHash := imageDigest s.image, recordHash := Config.recordHash }
      else s.setStatus v)

/-- The placement class of a die (R266): the lowest of at most 16 placements that enables no quad of the union. -/
def placementClass (die : Nat) (failed : BitVec 68) : Option Nat :=
  ((Config.placements die).take 16).findIdx? fun p => p &&& (failed ||| Config.fusedOff die) == 0

/-- SELFTEST (R266): the quads that failed, die by die. -/
def execSelftest (failed : List (BitVec 68)) (s : State) : Result :=
  .next (if s.bar.status ≠ 3 then s
    else
      let fs := [0, 1, 2, 3].map fun d => failed.getD d 0
      let cs := [0, 1, 2, 3].map fun d => placementClass d (fs.getD d 0)
      if cs.any (·.isNone) then s.setStatus 0x85
      else { s.setStatus 4 with failedQuads := fs, classes := cs.map fun c => c.getD 0 })

/-- TRAIN (R264, R285): the DRAM trains or bring-up fails, as it does when the host link is at fault then (DESIGN CHOICE, log 81);
the ports that trained, the paths that the flood of ids found, and the shortest one to each reachable peer. -/
def execTrain (ports : BitVec 16) (paths : List (Nat × Nat × Nat)) (s : State) : Result :=
  .next (if s.bar.status ≠ 4 then s
    else if !([0, 1, 2, 3].all Config.dramTrains) then s.setStatus 0x86
    else if Config.linkFaults s.freeCount then { s.setStatus 0x87 with freeCount := s.freeCount + 1 }
    else
      let t := { s.setStatus 5 with
        freeCount := s.freeCount + 1, ports := ports
        paths := paths.filter fun p => decide (p.1 < 4096) && p.1 != s.dev.toNat && decide (p.2.1 < 16) && ports.getLsbD p.2.1 }
      { t with routes := t.bestRoutes })

/-- CMD RESET (R264): from READY or a failure back to ROM; every launch stops and the DRAM's contents are lost. The
registers that the host writes keep their values. -/
def execCmdReset (s : State) : Result :=
  .next (if s.bar.status ≠ 5 && decide (s.bar.status < 0x81) then s
    else { State.reset with
      bar := { s.bar with status := 1, sync := 0, faultseq := [0, 0, 0, 0], errseq := [0, 0, 0, 0] }
      shortReach := s.shortReach
      dev := s.dev
      hostMem := s.hostMem
      freeCount := s.freeCount
      nextId := s.nextId
      agenda := s.agenda })

/-- Bytes 0 to 159 of the quote (R268). -/
def State.quoteBody (s : State) : List Byte :=
  leBytes 32 s.bar.nonce.toNat ++ digestBytes s.imageHash ++ digestBytes s.recordHash ++ leBytes 2 s.sig ++ leBytes 6 0 ++
  leBytes 8 Config.partHash.toNat ++ leBytes 4 Config.feat0.toNat ++ leBytes 12 0 ++ leBytes 32 0

/-- CMD QUOTE (R268): the running firmware writes the quote. -/
def execCmdQuote (s : State) : Result :=
  .next (if s.bar.status ≠ 5 then s
    else
      let body := s.quoteBody
      s.setBytes (.host s.bar.quoteaddr.toNat) (body ++ (Config.quoteSignature body ++ List.replicate 64 0).take 64))

/-- THERMAL_TRIP (R282): every die stops. -/
def execThermalTrip (s : State) : Result := .next (s.setStatus 0x88)

/-- CLOCK_STEP (R283): a 100 MHz step, within 900 to 1500 MHz. -/
def execClockStep (up : Bool) (s : State) : Result :=
  .next (
    let c := s.bar.clock.toNat
    let v := if up then (if c + 100 ≤ 1500 then c + 100 else c) else if 900 + 100 ≤ c then c - 100 else c
    { s with bar := { s.bar with clock := .ofNat 32 v } })

end Sys2Proof.Machine
end

