-- ==== Sys2Proof/Machine/Hostlink.lean ====
section
/-! DEFINITION. The host's side: BAR0 writes (R258), TLB invalidation (R224), bias flips (R260 to R262), the host's reads
and writes of device memory (R257, R260, R263), and host lines cached by the package (R255). -/

namespace Sys2Proof.Machine

open Sys2Proof.Dec (leNat leBytes fld)

/-! Registers. -/

/-- 64 bits of a wider register. -/
def setWord64 (old : BitVec 256) (n : Nat) (v : DWord) : BitVec 256 :=
  let m : BitVec 256 := (BitVec.allOnes 64).setWidth 256 <<< (64 * n)
  (old &&& ~~~m) ||| (v.setWidth 256 <<< (64 * n))

/-- The registers after a write at an offset (R258): only those whose write does nothing else. -/
def Regs.write (r : Regs) (off : Nat) (v : DWord) : Regs :=
  match off with
  | 0x010 => { r with image := v }
  | 0x030 => { r with ctxbase := v }
  | 0x038 => { r with faultq := v }
  | 0x050 => { r with tlbva := v }
  | 0x070 => { r with powercap := v.setWidth 32 }
  | 0x080 => { r with keypa := v }
  | 0x088 => { r with signpa := v }
  | 0x098 => { r with errq := v }
  | 0x0E0 => { r with errhead := r.errhead.set 0 v.toNat }
  | 0x0E8 => { r with errhead := r.errhead.set 1 v.toNat }
  | 0x0F0 => { r with errhead := r.errhead.set 2 v.toNat }
  | 0x0F8 => { r with errhead := r.errhead.set 3 v.toNat }
  | 0x200 => { r with nonce := setWord64 r.nonce 0 v }
  | 0x208 => { r with nonce := setWord64 r.nonce 1 v }
  | 0x210 => { r with nonce := setWord64 r.nonce 2 v }
  | 0x218 => { r with nonce := setWord64 r.nonce 3 v }
  | 0x220 => { r with quoteaddr := v }
  | _ => r

/-- REGISTER_WRITE (R258, R259): records that waited for FAULTQ are written once it is set. -/
def execRegisterWrite (off : Nat) (val : DWord) (s : State) : Result :=
  .next (
    let s := { s with bar := s.bar.write off val }
    if off = 0x038 then s.faults.foldl writeFault s else s)

/-- What a host read of a register returns (R258): reserved and write-only offsets read 0. -/
def Regs.read (r : Regs) (off : Nat) : DWord :=
  let class' := (off - 0x100) / 4
  if 0x0A0 ≤ off ∧ off < 0x0C0 ∧ off % 8 = 0 then .ofNat 64 (r.faultseq.getD ((off - 0x0A0) / 8) 0)
  else if 0x0C0 ≤ off ∧ off < 0x0E0 ∧ off % 8 = 0 then .ofNat 64 (r.errseq.getD ((off - 0x0C0) / 8) 0)
  else if 0x0E0 ≤ off ∧ off < 0x100 ∧ off % 8 = 0 then .ofNat 64 (r.errhead.getD ((off - 0x0E0) / 8) 0)
  else if 0x100 ≤ off ∧ off < 0x150 ∧ off % 4 = 0 then .ofNat 64 (r.softerr.getD class' 0)
  else if 0x200 ≤ off ∧ off < 0x220 ∧ off % 8 = 0 then r.nonce.extractLsb' (8 * (off - 0x200)) 64
  else match off with
    | 0x000 => Config.ident
    | 0x008 => .ofNat 64 r.status
    | 0x010 => r.image
    | 0x030 => r.ctxbase
    | 0x038 => r.faultq
    | 0x050 => r.tlbva
    | 0x060 => r.sync.setWidth 64
    | 0x070 => r.powercap.setWidth 64
    | 0x078 => r.clock.setWidth 64
    | 0x080 => r.keypa
    | 0x088 => r.signpa
    | 0x098 => r.errq
    | 0x220 => r.quoteaddr
    | _ => 0

/-! TLBINV (R224). -/

/-- Accesses of an address space in a virtual range. -/
def State.accsIn (s : State) (asid lo n : Nat) : List Nat :=
  (s.accs.filter fun a => (match a.loc with
    | .dram _ | .host _ | .peer _ _ => true
    | .sp _ | .cb _ => false) && decide (lo < a.addr + a.size) && decide (a.addr < lo + n) &&
    (match s.fib? a.fib with
      | some f => s.asidOf f == asid
      | none => false)).map (·.id)
/-- Copies whose barrier's address was translated in the range: its accesses are performed as the copy ends. -/
def State.copiesIn (s : State) (asid lo n : Nat) : List Nat :=
  ((s.copies ++ s.waitingCopies).filter fun c => c.barGlobal && c.asid == asid && decide (lo < c.barAddr + 32) && decide (c.barAddr < lo + n)).map (·.id)

/-- Passes of the tile fetch units that have translated a page of the range and still fetch. -/
def State.passesIn (s : State) (asid lo n : Nat) : List Nat :=
  (s.mx.filter fun e => e.asid == asid && (match e.stage with
    | .fetching todo => todo.any fun ps => ps.2.any fun p => decide (lo < p.1 + p.2.2) && decide (p.1 < lo + n)
    | .idle | .applying _ | .ended => false)).map (·.id)

/-- Object operations at a peer whose address was translated in the range, and that have no answer yet. The fibre keeps its operands
while it waits (R125). -/
def State.remotesIn (s : State) (asid lo n : Nat) : List Nat :=
  s.fibres.filterMap fun f => match f.inst.bind objOperand, f.wait with
    | some (space, a), .remote _ id _ _ _ =>
      if s.asidOf f == asid && decide (lo < objAddr f space a + 32) && decide (objAddr f space a < lo + n) then some id else none
    | _, _ => none

/-- TLBINV: the entries go at once; SYNC bit 0 stays set until the accesses that used them are over. -/
def execTlbinv (w : Word) (s : State) : Result :=
  .next (
    let asid := fld w.toNat 24 8
    let lo := s.bar.tlbva.toNat
    let n := 4096 * (w.toNat % 2 ^ 24 + 1)
    let stays (e : TlbEntry) : Bool := !(e.asid == asid && decide (lo < e.base + e.size) && decide (e.base < lo + n))
    let t := { s with
      tlb := s.tlb.filter stays
      l1tlb := s.l1tlb.filter fun p => stays p.2
      tlbBusy := s.tlbBusy ++ s.accsIn asid lo n ++ s.passesIn asid lo n ++ s.copiesIn asid lo n ++
        s.remotesIn asid lo n
      tlbInv := (asid, lo, n) :: s.tlbInv }
    if t.tlbBusy.isEmpty then t.tlbDone else t.syncBit 0 true)

/-! Bias (R260, R261). -/

def biasPage (w : DWord) : Nat := fld w.toNat 12 40
def biasCount (w : DWord) : Nat := w.toNat % 4096 + 1
/-- A command that names a page outside program-visible DRAM, or is written while another runs, is refused (R258). -/
def State.biasRefused (s : State) (w : DWord) : Bool :=
  !inDram (4096 * biasPage w) (4096 * biasCount w) || s.biasCmd.isSome
/-- The command is accepted. -/
def State.biasStart (s : State) (w : DWord) : State := ({ s with biasCmd := some w }.syncBit 1 true).syncBit 2 false
/-- Every page has flipped. -/
def State.biasEnd (s : State) : State := { s with biasCmd := none }.syncBit 1 false

/-- A sector in a command's pages. -/
def biasHas (w : DWord) (sector : Nat) : Bool :=
  decide (biasPage w ≤ sector / 64) && decide (sector / 64 < biasPage w + biasCount w)

/-- Something stands in the way of a flip to host bias: an access past translation, a plaza's line, a pin (R261). -/
def State.biasWaits (s : State) (w : DWord) : Bool :=
  (s.accs.any fun a => match a.loc with
    | .dram pa => (sectorsOf pa a.size).any (biasHas w)
    | .host _ | .peer _ _ | .sp _ | .cb _ => false) ||
  s.wsLines.any (fun v => biasHas w (4 * v.line) && !v.gone) || s.mx.any fun e => e.pins.any (biasHas w)
/-- Every copy of the command's sectors is recalled. -/
def State.biasRecall (s : State) (w : DWord) : State :=
  (s.dir.filter fun d => biasHas w d.sector).foldl (fun t d => t.homeClear d.sector) s
/-- The running command goes on (R261): to host bias, what is under way on the pages first, then the recall and the bit; to
device bias, the host's copies come back first. -/
def State.biasGo (s : State) : State :=
  match s.biasCmd with
  | none => s
  | some w =>
    if 2 ^ 63 ≤ w.toNat then
      if s.biasWaits w then s
      else
        let pages := (List.range (biasCount w)).map (· + biasPage w)
        { s.biasRecall w with hostBias := pages ++ s.hostBias.filter fun p => !pages.contains p }.biasEnd
    else
      let held := (s.hostLines.filter fun h => biasHas w h.1).map fun h => (h.1, true)
      if !held.isEmpty then s.snoop held
      else { s with hostBias := s.hostBias.filter fun p => !biasHas w (64 * p) }.biasEnd
/-- A BIASCMD write: refused, or accepted and begun. -/
def State.biasCommand (s : State) (w : DWord) : State :=
  if s.biasRefused w then s.syncBit 2 true else (s.biasStart w).biasGo

/-- BIAS_TO_HOST (R258, R261): a BIASCMD with DIR 1. -/
def execBiasToHost (w : DWord) (s : State) : Result :=
  .next (if w.toNat < 2 ^ 63 then s else s.biasCommand w)
/-- BIAS_TO_DEVICE (R258, R261): a BIASCMD with DIR 0. -/
def execBiasToDevice (w : DWord) (s : State) : Result :=
  .next (if 2 ^ 63 ≤ w.toNat then s else s.biasCommand w)

/-! The host's accesses to device memory (R257, R260). -/

/-- A page of the range is in host bias. -/
def State.anyHostBias (s : State) (pa n : Nat) : Bool := (sectorsOf pa n).any fun k => s.hostBias.contains (k / 64)
def State.flippingAny (s : State) (pa n : Nat) : Bool := (sectorsOf pa n).any fun k => s.flipping (.dram (64 * k))

/-- The home records the host's copy. -/
def State.setHostLine (s : State) (k : Nat) (v : Option HostLine) : State :=
  let rest := s.hostLines.filter fun h => h.1 != k
  { s with hostLines := match v with
      | some v => (k, v) :: rest
      | none => rest }

/-- The agent of host-link ingress in error records (R235), and of egress (DEDUCED, log 56). -/
def hostEgress : Nat := 5

/-- HOST_MEM_READ (R257, R260): a hole reads as poison; a page in device bias gives no cacheable copy. A read for ownership waits
for a pin, as a write does (R198, R216). -/
def execHostMemRead (addr len : Nat) (want : HostWant) (s : State) : Result :=
  .next (if !inDram addr len then s.refuse 1 0
    else if s.flippingAny addr len then s
    else match s.meet (.dram addr) len 0 (want == .exclusive) with
      | (t, .wait _) => t
      | (t, .go) =>
        let ks := sectorsOf addr len
        if want == .exclusive && t.anyHostBias addr len && t.mx.any fun e => ks.any e.pins.contains then t
        else
        let t := match want with
          | .exclusive => if t.anyHostBias addr len then 
              ks.foldl (fun (t : State) k => (t.homeClear k).setHostLine k (some .e)) t else t
          | .shared => if t.anyHostBias addr len then
              ks.foldl (fun (t : State) k => if t.hostLines.any (fun h => h.1 == k) then t else t.setHostLine k (some .s)) t else t
          | .uncached => t
        t.peerRead hostEgress addr len fun t bs => t.reply bs)

/-- A write of the host's data, once it can be performed: it waits for plazas' lines, for a pin (R198) and for the host's own
copies of signposts that it widens (R240, R260). -/
def State.hostWrite (s : State) (addr n : Nat) (k : State → State) : State :=
  match s.meet (.dram addr) n 0 true with
  | (t, .wait _) => t
  | (t, .go) =>
    let signs := t.hostHas (t.signSectors (.dram addr) n) true
    if !signs.isEmpty then t.snoop signs else if !t.mayServe (.dram addr) n true then t else k t

/-- HOST_MEM_WRITE (R257, R260): a write to a hole is dropped; the host keeps no copy of what it writes back. -/
def execHostMemWrite (addr : Nat) (data : List Byte) (s : State) : Result :=
  .next (if !inDram addr data.length || data.isEmpty || s.flippingAny addr data.length then s
    else s.hostWrite addr data.length fun t =>
      (sectorsOf addr data.length).foldl (fun t k => t.setHostLine k none) (t.homeWrite (.dram addr) data))

/-- HOST_SNOOP_RESPONSE (R260, R261): the host's copy goes to I, or to S for a read; dirty data enters through ingress. -/
def execHostSnoopResponse (line : Nat) (data : List Byte) (s : State) : Result :=
  .next (match s.snoops.find? fun p => p.1 == line with
    | none => s
    | some p =>
      let owned := s.hostLines.any fun h => h.1 == line && h.2 == .e
      let done (s : State) : State := { s with snoops := s.snoops.erase p }.setHostLine line
        (if p.2 || !(s.hostLines.any fun h => h.1 == line) then none else some .s)
      if owned && data.length == 64 then s.hostWrite (64 * line) 64 fun t => (done t).homeWrite (.dram (64 * line)) data
      else done s)

/-! Host memory cached by die-0 slices (R255). -/

/-- CXL_CACHE_SNOOP: the slice, the home of the line for the package, recalls the cores' copies, or has the owner share; then
its own copy goes, or becomes shared. Dirty data stands in host memory. -/
def execCxlCacheSnoop (line : Nat) (invalidate : Bool) (s : State) : Result :=
  .next (
    let k := hostSector + line
    if invalidate then { s.homeClear k with cxlLines := s.cxlLines.filter fun c => c.1 != line }
    else { s.homePeek k with cxlLines := s.cxlLines.map fun c => if c.1 = line then (line, .s) else c })

/-- CXL_CACHE_RESPONSE: the fill of a host line, with the host's data, shared or exclusive. A line that a slice holds
keeps its data and may gain ownership. -/
def execCxlCacheResponse (line : Nat) (exclusive : Bool) (data : List Byte) (s : State) : Result :=
  .next (
    let held := s.cxlLines.find? fun c => c.1 == line
    let rest := s.cxlLines.filter fun c => c.1 != line
    match held with
    | some (_, .m) => s
    | some _ => if exclusive then { s with cxlLines := (line, .e) :: rest } else s
    | none =>
      let s := if data.length = 64 then s.setBytes (.host (64 * line)) data else s
      { s with cxlLines := (line, if exclusive then .e else .s) :: rest })

end Sys2Proof.Machine
end

