-- ==== Sys2Proof/Machine/Integer.lean ====
section
/-! DEFINITION. Integer, bit, address and move instructions (R71 to R74), with the latencies of R47. -/

namespace Sys2Proof.Machine

/-- A format-A operation on words: d := op a b. -/
def bin32 (s : State) (i : Instr) (h : Hdr) (lat : Nat) (b a d : Reg) (op : Word → Word → Word) : Result :=
  lane s i h [b, a, d] [rc a, rc b] fun f => f.setReg lat d (op (f.reg a) (f.reg b))
/-- A format-A operation on pairs. -/
def bin64 (s : State) (i : Instr) (h : Hdr) (lat : Nat) (b a d : Reg) (op : DWord → DWord → DWord) : Result :=
  lane s i h (pairRegs b ++ pairRegs a ++ pairRegs d) (pairCodes a ++ pairCodes b)
    fun f => f.setPair lat d (op (f.pair a) (f.pair b))
/-- Words to a pair. -/
def wide64 (s : State) (i : Instr) (h : Hdr) (lat : Nat) (b a d : Reg) (op : Word → Word → DWord) : Result :=
  lane s i h ([b, a] ++ pairRegs d) [rc a, rc b] fun f => f.setPair lat d (op (f.reg a) (f.reg b))
/-- A unary operation. -/
def un32 (s : State) (i : Instr) (h : Hdr) (lat : Nat) (a d : Reg) (op : Word → Word) : Result :=
  lane s i h [a, d] [rc a] fun f => f.setReg lat d (op (f.reg a))
/-- A lane operation with immediate, d := d op K (R73). -/
def imm32 (s : State) (i : Instr) (h : Hdr) (lat : Nat) (d : Reg) (k : Word) (op : Word → Word → Word) : Result :=
  lane s i h [d] [rc d] fun f => f.setReg lat d (op (f.reg d) k)

/-- Count of a shift: the low five bits (R63). -/
def cnt (b : Word) : Nat := b.toNat % 32
def minBy (le : Bool) (a b : Word) : Word := if le then a else b
def opShl (a b : Word) : Word := a <<< cnt b
def opShr (a b : Word) : Word := a >>> cnt b
def opSar (a b : Word) : Word := a.sshiftRight (cnt b)
def opRot (a b : Word) : Word := (a <<< cnt b) ||| (a >>> (32 - cnt b))
def opMinI (a b : Word) : Word := minBy (a.sle b) a b
def opMaxI (a b : Word) : Word := minBy (b.sle a) a b
def opMinN (a b : Word) : Word := minBy (a.ule b) a b
def opMaxN (a b : Word) : Word := minBy (b.ule a) a b
def prodI (a b : Word) : DWord := a.signExtend 64 * b.signExtend 64
def prodN (a b : Word) : DWord := a.setWidth 64 * b.setWidth 64
/-- Number of 1 bits among the n low bits. -/
def popcount (a : Word) : Nat → Nat
  | 0 => 0
  | n + 1 => (a.getLsbD n).toNat + popcount a n
/-- Leading zeros of the n low bits. -/
def leadingZeros (a : Word) : Nat → Nat
  | 0 => 0
  | n + 1 => if a.getLsbD n then 0 else leadingZeros a n + 1
def opPopc (a : Word) : Word := .ofNat 32 (popcount a 32)
def opClz (a : Word) : Word := .ofNat 32 (leadingZeros a 32)
/-- Bits reversed (R72). -/
def reverseBits (a : Word) : Nat → Nat
  | 0 => 0
  | n + 1 => (a.getLsbD n).toNat * 2 ^ (31 - n) + reverseBits a n
def opBrev (a : Word) : Word := .ofNat 32 (reverseBits a 32)
def opAbs (a : Word) : Word := if a.msb then 0 - a else a

def execAddI32 (h : Hdr) (b a d : Reg) (s : State) : Result :=
  bin32 s (.addI32 h b a d) h 2 b a d (· + ·)
def execSubI32 (h : Hdr) (b a d : Reg) (s : State) : Result :=
  bin32 s (.subI32 h b a d) h 2 b a d (· - ·)
def execMulLoI32 (h : Hdr) (b a d : Reg) (s : State) : Result :=
  bin32 s (.mulLoI32 h b a d) h 4 b a d (· * ·)
def execMadLoI32 (h : Hdr) (b a d : Reg) (s : State) : Result :=
  lane s (.madLoI32 h b a d) h [b, a, d] [rc a, rc b, rc d] fun f => f.setReg 4 d (f.reg d + f.reg a * f.reg b)
def execMulHiI32 (h : Hdr) (b a d : Reg) (s : State) : Result :=
  bin32 s (.mulHiI32 h b a d) h 4 b a d fun a b => (prodI a b).extractLsb' 32 32
def execMulHiN32 (h : Hdr) (b a d : Reg) (s : State) : Result :=
  bin32 s (.mulHiN32 h b a d) h 4 b a d fun a b => (prodN a b).extractLsb' 32 32
def execAndB32 (h : Hdr) (b a d : Reg) (s : State) : Result :=
  bin32 s (.andB32 h b a d) h 2 b a d (· &&& ·)
def execOrB32 (h : Hdr) (b a d : Reg) (s : State) : Result :=
  bin32 s (.orB32 h b a d) h 2 b a d (· ||| ·)
def execXorB32 (h : Hdr) (b a d : Reg) (s : State) : Result :=
  bin32 s (.xorB32 h b a d) h 2 b a d (· ^^^ ·)
def execAndnB32 (h : Hdr) (b a d : Reg) (s : State) : Result :=
  bin32 s (.andnB32 h b a d) h 2 b a d fun a b => a &&& ~~~b
def execShlB32 (h : Hdr) (b a d : Reg) (s : State) : Result :=
  bin32 s (.shlB32 h b a d) h 2 b a d opShl
def execShrN32 (h : Hdr) (b a d : Reg) (s : State) : Result :=
  bin32 s (.shrN32 h b a d) h 2 b a d opShr
def execShrI32 (h : Hdr) (b a d : Reg) (s : State) : Result :=
  bin32 s (.shrI32 h b a d) h 2 b a d opSar
def execRotB32 (h : Hdr) (b a d : Reg) (s : State) : Result :=
  bin32 s (.rotB32 h b a d) h 2 b a d opRot
def execMinI32 (h : Hdr) (b a d : Reg) (s : State) : Result :=
  bin32 s (.minI32 h b a d) h 2 b a d opMinI
def execMaxI32 (h : Hdr) (b a d : Reg) (s : State) : Result :=
  bin32 s (.maxI32 h b a d) h 2 b a d opMaxI
def execMinN32 (h : Hdr) (b a d : Reg) (s : State) : Result :=
  bin32 s (.minN32 h b a d) h 2 b a d opMinN
def execMaxN32 (h : Hdr) (b a d : Reg) (s : State) : Result :=
  bin32 s (.maxN32 h b a d) h 2 b a d opMaxN
def execAddI64 (h : Hdr) (b a d : Reg) (s : State) : Result :=
  bin64 s (.addI64 h b a d) h 4 b a d (· + ·)
def execSubI64 (h : Hdr) (b a d : Reg) (s : State) : Result :=
  bin64 s (.subI64 h b a d) h 4 b a d (· - ·)
def execMulWideI32 (h : Hdr) (b a d : Reg) (s : State) : Result :=
  wide64 s (.mulWideI32 h b a d) h 4 b a d prodI
def execMulWideN32 (h : Hdr) (b a d : Reg) (s : State) : Result :=
  wide64 s (.mulWideN32 h b a d) h 4 b a d prodN

/-- `lea` (R74). -/
def lea (s : State) (i : Instr) (h : Hdr) (b a d : Reg) (sh : BitVec 2) (ext : Word → DWord) : Result :=
  lane s i h ([b] ++ pairRegs a ++ pairRegs d) ([rc b] ++ pairCodes a)
    fun f => f.setPair 2 d (f.pair a + (ext (f.reg b) <<< sh.toNat))
def execLeaN32 (h : Hdr) (b a d : Reg) (sh : BitVec 2) (s : State) : Result :=
  lea s (.leaN32 h b a d sh) h b a d sh (·.setWidth 64)
def execLeaI32 (h : Hdr) (b a d : Reg) (sh : BitVec 2) (s : State) : Result :=
  lea s (.leaI32 h b a d sh) h b a d sh (·.signExtend 64)

/-! Immediate forms: the core takes the `ext` value, if there is one (R31). -/

def addI32ImmAt (i : Instr) (v : Option (BitVec 19)) (h : Hdr) (imm : BitVec 9) (d : Reg) (s : State) : Result :=
  imm32 s i h 2 d (imm9 v imm) (· + ·)
def execAddI32Imm (h : Hdr) (imm : BitVec 9) (d : Reg) (s : State) : Result :=
  addI32ImmAt (.addI32Imm h imm d) none h imm d s
def subI32ImmAt (i : Instr) (v : Option (BitVec 19)) (h : Hdr) (imm : BitVec 9) (d : Reg) (s : State) : Result :=
  imm32 s i h 2 d (imm9 v imm) (· - ·)
def execSubI32Imm (h : Hdr) (imm : BitVec 9) (d : Reg) (s : State) : Result :=
  subI32ImmAt (.subI32Imm h imm d) none h imm d s
def mulLoI32ImmAt (i : Instr) (v : Option (BitVec 19)) (h : Hdr) (imm : BitVec 9) (d : Reg) (s : State) : Result :=
  imm32 s i h 2 d (imm9 v imm) (· * ·)
def execMulLoI32Imm (h : Hdr) (imm : BitVec 9) (d : Reg) (s : State) : Result :=
  mulLoI32ImmAt (.mulLoI32Imm h imm d) none h imm d s
def andB32ImmAt (i : Instr) (v : Option (BitVec 19)) (h : Hdr) (imm : BitVec 9) (d : Reg) (s : State) : Result :=
  imm32 s i h 2 d (imm9 v imm) (· &&& ·)
def execAndB32Imm (h : Hdr) (imm : BitVec 9) (d : Reg) (s : State) : Result :=
  andB32ImmAt (.andB32Imm h imm d) none h imm d s
def orB32ImmAt (i : Instr) (v : Option (BitVec 19)) (h : Hdr) (imm : BitVec 9) (d : Reg) (s : State) : Result :=
  imm32 s i h 2 d (imm9 v imm) (· ||| ·)
def execOrB32Imm (h : Hdr) (imm : BitVec 9) (d : Reg) (s : State) : Result :=
  orB32ImmAt (.orB32Imm h imm d) none h imm d s
def xorB32ImmAt (i : Instr) (v : Option (BitVec 19)) (h : Hdr) (imm : BitVec 9) (d : Reg) (s : State) : Result :=
  imm32 s i h 2 d (imm9 v imm) (· ^^^ ·)
def execXorB32Imm (h : Hdr) (imm : BitVec 9) (d : Reg) (s : State) : Result :=
  xorB32ImmAt (.xorB32Imm h imm d) none h imm d s
def shlB32ImmAt (i : Instr) (v : Option (BitVec 19)) (h : Hdr) (imm : BitVec 9) (d : Reg) (s : State) : Result :=
  imm32 s i h 2 d (imm9 v imm) opShl
def execShlB32Imm (h : Hdr) (imm : BitVec 9) (d : Reg) (s : State) : Result :=
  shlB32ImmAt (.shlB32Imm h imm d) none h imm d s
def shrN32ImmAt (i : Instr) (v : Option (BitVec 19)) (h : Hdr) (imm : BitVec 9) (d : Reg) (s : State) : Result :=
  imm32 s i h 2 d (imm9 v imm) opShr
def execShrN32Imm (h : Hdr) (imm : BitVec 9) (d : Reg) (s : State) : Result :=
  shrN32ImmAt (.shrN32Imm h imm d) none h imm d s
def shrI32ImmAt (i : Instr) (v : Option (BitVec 19)) (h : Hdr) (imm : BitVec 9) (d : Reg) (s : State) : Result :=
  imm32 s i h 2 d (imm9 v imm) opSar
def execShrI32Imm (h : Hdr) (imm : BitVec 9) (d : Reg) (s : State) : Result :=
  shrI32ImmAt (.shrI32Imm h imm d) none h imm d s
def minI32ImmAt (i : Instr) (v : Option (BitVec 19)) (h : Hdr) (imm : BitVec 9) (d : Reg) (s : State) : Result :=
  imm32 s i h 2 d (imm9 v imm) opMinI
def execMinI32Imm (h : Hdr) (imm : BitVec 9) (d : Reg) (s : State) : Result :=
  minI32ImmAt (.minI32Imm h imm d) none h imm d s
def maxI32ImmAt (i : Instr) (v : Option (BitVec 19)) (h : Hdr) (imm : BitVec 9) (d : Reg) (s : State) : Result :=
  imm32 s i h 2 d (imm9 v imm) opMaxI
def execMaxI32Imm (h : Hdr) (imm : BitVec 9) (d : Reg) (s : State) : Result :=
  maxI32ImmAt (.maxI32Imm h imm d) none h imm d s
def movImmAt (i : Instr) (v : Option (BitVec 19)) (h : Hdr) (imm : BitVec 13) (d : Reg) (s : State) : Result :=
  lane s i h [d] [] fun f => f.setReg 2 d (imm13 v imm)
def execMovImm (h : Hdr) (imm : BitVec 13) (d : Reg) (s : State) : Result :=
  movImmAt (.movImm h imm d) none h imm d s

/-! Moves and unary operations (R72). -/

def execMov (h : Hdr) (a d : Reg) (s : State) : Result := un32 s (.mov h a d) h 2 a d id
def execNotB32 (h : Hdr) (a d : Reg) (s : State) : Result := un32 s (.notB32 h a d) h 2 a d (~~~ ·)
def execNegI32 (h : Hdr) (a d : Reg) (s : State) : Result := un32 s (.negI32 h a d) h 2 a d (0 - ·)
def execAbsI32 (h : Hdr) (a d : Reg) (s : State) : Result := un32 s (.absI32 h a d) h 2 a d opAbs
def execPopcB32 (h : Hdr) (a d : Reg) (s : State) : Result := un32 s (.popcB32 h a d) h 2 a d opPopc
def execClzB32 (h : Hdr) (a d : Reg) (s : State) : Result := un32 s (.clzB32 h a d) h 2 a d opClz
def execBrevB32 (h : Hdr) (a d : Reg) (s : State) : Result := un32 s (.brevB32 h a d) h 2 a d opBrev
def execMovB64 (h : Hdr) (a d : Reg) (s : State) : Result :=
  lane s (.movB64 h a d) h (pairRegs a ++ pairRegs d) (pairCodes a) fun f => f.setPair 2 d (f.pair a)
def addI64ImmAt (i : Instr) (v : Option (BitVec 19)) (h : Hdr) (k : BitVec 6) (a d : Reg) (s : State) : Result :=
  lane s i h (pairRegs a ++ pairRegs d) (pairCodes a) fun f => f.setPair 4 d (f.pair a + imm6 v k)
def execAddI64Imm (h : Hdr) (k : BitVec 6) (a d : Reg) (s : State) : Result :=
  addI64ImmAt (.addI64Imm h k a d) none h k a d s

/-! The 16-bit forms (R30): d := d op a, latency as the class (R47). -/

/-- An integer operation of the 16-bit form. -/
def short32 (s : State) (ins : Instr) (i : Bool) (a d : BitVec 5) (op : Word → Word → Word) : Result :=
  lane s ins noGuard (uses16 i a d) (srcs16 i a d true)
    fun f => f.setReg 2 (wide5 d) (op (f.reg (wide5 d)) (f.src16 i a))
def execMov16 (i : Bool) (a d : BitVec 5) (s : State) : Result :=
  lane s (.mov16 i a d) noGuard (uses16 i a d) (srcs16 i a d false) fun f => f.setReg 2 (wide5 d) (f.src16 i a)
def execAddI3216 (i : Bool) (a d : BitVec 5) (s : State) : Result := short32 s (.addI3216 i a d) i a d (· + ·)
def execSubI3216 (i : Bool) (a d : BitVec 5) (s : State) : Result := short32 s (.subI3216 i a d) i a d (· - ·)
def execMulLoI3216 (i : Bool) (a d : BitVec 5) (s : State) : Result := short32 s (.mulLoI3216 i a d) i a d (· * ·)
def execAndB3216 (i : Bool) (a d : BitVec 5) (s : State) : Result := short32 s (.andB3216 i a d) i a d (· &&& ·)
def execOrB3216 (i : Bool) (a d : BitVec 5) (s : State) : Result := short32 s (.orB3216 i a d) i a d (· ||| ·)
def execXorB3216 (i : Bool) (a d : BitVec 5) (s : State) : Result := short32 s (.xorB3216 i a d) i a d (· ^^^ ·)
def execShlB3216 (i : Bool) (a d : BitVec 5) (s : State) : Result := short32 s (.shlB3216 i a d) i a d opShl
def execShrN3216 (i : Bool) (a d : BitVec 5) (s : State) : Result := short32 s (.shrN3216 i a d) i a d opShr
def execShrI3216 (i : Bool) (a d : BitVec 5) (s : State) : Result := short32 s (.shrI3216 i a d) i a d opSar
def execMinI3216 (i : Bool) (a d : BitVec 5) (s : State) : Result := short32 s (.minI3216 i a d) i a d opMinI
def execMaxI3216 (i : Bool) (a d : BitVec 5) (s : State) : Result := short32 s (.maxI3216 i a d) i a d opMaxI

end Sys2Proof.Machine
end

