-- ==== Sys2Proof/Machine/Lane.lean ====
section
/-! DEFINITION. Floating-point, conversion, special-function, compare and predicate instructions (R75 to R84). -/

namespace Sys2Proof.Machine

/-- A 32-bit float operation of two sources with an optional static rounding (R31, R75). -/
def flt32 (s : State) (i : Instr) (h : Hdr) (b a d : Reg) (op : Fibre → Nat → Nat → Nat × Bool) : Result :=
  laneSticky s i h [b, a, d] [rc a, rc b] fun f =>
    let r := op f (f.reg a).toNat (f.reg b).toNat
    (f.setReg 4 d (.ofNat 32 r.1), false, r.2)
/-- The same on pairs in f64. -/
def flt64 (s : State) (i : Instr) (h : Hdr) (b a d : Reg) (op : Fibre → Nat → Nat → Nat × Bool) : Result :=
  laneSticky s i h (pairRegs b ++ pairRegs a ++ pairRegs d) (pairCodes a ++ pairCodes b) fun f =>
    let r := op f (f.pair a).toNat (f.pair b).toNat
    (f.setPair 8 d (.ofNat 64 r.1), false, r.2)
/-- A packed-pair operation d := x op y (R77). -/
def packed (s : State) (i : Instr) (h : Hdr) (uses : List Reg) (srcs : List Nat) (d : Reg)
    (op : Fibre → Word × Bool) : Result :=
  laneSticky s i h uses srcs fun f =>
    let r := op f
    (f.setReg 4 d r.1, false, r.2)
def noOvf (op : Fibre → Nat → Nat → Nat) (f : Fibre) (x y : Nat) : Nat × Bool := (op f x y, false)
/-- A single-operand f32 operation (R78). -/
def flt1 (s : State) (i : Instr) (h : Hdr) (a d : Reg) (op : Fibre → Nat → Nat) : Result :=
  lane s i h [a, d] [rc a] fun f => f.setReg 4 d (.ofNat 32 (op f (f.reg a).toNat))
def flt1w (s : State) (i : Instr) (h : Hdr) (a d : Reg) (op : Fibre → Nat → Nat) : Result :=
  lane s i h (pairRegs a ++ pairRegs d) (pairCodes a) fun f => f.setPair 8 d (.ofNat 64 (op f (f.pair a).toNat))

/-- Absolute value and negation: InF, the canonical NaN, else the sign bit cleared or inverted (R78). -/
def opFabs (fm : Fmt) (f : Fibre) (x : Nat) : Nat :=
  if (fm.val x).isNan then fm.canon else fm.inF (f.fz fm) x % 2 ^ fm.width
def opFneg (fm : Fmt) (f : Fibre) (x : Nat) : Nat :=
  if (fm.val x).isNan then fm.canon else (fm.inF (f.fz fm) x + 2 ^ fm.width) % 2 ^ (fm.width + 1)
/-- `frint` (R78). -/
def opFrint (st : Option RM) (f : Fibre) (x : Nat) : Nat :=
  match f.inVal fF32 x with
  | .nan => fF32.canon
  | .inf _ => x
  | .fin neg m e =>
    if m = 0 then fF32.signBit neg
    else (fF32.round .ne false false (.fin neg (roundInt (f.rm st) neg m e).natAbs 0)).1

def faddF32At (i : Instr) (st : Option RM) (h : Hdr) (b a d : Reg) (s : State) : Result :=
  flt32 s i h b a d fun f => f.fadd st fF32
def execFaddF32 (h : Hdr) (b a d : Reg) (s : State) : Result := faddF32At (.faddF32 h b a d) none h b a d s
def fsubF32At (i : Instr) (st : Option RM) (h : Hdr) (b a d : Reg) (s : State) : Result :=
  flt32 s i h b a d fun f => f.fsub st fF32
def execFsubF32 (h : Hdr) (b a d : Reg) (s : State) : Result := fsubF32At (.fsubF32 h b a d) none h b a d s
def fmulF32At (i : Instr) (st : Option RM) (h : Hdr) (b a d : Reg) (s : State) : Result :=
  flt32 s i h b a d fun f => f.fmul st fF32
def execFmulF32 (h : Hdr) (b a d : Reg) (s : State) : Result := fmulF32At (.fmulF32 h b a d) none h b a d s
def ffmaF32At (i : Instr) (st : Option RM) (h : Hdr) (b a d : Reg) (s : State) : Result :=
  laneSticky s i h [b, a, d] [rc a, rc b, rc d] fun f =>
    let r := f.ffma st fF32 (f.reg a).toNat (f.reg b).toNat (f.reg d).toNat
    (f.setReg 4 d (.ofNat 32 r.1), false, r.2)
def execFfmaF32 (h : Hdr) (b a d : Reg) (s : State) : Result := ffmaF32At (.ffmaF32 h b a d) none h b a d s
def fminF32At (i : Instr) (_ : Option RM) (h : Hdr) (b a d : Reg) (s : State) : Result :=
  flt32 s i h b a d (noOvf fun f => f.fmin fF32)
def execFminF32 (h : Hdr) (b a d : Reg) (s : State) : Result := fminF32At (.fminF32 h b a d) none h b a d s
def fmaxF32At (i : Instr) (_ : Option RM) (h : Hdr) (b a d : Reg) (s : State) : Result :=
  flt32 s i h b a d (noOvf fun f => f.fmax fF32)
def execFmaxF32 (h : Hdr) (b a d : Reg) (s : State) : Result := fmaxF32At (.fmaxF32 h b a d) none h b a d s
def faddF64At (i : Instr) (st : Option RM) (h : Hdr) (b a d : Reg) (s : State) : Result :=
  flt64 s i h b a d fun f => f.fadd st fF64
def execFaddF64 (h : Hdr) (b a d : Reg) (s : State) : Result := faddF64At (.faddF64 h b a d) none h b a d s
def fsubF64At (i : Instr) (st : Option RM) (h : Hdr) (b a d : Reg) (s : State) : Result :=
  flt64 s i h b a d fun f => f.fsub st fF64
def execFsubF64 (h : Hdr) (b a d : Reg) (s : State) : Result := fsubF64At (.fsubF64 h b a d) none h b a d s
def fmulF64At (i : Instr) (st : Option RM) (h : Hdr) (b a d : Reg) (s : State) : Result :=
  flt64 s i h b a d fun f => f.fmul st fF64
def execFmulF64 (h : Hdr) (b a d : Reg) (s : State) : Result := fmulF64At (.fmulF64 h b a d) none h b a d s
def ffmaF64At (i : Instr) (st : Option RM) (h : Hdr) (b a d : Reg) (s : State) : Result :=
  laneSticky s i h (pairRegs b ++ pairRegs a ++ pairRegs d) (pairCodes a ++ pairCodes b ++ pairCodes d) fun f =>
    let r := f.ffma st fF64 (f.pair a).toNat (f.pair b).toNat (f.pair d).toNat
    (f.setPair 8 d (.ofNat 64 r.1), false, r.2)
def execFfmaF64 (h : Hdr) (b a d : Reg) (s : State) : Result := ffmaF64At (.ffmaF64 h b a d) none h b a d s
def haddH2At (i : Instr) (st : Option RM) (h : Hdr) (b a d : Reg) (s : State) : Result :=
  packed s i h [b, a, d] [rc a, rc b] d fun f => halves (f.fadd st fF16) (f.reg a) (f.reg b)
def execHaddH2 (h : Hdr) (b a d : Reg) (s : State) : Result := haddH2At (.haddH2 h b a d) none h b a d s
def hmulH2At (i : Instr) (st : Option RM) (h : Hdr) (b a d : Reg) (s : State) : Result :=
  packed s i h [b, a, d] [rc a, rc b] d fun f => halves (f.fmul st fF16) (f.reg a) (f.reg b)
def execHmulH2 (h : Hdr) (b a d : Reg) (s : State) : Result := hmulH2At (.hmulH2 h b a d) none h b a d s
def hfmaH2At (i : Instr) (st : Option RM) (h : Hdr) (b a d : Reg) (s : State) : Result :=
  packed s i h [b, a, d] [rc a, rc b, rc d] d fun f =>
    halves3 (f.ffma st fF16) (f.reg a) (f.reg b) (f.reg d)
def execHfmaH2 (h : Hdr) (b a d : Reg) (s : State) : Result := hfmaH2At (.hfmaH2 h b a d) none h b a d s
def hfmaBh2At (i : Instr) (st : Option RM) (h : Hdr) (b a d : Reg) (s : State) : Result :=
  packed s i h [b, a, d] [rc a, rc b, rc d] d fun f =>
    halves3 (f.ffma st fBF16) (f.reg a) (f.reg b) (f.reg d)
def execHfmaBh2 (h : Hdr) (b a d : Reg) (s : State) : Result := hfmaBh2At (.hfmaBh2 h b a d) none h b a d s
def fabsF32At (i : Instr) (_ : Option RM) (h : Hdr) (a d : Reg) (s : State) : Result :=
  flt1 s i h a d (opFabs fF32)
def execFabsF32 (h : Hdr) (a d : Reg) (s : State) : Result := fabsF32At (.fabsF32 h a d) none h a d s
def fnegF32At (i : Instr) (_ : Option RM) (h : Hdr) (a d : Reg) (s : State) : Result :=
  flt1 s i h a d (opFneg fF32)
def execFnegF32 (h : Hdr) (a d : Reg) (s : State) : Result := fnegF32At (.fnegF32 h a d) none h a d s
def fabsF64At (i : Instr) (_ : Option RM) (h : Hdr) (a d : Reg) (s : State) : Result :=
  flt1w s i h a d (opFabs fF64)
def execFabsF64 (h : Hdr) (a d : Reg) (s : State) : Result := fabsF64At (.fabsF64 h a d) none h a d s
def fnegF64At (i : Instr) (_ : Option RM) (h : Hdr) (a d : Reg) (s : State) : Result :=
  flt1w s i h a d (opFneg fF64)
def execFnegF64 (h : Hdr) (a d : Reg) (s : State) : Result := fnegF64At (.fnegF64 h a d) none h a d s
def haddBh2At (i : Instr) (st : Option RM) (h : Hdr) (a d : Reg) (s : State) : Result :=
  packed s i h [a, d] [rc d, rc a] d fun f => halves (f.fadd st fBF16) (f.reg d) (f.reg a)
def execHaddBh2 (h : Hdr) (a d : Reg) (s : State) : Result := haddBh2At (.haddBh2 h a d) none h a d s
def hmulBh2At (i : Instr) (st : Option RM) (h : Hdr) (a d : Reg) (s : State) : Result :=
  packed s i h [a, d] [rc d, rc a] d fun f => halves (f.fmul st fBF16) (f.reg d) (f.reg a)
def execHmulBh2 (h : Hdr) (a d : Reg) (s : State) : Result := hmulBh2At (.hmulBh2 h a d) none h a d s
def fminF64At (i : Instr) (_ : Option RM) (h : Hdr) (a d : Reg) (s : State) : Result :=
  lane s i h (pairRegs a ++ pairRegs d) (pairCodes d ++ pairCodes a) fun f =>
    f.setPair 8 d (.ofNat 64 (f.fmin fF64 (f.pair d).toNat (f.pair a).toNat))
def execFminF64 (h : Hdr) (a d : Reg) (s : State) : Result := fminF64At (.fminF64 h a d) none h a d s
def fmaxF64At (i : Instr) (_ : Option RM) (h : Hdr) (a d : Reg) (s : State) : Result :=
  lane s i h (pairRegs a ++ pairRegs d) (pairCodes d ++ pairCodes a) fun f =>
    f.setPair 8 d (.ofNat 64 (f.fmax fF64 (f.pair d).toNat (f.pair a).toNat))
def execFmaxF64 (h : Hdr) (a d : Reg) (s : State) : Result := fmaxF64At (.fmaxF64 h a d) none h a d s
def hminH2At (i : Instr) (_ : Option RM) (h : Hdr) (a d : Reg) (s : State) : Result :=
  packed s i h [a, d] [rc d, rc a] d fun f =>
    halves (noOvf (fun f => f.fmin fF16) f) (f.reg d) (f.reg a)
def execHminH2 (h : Hdr) (a d : Reg) (s : State) : Result := hminH2At (.hminH2 h a d) none h a d s
def hmaxH2At (i : Instr) (_ : Option RM) (h : Hdr) (a d : Reg) (s : State) : Result :=
  packed s i h [a, d] [rc d, rc a] d fun f =>
    halves (noOvf (fun f => f.fmax fF16) f) (f.reg d) (f.reg a)
def execHmaxH2 (h : Hdr) (a d : Reg) (s : State) : Result := hmaxH2At (.hmaxH2 h a d) none h a d s
def hminBh2At (i : Instr) (_ : Option RM) (h : Hdr) (a d : Reg) (s : State) : Result :=
  packed s i h [a, d] [rc d, rc a] d fun f =>
    halves (noOvf (fun f => f.fmin fBF16) f) (f.reg d) (f.reg a)
def execHminBh2 (h : Hdr) (a d : Reg) (s : State) : Result := hminBh2At (.hminBh2 h a d) none h a d s
def hmaxBh2At (i : Instr) (_ : Option RM) (h : Hdr) (a d : Reg) (s : State) : Result :=
  packed s i h [a, d] [rc d, rc a] d fun f =>
    halves (noOvf (fun f => f.fmax fBF16) f) (f.reg d) (f.reg a)
def execHmaxBh2 (h : Hdr) (a d : Reg) (s : State) : Result := hmaxBh2At (.hmaxBh2 h a d) none h a d s
def frintF32At (i : Instr) (st : Option RM) (h : Hdr) (a d : Reg) (s : State) : Result :=
  flt1 s i h a d (opFrint st)
def execFrintF32 (h : Hdr) (a d : Reg) (s : State) : Result := frintF32At (.frintF32 h a d) none h a d s

/-! Immediate and 16-bit float forms (R30, R73). -/

def faddF32ImmAt (i : Instr) (v : Option (BitVec 19)) (h : Hdr) (imm : BitVec 9) (d : Reg) (s : State) : Result :=
  laneSticky s i h [d] [rc d] fun f =>
    let r := f.fadd none fF32 (f.reg d).toNat (immF32 (imm9 v imm))
    (f.setReg 4 d (.ofNat 32 r.1), false, r.2)
def execFaddF32Imm (h : Hdr) (imm : BitVec 9) (d : Reg) (s : State) : Result := faddF32ImmAt (.faddF32Imm h imm d) none h imm d s
def fmulF32ImmAt (i : Instr) (v : Option (BitVec 19)) (h : Hdr) (imm : BitVec 9) (d : Reg) (s : State) : Result :=
  laneSticky s i h [d] [rc d] fun f =>
    let r := f.fmul none fF32 (f.reg d).toNat (immF32 (imm9 v imm))
    (f.setReg 4 d (.ofNat 32 r.1), false, r.2)
def execFmulF32Imm (h : Hdr) (imm : BitVec 9) (d : Reg) (s : State) : Result := fmulF32ImmAt (.fmulF32Imm h imm d) none h imm d s
def fmaxF32ImmAt (i : Instr) (v : Option (BitVec 19)) (h : Hdr) (imm : BitVec 9) (d : Reg) (s : State) : Result :=
  laneSticky s i h [d] [rc d] fun f =>
    let r := noOvf (fun f => f.fmax fF32) f (f.reg d).toNat (immF32 (imm9 v imm))
    (f.setReg 4 d (.ofNat 32 r.1), false, r.2)
def execFmaxF32Imm (h : Hdr) (imm : BitVec 9) (d : Reg) (s : State) : Result := fmaxF32ImmAt (.fmaxF32Imm h imm d) none h imm d s
def haddH2ImmAt (i : Instr) (v : Option (BitVec 19)) (h : Hdr) (imm : BitVec 9) (d : Reg) (s : State) : Result :=
  packed s i h [d] [rc d] d fun f => halves (f.fadd none fF16) (f.reg d) (immH2 (imm9 v imm))
def execHaddH2Imm (h : Hdr) (imm : BitVec 9) (d : Reg) (s : State) : Result :=
  haddH2ImmAt (.haddH2Imm h imm d) none h imm d s
/-- An f32 operation of the 16-bit form. -/
def shortF (s : State) (ins : Instr) (i : Bool) (a d : BitVec 5) (op : Fibre → Nat → Nat → Nat × Bool) : Result :=
  laneSticky s ins noGuard (uses16 i a d) (srcs16 i a d true) fun f =>
    let r := op f (f.reg (wide5 d)).toNat (f.srcF16 i a)
    (f.setReg 4 (wide5 d) (.ofNat 32 r.1), false, r.2)
def execFaddF3216 (i : Bool) (a d : BitVec 5) (s : State) : Result :=
  shortF s (.faddF3216 i a d) i a d fun f => f.fadd none fF32
def execFmulF3216 (i : Bool) (a d : BitVec 5) (s : State) : Result :=
  shortF s (.fmulF3216 i a d) i a d fun f => f.fmul none fF32
def execFmaxF3216 (i : Bool) (a d : BitVec 5) (s : State) : Result :=
  shortF s (.fmaxF3216 i a d) i a d (noOvf fun f => f.fmax fF32)
def execHaddH216 (i : Bool) (a d : BitVec 5) (s : State) : Result :=
  packed s (.haddH216 i a d) noGuard (uses16 i a d) (srcs16 i a d true) (wide5 d)
    fun f => halves (f.fadd none fF16) (f.reg (wide5 d)) (f.srcH16 i a)

/-! Conversions (R79, R80). -/

/-- The float format of a wide type. -/
def wideFmt : WideTy → Fmt
  | .f16 => fF16
  | .bf16 => fBF16
  | .f64 => fF64
  | .f32 | .i32 | .n32 | .i64 | .n64 => fF32

/-- The value that a source of `cvt` presents. -/
def cvtIn (f : Fibre) (src : WideTy) (a : Reg) : FVal :=
  match src with
  | .f16 | .bf16 => f.inVal (wideFmt src) ((f.reg a).toNat % 65536)
  | .f32 => f.inVal fF32 (f.reg a).toNat
  | .f64 => f.inVal fF64 (f.pair a).toNat
  | .i32 => FVal.ofInt (f.reg a).toInt
  | .n32 => FVal.ofInt (f.reg a).toNat
  | .i64 => FVal.ofInt (f.pair a).toInt
  | .n64 => FVal.ofInt (f.pair a).toNat

/-- The bits that `cvt` writes, CONV and OVF: rounded into the destination type, under its flush bit also where the value is
widened (DESIGN CHOICE, log 89). -/
def cvtOut (f : Fibre) (st : Option RM) (dst : WideTy) (x : FVal) : DWord × Bool × Bool :=
  let int (lo hi : Int) := let r := satInt (f.rm st) lo hi x; (BitVec.ofInt 64 r.1, r.2, false)
  match dst with
  | .f16 | .bf16 | .f32 | .f64 => let r := f.round st (wideFmt dst) x; (.ofNat 64 r.1, false, r.2)
  | .i32 => int (-2147483648) 2147483647
  | .n32 => int 0 4294967295
  | .i64 => int (-9223372036854775808) 9223372036854775807
  | .n64 => int 0 18446744073709551615

def cvtAt (i : Instr) (st : Option RM) (h : Hdr) (dst src : WideTy) (a d : Reg) (s : State) : Result :=
  laneSticky s i h ((if src.wide then pairRegs a else [a]) ++ (if dst.wide then pairRegs d else [d]))
    (if src.wide then pairCodes a else [rc a]) fun f =>
    let r := cvtOut f st dst (cvtIn f src a)
    ((if dst.wide then f.setPair 4 d r.1 else f.setReg 4 d (r.1.setWidth 32)), r.2)
def execCvt (h : Hdr) (dst src : WideTy) (a d : Reg) (s : State) : Result :=
  cvtAt (.cvt h dst src a d) none h dst src a d s

/-- A narrow type: a float format, or the width and signedness of an integer (R36). -/
def narrowFmt : NarrowTy → Option Fmt
  | .e4m3 => some fE4M3
  | .e5m2 => some fE5M2
  | .e3m2 => some fE3M2
  | .e2m3 => some fE2M3
  | .e2m1 => some fE2M1
  | .i8 | .n8 | .i4 | .i16 | .n16 => none
def narrowBits : NarrowTy → Nat
  | .e4m3 | .e5m2 | .i8 | .n8 => 8
  | .e3m2 | .e2m3 => 6
  | .e2m1 | .i4 => 4
  | .i16 | .n16 => 16
def narrowSigned : NarrowTy → Bool
  | .n8 | .n16 => false
  | .e4m3 | .e5m2 | .e3m2 | .e2m3 | .e2m1 | .i8 | .i4 | .i16 => true

/-- Narrowing (R80): the code, sign-extended for a signed integer, and CONV. Only e5m2 keeps an infinity. -/
def narrow (rm : RM) (n : NarrowTy) (x : FVal) : Word × Bool :=
  match narrowFmt n with
  | some fm => let r := fm.sat rm x; (.ofNat 32 r.1, r.2)
  | none =>
    let w := narrowBits n
    let r := if narrowSigned n then satInt rm (-(2 ^ (w - 1) : Int)) (2 ^ (w - 1) - 1) x else satInt rm 0 (2 ^ w - 1) x
    (.ofInt 32 r.1, r.2)

/-- Widening (R80): the exact f32 value of a narrow code. -/
def widenCode (n : NarrowTy) (c : Nat) : Nat :=
  let v : FVal := match narrowFmt n with
    | some fm => fm.val c
    | none =>
      let w := narrowBits n
      FVal.ofInt (if narrowSigned n && decide (2 ^ (w - 1) ≤ c) then (c : Int) - 2 ^ w else c)
  (fF32.round .ne false false v).1

def execCvtToNarrow (h : Hdr) (n : NarrowTy) (a d : Reg) (s : State) : Result :=
  laneSticky s (.cvtToNarrow h n a d) h [a, d] [rc a] fun f =>
    let r := narrow (f.rm none) n (f.inVal fF32 (f.reg a).toNat)
    (f.setReg 4 d r.1, r.2, false)
def execCvtFromNarrow (h : Hdr) (n : NarrowTy) (a d : Reg) (s : State) : Result :=
  lane s (.cvtFromNarrow h n a d) h [a, d] [rc a] fun f =>
    f.setReg 4 d (.ofNat 32 (widenCode n ((f.reg a).toNat % 2 ^ narrowBits n)))

/-! Special functions (R81): the value for an operand read by InF; a special value is an exact one. -/

def sfu (s : State) (i : Instr) (h : Hdr) (a d : Reg) (op : FVal → FVal) : Result :=
  laneSticky s i h [a, d] [rc a] fun f =>
    let r := fF32.round .ne (f.fz fF32) f.satf (op (f.inVal fF32 (f.reg a).toNat))
    (f.setReg 12 d (.ofNat 32 r.1), false, r.2)
def fnRcp : FVal → FVal
  | .nan => .nan
  | .inf n => .fin n 0 0
  | .fin n m e => if m = 0 then .inf n else sfuRcp n m e
def fnRsqrt : FVal → FVal
  | .nan => .nan
  | .inf n => if n then .nan else .fin false 0 0
  | .fin n m e => if m = 0 then .inf n else if n then .nan else sfuRsqrt m e
def fnExp2 : FVal → FVal
  | .nan => .nan
  | .inf n => if n then .fin false 0 0 else .inf false
  | .fin n m e => if m = 0 then .fin false 1 0 else sfuExp2 n m e
def fnLog2 : FVal → FVal
  | .nan => .nan
  | .inf n => if n then .nan else .inf false
  | .fin n m e => if m = 0 then .inf true else if n then .nan else sfuLog2 m e
def fnSin : FVal → FVal
  | .nan => .nan
  | .inf _ => .nan
  | .fin n m e => if m = 0 then .fin n 0 0 else sfuTrig false n m e
def fnCos : FVal → FVal
  | .nan => .nan
  | .inf _ => .nan
  | .fin n m e => if m = 0 then .fin false 1 0 else sfuTrig true n m e

def execRcpF32 (h : Hdr) (a d : Reg) (s : State) : Result := sfu s (.rcpF32 h a d) h a d fnRcp
def execRsqrtF32 (h : Hdr) (a d : Reg) (s : State) : Result := sfu s (.rsqrtF32 h a d) h a d fnRsqrt
def execExp2F32 (h : Hdr) (a d : Reg) (s : State) : Result := sfu s (.exp2F32 h a d) h a d fnExp2
def execLog2F32 (h : Hdr) (a d : Reg) (s : State) : Result := sfu s (.log2F32 h a d) h a d fnLog2
def execSinF32 (h : Hdr) (a d : Reg) (s : State) : Result := sfu s (.sinF32 h a d) h a d fnSin
def execCosF32 (h : Hdr) (a d : Reg) (s : State) : Result := sfu s (.cosF32 h a d) h a d fnCos

/-! Compares and predicates (R82 to R84). -/

def execCmpI32 (h : Hdr) (cc : Cc) (p : Pred) (b a : Reg) (s : State) : Result :=
  lane s (.cmpI32 h cc p b a) h [b, a] [rc a, rc b] fun f => f.setPred 2 p (icmp true cc (f.reg a) (f.reg b))
def execCmpN32 (h : Hdr) (cc : Cc) (p : Pred) (b a : Reg) (s : State) : Result :=
  lane s (.cmpN32 h cc p b a) h [b, a] [rc a, rc b] fun f => f.setPred 2 p (icmp false cc (f.reg a) (f.reg b))
def execCmpF32 (h : Hdr) (cc : Cc) (p : Pred) (b a : Reg) (s : State) : Result :=
  lane s (.cmpF32 h cc p b a) h [b, a] [rc a, rc b] fun f =>
    f.setPred 2 p (fcmp cc (f.inVal fF32 (f.reg a).toNat) (f.inVal fF32 (f.reg b).toNat))
def execCmpF64 (h : Hdr) (cc : Cc) (p : Pred) (b a : Reg) (s : State) : Result :=
  lane s (.cmpF64 h cc p b a) h (pairRegs b ++ pairRegs a) (pairCodes a ++ pairCodes b) fun f =>
    f.setPred 2 p (fcmp cc (f.inVal fF64 (f.pair a).toNat) (f.inVal fF64 (f.pair b).toNat))
def cmpI32ImmAt (i : Instr) (v : Option (BitVec 19)) (h : Hdr) (cc : Cc) (p : BitVec 2) (imm : BitVec 7) (a : Reg)
    (s : State) : Result :=
  lane s i h [a] [rc a] fun f => f.setPred 2 (p.setWidth 3) (icmp true cc (f.reg a) (imm7 v imm))
def execCmpI32Imm (h : Hdr) (cc : Cc) (p : BitVec 2) (imm : BitVec 7) (a : Reg) (s : State) : Result :=
  cmpI32ImmAt (.cmpI32Imm h cc p imm a) none h cc p imm a s
def cmpN32ImmAt (i : Instr) (v : Option (BitVec 19)) (h : Hdr) (cc : Cc) (p : BitVec 2) (imm : BitVec 7) (a : Reg)
    (s : State) : Result :=
  lane s i h [a] [rc a] fun f => f.setPred 2 (p.setWidth 3) (icmp false cc (f.reg a) (imm7 v imm))
def execCmpN32Imm (h : Hdr) (cc : Cc) (p : BitVec 2) (imm : BitVec 7) (a : Reg) (s : State) : Result :=
  cmpN32ImmAt (.cmpN32Imm h cc p imm a) none h cc p imm a s

def predOp (s : State) (i : Instr) (h : Hdr) (pa pb pd : Pred) (op : Bool → Bool → Bool) : Result :=
  lane s i h [] [pc8 pa, pc8 pb] fun f => f.setPred 2 pd (op (f.pred pa) (f.pred pb))
def execPand (h : Hdr) (pa pb pd : Pred) (s : State) : Result := predOp s (.pand h pa pb pd) h pa pb pd (· && ·)
def execPor (h : Hdr) (pa pb pd : Pred) (s : State) : Result := predOp s (.por h pa pb pd) h pa pb pd (· || ·)
def execPxor (h : Hdr) (pa pb pd : Pred) (s : State) : Result := predOp s (.pxor h pa pb pd) h pa pb pd (· != ·)
def execPandn (h : Hdr) (pa pb pd : Pred) (s : State) : Result :=
  predOp s (.pandn h pa pb pd) h pa pb pd (fun a b => a && !b)
def execPget (h : Hdr) (d : Reg) (s : State) : Result :=
  lane s (.pget h d) h [d] [65, 66, 67, 68, 69, 70, 71] fun f => f.setReg 2 d f.predWord
def execPset (h : Hdr) (a : Reg) (s : State) : Result :=
  lane s (.pset h a) h [a] [rc a] fun f =>
    [1, 2, 3, 4, 5, 6, 7].foldl (fun g n => g.setPred 2 (.ofNat 3 n) ((f.reg a).getLsbD n)) f

/-! Compress (R205). -/

/-- Rank of element i among eight: how many come before it, by magnitude descending, then by index. -/
def spkRank (mag : List Nat) (i : Nat) : Nat :=
  ((List.range 8).filter fun j =>
    decide (mag.getD i 0 < mag.getD j 0) || (decide (mag.getD i 0 = mag.getD j 0) && decide (j < i))).length
def spkKept (mag : List Nat) : List Nat := (List.range 8).filter fun i => spkRank mag i < 4
/-- Kept elements packed from bit 0, `w` bits each. -/
def spkPack (w : Nat) (es : List Nat) : List Nat → Nat
  | [] => 0
  | i :: is => es.getD i 0 + 2 ^ w * spkPack w es is
def spkMask (kept : List Nat) : Word := .ofNat 32 (kept.foldl (fun m i => m + 2 ^ i) 0)
def spkElems (w : Nat) (x : Nat) : List Nat := (List.range 8).map fun i => x / 2 ^ (w * i) % 2 ^ w

def spkByte (s : State) (i : Instr) (h : Hdr) (b a d : Reg) (mag : Nat → Nat) : Result :=
  lane s i h ([b, d] ++ pairRegs a) (pairCodes a) fun f =>
    let es := spkElems 8 (f.pair a).toNat
    let kept := spkKept (es.map mag)
    (f.setReg 6 d (.ofNat 32 (spkPack 8 es kept))).setReg 6 b (spkMask kept)
def execSpkI8 (h : Hdr) (b a d : Reg) (s : State) : Result :=
  spkByte s (.spkI8 h b a d) h b a d fun e => if e < 128 then e else 256 - e
def execSpkF8 (h : Hdr) (b a d : Reg) (s : State) : Result := spkByte s (.spkF8 h b a d) h b a d (· % 128)
def execSpkBf16 (h : Hdr) (b a d : Reg) (s : State) : Result :=
  lane s (.spkBf16 h b a d) h ([b] ++ pairRegs d ++ pairRegs a ++ pairRegs (a + 2))
    (pairCodes a ++ pairCodes (a + 2)) fun f =>
    let es := spkElems 16 ((f.pair a).toNat + 2 ^ 64 * (f.pair (a + 2)).toNat)
    let kept := spkKept (es.map (· % 32768))
    (f.setPair 6 d (.ofNat 64 (spkPack 16 es kept))).setReg 6 b (spkMask kept)

end Sys2Proof.Machine
end

