-- ==== Sys2Proof/Machine/Ext.lean ====
section
/-! DEFINITION. `ext` and the instruction that follows it (R31, R32). -/

namespace Sys2Proof.Machine

def execExt (v : BitVec 19) (i : Instr) (s : State) : Result :=
  let whole := Instr.ext v i
  match i with
  | .addI32Imm h imm d => addI32ImmAt whole (some v) h imm d s
  | .subI32Imm h imm d => subI32ImmAt whole (some v) h imm d s
  | .mulLoI32Imm h imm d => mulLoI32ImmAt whole (some v) h imm d s
  | .andB32Imm h imm d => andB32ImmAt whole (some v) h imm d s
  | .orB32Imm h imm d => orB32ImmAt whole (some v) h imm d s
  | .xorB32Imm h imm d => xorB32ImmAt whole (some v) h imm d s
  | .shlB32Imm h imm d => shlB32ImmAt whole (some v) h imm d s
  | .shrN32Imm h imm d => shrN32ImmAt whole (some v) h imm d s
  | .shrI32Imm h imm d => shrI32ImmAt whole (some v) h imm d s
  | .minI32Imm h imm d => minI32ImmAt whole (some v) h imm d s
  | .maxI32Imm h imm d => maxI32ImmAt whole (some v) h imm d s
  | .faddF32Imm h imm d => faddF32ImmAt whole (some v) h imm d s
  | .fmulF32Imm h imm d => fmulF32ImmAt whole (some v) h imm d s
  | .fmaxF32Imm h imm d => fmaxF32ImmAt whole (some v) h imm d s
  | .haddH2Imm h imm d => haddH2ImmAt whole (some v) h imm d s
  | .movImm h imm d => movImmAt whole (some v) h imm d s
  | .addI64Imm h k a d => addI64ImmAt whole (some v) h k a d s
  | .faddF32 h b a d => faddF32At whole (staticRM v) h b a d s
  | .fsubF32 h b a d => fsubF32At whole (staticRM v) h b a d s
  | .fmulF32 h b a d => fmulF32At whole (staticRM v) h b a d s
  | .ffmaF32 h b a d => ffmaF32At whole (staticRM v) h b a d s
  | .fminF32 h b a d => fminF32At whole (staticRM v) h b a d s
  | .fmaxF32 h b a d => fmaxF32At whole (staticRM v) h b a d s
  | .faddF64 h b a d => faddF64At whole (staticRM v) h b a d s
  | .fsubF64 h b a d => fsubF64At whole (staticRM v) h b a d s
  | .fmulF64 h b a d => fmulF64At whole (staticRM v) h b a d s
  | .ffmaF64 h b a d => ffmaF64At whole (staticRM v) h b a d s
  | .haddH2 h b a d => haddH2At whole (staticRM v) h b a d s
  | .hmulH2 h b a d => hmulH2At whole (staticRM v) h b a d s
  | .hfmaH2 h b a d => hfmaH2At whole (staticRM v) h b a d s
  | .hfmaBh2 h b a d => hfmaBh2At whole (staticRM v) h b a d s
  | .fabsF32 h a d => fabsF32At whole (staticRM v) h a d s
  | .fnegF32 h a d => fnegF32At whole (staticRM v) h a d s
  | .fabsF64 h a d => fabsF64At whole (staticRM v) h a d s
  | .fnegF64 h a d => fnegF64At whole (staticRM v) h a d s
  | .haddBh2 h a d => haddBh2At whole (staticRM v) h a d s
  | .hmulBh2 h a d => hmulBh2At whole (staticRM v) h a d s
  | .fminF64 h a d => fminF64At whole (staticRM v) h a d s
  | .fmaxF64 h a d => fmaxF64At whole (staticRM v) h a d s
  | .hminH2 h a d => hminH2At whole (staticRM v) h a d s
  | .hmaxH2 h a d => hmaxH2At whole (staticRM v) h a d s
  | .hminBh2 h a d => hminBh2At whole (staticRM v) h a d s
  | .hmaxBh2 h a d => hmaxBh2At whole (staticRM v) h a d s
  | .frintF32 h a d => frintF32At whole (staticRM v) h a d s
  | .cvt h dst src a d => cvtAt whole (staticRM v) h dst src a d s
  | .cmpI32Imm h cc p imm a => cmpI32ImmAt whole (some v) h cc p imm a s
  | .cmpN32Imm h cc p imm a => cmpN32ImmAt whole (some v) h cc p imm a s
  | .bra h off => braAt whole (some v) h off s
  | .call h off => callAt whole (some v) h off s
  | .forkC h off cntM1 k => forkCAt whole (some v) h off cntM1 k s
  | .ldB32Global h off a d => ldB32GlobalAt whole (some v) h off a d s
  | .ldB64Global h off a d => ldB64GlobalAt whole (some v) h off a d s
  | .stB32Global h off a d => stB32GlobalAt whole (some v) h off a d s
  | .stB64Global h off a d => stB64GlobalAt whole (some v) h off a d s
  | .ldB32Sp h off a d => ldB32SpAt whole (some v) h off a d s
  | .stB32Sp h off a d => stB32SpAt whole (some v) h off a d s
  | .ldPlain h ty sp a d => ldPlainAt whole (some v) h ty sp a d s
  | .stPlain h ty sp a d => stPlainAt whole (some v) h ty sp a d s
  | .ldSw h w a d => ldSwAt whole (some v) h w a d s
  | .stSw h w a d => stSwAt whole (some v) h w a d s
  | .ldAcq h sc wide a d => ldAcqAt whole (some v) h sc wide a d s
  | .stRel h sc wide a d => stRelAt whole (some v) h sc wide a d s
  | .ldCb h buf wide a d => ldCbAt whole (some v) h buf wide a d s
  | .stCb h buf wide a d => stCbAt whole (some v) h buf wide a d s
  | .safept h n => safeptAt whole h (wide13 v n) s
  | .nap h n => napAt whole h (wide13 v n) s
  | .tretLabel h off => tretLabelAt whole (some v) h off s
  | _ => undefined s whole

end Sys2Proof.Machine
end

