-- ==== Sys2Proof/Machine/Dispatch.lean ====
section
/-! DEFINITION. The dispatcher: one arm for each step of the part, which calls its meaning. -/

namespace Sys2Proof.Machine

def exec (i : Instr) (s : State) : Host.Outcome State Fault Refusal :=
  match i with
  | .ext v j => Sys2Proof.Machine.execExt v j s
  | .addI32 h b a d => Sys2Proof.Machine.execAddI32 h b a d s
  | .subI32 h b a d => Sys2Proof.Machine.execSubI32 h b a d s
  | .mulLoI32 h b a d => Sys2Proof.Machine.execMulLoI32 h b a d s
  | .madLoI32 h b a d => Sys2Proof.Machine.execMadLoI32 h b a d s
  | .mulHiI32 h b a d => Sys2Proof.Machine.execMulHiI32 h b a d s
  | .mulHiN32 h b a d => Sys2Proof.Machine.execMulHiN32 h b a d s
  | .andB32 h b a d => Sys2Proof.Machine.execAndB32 h b a d s
  | .orB32 h b a d => Sys2Proof.Machine.execOrB32 h b a d s
  | .xorB32 h b a d => Sys2Proof.Machine.execXorB32 h b a d s
  | .andnB32 h b a d => Sys2Proof.Machine.execAndnB32 h b a d s
  | .shlB32 h b a d => Sys2Proof.Machine.execShlB32 h b a d s
  | .shrN32 h b a d => Sys2Proof.Machine.execShrN32 h b a d s
  | .shrI32 h b a d => Sys2Proof.Machine.execShrI32 h b a d s
  | .rotB32 h b a d => Sys2Proof.Machine.execRotB32 h b a d s
  | .minI32 h b a d => Sys2Proof.Machine.execMinI32 h b a d s
  | .maxI32 h b a d => Sys2Proof.Machine.execMaxI32 h b a d s
  | .minN32 h b a d => Sys2Proof.Machine.execMinN32 h b a d s
  | .maxN32 h b a d => Sys2Proof.Machine.execMaxN32 h b a d s
  | .addI64 h b a d => Sys2Proof.Machine.execAddI64 h b a d s
  | .subI64 h b a d => Sys2Proof.Machine.execSubI64 h b a d s
  | .mulWideI32 h b a d => Sys2Proof.Machine.execMulWideI32 h b a d s
  | .mulWideN32 h b a d => Sys2Proof.Machine.execMulWideN32 h b a d s
  | .leaN32 h b a d sh => Sys2Proof.Machine.execLeaN32 h b a d sh s
  | .leaI32 h b a d sh => Sys2Proof.Machine.execLeaI32 h b a d sh s
  | .addI32Imm h imm d => Sys2Proof.Machine.execAddI32Imm h imm d s
  | .subI32Imm h imm d => Sys2Proof.Machine.execSubI32Imm h imm d s
  | .mulLoI32Imm h imm d => Sys2Proof.Machine.execMulLoI32Imm h imm d s
  | .andB32Imm h imm d => Sys2Proof.Machine.execAndB32Imm h imm d s
  | .orB32Imm h imm d => Sys2Proof.Machine.execOrB32Imm h imm d s
  | .xorB32Imm h imm d => Sys2Proof.Machine.execXorB32Imm h imm d s
  | .shlB32Imm h imm d => Sys2Proof.Machine.execShlB32Imm h imm d s
  | .shrN32Imm h imm d => Sys2Proof.Machine.execShrN32Imm h imm d s
  | .shrI32Imm h imm d => Sys2Proof.Machine.execShrI32Imm h imm d s
  | .minI32Imm h imm d => Sys2Proof.Machine.execMinI32Imm h imm d s
  | .maxI32Imm h imm d => Sys2Proof.Machine.execMaxI32Imm h imm d s
  | .faddF32Imm h imm d => Sys2Proof.Machine.execFaddF32Imm h imm d s
  | .fmulF32Imm h imm d => Sys2Proof.Machine.execFmulF32Imm h imm d s
  | .fmaxF32Imm h imm d => Sys2Proof.Machine.execFmaxF32Imm h imm d s
  | .haddH2Imm h imm d => Sys2Proof.Machine.execHaddH2Imm h imm d s
  | .movImm h imm d => Sys2Proof.Machine.execMovImm h imm d s
  | .mov h a d => Sys2Proof.Machine.execMov h a d s
  | .movB64 h a d => Sys2Proof.Machine.execMovB64 h a d s
  | .notB32 h a d => Sys2Proof.Machine.execNotB32 h a d s
  | .negI32 h a d => Sys2Proof.Machine.execNegI32 h a d s
  | .absI32 h a d => Sys2Proof.Machine.execAbsI32 h a d s
  | .popcB32 h a d => Sys2Proof.Machine.execPopcB32 h a d s
  | .clzB32 h a d => Sys2Proof.Machine.execClzB32 h a d s
  | .brevB32 h a d => Sys2Proof.Machine.execBrevB32 h a d s
  | .addI64Imm h k a d => Sys2Proof.Machine.execAddI64Imm h k a d s
  | .faddF32 h b a d => Sys2Proof.Machine.execFaddF32 h b a d s
  | .fsubF32 h b a d => Sys2Proof.Machine.execFsubF32 h b a d s
  | .fmulF32 h b a d => Sys2Proof.Machine.execFmulF32 h b a d s
  | .ffmaF32 h b a d => Sys2Proof.Machine.execFfmaF32 h b a d s
  | .fminF32 h b a d => Sys2Proof.Machine.execFminF32 h b a d s
  | .fmaxF32 h b a d => Sys2Proof.Machine.execFmaxF32 h b a d s
  | .faddF64 h b a d => Sys2Proof.Machine.execFaddF64 h b a d s
  | .fsubF64 h b a d => Sys2Proof.Machine.execFsubF64 h b a d s
  | .fmulF64 h b a d => Sys2Proof.Machine.execFmulF64 h b a d s
  | .ffmaF64 h b a d => Sys2Proof.Machine.execFfmaF64 h b a d s
  | .haddH2 h b a d => Sys2Proof.Machine.execHaddH2 h b a d s
  | .hmulH2 h b a d => Sys2Proof.Machine.execHmulH2 h b a d s
  | .hfmaH2 h b a d => Sys2Proof.Machine.execHfmaH2 h b a d s
  | .hfmaBh2 h b a d => Sys2Proof.Machine.execHfmaBh2 h b a d s
  | .fabsF32 h a d => Sys2Proof.Machine.execFabsF32 h a d s
  | .fnegF32 h a d => Sys2Proof.Machine.execFnegF32 h a d s
  | .fabsF64 h a d => Sys2Proof.Machine.execFabsF64 h a d s
  | .fnegF64 h a d => Sys2Proof.Machine.execFnegF64 h a d s
  | .haddBh2 h a d => Sys2Proof.Machine.execHaddBh2 h a d s
  | .hmulBh2 h a d => Sys2Proof.Machine.execHmulBh2 h a d s
  | .fminF64 h a d => Sys2Proof.Machine.execFminF64 h a d s
  | .fmaxF64 h a d => Sys2Proof.Machine.execFmaxF64 h a d s
  | .hminH2 h a d => Sys2Proof.Machine.execHminH2 h a d s
  | .hmaxH2 h a d => Sys2Proof.Machine.execHmaxH2 h a d s
  | .hminBh2 h a d => Sys2Proof.Machine.execHminBh2 h a d s
  | .hmaxBh2 h a d => Sys2Proof.Machine.execHmaxBh2 h a d s
  | .frintF32 h a d => Sys2Proof.Machine.execFrintF32 h a d s
  | .cvt h dst src a d => Sys2Proof.Machine.execCvt h dst src a d s
  | .cvtToNarrow h n a d => Sys2Proof.Machine.execCvtToNarrow h n a d s
  | .cvtFromNarrow h n a d => Sys2Proof.Machine.execCvtFromNarrow h n a d s
  | .rcpF32 h a d => Sys2Proof.Machine.execRcpF32 h a d s
  | .rsqrtF32 h a d => Sys2Proof.Machine.execRsqrtF32 h a d s
  | .exp2F32 h a d => Sys2Proof.Machine.execExp2F32 h a d s
  | .log2F32 h a d => Sys2Proof.Machine.execLog2F32 h a d s
  | .sinF32 h a d => Sys2Proof.Machine.execSinF32 h a d s
  | .cosF32 h a d => Sys2Proof.Machine.execCosF32 h a d s
  | .cmpI32 h cc p b a => Sys2Proof.Machine.execCmpI32 h cc p b a s
  | .cmpN32 h cc p b a => Sys2Proof.Machine.execCmpN32 h cc p b a s
  | .cmpF32 h cc p b a => Sys2Proof.Machine.execCmpF32 h cc p b a s
  | .cmpF64 h cc p b a => Sys2Proof.Machine.execCmpF64 h cc p b a s
  | .cmpI32Imm h cc p imm a => Sys2Proof.Machine.execCmpI32Imm h cc p imm a s
  | .cmpN32Imm h cc p imm a => Sys2Proof.Machine.execCmpN32Imm h cc p imm a s
  | .pand h pa pb pd => Sys2Proof.Machine.execPand h pa pb pd s
  | .por h pa pb pd => Sys2Proof.Machine.execPor h pa pb pd s
  | .pxor h pa pb pd => Sys2Proof.Machine.execPxor h pa pb pd s
  | .pandn h pa pb pd => Sys2Proof.Machine.execPandn h pa pb pd s
  | .pget h d => Sys2Proof.Machine.execPget h d s
  | .pset h a => Sys2Proof.Machine.execPset h a s
  | .xlElect h pd => Sys2Proof.Machine.execXlElect h pd s
  | .xlBcastB32 h a d => Sys2Proof.Machine.execXlBcastB32 h a d s
  | .xlCount h pa d => Sys2Proof.Machine.execXlCount h pa d s
  | .xlBflyB32 h k a d => Sys2Proof.Machine.execXlBflyB32 h k a d s
  | .xlUpB32 h k a d => Sys2Proof.Machine.execXlUpB32 h k a d s
  | .xlDownB32 h k a d => Sys2Proof.Machine.execXlDownB32 h k a d s
  | .xlRed h op a d => Sys2Proof.Machine.execXlRed h op a d s
  | .bra h off => Sys2Proof.Machine.execBra h off s
  | .call h off => Sys2Proof.Machine.execCall h off s
  | .bsel st cases => Sys2Proof.Machine.execBsel st cases s
  | .ret h => Sys2Proof.Machine.execRet h s
  | .exit h => Sys2Proof.Machine.execExit h s
  | .yield h => Sys2Proof.Machine.execYield h s
  | .loose h => Sys2Proof.Machine.execLoose h s
  | .prio h n => Sys2Proof.Machine.execPrio h n s
  | .prioR h a => Sys2Proof.Machine.execPrioR h a s
  | .callR h a => Sys2Proof.Machine.execCallR h a s
  | .braR h a => Sys2Proof.Machine.execBraR h a s
  | .rally h a => Sys2Proof.Machine.execRally h a s
  | .rallyH h a => Sys2Proof.Machine.execRallyH h a s
  | .loop h n count lenM1 => Sys2Proof.Machine.execLoop h n count lenM1 s
  | .forkC h off cntM1 k => Sys2Proof.Machine.execForkC h off cntM1 k s
  | .forkR h lim idx acc grain ty op => Sys2Proof.Machine.execForkR h lim idx acc grain ty op s
  | .forkRL h idx n acc grain ty op => Sys2Proof.Machine.execForkRL h idx n acc grain ty op s
  | .joinR h => Sys2Proof.Machine.execJoinR h s
  | .joinC h pd a => Sys2Proof.Machine.execJoinC h pd a s
  | .done h a => Sys2Proof.Machine.execDone h a s
  | .doneR h => Sys2Proof.Machine.execDoneR h s
  | .spawn h d a => Sys2Proof.Machine.execSpawn h d a s
  | .ldB32Global h off a d => Sys2Proof.Machine.execLdB32Global h off a d s
  | .ldB64Global h off a d => Sys2Proof.Machine.execLdB64Global h off a d s
  | .stB32Global h off a d => Sys2Proof.Machine.execStB32Global h off a d s
  | .stB64Global h off a d => Sys2Proof.Machine.execStB64Global h off a d s
  | .ldB32Sp h off a d => Sys2Proof.Machine.execLdB32Sp h off a d s
  | .stB32Sp h off a d => Sys2Proof.Machine.execStB32Sp h off a d s
  | .ldPlain h ty sp a d => Sys2Proof.Machine.execLdPlain h ty sp a d s
  | .stPlain h ty sp a d => Sys2Proof.Machine.execStPlain h ty sp a d s
  | .ldSw h w a d => Sys2Proof.Machine.execLdSw h w a d s
  | .stSw h w a d => Sys2Proof.Machine.execStSw h w a d s
  | .ldAcq h sc wide a d => Sys2Proof.Machine.execLdAcq h sc wide a d s
  | .stRel h sc wide a d => Sys2Proof.Machine.execStRel h sc wide a d s
  | .ldCb h buf wide a d => Sys2Proof.Machine.execLdCb h buf wide a d s
  | .stCb h buf wide a d => Sys2Proof.Machine.execStCb h buf wide a d s
  | .cpy h b a d devScope srcWin dstWin barGlobal src dst q barPresent bar => Sys2Proof.Machine.execCpy h b a d devScope srcWin dstWin barGlobal src dst q barPresent bar s
  | .atom h sp b a d ty sc sem op => Sys2Proof.Machine.execAtom h sp b a d ty sc sem op s
  | .plzOpen h a d => Sys2Proof.Machine.execPlzOpen h a d s
  | .plzEnter h a d => Sys2Proof.Machine.execPlzEnter h a d s
  | .plzLeave h a d => Sys2Proof.Machine.execPlzLeave h a d s
  | .plzVote h a d => Sys2Proof.Machine.execPlzVote h a d s
  | .plzAbort h a => Sys2Proof.Machine.execPlzAbort h a s
  | .barInit h space a d => Sys2Proof.Machine.execBarInit h space a d s
  | .barExpect h space a d => Sys2Proof.Machine.execBarExpect h space a d s
  | .barArrive h space a d => Sys2Proof.Machine.execBarArrive h space a d s
  | .barWait h space a d => Sys2Proof.Machine.execBarWait h space a d s
  | .setNew h a => Sys2Proof.Machine.execSetNew h a s
  | .setEnrol h a => Sys2Proof.Machine.execSetEnrol h a s
  | .setQuit h a => Sys2Proof.Machine.execSetQuit h a s
  | .grpEnter h a d => Sys2Proof.Machine.execGrpEnter h a d s
  | .grpLeave h a => Sys2Proof.Machine.execGrpLeave h a s
  | .cwait h c n => Sys2Proof.Machine.execCwait h c n s
  | .tokPass h => Sys2Proof.Machine.execTokPass h s
  | .mxa h a => Sys2Proof.Machine.execMxa h a s
  | .mxs h two a d => Sys2Proof.Machine.execMxs h two a d s
  | .spkI8 h b a d => Sys2Proof.Machine.execSpkI8 h b a d s
  | .spkF8 h b a d => Sys2Proof.Machine.execSpkF8 h b a d s
  | .spkBf16 h b a d => Sys2Proof.Machine.execSpkBf16 h b a d s
  | .asel h a => Sys2Proof.Machine.execAsel h a s
  | .agat h a => Sys2Proof.Machine.execAgat h a s
  | .ksumRebuild h a => Sys2Proof.Machine.execKsumRebuild h a s
  | .smov h idx d => Sys2Proof.Machine.execSmov h idx d s
  | .sset h idx a => Sys2Proof.Machine.execSset h idx a s
  | .trap h n => Sys2Proof.Machine.execTrap h n s
  | .tret h => Sys2Proof.Machine.execTret h s
  | .launch h a => Sys2Proof.Machine.execLaunch h a s
  | .safept h n => Sys2Proof.Machine.execSafept h n s
  | .nap h n => Sys2Proof.Machine.execNap h n s
  | .tretLabel h off => Sys2Proof.Machine.execTretLabel h off s
  | .mov16 im a d => Sys2Proof.Machine.execMov16 im a d s
  | .addI3216 im a d => Sys2Proof.Machine.execAddI3216 im a d s
  | .subI3216 im a d => Sys2Proof.Machine.execSubI3216 im a d s
  | .mulLoI3216 im a d => Sys2Proof.Machine.execMulLoI3216 im a d s
  | .andB3216 im a d => Sys2Proof.Machine.execAndB3216 im a d s
  | .orB3216 im a d => Sys2Proof.Machine.execOrB3216 im a d s
  | .xorB3216 im a d => Sys2Proof.Machine.execXorB3216 im a d s
  | .shlB3216 im a d => Sys2Proof.Machine.execShlB3216 im a d s
  | .shrN3216 im a d => Sys2Proof.Machine.execShrN3216 im a d s
  | .shrI3216 im a d => Sys2Proof.Machine.execShrI3216 im a d s
  | .minI3216 im a d => Sys2Proof.Machine.execMinI3216 im a d s
  | .maxI3216 im a d => Sys2Proof.Machine.execMaxI3216 im a d s
  | .faddF3216 im a d => Sys2Proof.Machine.execFaddF3216 im a d s
  | .fmulF3216 im a d => Sys2Proof.Machine.execFmulF3216 im a d s
  | .fmaxF3216 im a d => Sys2Proof.Machine.execFmaxF3216 im a d s
  | .haddH216 im a d => Sys2Proof.Machine.execHaddH216 im a d s
  | .heartbeatTick launch core => Sys2Proof.Machine.execHeartbeatTick launch core s
  | .detHeartbeat fib => Sys2Proof.Machine.execDetHeartbeat fib s
  | .rangeSplit fib => Sys2Proof.Machine.execRangeSplit fib s
  | .childStart fib core fid => Sys2Proof.Machine.execChildStart fib core fid s
  | .joinSave fib => Sys2Proof.Machine.execJoinSave fib s
  | .joinRestore fib core => Sys2Proof.Machine.execJoinRestore fib core s
  | .deferredTrap fib => Sys2Proof.Machine.execDeferredTrap fib s
  | .safeDistance fib => Sys2Proof.Machine.execSafeDistance fib s
  | .napEnd fib => Sys2Proof.Machine.execNapEnd fib s
  | .preemptSave asid => Sys2Proof.Machine.execPreemptSave asid s
  | .preemptRestore asid place => Sys2Proof.Machine.execPreemptRestore asid place s
  | .issueStarvation fib => Sys2Proof.Machine.execIssueStarvation fib s
  | .roundaboutSend core line => Sys2Proof.Machine.execRoundaboutSend core line s
  | .loadComplete acc => Sys2Proof.Machine.execLoadComplete acc s
  | .storePerform acc => Sys2Proof.Machine.execStorePerform acc s
  | .tableWalk quad asid va kind => Sys2Proof.Machine.execTableWalk quad asid va kind s
  | .faultdoneResolved die rec => Sys2Proof.Machine.execFaultdoneResolved die rec s
  | .faultdoneUnresolvable die rec => Sys2Proof.Machine.execFaultdoneUnresolvable die rec s
  | .tlbinv w => Sys2Proof.Machine.execTlbinv w s
  | .gets x sector => Sys2Proof.Machine.execGets x sector s
  | .getm x sector => Sys2Proof.Machine.execGetm x sector s
  | .upgrade x sector => Sys2Proof.Machine.execUpgrade x sector s
  | .homeWrite addr data => Sys2Proof.Machine.execHomeWrite addr data s
  | .uncachedRead sector => Sys2Proof.Machine.execUncachedRead sector s
  | .probeShare x sector => Sys2Proof.Machine.execProbeShare x sector s
  | .probeInvalidate x sector => Sys2Proof.Machine.execProbeInvalidate x sector s
  | .putm x sector => Sys2Proof.Machine.execPutm x sector s
  | .puts x sector => Sys2Proof.Machine.execPuts x sector s
  | .lineEvict x line => Sys2Proof.Machine.execLineEvict x line s
  | .fill x sector => Sys2Proof.Machine.execFill x sector s
  | .corePowerGate core => Sys2Proof.Machine.execCorePowerGate core s
  | .coreWake core => Sys2Proof.Machine.execCoreWake core s
  | .atomicExecute acc => Sys2Proof.Machine.execAtomicExecute acc s
  | .detectorFull die => Sys2Proof.Machine.execDetectorFull die s
  | .copyPieceLand copy => Sys2Proof.Machine.execCopyPieceLand copy s
  | .blockRetire launch block => Sys2Proof.Machine.execBlockRetire launch block s
  | .mxPass quad entry => Sys2Proof.Machine.execMxPass quad entry s
  | .arbiterStarvation quad entry => Sys2Proof.Machine.execArbiterStarvation quad entry s
  | .aselRun entry => Sys2Proof.Machine.execAselRun entry s
  | .agatRun entry => Sys2Proof.Machine.execAgatRun entry s
  | .ksumRebuildRun entry => Sys2Proof.Machine.execKsumRebuildRun entry s
  | .powerUp shortReach dev => Sys2Proof.Machine.execPowerUp shortReach dev s
  | .cmdLoad => Sys2Proof.Machine.execCmdLoad s
  | .cmdReset => Sys2Proof.Machine.execCmdReset s
  | .cmdQuote => Sys2Proof.Machine.execCmdQuote s
  | .verify => Sys2Proof.Machine.execVerify s
  | .selftest failed => Sys2Proof.Machine.execSelftest failed s
  | .train ports paths => Sys2Proof.Machine.execTrain ports paths s
  | .graphreg w => Sys2Proof.Machine.execGraphreg w s
  | .kick w => Sys2Proof.Machine.execKick w s
  | .nodeComplete graph node => Sys2Proof.Machine.execNodeComplete graph node s
  | .launchComplete launch => Sys2Proof.Machine.execLaunchComplete launch s
  | .blockPlace launch die cores => Sys2Proof.Machine.execBlockPlace launch die cores s
  | .gangProtection launch block => Sys2Proof.Machine.execGangProtection launch block s
  | .translationPublish kdesc asid entry vector points => Sys2Proof.Machine.execTranslationPublish kdesc asid entry vector points s
  | .biasToHost w => Sys2Proof.Machine.execBiasToHost w s
  | .biasToDevice w => Sys2Proof.Machine.execBiasToDevice w s
  | .keybindBind w => Sys2Proof.Machine.execKeybindBind w s
  | .keybindUnbind w => Sys2Proof.Machine.execKeybindUnbind w s
  | .registerWrite off val => Sys2Proof.Machine.execRegisterWrite off val s
  | .hostMemRead addr len want => Sys2Proof.Machine.execHostMemRead addr len want s
  | .hostMemWrite addr data => Sys2Proof.Machine.execHostMemWrite addr data s
  | .hostSnoopResponse line data => Sys2Proof.Machine.execHostSnoopResponse line data s
  | .clockStep up => Sys2Proof.Machine.execClockStep up s
  | .thermalTrip => Sys2Proof.Machine.execThermalTrip s
  | .flitReceive port ok => Sys2Proof.Machine.execFlitReceive port ok s
  | .remoteRequest peer addr size sc op => Sys2Proof.Machine.execRemoteRequest peer addr size sc op s
  | .remoteAck acc data kind => Sys2Proof.Machine.execRemoteAck acc data kind s
  | .sealAck die index dir => Sys2Proof.Machine.execSealAck die index dir s
  | .publishReport die index dir => Sys2Proof.Machine.execPublishReport die index dir s
  | .plazaTimeout die index => Sys2Proof.Machine.execPlazaTimeout die index s
  | .plazaDiscard die index => Sys2Proof.Machine.execPlazaDiscard die index s
  | .cxlCacheSnoop line invalidate => Sys2Proof.Machine.execCxlCacheSnoop line invalidate s
  | .cxlCacheResponse line exclusive data => Sys2Proof.Machine.execCxlCacheResponse line exclusive data s

end Sys2Proof.Machine
end

