-- ==== Sys2Proof/Machine/Sched.lean ====
section
/-! DEFINITION. Which agent acts (DESIGN CHOICE, log 1): the agenda's turn; without one, the oldest operation of a device that changes
anything, and without one, a fibre that may run (R95). -/

namespace Sys2Proof.Machine

open Sys2Proof.Dec (leNat)

/-- The fibre stands at a boundary where a landing load must come first (DEDUCED, log 5). -/
def State.stalls (s : State) (f : Fibre) : Bool :=
  ((f.tickStands || s.detDue f) && f.ranges.any (s.rangeLanding f)) || (match s.dueRange f with
    | some (r, _) => s.rangeLanding f r
    | none => false)

/-- The lanes of the fibre's batch that issue together are chosen (R98). -/
def State.openIssue (s : State) (f : Fibre) : State :=
  match f.held with
  | some (b, _) => if f.trapMode then s
    else { s with batches := s.batches.map fun t => if t.id = b then { t with issue := s.issueOf t } else t }
  | none => s

/-- The bodies that the fibre runs in are known as far as their bytes can be fetched by now (R100; DEDUCED, log 35). -/
def Fibre.extendLoops (s : State) (f : Fibre) : Fibre :=
  [0, 1, 2].foldl (fun g n =>
    let l := g.loop n
    if l.active && l.left ≠ 0 && l.body f.pc then
      let e := bodyEnd s f l.stop l.left
      g.setLoop n { l with stop := e.1, left := e.2 }
    else g) f

/-- The fibre begins the instruction: it is the one that executes, it is not fetched again should it wait (R24), it runs on the
body that the instruction is of (R273), and it may enter a fused group (R55). -/
def State.issueAt (s : State) (f : Fibre) (i : Instr) : State :=
  let f := s.inBody f
  let s := { s with cur := f.uid }.modF f.uid fun g => { (s.inBody g).extendLoops s with inst := some i }
  if f.inGroup then s
  else match s.fuseAt f i with
    | some p => s.modF f.uid fun g => { g with fuse := some p }
    | none => s

/-- Execute the instruction at the PC (R24, R44): one that has waited since it issued is the one that was fetched then; else
fetch and decode. A word that cannot be fetched is a free value in INSN (DESIGN CHOICE, log 7). -/
def State.fetchTurn (s : State) (f : Fibre) : Result :=
  match if f.waited then f.inst else none with
  | some i => exec i (s.issueAt f i)
  | none => match fetchGroup s f f.pc with
    | .trap c => .next (s.whenRecord f fun s => (s.draw 4).takeTrap f
        { cause := c, pc := f.pc, iaddr := f.pc, insn := leNat (s.freeBytesAt 4), daddr := f.pc })
    | .wait t w => .next (t.block { f with inst := none } w)
    | .stand t => .next t
    | .ok bs t =>
      match decode bs with
      | .ok i => exec i (t.issueAt f i)
      | .error _ => .next (t.takeTrap f { cause := .undef, pc := f.pc, iaddr := f.pc, insn := leNat (bs.take 4) })

/-- Something falls at the fibre's boundary before its next instruction. -/
def State.boundary (s : State) (f : Fibre) : Bool :=
  f.loopSplit || f.tickStands || s.detDue f || f.deferredDue || f.tooFar || (s.dueRange f).isSome

/-- What falls at the boundary, in its order (R107 to R109, R132, R161, R303). A tick at the boundary at which an armed form-R
frame splits comes first, and the split last: no rule orders the two (DESIGN CHOICE, log 82). -/
def State.boundaryTurn (s : State) (f : Fibre) : Result :=
  if f.loopSplit then execRangeSplit f.uid s
  else if f.tickStands then .next (s.deliverTick f)
  else if s.detDue f then execDetHeartbeat f.uid s
  else if f.deferredDue then execDeferredTrap f.uid s
  else if f.tooFar then execSafeDistance f.uid s
  else execRangeSplit f.uid s

/-- A fibre's turn: what falls at its boundary, a wait that goes on after a trap (log 62), or its next instruction. -/
def State.turn (s : State) (f : Fibre) : Result :=
  if s.boundary f then s.boundaryTurn f
  else match f.rejoins with
    | some g => .next (s.setF g)
    | none => (s.openIssue f).fetchTurn f

/-- Another lane of the batch's issue has its boundary before it (R98, R132): that comes first. -/
def State.laneBehind (s : State) (f : Fibre) : Bool :=
  !f.trapMode && !s.boundary f && (match f.held with
    | some (b, _) => (match s.batch? b with
      | some t => (s.issueOf t).any fun u => match s.fib? u with
        | some g => u != f.uid && s.boundary g
        | none => false
      | none => false)
    | none => false)

/-- The fibre can act now. -/
def State.canAct (s : State) (f : Fibre) : Bool :=
  s.bar.status == 5 && s.mayRun f && !s.stalls f && !s.laneBehind f

/-- No fibre of the core that can act has a higher path priority (R95). -/
def State.first (s : State) (f : Fibre) : Bool :=
  s.fibres.all fun g => !(g.core == f.core && decide (f.prio.toNat < g.prio.toNat) && s.canAct g)

/-- Fibres in the order in which they issue with an empty agenda (R95): one that has starved; those of the highest level of
their core, the longest ready first; the others, for where none of these can do anything. -/
def State.issueOrder (s : State) : List Fibre :=
  let may := s.fibres.filter s.canAct
  (may.filter fun f => s.starved == some f.uid) ++ (may.filter s.first) ++ may.filter fun f => !s.first f
/-- Ready fibres stand before those that are not, which are the younger when they become ready (R95). -/
def State.byAge (s : State) : State :=
  { s with fibres := (s.fibres.filter s.ready) ++ s.fibres.filter fun f => !s.ready f }
/-- The fibre has had its turn: its starvation is over (R95). -/
def State.fed (s : State) (uid : Nat) : State := { s with starved := if s.starved = some uid then none else s.starved }
/-- The fibre has issued: the others have been ready for longer (R95). -/
def State.issued (s : State) (uid : Nat) : State := (s.goLast uid).fed uid

/-- Accesses and copies under way. -/
def State.pendingAccs (s : State) : List Instr :=
  let sent : List Instr := (s.roundabout.filter fun r => !r.sent).map fun r => .roundaboutSend r.core r.line
  let accs : List Instr := s.accs.map fun a => if a.op.isAtom then .atomicExecute a.id
    else if a.op.isLoad then .loadComplete a.id else .storePerform a.id
  let copies : List Instr := s.copies.map fun c => .copyPieceLand c.id
  let fills : List Instr := s.fills.map fun e => .fill e.core e.sector
  sent.append (fills.append (accs.append copies))
/-- Matrix and selection operations, and plazas. -/
def State.pendingUnits (s : State) : List Instr :=
  let mx : List Instr := s.mx.map fun e => match e.kind with
    | .dense | .sparse _ _ => .mxPass e.quad e.id
    | .asel => .aselRun e.id
    | .agat => .agatRun e.id
    | .ksum _ _ => .ksumRebuildRun e.id
  let plazas : List Instr := s.plazas.flatMap fun p => [0, 1, 2, 3].flatMap fun d =>
    [Instr.sealAck p.die p.index d, .publishReport p.die p.index d]
  let discards : List Instr := s.plazas.map fun p => .plazaDiscard p.die p.index
  mx.append (plazas.append discards)
/-- The Crossing, the Square and the graphs. -/
def State.pendingPlaces (s : State) : List Instr :=
  let naps : List Instr := (s.fibres.filter fun f => f.wait == .nap).map fun f => .napEnd f.uid
  let saves : List Instr := (s.fibres.filter s.stuck).map fun f => .joinSave f.uid
  let joins : List Instr := (s.fibres.filter fun f => f.status == .joinSaved).map fun f => .joinRestore f.uid (s.coreFor f)
  let starts : List Instr := (s.fibres.filter fun f => f.status == .queued).map fun f => .childStart f.uid (s.coreFor f) (.ofNat 31 f.uid)
  let retires : List Instr := s.blocks.map fun b => .blockRetire b.launch b.id
  let places : List Instr := (s.launches.filter (·.waits)).flatMap fun l => [0, 1, 2, 3].flatMap fun d =>
    match s.findCluster l.id d l.clusterBlocks with
    | some cores => [Instr.blockPlace l.id d cores]
    | none => []
  let ends : List Instr := s.launches.map fun l => .launchComplete l.id
  naps.append (joins.append (starts.append (saves.append (retires.append (places.append ends)))))
/-- Graphs and commands of the host under way. -/
def State.pendingHost (s : State) : List Instr :=
  let nodes : List Instr := s.replays.flatMap fun r => (List.range r.nodes.length).map fun n => .nodeComplete r.graph n
  let kicks : List Instr := s.kicks.map fun w => .nodeComplete (kickGraph w) 0
  let ends : List Instr := (s.kickEnds.map fun _ => Instr.nodeComplete 0 0) ++ s.graphRegs.map fun w => .graphreg w
  let saves : List Instr := (s.launches.filter fun l => s.fibres.any fun f => f.launch == l.id && f.preempt &&
    f.status != .saved).map fun l => .preemptSave (.ofNat 8 l.asid)
  nodes.append (kicks.append (ends.append saves))
/-- Device steps that the state itself names, oldest operation first. -/
def State.pending (s : State) : List Instr :=
  s.pendingAccs.append (s.pendingUnits.append (s.pendingPlaces.append s.pendingHost))

/-- The first step of the list that changes the state. -/
def firstChange (s : State) : List Instr → Result
  | [] => .next s
  | i :: is => match exec i s with
    | .next t => if t = s then firstChange s is else .next t
    | .fault r => .fault r
    | .refused r => .refused r

/-- The turn of the first fibre of the list whose turn changes the state. -/
def firstTurn (s : State) : List Fibre → Result
  | [] => .next s
  | f :: fs => match s.turn f with
    | .next t => if t = s then firstTurn s fs else .next (t.issued f.uid)
    | .fault r => .fault r
    | .refused r => .refused r

/-- One step with an empty agenda: what the devices have under way, and when that rests, a fibre. -/
def State.auto (s : State) : Result :=
  if s.bar.status ≠ 5 then .next s
  else match firstChange s s.pending with
    | .next t =>
      if t ≠ s then .next t
      else if s.biasGo ≠ s then .next s.biasGo
      else firstTurn s.byAge s.byAge.issueOrder
    | .fault r => .fault r
    | .refused r => .refused r

/-- After a thermal trip every die stops (R282): only the host's commands and the power-up do anything. -/
def Instr.outlivesTrip : Instr → Bool
  | .powerUp _ _ | .cmdReset | .registerWrite _ _ => true
  | _ => false

/-- One step that the agenda names. -/
def State.take (s : State) (t : Turn) : Result :=
  match t with
  | .fibre u => match s.fib? u with
    | some f => if s.canAct f then (match s.turn f with
        | .next t => .next (t.fed u)
        | .fault r => .fault r
        | .refused r => .refused r) else .next s
    | none => .next s
  | .event i => if i.isStep && (s.bar.status != 0x88 || Instr.outlivesTrip i) then exec i s else .next s
  | .bias => .next (if s.bar.status = 5 then s.biasGo else s)

/-! A fibre that stands at one instruction (the host's question). -/

/-- The launch, its block and the page that hold it. -/
def bench.kernel : Kernel := ⟨64, 262144, 0, 0, 0, 0, 0, 0, 0, 0, 0⟩
def bench.launch (id : Nat) : Launch where
  id := id
  asid := 1
  flags := 0
  gridX := 1
  gridY := 1
  gridZ := 1
  blkX := 1
  blkY := 1
  blkZ := 1
  clX := 0
  clY := 0
  clZ := 0
  window := 64
  modeField := 0
  prio := 0
  h := 4096
  period := 8192
  args := 0
  argsize := 0
  slotcap := 4096
  frames := 0x400000
  framesize := 0x10000
  traps := 0x300000
  doneaddr := 0
  doneval := 0
  kdesc := 0
  kern := bench.kernel
  entry := 0x100000
  vector := 0
  craco := false
  token := 0
  placed := 1
  overtakes := 0
  gangProtected := false
  reserved := []
  status := .running
  node := none
  before := []
def bench.block (launch : Nat) : Block := ⟨launch, 0, (0, 0, 0), 0, [0], 1, false, false, [], [], [], []⟩
def bench.fibre (uid launch : Nat) : Fibre where
  uid := uid
  launch := launch
  block := 0
  core := 0
  fid := 0
  origin := .launch
  status := .resident
  pc := 0x100000
  window := 64
  regs := zeros
  preds := 0
  pend := []
  landed := []
  wseq := 0
  frames := []
  inline := []
  root := none
  lc0 := noLoop
  lc1 := noLoop
  lc2 := noLoop
  loopSeq := 0
  prio := 15
  mode := 0
  sat := 0
  outs := []
  set := none
  arrived := none
  votes := 0
  held := none
  tag := 0
  plzSet := none
  aborted := 0
  hbc := 0
  dist := 0
  passed := false
  seg := some 0
  tiles := 0xFF
  live := .allOnes 64
  craco := false
  xlat := false
  vector := 0
  trapMode := false
  deferred := []
  fresh := false
  mxFaults := []
  abort := none
  wait := .none
  waited := false
  inst := none
  tickDue := false
  rebody := false
  fuse := none
  rejoin := none
  mxSeq := 0
  preempt := false
  stopped := false
  result := 0
  closing := []
  after := []
  before := []
  parent := none

/-- Context-table entry of ASID 1 and three tables, which map the first GiB to itself, and the code bytes. -/
def bench.memory (m : Memory) (bs : List Byte) : Memory :=
  let w8 (m : Memory) (a v : Nat) : Memory := memWrite m a (Dec.leBytes 8 v)
  memWrite (w8 (w8 (w8 (w8 m 0x10040 0x20001) 0x20000 0x21001) 0x21000 0x22001) 0x22000 0x1F) 0x100000 bs

/-- The bytes of an instruction whose bits are w, zeros above nbits. -/
def bench.bytes (nbits w : Nat) : List Byte := Dec.leBytes 24 (w % 2 ^ nbits)

end Sys2Proof.Machine
end

