-- ==== Sys2Proof/Machine/Step.lean ====
section
/-! DEFINITION. One step of the machine. -/

namespace Sys2Proof.Machine

/-- One step: the agenda's next turn, else what acts on its own. -/
def step (s : State) : Host.Outcome State Fault Refusal :=
  match s.agenda with
  | t :: ts => { s with agenda := ts }.take t
  | [] => s.auto

/-- The state with a fibre of its own that stands at the instruction whose bits are w, and whose turn it is. A
program reaches the machine from outside (DESIGN CHOICE, log 16): this stands for the load, the launch and the placement. -/
def State.withFetchWord (s : State) (nbits w : Nat) : State :=
  { s with
    bar := { s.bar with status := 5, ctxbase := 0x10000 }
    mem := bench.memory s.mem (bench.bytes nbits w)
    tlb := []
    l1tlb := []
    ctxSeen := []
    poison := []
    checks := []
    launches := bench.launch s.nextId :: s.launches
    blocks := bench.block s.nextId :: s.blocks
    fibres := bench.fibre (s.nextId + 1) s.nextId :: s.fibres
    nextId := s.nextId + 2
    agenda := [.fibre (s.nextId + 1)] }

end Sys2Proof.Machine
end

