-- ==== Sys2Proof/Safety.lean ====
section
/-! DEFINITION. What the claims call a safe run, and the terms in which they speak: the forms that every step keeps,
runs of the machine, when an instruction issues, and how it retires. -/

namespace Sys2Proof

open Sys2Proof.Machine

/-- Every memory of the machine is in canonical form. -/
def Machine.State.memsOk (s : State) : Prop :=
  s.mem.wf = true ∧ s.hostMem.wf = true ∧ s.spMem.wf = true ∧ s.tbMem.wf = true ∧ s.planeMem.wf = true

/-- One step that goes on. -/
def Steps (s t : State) : Prop := step s = .next t

/-- A run of any length. -/
inductive Run : State → State → Prop where
  | here (s : State) : Run s s
  | more (s t u : State) : Run s t → Steps t u → Run s u

/-- No fibre is parked on a trap (R162). -/
def Machine.State.unparked (s : State) : Prop := ∀ f ∈ s.fibres, f.status ≠ .parked

/-- A run is safe when no state of it has a parked fibre. -/
def SafeRun (s : State) : Prop := ∀ t, Run s t → t.unparked

/-! Issue and retirement. -/

/-- The current fibre f issues instruction i with its own effect: its register fields lie in the window (R27), no
16-bit form stands in a Craco body (R52), the guard holds (R26), and under CHK no read is early (R49). -/
abbrev Machine.State.Issues (s : State) (f : Fibre) (i : Instr) (g : BitVec 4) (uses : List Reg) (srcs : List Nat) :
    Prop :=
  s.cur? = some f ∧ (∀ r ∈ uses, r.toNat < f.window) ∧ ¬(f.craco = true ∧ i.size = 2) ∧ f.guard g = true ∧
  (f.chk = true → ∀ c ∈ pc8 (g.setWidth 3) :: srcs, f.early c = false)

/-- An instruction with an `ext` before it, or without (R31). -/
def withExt (v : Option (BitVec 19)) (i : Instr) : Instr :=
  match v with
  | none => i
  | some v => .ext v i
/-- The rounding that an `ext` selects (R31). -/
def extRM (v : Option (BitVec 19)) : Option RM := v.bind staticRM

/-- The fibre retires after it has raised CONV or OVF, where the flags say so (R66). -/
def Machine.State.retireSticky (s : State) (f : Fibre) (i : Instr) (stall : Nat) (conv ovf : Bool) : State :=
  (s.sticky f conv ovf).1.retire (s.sticky f conv ovf).2 i { stall := stall }

/-! The fields of an instruction. -/

/-- The stall field (R26). -/
def stallOf (i : Instr) : Nat := (hdrOf i).s.toNat
/-- Register fields that are no sources: destinations, and the registers that a fork binds. An instruction not listed has
none. -/
def otherFields : Instr → List Reg
  | .ext _ j => otherFields j
  | .addI32 _ _ _ d => [d]
  | .subI32 _ _ _ d => [d]
  | .mulLoI32 _ _ _ d => [d]
  | .madLoI32 _ _ _ d => [d]
  | .mulHiI32 _ _ _ d => [d]
  | .mulHiN32 _ _ _ d => [d]
  | .andB32 _ _ _ d => [d]
  | .orB32 _ _ _ d => [d]
  | .xorB32 _ _ _ d => [d]
  | .andnB32 _ _ _ d => [d]
  | .shlB32 _ _ _ d => [d]
  | .shrN32 _ _ _ d => [d]
  | .shrI32 _ _ _ d => [d]
  | .rotB32 _ _ _ d => [d]
  | .minI32 _ _ _ d => [d]
  | .maxI32 _ _ _ d => [d]
  | .minN32 _ _ _ d => [d]
  | .maxN32 _ _ _ d => [d]
  | .faddF32 _ _ _ d => [d]
  | .fsubF32 _ _ _ d => [d]
  | .fmulF32 _ _ _ d => [d]
  | .ffmaF32 _ _ _ d => [d]
  | .fminF32 _ _ _ d => [d]
  | .fmaxF32 _ _ _ d => [d]
  | .haddH2 _ _ _ d => [d]
  | .hmulH2 _ _ _ d => [d]
  | .hfmaH2 _ _ _ d => [d]
  | .hfmaBh2 _ _ _ d => [d]
  | .addI64 _ _ _ d => pairRegs d
  | .subI64 _ _ _ d => pairRegs d
  | .mulWideI32 _ _ _ d => pairRegs d
  | .mulWideN32 _ _ _ d => pairRegs d
  | .faddF64 _ _ _ d => pairRegs d
  | .fsubF64 _ _ _ d => pairRegs d
  | .fmulF64 _ _ _ d => pairRegs d
  | .ffmaF64 _ _ _ d => pairRegs d
  | .leaN32 _ _ _ d _ => pairRegs d
  | .leaI32 _ _ _ d _ => pairRegs d
  | .addI32Imm _ _ d => [d]
  | .subI32Imm _ _ d => [d]
  | .mulLoI32Imm _ _ d => [d]
  | .andB32Imm _ _ d => [d]
  | .orB32Imm _ _ d => [d]
  | .xorB32Imm _ _ d => [d]
  | .shlB32Imm _ _ d => [d]
  | .shrN32Imm _ _ d => [d]
  | .shrI32Imm _ _ d => [d]
  | .minI32Imm _ _ d => [d]
  | .maxI32Imm _ _ d => [d]
  | .faddF32Imm _ _ d => [d]
  | .fmulF32Imm _ _ d => [d]
  | .fmaxF32Imm _ _ d => [d]
  | .haddH2Imm _ _ d => [d]
  | .movImm _ _ d => [d]
  | .mov _ _ d => [d]
  | .notB32 _ _ d => [d]
  | .negI32 _ _ d => [d]
  | .absI32 _ _ d => [d]
  | .popcB32 _ _ d => [d]
  | .clzB32 _ _ d => [d]
  | .brevB32 _ _ d => [d]
  | .fabsF32 _ _ d => [d]
  | .fnegF32 _ _ d => [d]
  | .haddBh2 _ _ d => [d]
  | .hmulBh2 _ _ d => [d]
  | .hminH2 _ _ d => [d]
  | .hmaxH2 _ _ d => [d]
  | .hminBh2 _ _ d => [d]
  | .hmaxBh2 _ _ d => [d]
  | .frintF32 _ _ d => [d]
  | .rcpF32 _ _ d => [d]
  | .rsqrtF32 _ _ d => [d]
  | .exp2F32 _ _ d => [d]
  | .log2F32 _ _ d => [d]
  | .sinF32 _ _ d => [d]
  | .cosF32 _ _ d => [d]
  | .xlBcastB32 _ _ d => [d]
  | .movB64 _ _ d => pairRegs d
  | .fabsF64 _ _ d => pairRegs d
  | .fnegF64 _ _ d => pairRegs d
  | .fminF64 _ _ d => pairRegs d
  | .fmaxF64 _ _ d => pairRegs d
  | .addI64Imm _ _ _ d => pairRegs d
  | .cvt _ dst _ _ d => if dst.wide then pairRegs d else [d]
  | .cvtToNarrow _ _ _ d => [d]
  | .cvtFromNarrow _ _ _ d => [d]
  | .pget _ d => [d]
  | .xlCount _ _ d => [d]
  | .xlBflyB32 _ _ _ d => [d]
  | .xlUpB32 _ _ _ d => [d]
  | .xlDownB32 _ _ _ d => [d]
  | .xlRed _ _ _ d => [d]
  | .forkR _ lim idx acc _ ty _ => [lim, idx] ++ accRegs acc ty
  | .forkRL _ idx _ acc _ ty _ => idx :: accRegs acc ty
  | .joinC _ _ a => [a]
  | .ldB32Global _ _ _ d => [d]
  | .ldB64Global _ _ _ d => pairRegs d
  | .ldB32Sp _ _ _ d => [d]
  | .ldPlain _ ty _ _ d => dataRegs (ldSize ty) d
  | .ldSw _ _ _ d => [d]
  | .ldAcq _ _ wide _ d => dataRegs (wideSize wide) d
  | .ldCb _ _ wide _ d => dataRegs (wideSize wide) d
  | .plzOpen _ _ d => pairRegs d
  | .barArrive _ _ _ d => [d]
  | .grpEnter _ _ d => [d]
  | .spkI8 _ b _ d => [b, d]
  | .spkF8 _ b _ d => [b, d]
  | .spkBf16 _ b _ d => b :: pairRegs d
  | .smov _ idx d => if idx = 0x0B then pairRegs d else [d]
  | .mov16 _ _ d => [wide5 d]
  | _ => []
/-- The index of a `safept` (R31, R159). -/
def safeptIndex : Instr → Option Nat
  | .safept _ n => some n.toNat
  | .ext v (.safept _ n) => some (v ++ n).toNat
  | _ => none
/-- The argument registers of a `fork.c` run past g63 (R104). -/
def argsPast : Instr → Bool
  | .forkC _ _ cntM1 k => decide (64 ≤ k.toNat + cntM1.toNat)
  | .ext _ j => argsPast j
  | _ => false
/-- The instructions that an `ext` may stand before (R31). -/
def takesExt : Instr → Bool
  | .addI32Imm _ _ _ | .subI32Imm _ _ _ | .mulLoI32Imm _ _ _ | .andB32Imm _ _ _ | .orB32Imm _ _ _ | .xorB32Imm _ _ _
  | .shlB32Imm _ _ _ | .shrN32Imm _ _ _ | .shrI32Imm _ _ _ | .minI32Imm _ _ _ | .maxI32Imm _ _ _ | .faddF32Imm _ _ _
  | .fmulF32Imm _ _ _ | .fmaxF32Imm _ _ _ | .haddH2Imm _ _ _ | .movImm _ _ _ | .addI64Imm _ _ _ _ | .cmpI32Imm _ _ _ _ _
  | .cmpN32Imm _ _ _ _ _ | .bra _ _ | .call _ _ | .tretLabel _ _ | .forkC _ _ _ _ | .ldB32Global _ _ _ _ | .ldB64Global _ _ _ _
  | .stB32Global _ _ _ _ | .stB64Global _ _ _ _ | .ldB32Sp _ _ _ _ | .stB32Sp _ _ _ _ | .ldPlain _ _ _ _ _ | .stPlain _ _ _ _ _
  | .ldSw _ _ _ _ | .stSw _ _ _ _ | .ldAcq _ _ _ _ _ | .stRel _ _ _ _ _ | .ldCb _ _ _ _ _ | .stCb _ _ _ _ _ | .safept _ _
  | .nap _ _ => true
  | i => i.takesRounding
/-- An `ext` before any other instruction (R32). -/
def badExt : Instr → Bool
  | .ext _ j => !takesExt j
  | _ => false
/-- The encoding makes UNDEF of the instruction, for a fibre that stands at it, whatever its guard: a reserved form, a
register outside the window (R27), a 16-bit form in a Craco body (R52), a safe point that the kernel has not (R159), an `ext` before
an instruction that takes none (R32). -/
abbrev Machine.State.EncodingUndef (s : State) (f : Fibre) (i : Instr) : Prop :=
  i.wf = false ∨ argsPast i = true ∨ (∃ r ∈ sources f.window i ++ otherFields i, f.window ≤ r.toNat) ∨ (f.craco = true ∧ i.size = 2) ∨
  (∃ n, safeptIndex i = some n ∧ ∀ l, s.launch? f.launch = some l → l.kern.nsafe ≤ n) ∨ badExt i = true

/-! Accesses and objects. -/

/-- The access that an instruction of fibre f posts, as it is named and tagged (R126, R130, R297). -/
def Machine.State.newAccess (s : State) (f : Fibre) (i : Instr) (l : Loc) (addr size : Nat) (op : AccOp) : Access where
  id := s.nextId
  fib := f.uid
  iaddr := f.pc
  insn := insnWord i
  loc := l
  addr := addr
  size := size
  op := op
  acq := false
  rel := false
  scope := .dev
  tag := match l with
    | .dram _ | .host _ | .peer _ _ => f.tag
    | .sp _ | .cb _ => 0
  win := none
  set := f.set
  wseq := f.wseq
  widened := false
  fate := none

/-- Nothing holds the access back at issue: its counter has room (R57), the token lets it go (R157), no plaza stands in
its way (R298), its Roundabout has room (R129), and a path leads to its peer (R285). -/
abbrev Machine.State.CanPost (s : State) (f : Fibre) (a : Access) : Prop :=
  f.counter (classOf a.loc a.op) < 63 ∧ s.gate f a.loc a.op = .go ∧
  (a.tag = 0 → (s.meet a.loc a.size 0 (!a.op.isLoad)).2 = .go) ∧ s.roundCount f.core < Config.roundaboutEntries ∧
  s.unreachable a.loc = false

/-- State u is s with the access posted and its instruction retired: the access is outstanding, a Roundabout entry of
its line carries it, its counter is one higher; memory and the fibre's registers are as they were. -/
def Machine.State.Posted (s : State) (f : Fibre) (i : Instr) (stall : Nat) (a : Access) (u : State) : Prop :=
  ∃ ra : List RaEntry,
    u = ({ (if a.rel then s.release f.uid else s) with
        accs := s.accs ++ [a], roundabout := ra, nextId := s.nextId + 1 } : State).retire
      (f.raise a.id (classOf a.loc a.op)) i { stall := stall } ∧
    (∃ r ∈ ra, a.id ∈ r.accs ∧ r.core = f.core ∧ r.line = a.loc.line ∧ r.store = !a.op.isLoad) ∧
    (∀ q ∈ s.roundabout, ∃ r ∈ ra, r.core = q.core ∧ r.line = q.line ∧ r.store = q.store ∧ r.sent = q.sent ∧
      ∀ n ∈ q.accs, n ∈ r.accs)

/-- The access can be performed: it is sent and none of its fibre's earlier accesses to its bytes goes first (R128, R129), no
plaza, no copy of the host and no pin stands in its way, a host line is held, and the detector takes it, which gives state u
(R227). -/
abbrev Machine.State.Serves (s : State) (a : Access) (f : Fibre) (u : State) : Prop :=
  let writes := (a.writesVal (Dec.leNat (s.seen a))).isSome
  s.acc? a.id = some a ∧ s.fib? a.fib = some f ∧ s.accReady a = true ∧ a.loc.isPeer = false ∧ a.tag = 0 ∧
  s.meet a.loc a.size 0 (writes || (a.op.isAtom && !a.op.isLoad)) = (s, .go) ∧
  s.hostInWay a.loc a.size writes = [] ∧ s.mayServe a.loc a.size writes = true ∧
  s.registerAcc f a writes = .ok u

/-- A barrier object at l can be operated on by f: nothing stands in its way, none of the fibre's own accesses to it is
outstanding (R128), its sectors hold good data (R234), and it is not damaged (R147). -/
abbrev Machine.State.ObjectOpen (s : State) (f : Fibre) (l : Loc) : Prop :=
  l.isPeer = false ∧ s.meet l 32 f.tag true = (s, .go) ∧ s.ownAhead f l 32 = false ∧ s.hostInWay l 32 true = [] ∧
  s.mayServe l 32 true = true ∧ checkRead s l 32 0 = (s, []) ∧ (s.obj l).damaged = false

/-- The sectors of an operation at l gained by the atomic unit (R221), in the state r in which the detector has taken it
(R227). Its record is complete, by `recDone`, only once the operation has been performed (R228). -/
def Machine.State.gained (r : State) (l : Loc) (n : Nat) : State :=
  (l.sectors n).foldl (fun t q => t.homeClear q) { r with nextId := r.nextId + 1 }

end Sys2Proof
end

