-- ==== Sys2Proof/Certificates/Slice0/Obligations.lean ====
section
/-! DEFINITION. The statements for the provers. An instruction's statement says what state it answers, for every
state and operands in which it issues (State.Issues); the statements on retirement say what every such state keeps. -/

open Sys2Proof Sys2Proof.Machine

/-! ## Lane instructions. Each statement gives the state after: f.setReg L d v is the result with its latency (R46,
R47), and State.retire what every retirement does. -/

/-- R71, R72, R74 with R47: the integer operations of format A on words and pairs, `lea`, moves and unary operations: their
results and latencies. -/
def Obligations.IntegerResults : Prop :=
  (∀ (s : State) (f : Fibre) (h : Hdr) (b a d : Reg),
  (∀ op ∈ ([
      (.addI32, 2, fun x y => x + y),
      (.subI32, 2, fun x y => x - y),
      (.mulLoI32, 4, fun x y => x * y),
      (.mulHiI32, 4, fun x y => (x.signExtend 64 * y.signExtend 64).extractLsb' 32 32),
      (.mulHiN32, 4, fun x y => (x.setWidth 64 * y.setWidth 64).extractLsb' 32 32),
      (.andB32, 2, fun x y => x &&& y),
      (.orB32, 2, fun x y => x ||| y),
      (.xorB32, 2, fun x y => x ^^^ y),
      (.andnB32, 2, fun x y => x &&& ~~~y)] : List ((Hdr → Reg → Reg → Reg → Instr) × Nat × (Word → Word → Word))),
    s.Issues f (op.1 h b a d) h.g [b, a, d] [rc a, rc b] →
    exec (op.1 h b a d) s =
      .next (s.retire (f.setReg op.2.1 d (op.2.2 (f.reg a) (f.reg b))) (op.1 h b a d) { stall := h.s.toNat })) ∧
  (∀ op ∈ ([
      (.shlB32, 2, fun x y => x <<< (y.toNat % 32)),
      (.shrN32, 2, fun x y => x >>> (y.toNat % 32)),
      (.shrI32, 2, fun x y => x.sshiftRight (y.toNat % 32)),
      (.rotB32, 2, fun x y => x <<< (y.toNat % 32) ||| x >>> (32 - y.toNat % 32)),
      (.minI32, 2, fun x y => if x.sle y then x else y),
      (.maxI32, 2, fun x y => if y.sle x then x else y),
      (.minN32, 2, fun x y => if x.ule y then x else y),
      (.maxN32, 2, fun x y => if y.ule x then x else y)] :
        List ((Hdr → Reg → Reg → Reg → Instr) × Nat × (Word → Word → Word))),
    s.Issues f (op.1 h b a d) h.g [b, a, d] [rc a, rc b] →
    exec (op.1 h b a d) s =
      .next (s.retire (f.setReg op.2.1 d (op.2.2 (f.reg a) (f.reg b))) (op.1 h b a d) { stall := h.s.toNat })) ∧
  (s.Issues f (.madLoI32 h b a d) h.g [b, a, d] [rc a, rc b, rc d] →
    exec (.madLoI32 h b a d) s =
      .next (s.retire (f.setReg 4 d (f.reg d + f.reg a * f.reg b)) (.madLoI32 h b a d) { stall := h.s.toNat }))) ∧
  (∀ (s : State) (f : Fibre) (h : Hdr) (b a d : Reg) (sh : BitVec 2),
  (∀ op ∈ ([
      (.addI64, fun x y => x + y),
      (.subI64, fun x y => x - y)] : List ((Hdr → Reg → Reg → Reg → Instr) × (DWord → DWord → DWord))),
    s.Issues f (op.1 h b a d) h.g [b, odd b, a, odd a, d, odd d] [rc a, rc (odd a), rc b, rc (odd b)] →
    exec (op.1 h b a d) s =
      .next (s.retire (f.setPair 4 d (op.2 (f.pair a) (f.pair b))) (op.1 h b a d) { stall := h.s.toNat })) ∧
  (∀ op ∈ ([
      (.mulWideI32, fun x y => x.signExtend 64 * y.signExtend 64),
      (.mulWideN32, fun x y => x.setWidth 64 * y.setWidth 64)] :
        List ((Hdr → Reg → Reg → Reg → Instr) × (Word → Word → DWord))),
    s.Issues f (op.1 h b a d) h.g [b, a, d, odd d] [rc a, rc b] →
    exec (op.1 h b a d) s =
      .next (s.retire (f.setPair 4 d (op.2 (f.reg a) (f.reg b))) (op.1 h b a d) { stall := h.s.toNat })) ∧
  (∀ op ∈ ([
      (.leaN32, fun x => x.setWidth 64),
      (.leaI32, fun x => x.signExtend 64)] :
        List ((Hdr → Reg → Reg → Reg → BitVec 2 → Instr) × (Word → DWord))),
    s.Issues f (op.1 h b a d sh) h.g [b, a, odd a, d, odd d] [rc b, rc a, rc (odd a)] →
    exec (op.1 h b a d sh) s =
      .next (s.retire (f.setPair 2 d (f.pair a + (op.2 (f.reg b) <<< sh.toNat))) (op.1 h b a d sh)
        { stall := h.s.toNat }))) ∧
  (∀ (s : State) (f : Fibre) (h : Hdr) (a d : Reg),
  (∀ op ∈ ([
      (.mov, fun x => x),
      (.notB32, fun x => ~~~x),
      (.negI32, fun x => 0 - x),
      (.absI32, fun x => if x.msb then 0 - x else x),
      (.popcB32, opPopc),
      (.clzB32, opClz),
      (.brevB32, opBrev)] : List ((Hdr → Reg → Reg → Instr) × (Word → Word))),
    s.Issues f (op.1 h a d) h.g [a, d] [rc a] →
    exec (op.1 h a d) s =
      .next (s.retire (f.setReg 2 d (op.2 (f.reg a))) (op.1 h a d) { stall := h.s.toNat })) ∧
  (s.Issues f (.movB64 h a d) h.g [a, odd a, d, odd d] [rc a, rc (odd a)] →
    exec (.movB64 h a d) s =
      .next (s.retire (f.setPair 2 d (f.pair a)) (.movB64 h a d) { stall := h.s.toNat })))

/-- R73 with R31 and R47: the integer operations with an immediate, with and without `ext`: imm9 and imm13 widen K. -/
def Obligations.ImmediateResults : Prop :=
  ∀ (s : State) (f : Fibre) (h : Hdr) (v : Option (BitVec 19)) (imm : BitVec 9) (k : BitVec 13) (k6 : BitVec 6)
    (a d : Reg),
  (∀ op ∈ ([
      (.addI32Imm, 2, fun x y => x + y),
      (.subI32Imm, 2, fun x y => x - y),
      (.mulLoI32Imm, 2, fun x y => x * y),
      (.andB32Imm, 2, fun x y => x &&& y),
      (.orB32Imm, 2, fun x y => x ||| y),
      (.xorB32Imm, 2, fun x y => x ^^^ y),
      (.shlB32Imm, 2, fun x y => x <<< (y.toNat % 32)),
      (.shrN32Imm, 2, fun x y => x >>> (y.toNat % 32)),
      (.shrI32Imm, 2, fun x y => x.sshiftRight (y.toNat % 32)),
      (.minI32Imm, 2, fun x y => if x.sle y then x else y),
      (.maxI32Imm, 2, fun x y => if y.sle x then x else y)] :
        List ((Hdr → BitVec 9 → Reg → Instr) × Nat × (Word → Word → Word))),
    s.Issues f (withExt v (op.1 h imm d)) h.g [d] [rc d] →
    exec (withExt v (op.1 h imm d)) s =
      .next (s.retire (f.setReg op.2.1 d (op.2.2 (f.reg d) (imm9 v imm))) (withExt v (op.1 h imm d))
        { stall := h.s.toNat })) ∧
  (s.Issues f (withExt v (.movImm h k d)) h.g [d] [] →
    exec (withExt v (.movImm h k d)) s =
      .next (s.retire (f.setReg 2 d (imm13 v k)) (withExt v (.movImm h k d)) { stall := h.s.toNat })) ∧
  (s.Issues f (withExt v (.addI64Imm h k6 a d)) h.g [a, odd a, d, odd d] [rc a, rc (odd a)] →
    exec (withExt v (.addI64Imm h k6 a d)) s =
      .next (s.retire (f.setPair 4 d (f.pair a + imm6 v k6)) (withExt v (.addI64Imm h k6 a d))
        { stall := h.s.toNat }))

/-- R72: `popc`, `clz` and `brev` by the bits of their operand, whatever it is. -/
def Obligations.BitCountsAreExact : Prop :=
  ∀ x : Word,
  (opPopc x).toNat = ((List.range 32).filter x.getLsbD).length ∧
  (∀ n, n < 32 → ((opClz x).toNat ≤ n ↔ ∃ j, 31 - n ≤ j ∧ j < 32 ∧ x.getLsbD j = true)) ∧
  (x = 0 → opClz x = 32) ∧
  (∀ n, n < 32 → (opBrev x).getLsbD n = x.getLsbD (31 - n)) ∧
  opBrev (opBrev x) = x

/-- R30 with R47: the integer operations of the 16-bit form, d := d op a, with a a register or a 5-bit immediate. -/
def Obligations.ShortIntegerResults : Prop :=
  ∀ (s : State) (f : Fibre) (im : Bool) (a d : BitVec 5),
  (∀ op ∈ ([
      (.addI3216, fun x y => x + y),
      (.subI3216, fun x y => x - y),
      (.mulLoI3216, fun x y => x * y),
      (.andB3216, fun x y => x &&& y),
      (.orB3216, fun x y => x ||| y),
      (.xorB3216, fun x y => x ^^^ y),
      (.shlB3216, fun x y => x <<< (y.toNat % 32)),
      (.shrN3216, fun x y => x >>> (y.toNat % 32)),
      (.shrI3216, fun x y => x.sshiftRight (y.toNat % 32)),
      (.minI3216, fun x y => if x.sle y then x else y),
      (.maxI3216, fun x y => if y.sle x then x else y)] :
        List ((Bool → BitVec 5 → BitVec 5 → Instr) × (Word → Word → Word))),
    s.Issues f (op.1 im a d) 0 (uses16 im a d) (srcs16 im a d true) →
    exec (op.1 im a d) s =
      .next (s.retire (f.setReg 2 (wide5 d) (op.2 (f.reg (wide5 d)) (f.src16 im a))) (op.1 im a d) { stall := 0 })) ∧
  (s.Issues f (.mov16 im a d) 0 (uses16 im a d) (srcs16 im a d false) →
    exec (.mov16 im a d) s =
      .next (s.retire (f.setReg 2 (wide5 d) (f.src16 im a)) (.mov16 im a d) { stall := 0 }))

/-- R75 to R78 with R31, R47, R58: float arithmetic in f32 and f64, packed pairs each half by itself, absolute value,
negation and rounding to an integer; the rounding is that of the mode word or of an `ext`, and OVF is raised where it
says so. -/
def Obligations.FloatResults : Prop :=
  (∀ (s : State) (f : Fibre) (h : Hdr) (v : Option (BitVec 19)) (b a d : Reg),
  (∀ op ∈ ([
      (.faddF32, fun x y => f.fadd (extRM v) fF32 x y),
      (.fsubF32, fun x y => f.fsub (extRM v) fF32 x y),
      (.fmulF32, fun x y => f.fmul (extRM v) fF32 x y),
      (.fminF32, fun x y => (f.fmin fF32 x y, false)),
      (.fmaxF32, fun x y => (f.fmax fF32 x y, false))] :
        List ((Hdr → Reg → Reg → Reg → Instr) × (Nat → Nat → Nat × Bool))),
    s.Issues f (withExt v (op.1 h b a d)) h.g [b, a, d] [rc a, rc b] →
    exec (withExt v (op.1 h b a d)) s =
      .next (s.retireSticky (f.setReg 4 d (.ofNat 32 (op.2 (f.reg a).toNat (f.reg b).toNat).1)) (withExt v (op.1 h b a d))
        h.s.toNat false (op.2 (f.reg a).toNat (f.reg b).toNat).2)) ∧
  (∀ op ∈ ([
      (.faddF64, fun x y => f.fadd (extRM v) fF64 x y),
      (.fsubF64, fun x y => f.fsub (extRM v) fF64 x y),
      (.fmulF64, fun x y => f.fmul (extRM v) fF64 x y)] :
        List ((Hdr → Reg → Reg → Reg → Instr) × (Nat → Nat → Nat × Bool))),
    s.Issues f (withExt v (op.1 h b a d)) h.g [b, odd b, a, odd a, d, odd d] [rc a, rc (odd a), rc b, rc (odd b)] →
    exec (withExt v (op.1 h b a d)) s =
      .next (s.retireSticky (f.setPair 8 d (.ofNat 64 (op.2 (f.pair a).toNat (f.pair b).toNat).1))
        (withExt v (op.1 h b a d)) h.s.toNat false (op.2 (f.pair a).toNat (f.pair b).toNat).2)) ∧
  (let r := f.ffma (extRM v) fF32 (f.reg a).toNat (f.reg b).toNat (f.reg d).toNat;
    s.Issues f (withExt v (.ffmaF32 h b a d)) h.g [b, a, d] [rc a, rc b, rc d] →
    exec (withExt v (.ffmaF32 h b a d)) s =
      .next (s.retireSticky (f.setReg 4 d (.ofNat 32 r.1)) (withExt v (.ffmaF32 h b a d)) h.s.toNat false r.2)) ∧
  (let r := f.ffma (extRM v) fF64 (f.pair a).toNat (f.pair b).toNat (f.pair d).toNat;
    s.Issues f (withExt v (.ffmaF64 h b a d)) h.g [b, odd b, a, odd a, d, odd d]
      [rc a, rc (odd a), rc b, rc (odd b), rc d, rc (odd d)] →
    exec (withExt v (.ffmaF64 h b a d)) s =
      .next (s.retireSticky (f.setPair 8 d (.ofNat 64 r.1)) (withExt v (.ffmaF64 h b a d)) h.s.toNat false r.2)) ∧
  (∀ op ∈ ([
      (.fminF64, fun x y => f.fmin fF64 x y),
      (.fmaxF64, fun x y => f.fmax fF64 x y)] : List ((Hdr → Reg → Reg → Instr) × (Nat → Nat → Nat))),
    s.Issues f (withExt v (op.1 h a d)) h.g [a, odd a, d, odd d] [rc d, rc (odd d), rc a, rc (odd a)] →
    exec (withExt v (op.1 h a d)) s =
      .next (s.retire (f.setPair 8 d (.ofNat 64 (op.2 (f.pair d).toNat (f.pair a).toNat))) (withExt v (op.1 h a d))
        { stall := h.s.toNat }))) ∧
  (∀ (s : State) (f : Fibre) (h : Hdr) (v : Option (BitVec 19)) (b a d : Reg),
  (∀ op ∈ ([
      (.haddH2, halves (f.fadd (extRM v) fF16)),
      (.hmulH2, halves (f.fmul (extRM v) fF16))] :
        List ((Hdr → Reg → Reg → Reg → Instr) × (Word → Word → Word × Bool))),
    s.Issues f (withExt v (op.1 h b a d)) h.g [b, a, d] [rc a, rc b] →
    exec (withExt v (op.1 h b a d)) s =
      .next (s.retireSticky (f.setReg 4 d (op.2 (f.reg a) (f.reg b)).1) (withExt v (op.1 h b a d)) h.s.toNat false
        (op.2 (f.reg a) (f.reg b)).2)) ∧
  (∀ op ∈ ([
      (.hfmaH2, halves3 (f.ffma (extRM v) fF16)),
      (.hfmaBh2, halves3 (f.ffma (extRM v) fBF16))] :
        List ((Hdr → Reg → Reg → Reg → Instr) × (Word → Word → Word → Word × Bool))),
    s.Issues f (withExt v (op.1 h b a d)) h.g [b, a, d] [rc a, rc b, rc d] →
    exec (withExt v (op.1 h b a d)) s =
      .next (s.retireSticky (f.setReg 4 d (op.2 (f.reg a) (f.reg b) (f.reg d)).1) (withExt v (op.1 h b a d)) h.s.toNat
        false (op.2 (f.reg a) (f.reg b) (f.reg d)).2)) ∧
  (∀ op ∈ ([
      (.haddBh2, halves (f.fadd (extRM v) fBF16)),
      (.hmulBh2, halves (f.fmul (extRM v) fBF16)),
      (.hminH2, halves fun x y => (f.fmin fF16 x y, false)),
      (.hmaxH2, halves fun x y => (f.fmax fF16 x y, false)),
      (.hminBh2, halves fun x y => (f.fmin fBF16 x y, false)),
      (.hmaxBh2, halves fun x y => (f.fmax fBF16 x y, false))] :
        List ((Hdr → Reg → Reg → Instr) × (Word → Word → Word × Bool))),
    s.Issues f (withExt v (op.1 h a d)) h.g [a, d] [rc d, rc a] →
    exec (withExt v (op.1 h a d)) s =
      .next (s.retireSticky (f.setReg 4 d (op.2 (f.reg d) (f.reg a)).1) (withExt v (op.1 h a d)) h.s.toNat false
        (op.2 (f.reg d) (f.reg a)).2))) ∧
  (∀ (s : State) (f : Fibre) (h : Hdr) (v : Option (BitVec 19)) (a d : Reg),
  (∀ op ∈ ([
      (.fabsF32, opFabs fF32 f),
      (.fnegF32, opFneg fF32 f),
      (.frintF32, opFrint (extRM v) f)] : List ((Hdr → Reg → Reg → Instr) × (Nat → Nat))),
    s.Issues f (withExt v (op.1 h a d)) h.g [a, d] [rc a] →
    exec (withExt v (op.1 h a d)) s =
      .next (s.retire (f.setReg 4 d (.ofNat 32 (op.2 (f.reg a).toNat))) (withExt v (op.1 h a d)) { stall := h.s.toNat })) ∧
  (∀ op ∈ ([
      (.fabsF64, opFabs fF64 f),
      (.fnegF64, opFneg fF64 f)] : List ((Hdr → Reg → Reg → Instr) × (Nat → Nat))),
    s.Issues f (withExt v (op.1 h a d)) h.g [a, odd a, d, odd d] [rc a, rc (odd a)] →
    exec (withExt v (op.1 h a d)) s =
      .next (s.retire (f.setPair 8 d (.ofNat 64 (op.2 (f.pair a).toNat))) (withExt v (op.1 h a d))
        { stall := h.s.toNat })))

/-- R78: the sign of `fabs` is clear, `fneg` of a number differs from it in the sign bit alone, and a NaN gives the
canonical NaN, in f32 and f64, whatever the flush bits hold. -/
def Obligations.FloatSignOperations : Prop :=
  ∀ (f : Fibre) (x : Nat) (fm : Fmt), (fm = fF32 ∨ fm = fF64) → x < 2 ^ (fm.width + 1) →
  ((fm.val x).isNan = true → opFabs fm f x = fm.canon ∧ opFneg fm f x = fm.canon) ∧
  ((fm.val x).isNan = false →
    opFabs fm f x < 2 ^ fm.width ∧
    opFneg fm f x < 2 ^ (fm.width + 1) ∧ opFneg fm f x % 2 ^ fm.width = opFabs fm f x ∧
    (opFneg fm f x / 2 ^ fm.width ≠ x / 2 ^ fm.width))

/-- R30, R73 with R31, R47: the float operations with an immediate and of the 16-bit form, rounded under the mode
word; the immediate is the float nearest to the integer. -/
def Obligations.FloatImmediateResults : Prop :=
  ∀ (s : State) (f : Fibre) (h : Hdr) (v : Option (BitVec 19)) (imm : BitVec 9) (d : Reg) (im : Bool) (a5 d5 : BitVec 5),
  (∀ op ∈ ([
      (.faddF32Imm, fun x y => f.fadd none fF32 x y),
      (.fmulF32Imm, fun x y => f.fmul none fF32 x y),
      (.fmaxF32Imm, fun x y => (f.fmax fF32 x y, false))] :
        List ((Hdr → BitVec 9 → Reg → Instr) × (Nat → Nat → Nat × Bool))),
    s.Issues f (withExt v (op.1 h imm d)) h.g [d] [rc d] →
    exec (withExt v (op.1 h imm d)) s =
      .next (s.retireSticky (f.setReg 4 d (.ofNat 32 (op.2 (f.reg d).toNat (immF32 (imm9 v imm))).1))
        (withExt v (op.1 h imm d)) h.s.toNat false (op.2 (f.reg d).toNat (immF32 (imm9 v imm))).2)) ∧
  (let r := halves (f.fadd none fF16) (f.reg d) (immH2 (imm9 v imm));
    s.Issues f (withExt v (.haddH2Imm h imm d)) h.g [d] [rc d] →
    exec (withExt v (.haddH2Imm h imm d)) s =
      .next (s.retireSticky (f.setReg 4 d r.1) (withExt v (.haddH2Imm h imm d)) h.s.toNat false r.2)) ∧
  (∀ op ∈ ([
      (.faddF3216, fun x y => f.fadd none fF32 x y),
      (.fmulF3216, fun x y => f.fmul none fF32 x y),
      (.fmaxF3216, fun x y => (f.fmax fF32 x y, false))] :
        List ((Bool → BitVec 5 → BitVec 5 → Instr) × (Nat → Nat → Nat × Bool))),
    s.Issues f (op.1 im a5 d5) 0 (uses16 im a5 d5) (srcs16 im a5 d5 true) →
    exec (op.1 im a5 d5) s =
      .next (s.retireSticky (f.setReg 4 (wide5 d5) (.ofNat 32 (op.2 (f.reg (wide5 d5)).toNat (f.srcF16 im a5)).1))
        (op.1 im a5 d5) 0 false (op.2 (f.reg (wide5 d5)).toNat (f.srcF16 im a5)).2)) ∧
  (let r := halves (f.fadd none fF16) (f.reg (wide5 d5)) (f.srcH16 im a5);
    s.Issues f (.haddH216 im a5 d5) 0 (uses16 im a5 d5) (srcs16 im a5 d5 true) →
    exec (.haddH216 im a5 d5) s =
      .next (s.retireSticky (f.setReg 4 (wide5 d5) r.1) (.haddH216 im a5 d5) 0 false r.2))

/-- R79 to R81 with R47: conversions and special functions. A special-function value on ordinary operands is a value
the model computes within the bound the rule gives (log 31). -/
def Obligations.ConversionResults : Prop :=
  ∀ (s : State) (f : Fibre) (h : Hdr) (v : Option (BitVec 19)) (dst src : WideTy) (n : NarrowTy) (a d : Reg),
  (let r := cvtOut f (extRM v) dst (cvtIn f src a);
    s.Issues f (withExt v (.cvt h dst src a d)) h.g
      ((if src.wide then [a, odd a] else [a]) ++ (if dst.wide then [d, odd d] else [d]))
      (if src.wide then [rc a, rc (odd a)] else [rc a]) →
    exec (withExt v (.cvt h dst src a d)) s =
      .next (s.retireSticky (if dst.wide then f.setPair 4 d r.1 else f.setReg 4 d (r.1.setWidth 32))
        (withExt v (.cvt h dst src a d)) h.s.toNat r.2.1 r.2.2)) ∧
  (let r := narrow (f.rm none) n (f.inVal fF32 (f.reg a).toNat);
    s.Issues f (.cvtToNarrow h n a d) h.g [a, d] [rc a] →
    exec (.cvtToNarrow h n a d) s =
      .next (s.retireSticky (f.setReg 4 d r.1) (.cvtToNarrow h n a d) h.s.toNat r.2 false)) ∧
  (s.Issues f (.cvtFromNarrow h n a d) h.g [a, d] [rc a] →
    exec (.cvtFromNarrow h n a d) s =
      .next (s.retire (f.setReg 4 d (.ofNat 32 (widenCode n ((f.reg a).toNat % 2 ^ narrowBits n))))
        (.cvtFromNarrow h n a d) { stall := h.s.toNat })) ∧
  (∀ op ∈ ([
      (.rcpF32, fnRcp),
      (.rsqrtF32, fnRsqrt),
      (.exp2F32, fnExp2),
      (.log2F32, fnLog2),
      (.sinF32, fnSin),
      (.cosF32, fnCos)] : List ((Hdr → Reg → Reg → Instr) × (FVal → FVal))),
    let r := fF32.round .ne (f.fz fF32) f.satf (op.2 (f.inVal fF32 (f.reg a).toNat))
    s.Issues f (op.1 h a d) h.g [a, d] [rc a] →
    exec (op.1 h a d) s =
      .next (s.retireSticky (f.setReg 12 d (.ofNat 32 r.1)) (op.1 h a d) h.s.toNat false r.2))

/-- R82 to R84 with R47: compares write a predicate; predicate logic, `pget` and `pset`. -/
def Obligations.PredicateResults : Prop :=
  ∀ (s : State) (f : Fibre) (h : Hdr) (v : Option (BitVec 19)) (cc : Cc) (p : Pred) (p2 : BitVec 2) (imm : BitVec 7)
    (pa pb : Pred) (b a d : Reg),
  (∀ op ∈ ([
      (.cmpI32, fun x y => icmp true cc x y),
      (.cmpN32, fun x y => icmp false cc x y),
      (.cmpF32, fun x y => fcmp cc (f.inVal fF32 x.toNat) (f.inVal fF32 y.toNat))] :
        List ((Hdr → Cc → Pred → Reg → Reg → Instr) × (Word → Word → Bool))),
    s.Issues f (op.1 h cc p b a) h.g [b, a] [rc a, rc b] →
    exec (op.1 h cc p b a) s =
      .next (s.retire (f.setPred 2 p (op.2 (f.reg a) (f.reg b))) (op.1 h cc p b a) { stall := h.s.toNat })) ∧
  (s.Issues f (.cmpF64 h cc p b a) h.g [b, odd b, a, odd a] [rc a, rc (odd a), rc b, rc (odd b)] →
    exec (.cmpF64 h cc p b a) s =
      .next (s.retire (f.setPred 2 p (fcmp cc (f.inVal fF64 (f.pair a).toNat) (f.inVal fF64 (f.pair b).toNat)))
        (.cmpF64 h cc p b a) { stall := h.s.toNat })) ∧
  (∀ op ∈ ([(.cmpI32Imm, true), (.cmpN32Imm, false)] :
        List ((Hdr → Cc → BitVec 2 → BitVec 7 → Reg → Instr) × Bool)),
    s.Issues f (withExt v (op.1 h cc p2 imm a)) h.g [a] [rc a] →
    exec (withExt v (op.1 h cc p2 imm a)) s =
      .next (s.retire (f.setPred 2 (p2.setWidth 3) (icmp op.2 cc (f.reg a) (imm7 v imm)))
        (withExt v (op.1 h cc p2 imm a)) { stall := h.s.toNat })) ∧
  (∀ op ∈ ([
      (.pand, fun x y => x && y),
      (.por, fun x y => x || y),
      (.pxor, fun x y => x != y),
      (.pandn, fun x y => x && !y)] : List ((Hdr → Pred → Pred → Pred → Instr) × (Bool → Bool → Bool))),
    s.Issues f (op.1 h pa pb p) h.g [] [pc8 pa, pc8 pb] →
    exec (op.1 h pa pb p) s =
      .next (s.retire (f.setPred 2 p (op.2 (f.pred pa) (f.pred pb))) (op.1 h pa pb p) { stall := h.s.toNat })) ∧
  (s.Issues f (.pget h d) h.g [d] [65, 66, 67, 68, 69, 70, 71] →
    exec (.pget h d) s =
      .next (s.retire (f.setReg 2 d ((f.preds &&& 0xFE).setWidth 32)) (.pget h d) { stall := h.s.toNat })) ∧
  (s.Issues f (.pset h a) h.g [a] [rc a] →
    exec (.pset h a) s =
      .next (s.retire ([1, 2, 3, 4, 5, 6, 7].foldl (fun g n => g.setPred 2 (.ofNat 3 n) ((f.reg a).getLsbD n)) f)
        (.pset h a) { stall := h.s.toNat }))

/-- R82: the conditions of integer compares, as relations on the integers that the operands stand for. -/
def Obligations.IntegerCompareRelations : Prop :=
  ∀ x y : Word,
  (icmp true .eq x y = true ↔ x = y) ∧ (icmp true .ne x y = true ↔ x ≠ y) ∧
  (icmp true .lt x y = true ↔ x.toInt < y.toInt) ∧ (icmp true .le x y = true ↔ x.toInt ≤ y.toInt) ∧
  (icmp true .gt x y = true ↔ y.toInt < x.toInt) ∧ (icmp true .ge x y = true ↔ y.toInt ≤ x.toInt) ∧
  (icmp false .eq x y = true ↔ x = y) ∧ (icmp false .ne x y = true ↔ x ≠ y) ∧
  (icmp false .lt x y = true ↔ x.toNat < y.toNat) ∧ (icmp false .le x y = true ↔ x.toNat ≤ y.toNat) ∧
  (icmp false .gt x y = true ↔ y.toNat < x.toNat) ∧ (icmp false .ge x y = true ↔ y.toNat ≤ x.toNat) ∧
  (∀ sg : Bool, icmp sg .tst x y = true ↔ x &&& y ≠ 0)

/-- R205 with R47: compress. -/
def Obligations.CompressResults : Prop :=
  ∀ (s : State) (f : Fibre) (h : Hdr) (b a d : Reg),
  (∀ op ∈ ([
      (.spkI8, fun e => if e < 128 then e else 256 - e),
      (.spkF8, fun e => e % 128)] : List ((Hdr → Reg → Reg → Reg → Instr) × (Nat → Nat))),
    let es := spkElems 8 (f.pair a).toNat
    let kept := spkKept (es.map op.2)
    s.Issues f (op.1 h b a d) h.g [b, d, a, odd a] [rc a, rc (odd a)] →
    exec (op.1 h b a d) s =
      .next (s.retire ((f.setReg 6 d (.ofNat 32 (spkPack 8 es kept))).setReg 6 b (spkMask kept)) (op.1 h b a d)
        { stall := h.s.toNat })) ∧
  (let es := spkElems 16 ((f.pair a).toNat + 2 ^ 64 * (f.pair (a + 2)).toNat);
    let kept := spkKept (es.map (· % 32768));
    s.Issues f (.spkBf16 h b a d) h.g [b, d, odd d, a, odd a, a + 2, odd (a + 2)]
      [rc a, rc (odd a), rc (a + 2), rc (odd (a + 2))] →
    exec (.spkBf16 h b a d) s =
      .next (s.retire ((f.setPair 6 d (.ofNat 64 (spkPack 16 es kept))).setReg 6 b (spkMask kept)) (.spkBf16 h b a d)
        { stall := h.s.toNat }))

/-- R205, R208: of eight magnitudes compress keeps exactly four, in ascending place, and none that it drops is larger
than one that it keeps. -/
def Obligations.CompressKeepsTheFourLargest : Prop :=
  ∀ mag : List Nat, mag.length = 8 →
  (spkKept mag).length = 4 ∧ (spkKept mag).Pairwise (· < ·) ∧
  ∀ i j, i ∈ spkKept mag → j < 8 → j ∉ spkKept mag → mag.getD j 0 ≤ mag.getD i 0

/-! ## Retirement, visibility, guards and traps. -/

/-- What `State.retire` keeps, for every instruction that retires by it. Of the machine only the fibre f and the lanes
of the current issue of its batch change: memory, special state, every other fibre and every unit stand as they were.
Of the fibre all stands but the PC, the counts, the wait, what is live, the loops with the ranges bound to them, the model's
notes of fused groups, of a wait under a trap, of the instruction begun and of a restore (logs 62, 74, 102), and the registers and
predicates whose earlier writes become visible, or in which a value has landed meanwhile (DESIGN CHOICE, log 101). That a wait was
a safe point is log 20 (DEDUCED). -/
def Obligations.RetireFrame : Prop :=
  (∀ (s : State) (f : Fibre) (i : Instr) (r : Retire),
  (∃ fs bs, s.retire f i r = { s with fibres := fs, batches := bs }) ∧
  (∀ u, u ≠ f.uid → (s.retire f i r).fib? u = s.fib? u) ∧
  ((s.fib? f.uid).isSome = true →
    (s.retire f i r).fib? f.uid = some (if r.safe = true then (f.retire (s.det f) i.size r).atSafePoint
      else f.retire (s.det f) i.size r)) ∧
  ((s.retire f i r).batches.map (fun b => (b.id, b.lanes)) = s.batches.map fun b => (b.id, b.lanes))) ∧
  (∀ (f : Fibre) (det : Bool) (size : Nat) (r : Retire),
  let g := f.retire det size r
  g.uid = f.uid ∧ g.launch = f.launch ∧ g.block = f.block ∧ g.core = f.core ∧ g.fid = f.fid ∧ g.origin = f.origin ∧
  g.status = f.status ∧ g.window = f.window ∧ g.prio = f.prio ∧ g.mode = f.mode ∧ g.sat = f.sat ∧ g.outs = f.outs ∧
  g.set = f.set ∧ g.arrived = f.arrived ∧ g.held = f.held ∧ g.tag = f.tag ∧ g.passed = f.passed ∧ g.seg = f.seg ∧
  g.tiles = f.tiles ∧ g.craco = f.craco ∧ g.xlat = f.xlat ∧ g.votes = f.votes ∧ g.vector = f.vector ∧ g.trapMode = f.trapMode ∧ g.deferred = f.deferred ∧
  g.mxFaults = f.mxFaults ∧ g.preempt = f.preempt ∧ g.inline = f.inline ∧ g.frames.length = f.frames.length ∧
  g.stopped = f.stopped ∧ g.plzSet = f.plzSet ∧ g.abort = f.abort ∧ g.aborted = f.aborted ∧ g.tickDue = f.tickDue ∧
  g.rebody = f.rebody ∧ g.result = f.result ∧ g.after = f.after ∧ g.before = f.before ∧ g.parent = f.parent ∧
  g.mxSeq = f.mxSeq ∧ g.loopSeq = f.loopSeq ∧ g.wseq = f.wseq ∧
  g.wait = .none ∧ g.waited = false ∧ g.inst = none ∧ g.fresh = false ∧ g.live = r.live ∧
  (∀ c : Reg, f.early (rc c) = false → (∀ p ∈ f.landed, p.2.1 ≠ rc c) → g.reg c = f.reg c) ∧
  (∀ p : Pred, f.early (pc8 p) = false → (∀ q ∈ f.landed, q.2.1 ≠ pc8 p) → g.pred p = f.pred p) ∧
  ((f.craco = true ∨ f.xlat = true) → g.pend = []) ∧
  (f.trapMode = true → g.hbc = f.hbc ∧ g.dist = f.dist) ∧
  (f.trapMode = false →
    g.hbc = (if det = true then f.hbc + 1 else f.hbc) ∧
    g.dist = (if r.safe = true then 0 else if f.waited = true then 1 else f.dist + 1)))

/-- R46: a fixed-latency write of a register becomes visible at its latency, and a read before that is early. Where everything
becomes visible, it is what the register reads, unless a load that issued later has landed there meanwhile; the place at which such
a value waits is the model's (DESIGN CHOICE, log 101). -/
def Obligations.WriteBecomesVisibleAtItsLatency : Prop :=
  ∀ (f : Fibre) (c : Reg) (v : Word) (latency n : Nat), c ≠ 0 → f.early (rc c) = false → 0 < latency →
  let g := f.setReg latency c v
  g.reg c = f.reg c ∧ g.early (rc c) = true ∧
  (n < latency → (g.advance n).reg c = f.reg c ∧ (g.advance n).early (rc c) = true) ∧
  (latency ≤ n → (g.advance n).reg c = v ∧ (g.advance n).early (rc c) = false) ∧
  ((∀ p ∈ f.landed, p.2.1 ≠ rc c) → g.flush.reg c = v) ∧ g.flush.early (rc c) = false ∧ g.flush.landed = []

/-- R48. -/
def Obligations.YoungestVisibleWriteStands : Prop :=
  ∀ (f : Fibre) (c : Reg) (v1 v2 : Word) (l1 l2 n m : Nat), c ≠ 0 → f.early (rc c) = false → 0 < l1 → 0 < l2 →
  let g := (((f.setReg l1 c v1).advance n).setReg l2 c v2)
  (g.advance m).reg c = (if l2 ≤ m then v2 else if l1 ≤ n + m then v1 else f.reg c) ∧
  ∀ k, ((g.advance m).advance k).reg c =
    (if l2 ≤ m + k then v2 else if l1 ≤ n + m + k then v1 else f.reg c)

/-- R27: g0 reads 0 and p0 reads 1, and a write to either changes nothing. -/
def Obligations.ZeroRegisterAndTruePredicate : Prop :=
  ∀ (f : Fibre) (v : Word) (b : Bool) (latency : Nat),
  f.reg 0 = 0 ∧ f.pred 0 = true ∧ f.setReg latency 0 v = f ∧ f.setPred latency 0 b = f ∧
  (f.setRegNow 0 v).reg 0 = 0 ∧ (∀ r : Reg, (f.setRegNow 0 v).reg r = f.reg r) ∧
  (∀ w : DWord, f.setPair latency 0 w = f.setReg latency 1 (w.extractLsb' 32 32))

/-- R26: an instruction of a fibre outside every held batch whose guard does not hold retires with its own stall field and no
other effect; under CHK an early read of the guard traps STALL_SHORT. Only where the encoding gives it does it take
UNDEF, as one after an `ext` that R31 does not give it (R32, R44). That a `sset` with a false guard keeps its own stall field, where
R62 has every `sset` interlock, is log 73, and that a `nap`, a counter wait or a phase wait with one adds its stall field alone is
log 116 (each DESIGN CHOICE). -/
def Obligations.FalseGuardHasNoEffect : Prop :=
  ∀ (i : Instr) (s : State) (f : Fibre), i.isStep = false → s.cur? = some f → f.held = none →
  f.guard (guardOf i) = false →
  let early : Prop := f.chk = true ∧ f.early (pc8 ((guardOf i).setWidth 3)) = true
  (¬s.EncodingUndef f i →
    (early → exec i s = .next (s.trapAt f i .stallShort (pc8 ((guardOf i).setWidth 3)))) ∧
    (¬early → exec i s = .next (s.retire f i { stall := stallOf i }))) ∧
  (i.wf = true → s.EncodingUndef f i → exec i s = .next (s.trapAt f i .undef))

/-- R27, R31, R44, R49, R52: an integer operation of format A traps UNDEF after an `ext`, or when a register lies outside
the window, whatever its guard, and under CHK an early read traps STALL_SHORT with the lowest code read early. A 16-bit form traps
UNDEF in a Craco body. -/
def Obligations.OperandTraps : Prop :=
  ∀ (s : State) (f : Fibre) (h : Hdr) (b a d : Reg), s.cur? = some f →
  (∀ op ∈ ([.addI32, .subI32, .mulLoI32, .mulHiI32, .mulHiN32, .andB32, .orB32, .xorB32, .andnB32, .shlB32, .shrN32,
      .shrI32, .rotB32, .minI32, .maxI32, .minN32, .maxN32] : List (Hdr → Reg → Reg → Reg → Instr)),
    ((f.window ≤ b.toNat ∨ f.window ≤ a.toNat ∨ f.window ≤ d.toNat) →
      exec (op h b a d) s = .next (s.trapAt f (op h b a d) .undef)) ∧
    (∀ v, exec (.ext v (op h b a d)) s = .next (s.trapAt f (.ext v (op h b a d)) .undef)) ∧
    ((∀ r ∈ [b, a, d], r.toNat < f.window) → f.guard h.g = true → f.chk = true →
      ((f.early (pc8 (h.g.setWidth 3)) = true ∨ f.early (rc a) = true ∨ f.early (rc b) = true) →
      ∃ c, c ∈ [pc8 (h.g.setWidth 3), rc a, rc b] ∧ f.early c = true ∧
        (∀ e ∈ [pc8 (h.g.setWidth 3), rc a, rc b], f.early e = true → c ≤ e) ∧
        exec (op h b a d) s = .next (s.trapAt f (op h b a d) .stallShort c)))) ∧
  (∀ op ∈ ([.mov16, .addI3216, .subI3216, .mulLoI3216, .andB3216, .orB3216, .xorB3216, .shlB3216, .shrN3216, .shrI3216,
      .minI3216, .maxI3216, .faddF3216, .fmulF3216, .fmaxF3216, .haddH216] : List (Bool → BitVec 5 → BitVec 5 → Instr)),
    ∀ (im : Bool) (x y : BitVec 5), f.craco = true →
      exec (op im x y) s = .next (s.trapAt f (op im x y) .undef))

/-- R162, R163: the bytes of a trap record, field by field. -/
def Obligations.TrapRecordFields : Prop :=
  ∀ (f : Fibre) (t : TrapInfo) (nested : Bool),
  let rb := trapBytes f t nested
  let field (off n : Nat) : Nat := Dec.leNat ((rb.drop off).take n)
  rb.length = 64 ∧ field 0 1 = t.cause.code ∧ 1 ≤ t.cause.code ∧ t.cause.code ≤ 0x1A ∧
  field 2 1 = (match f.held with
    | some (_, n) => n % 256
    | none => 0xFF) ∧
  field 3 1 = t.detail % 2 ^ 8 ∧ field 4 4 = t.insn % 2 ^ 32 ∧ field 8 8 = t.pc % 2 ^ 64 ∧
  field 16 8 = t.iaddr % 2 ^ 64 ∧ field 24 8 = t.daddr % 2 ^ 64 ∧ field 32 8 = (f.pair 14).toNat ∧
  field 40 4 = f.mode.toNat ∧ field 44 4 = (f.preds &&& 0xFE).toNat ∧ field 48 4 = f.sat.toNat ∧
  field 52 4 = f.hbc % 2 ^ 32 ∧ field 56 4 = f.dist % 2 ^ 32 ∧ field 60 4 = 0 ∧
  (field 1 1 / 8 = 1 ↔ nested = true) ∧ (field 1 1 % 2 = 1 ↔ t.deferred = true) ∧
  (field 1 1 / 2 % 2 = 1 ↔ f.held.isSome = true) ∧ (field 1 1 / 4 % 2 = 1 ↔ f.origin ≠ .launch)

/-- R162: entering trap mode at the vector, with the record in memory; without a vector, and in trap mode, the fibre parks,
and in trap mode the trap area keeps its record. Where the record lies, that nothing is written where its address has no
translation, and that the fibre stands at its boundary while the record's access waits are the model's reading (log 4); the
distance that a trap after a wait reports is log 20 (DEDUCED). -/
def Obligations.TrapEntry : Prop :=
  (∀ (s r w : State) (f : Fibre) (t : TrapInfo) (l : Loc), s.fib? f.uid = some f → f.trapMode = false → f.vector ≠ 0 →
  let u := s.takeTrap f t
  let e : Fibre := { f.flush with wait := .none, waited := false, inst := none, dist := f.distNow, fuse := none }
  (s.recordAt f true = .wait r → u = r) ∧
  ((s.recordAt f true = .ok l r ∧ w = r.homeWrite l (trapBytes e t false)) ∨ (s.recordAt f true = .gone r ∧ w = r) →
    (∃ fs bs, u = { w with fibres := fs, batches := bs }) ∧
    (∀ n, n ≠ f.uid → u.fib? n = s.fib? n) ∧
    ∃ g, u.fib? f.uid = some g ∧ g.trapMode = true ∧ g.pc = f.vector ∧ g.pair 14 = .ofNat 64 (s.recordAddr f) ∧
      g.mode = f.mode ∧ g.dist = 0 ∧ g.hbc = f.hbc ∧ g.frames = f.frames ∧ g.outs = f.outs ∧ g.sat = f.sat ∧
      g.held = f.held ∧ g.pend = [] ∧
      (∀ r : Reg, r ≠ 14 → r ≠ 15 → g.reg r = f.flush.reg r) ∧ (∀ p : Pred, g.pred p = f.flush.pred p))) ∧
  (∀ (s : State) (f : Fibre) (t : TrapInfo), s.fib? f.uid = some f → f.tag = 0 → (f.trapMode = true ∨ f.vector = 0) →
  (f.trapMode = false → ∀ r, s.recordAt f true ≠ .wait r) →
  let u := s.takeTrap f t
  let e : Fibre := { f.flush with wait := .none, waited := false, inst := none, dist := f.distNow, fuse := none }
  (∃ g, u.fib? f.uid = some g ∧ g.status = .parked ∧ g.trapMode = f.trapMode ∧ g.pc = f.pc ∧
    (∀ r : Reg, g.reg r = f.flush.reg r)) ∧
  u.hostFaults = s.hostFaults ++ [trapBytes e t f.trapMode] ∧
  (f.trapMode = true →
    ∃ fs bs, u = { s with fibres := fs, batches := bs, hostFaults := s.hostFaults ++ [trapBytes e t true] }))

/-- R164: `tret` and `tret label` return as the record stands once the fibre's own accesses to it have taken effect (R128,
R317), and outside trap mode take UNDEF; `trap n` retires with SOFT due at the boundary after it, and in trap mode it parks. Where the record lies, the free values read where its address has no
translation, and a wait for its access are the model's reading (log 4, DEDUCED). That a record with a reserved field not zero,
which R6 has rejected, traps UNDEF, and one that is poisoned INTEGRITY, is the model's choice (DESIGN CHOICE, log 85). A lane that
returns is waited for by no instance of its batch (R86). -/
def Obligations.TrapReturn : Prop :=
  (∀ (s r z : State) (f : Fibre) (h : Hdr) (v : Option (BitVec 19)) (off : BitVec 19) (l : Loc) (rb : List Byte),
  let pc := Dec.leNat ((rb.drop 8).take 8)
  let got := checkRead (r.peekAll l 64) l 64 0
  let found : Prop := (s.recordAt f false = .ok l r ∧ r.ownAhead f l 64 = false ∧ got = (z, []) ∧ rb = z.bytes l 64) ∨
    (s.recordAt f false = .gone r ∧ z = r.draw 64 ∧ rb = r.freeBytesAt 64)
  let back (u : State) (target : Nat) : Prop :=
    u.mem = r.mem ∧ u.hostMem = r.hostMem ∧ u.spMem = s.spMem ∧
    (f.held ≠ none → ∀ b ∈ u.batches, ∀ p ∈ b.back, f.uid ∉ p.2) ∧
    ∃ g, u.fib? f.uid = some g ∧ g.trapMode = false ∧ g.pc = target ∧
      g.pair 14 = .ofNat 64 (Dec.leNat ((rb.drop 32).take 8)) ∧
      g.mode = .ofNat 32 (Dec.leNat ((rb.drop 40).take 4) % 512) ∧
      (∀ n : Pred, n ≠ 0 → g.pred n = (BitVec.ofNat 8 (Dec.leNat ((rb.drop 44).take 1))).getLsbD n.toNat) ∧
      (∀ r : Reg, r ≠ 14 → r ≠ 15 → g.reg r = f.flush.reg r) ∧ g.frames.length = f.frames.length ∧
      g.outs = f.outs ∧ g.held = f.held ∧ g.hbc = f.hbc ∧ g.dist = f.dist
  (s.Issues f (.tret h) h.g [] [] →
    (f.trapMode = true → found → badRecord rb = false → pc % 2 = 0 → pc < 2 ^ 57 →
      ∃ u, exec (.tret h) s = .next u ∧ back u pc) ∧
    (f.trapMode = true → found → badRecord rb = true → exec (.tret h) s = .next (z.trapAt f (.tret h) .undef)) ∧
    (f.trapMode = true → s.recordAt f false = .ok l r → r.ownAhead f l 64 = true → exec (.tret h) s = .next r) ∧
    (f.trapMode = true → s.recordAt f false = .ok l r → r.ownAhead f l 64 = false → got.2 ≠ [] →
      exec (.tret h) s = .next (got.1.trapAt f (.tret h) .integrity 0 (s.recordAddr f))) ∧
    (f.trapMode = true → s.recordAt f false = .wait r → exec (.tret h) s = .next r) ∧
    (f.trapMode = false → exec (.tret h) s = .next (s.trapAt f (.tret h) .undef))) ∧
  (s.Issues f (withExt v (.tretLabel h off)) h.g [] [] →
    (f.trapMode = true → found → badRecord rb = false →
      ∃ u, exec (withExt v (.tretLabel h off)) s = .next u ∧ back u (targetE f.pc v off)) ∧
    (f.trapMode = true → found → badRecord rb = true →
      exec (withExt v (.tretLabel h off)) s = .next (z.trapAt f (withExt v (.tretLabel h off)) .undef)) ∧
    (f.trapMode = true → s.recordAt f false = .ok l r → r.ownAhead f l 64 = true →
      exec (withExt v (.tretLabel h off)) s = .next r) ∧
    (f.trapMode = true → s.recordAt f false = .ok l r → r.ownAhead f l 64 = false → got.2 ≠ [] →
      exec (withExt v (.tretLabel h off)) s =
        .next (got.1.trapAt f (withExt v (.tretLabel h off)) .integrity 0 (s.recordAddr f))) ∧
    (f.trapMode = true → s.recordAt f false = .wait r → exec (withExt v (.tretLabel h off)) s = .next r) ∧
    (f.trapMode = false →
      exec (withExt v (.tretLabel h off)) s = .next (s.trapAt f (withExt v (.tretLabel h off)) .undef)))) ∧
  (∀ (s : State) (f : Fibre) (h : Hdr) (n : BitVec 6), s.Issues f (.trap h n) h.g [] [] →
  (f.trapMode = false →
    exec (.trap h n) s = .next (s.retire
      { f with deferred := ⟨0, .ld, 0, .soft, n.toNat, f.pc, insnWord (.trap h n), 0⟩ :: f.deferred } (.trap h n)
      { stall := h.s.toNat })) ∧
  (f.trapMode = true → ∃ u g, exec (.trap h n) s = .next u ∧ u.fib? f.uid = some g ∧ g.status = .parked))

/-! ## Control. -/

/-- R91 to R94, R102 with R28, R31: branches and calls go to the target the rules give; a call writes the address after
it to the link pair at once and leaves the loops standing. A register branch traps ALIGN at an odd target and PROT
beyond 57 bits, with the target in DADDR; `ret` with a link pair of 0 traps FRAME. -/
def Obligations.BranchResults : Prop :=
  (∀ (s : State) (f : Fibre) (h : Hdr) (v : Option (BitVec 19)) (off : BitVec 19) (st : BitVec 2) (cases : List Case)
    (a : Reg),
  (s.Issues f (withExt v (.bra h off)) h.g [] [] →
    exec (withExt v (.bra h off)) s = .next (s.retire f (withExt v (.bra h off))
      { stall := h.s.toNat, taken := some (targetE f.pc v off) })) ∧
  (s.Issues f (withExt v (.call h off)) h.g [] [] →
    exec (withExt v (.call h off)) s =
      .next (s.retire (f.setPairNow f.link (.ofNat 64 (f.pc + (withExt v (.call h off)).size))) (withExt v (.call h off))
        { stall := h.s.toNat, taken := some (targetE f.pc v off), leaves := false })) ∧
  (s.Issues f (.bsel st cases) 0 [] (cases.map fun c => pc8 (c.g.setWidth 3)) →
    exec (.bsel st cases) s = .next (s.retire f (.bsel st cases)
      { stall := st.toNat, taken := (cases.find? fun c => f.guard c.g).map
          fun c => (((f.pc : Int) + 2 * c.off.toInt) % (2 ^ 57 : Int)).toNat })) ∧
  (let target := (f.pair a).toNat;
    s.Issues f (.braR h a) h.g [a, odd a] [rc a, rc (odd a)] → target % 2 = 0 → target < 2 ^ 57 →
    exec (.braR h a) s = .next (s.retire f (.braR h a) { stall := h.s.toNat, taken := some target })) ∧
  (let target := (f.pair a).toNat;
    s.Issues f (.callR h a) h.g [a, odd a] [rc a, rc (odd a)] → target % 2 = 0 → target < 2 ^ 57 →
    exec (.callR h a) s = .next (s.retire (f.setPairNow f.link (.ofNat 64 (f.pc + 4))) (.callR h a)
      { stall := h.s.toNat, taken := some target, leaves := false })) ∧
  (let target := (f.pair f.link).toNat;
    s.Issues f (.ret h) h.g [] [rc f.link, rc (odd f.link)] → target ≠ 0 → target % 2 = 0 → target < 2 ^ 57 →
    exec (.ret h) s = .next (s.retire f (.ret h) { stall := h.s.toNat, taken := some target }))) ∧
  (∀ (s : State) (f : Fibre) (h : Hdr) (a : Reg),
  (∀ op ∈ ([.braR, .callR] : List (Hdr → Reg → Instr)),
    s.Issues f (op h a) h.g [a, odd a] [rc a, rc (odd a)] →
    ((f.pair a).toNat % 2 = 1 → exec (op h a) s = .next (s.trapAt f (op h a) .align 0 (f.pair a).toNat)) ∧
    ((f.pair a).toNat % 2 = 0 → 2 ^ 57 ≤ (f.pair a).toNat →
      exec (op h a) s = .next (s.trapAt f (op h a) .prot 0 (f.pair a).toNat))) ∧
  (s.Issues f (.ret h) h.g [] [rc f.link, rc (odd f.link)] →
    (f.pair f.link = 0 → exec (.ret h) s = .next (s.trapAt f (.ret h) .frame)) ∧
    ((f.pair f.link).toNat % 2 = 1 →
      exec (.ret h) s = .next (s.trapAt f (.ret h) .align 0 (f.pair f.link).toNat)) ∧
    ((f.pair f.link).toNat % 2 = 0 → 2 ^ 57 ≤ (f.pair f.link).toNat →
      exec (.ret h) s = .next (s.trapAt f (.ret h) .prot 0 (f.pair f.link).toNat))))

/-- R95, R99: `yield` retires and its fibre stands behind every other, which is the order in which ready fibres of a
level issue; `loose` leaves the batch, and no lane waits for it at a cross-lane instruction any more (R86); `prio` sets the path
priority. -/
def Obligations.IssueControlResults : Prop :=
  ∀ (s : State) (f : Fibre) (h : Hdr) (n : BitVec 4) (a : Reg),
  (s.Issues f (.yield h) h.g [] [] →
    let t := s.retire f (.yield h) { stall := h.s.toNat }
    ∃ u, exec (.yield h) s = .next u ∧
      u = { t with fibres := (t.fibres.filter fun g => g.uid != f.uid) ++ t.fibres.filter fun g => g.uid == f.uid } ∧
      ((s.fibres.map (·.uid)).Nodup → u.fibres =
        (s.fibres.filter fun g => g.uid != f.uid) ++ [f.retire (s.det f) 4 { stall := h.s.toNat }])) ∧
  (s.Issues f (.loose h) h.g [] [] →
    ∃ u, exec (.loose h) s = .next u ∧ u.mem = s.mem ∧
      u.fib? f.uid = some { f.retire (s.det f) 4 { stall := h.s.toNat } with held := none } ∧
      (∀ n, n ≠ f.uid → u.fib? n = (s.fib? n).map fun g => match f.held, g.wait with
        | some _, .lanes us => { g with wait := .lanes (us.filter (· ≠ f.uid)) }
        | _, _ => g) ∧
      (f.held ≠ none → ∀ b ∈ u.batches, ∀ p ∈ b.back, f.uid ∉ p.2) ∧
      (∀ b k, f.held = some (b, k) → ∀ t ∈ u.batches, t.id = b → k < t.lanes.length → t.lanes[k]? = some .gone)) ∧
  (s.Issues f (.prio h n) h.g [] [] →
    exec (.prio h n) s = .next (s.retire { f with prio := n } (.prio h n) { stall := h.s.toNat })) ∧
  (s.Issues f (.prioR h a) h.g [a] [rc a] →
    exec (.prioR h a) s =
      .next (s.retire { f with prio := (f.reg a).setWidth 4 } (.prioR h a) { stall := h.s.toNat }))

/-- R100, R101: `loop` installs its counter and its end, or with a count of 0 goes to the end; it ends loop N and those
installed after it. Groups of the body that cannot be fetched yet are counted as left (log 35, DEDUCED). At an address where
bodies end, DET or not, the newest loop goes back to its start with one less unless that is 0; else it is over, and the same
is asked of the others; where no body ends the fibre goes on. -/
def Obligations.LoopResults : Prop :=
  (∀ (s t : State) (f : Fibre) (h : Hdr) (n : BitVec 2) (count : Reg) (lenM1 : BitVec 8) (stop : Nat),
  let i := Instr.loop h n count lenM1
  s.Issues f i h.g [count] [rc count] →
  (f.reg count = 0 → skipGroups s f (f.pc + 4) (lenM1.toNat + 1) = .ok stop t →
    exec i s = .next (t.retire ((f.endLoops n.toNat).setLoop n.toNat ⟨0, f.pc + 4, stop, false, 0, 0⟩) i
      { stall := h.s.toNat, taken := some stop, leaves := false })) ∧
  (f.reg count ≠ 0 →
    let e := bodyEnd s f (f.pc + 4) (lenM1.toNat + 1)
    exec i s = .next (s.retire
      { (f.endLoops n.toNat).setLoop n.toNat ⟨f.reg count, f.pc + 4, e.1, true, f.loopSeq + 1, e.2⟩ with
        loopSeq := f.loopSeq + 1 } i { stall := h.s.toNat }))) ∧
  (∀ (f : Fibre) (n size : Nat) (det : Bool) (r : Retire), r.taken = none →
  let g := f.retire det size r
  let ends (m : Nat) : Prop := (f.loop m).active = true ∧ (f.loop m).left = 0 ∧ (f.loop m).stop = f.pc + size
  (n < 3 → ends n → (∀ m, m < 3 → m ≠ n → ends m → (f.loop m).order < (f.loop n).order) →
    ((f.loop n).count ≠ 1 →
      g.pc = (f.loop n).start ∧ g.loop n = { f.loop n with count := (f.loop n).count - 1 } ∧
      ∀ m, m < 3 → m ≠ n → g.loop m = f.loop m) ∧
    ((f.loop n).count = 1 →
      (g.loop n).active = false ∧ g.pc = ((f.endLoop n).retire det size r).pc ∧
      ∀ m, m < 3 → m ≠ n → g.loop m = ((f.endLoop n).retire det size r).loop m)) ∧
  ((∀ m, m < 3 → ¬ends m) → g.pc = f.pc + size ∧ ∀ m, m < 3 → g.loop m = f.loop m))

/-- R103 to R105: a fork pushes its frame while the stack has room, then records an inline-only one, and traps FRAME at
the sixty-fifth. That the offset of a `fork.c` behind an `ext` counts from the `ext` word is log 67 (DESIGN CHOICE). -/
def Obligations.ForkResults : Prop :=
  ∀ (s : State) (f : Fibre) (h : Hdr) (v : Option (BitVec 19)) (off : BitVec 11) (cntM1 : BitVec 2) (k lim idx acc : Reg)
    (n : BitVec 2) (grain : BitVec 20) (ty : RedTy) (op : RedOp),
  let pushes (i : Instr) (call : Bool) (fr : Frame) : Prop :=
    (f.frames.length < s.depth f →
      exec i s = .next (s.retire { f with frames := fr :: f.frames } i { stall := h.s.toNat })) ∧
    (s.depth f ≤ f.frames.length → f.inline.length < 64 →
      exec i s = .next (s.retire { f with inline := call :: f.inline } i { stall := h.s.toNat })) ∧
    (s.depth f ≤ f.frames.length → 64 ≤ f.inline.length → exec i s = .next (s.trapAt f i .frame))
  (k.toNat + cntM1.toNat < 64 →
    s.Issues f (withExt v (.forkC h off cntM1 k)) h.g (argRegs k cntM1) ((argRegs k cntM1).map rc) →
    pushes (withExt v (.forkC h off cntM1 k)) true (.call (targetF f.pc v off) ((argRegs k cntM1).map f.reg) none)) ∧
  (s.Issues f (.forkR h lim idx acc grain ty op) h.g ([lim, idx] ++ accRegs acc ty) [] →
    pushes (.forkR h lim idx acc grain ty op) false
      (.range ⟨false, idx, lim, 0, grain.toNat, ty, op, acc, [], false, false⟩)) ∧
  (s.Issues f (.forkRL h idx n acc grain ty op) h.g ([idx] ++ accRegs acc ty) [] →
    pushes (.forkRL h idx n acc grain ty op) false
      (.range ⟨true, idx, 0, n.toNat, grain.toNat, ty, op, acc, [], false, false⟩))

/-- R49, R113, R114: a join pops the newest frame: at once where it is inline-only or nothing was promoted, and after its children
have ended otherwise; `join.c` gives p and the child's result. On a frame of the other kind, and `join.c` on an empty stack, it
traps FRAME; `join.r` on an empty stack does unless the fibre is a range child, whose end it then is. -/
def Obligations.JoinResults : Prop :=
  ∀ (s : State) (f : Fibre) (h : Hdr) (pd : Pred) (a : Reg) (rest : List Frame) (r : Range) (t : Nat) (args : List Word)
    (k : Fibre),
  let early : Prop := r.op ≠ .none ∧ f.chk = true ∧ ∃ c ∈ accRegs r.acc r.ty, f.early (rc c) = true
  (s.Issues f (.joinR h) h.g [] [] → f.inline = [] → f.frames = .range r :: rest → r.kids ≠ [] → early →
    ∃ c ∈ accRegs r.acc r.ty, f.early (rc c) = true ∧ (∀ e ∈ accRegs r.acc r.ty, f.early (rc e) = true → rc c ≤ rc e) ∧
      exec (.joinR h) s = .next (s.trapAt f (.joinR h) .stallShort (rc c))) ∧
  (s.Issues f (.joinR h) h.g [] [] → f.inline = [] → f.frames = .range r :: rest → (∀ c ∈ r.kids, s.ended c = true) →
    (r.kids ≠ [] → ¬early) →
    exec (.joinR h) s =
      .next ((r.kids.foldl (consume r) (s, f)).1.retire { (r.kids.foldl (consume r) (s, f)).2 with frames := rest }
        (.joinR h) { stall := h.s.toNat, flush := !r.kids.isEmpty, safe := !r.kids.isEmpty })) ∧
  (s.Issues f (.joinR h) h.g [] [] → f.inline = [] → f.frames = .range r :: rest → (∃ c ∈ r.kids, s.ended c = false) → ¬early →
    exec (.joinR h) s = .next (({ s with nextId := s.nextId + 1 } : State).block f (.join r.kids s.nextId))) ∧
  (s.Issues f (.joinC h pd a) h.g [a] [] → f.inline = [] → f.frames = .call t args none :: rest →
    exec (.joinC h pd a) s =
      .next (s.retire ({ f with frames := rest }.now (pc8 pd) 0) (.joinC h pd a) { stall := h.s.toNat })) ∧
  (s.Issues f (.joinC h pd a) h.g [a] [] → f.inline = [] → f.frames = .call t args (some k.uid) :: rest →
    s.fib? k.uid = some k → k.status = .ended →
    let g := ({ f with frames := rest }.now (pc8 pd) 1).setRegNow a (k.result.setWidth 32)
    let w := s.sticky g (k.sat.getLsbD 0) (k.sat.getLsbD 1)
    exec (.joinC h pd a) s =
      .next (({ w.1 with fibres := w.1.fibres.filter fun x => x.uid != k.uid } : State).retire w.2 (.joinC h pd a)
        { stall := h.s.toNat, flush := true, safe := true })) ∧
  (s.Issues f (.joinC h pd a) h.g [a] [] → f.inline = [] → f.frames = .call t args (some k.uid) :: rest →
    s.fib? k.uid = some k → k.status ≠ .ended →
    exec (.joinC h pd a) s = .next (({ s with nextId := s.nextId + 1 } : State).block f (.join [k.uid] s.nextId))) ∧
  (s.Issues f (.joinR h) h.g [] [] →
    (∀ more, f.inline = false :: more →
      exec (.joinR h) s = .next (s.retire { f with inline := more } (.joinR h) { stall := h.s.toNat })) ∧
    (((∃ more, f.inline = true :: more) ∨ (f.inline = [] ∧ ∃ t as c, f.frames = .call t as c :: rest) ∨
        (f.inline = [] ∧ f.frames = [] ∧ f.origin ≠ .range)) →
      exec (.joinR h) s = .next (s.trapAt f (.joinR h) .frame)) ∧
    (f.inline = [] → f.frames = [] → f.origin = .range → f.root = some r → f.outs = [] → f.mxFaults = [] → ¬early →
      (∃ c ∈ r.kids, s.ended c = false) →
      exec (.joinR h) s = .next (({ s with nextId := s.nextId + 1 } : State).block f (.join r.kids s.nextId)))) ∧
  (s.Issues f (.joinC h pd a) h.g [a] [] →
    (∀ more, f.inline = true :: more →
      exec (.joinC h pd a) s =
        .next (s.retire ({ f with inline := more }.now (pc8 pd) 0) (.joinC h pd a) { stall := h.s.toNat })) ∧
    (((∃ more, f.inline = false :: more) ∨ (f.inline = [] ∧ ∃ q, f.frames = .range q :: rest) ∨
        (f.inline = [] ∧ f.frames = [])) →
      exec (.joinC h pd a) s = .next (s.trapAt f (.joinC h pd a) .frame)))

/-- R115 to R117, R111: a fibre whose counters are 0 and whose stack is empty ends, with the result that its kind
delivers; a member of a set first departs from it, an access that the detector sees. `done.r`, and an `exit` or `join.r` of a
range child, fold the results of the range's children first. `spawn` retires and queues a fibre with its argument in g1. -/
def Obligations.EndAndSpawnResults : Prop :=
  ∀ (s : State) (f : Fibre) (h : Hdr) (d a : Reg) (r : Range),
  let ends (i : Instr) (kids : List Nat) (w : State × Fibre) (result : DWord) : Prop :=
    (f.set = none →
      ∃ u g, exec i s = .next u ∧ u.fib? f.uid = some g ∧ g.status = .ended ∧ g.result = result ∧ g.held = none ∧
        g.seg = none ∧ u.mem = s.mem ∧ u.hostMem = s.hostMem ∧ u.spMem = s.spMem ∧
        ∀ n, n ≠ f.uid → n ∉ kids → u.fib? n = s.fib? n) ∧
    (∀ k v, f.set = some (.sp k) → w.1.ownAhead w.2 (.sp k) 32 = false →
      w.1.register (w.1.departAcc w.2 (.sp k)) = .ok v →
      ∃ u g, exec i s = .next u ∧ u.fib? f.uid = some g ∧ g.status = .ended ∧ g.result = result ∧ g.set = none ∧
        g.held = none ∧ g.seg = none ∧ u.mem = s.mem ∧ u.hostMem = s.hostMem)
  (f.outs = [] → f.mxFaults = [] → f.frames = [] → f.inline = [] →
    (s.Issues f (.exit h) h.g [] [] → f.origin ≠ .range → ends (.exit h) [] (s, f) 0) ∧
    (s.Issues f (.done h a) h.g [a] [rc a] → f.origin = .call → ends (.done h a) [] (s, f) ((f.reg a).setWidth 64)) ∧
    (f.origin = .range → f.root = some r → (∀ c ∈ r.kids, s.ended c = true) →
      (r.op ≠ .none → f.chk = true → ∀ c ∈ accRegs r.acc r.ty, f.early (rc c) = false) →
      let w := r.kids.foldl (consume r) (s, f)
      (s.Issues f (.doneR h) h.g [] [] → ends (.doneR h) r.kids w (if r.op = .none then 0 else w.2.getAcc r)) ∧
      (s.Issues f (.joinR h) h.g [] [] → ends (.joinR h) r.kids w (if r.op = .none then 0 else w.2.getAcc r)) ∧
      (s.Issues f (.exit h) h.g [] [] → ends (.exit h) r.kids w (if r.op = .none then 0 else w.2.getAcc r)))) ∧
  (f.frames ≠ [] →
    (s.Issues f (.exit h) h.g [] [] → exec (.exit h) s = .next (s.trapAt f (.exit h) .frame)) ∧
    (s.Issues f (.done h a) h.g [a] [rc a] → exec (.done h a) s = .next (s.trapAt f (.done h a) .frame)) ∧
    (s.Issues f (.doneR h) h.g [] [] → exec (.doneR h) s = .next (s.trapAt f (.doneR h) .frame))) ∧
  (let target := (f.pair a).toNat;
    s.Issues f (.spawn h d a) h.g [d, a, odd a] [rc d, rc a, rc (odd a)] → target % 2 = 0 → target < 2 ^ 57 →
    ∃ u c, exec (.spawn h d a) s = .next u ∧
      u = { s.retire f (.spawn h d a) { stall := h.s.toNat } with
        fibres := (s.retire f (.spawn h d a) { stall := h.s.toNat }).fibres ++ [c], nextId := s.nextId + 1 } ∧
      c.status = .queued ∧ c.origin = .spawn ∧
      c.pc = target ∧ c.reg 1 = f.reg d ∧ (∀ n : Reg, n ≠ 1 → c.reg n = 0) ∧ c.window = f.window ∧ c.mode = f.mode ∧
      c.prio = f.prio ∧ c.tag = f.tag ∧ c.launch = f.launch ∧ c.frames = [] ∧ c.uid = s.nextId)

/-- R62, R60, R61, R58: `smov` reads each special register, `%mode` and `%sat` at once and the others with latency 4;
`sset` writes the low nine bits of the mode word and clears sticky bits, and writes nothing else. -/
def Obligations.SpecialRegisterResults : Prop :=
  ∀ (s : State) (f : Fibre) (h : Hdr) (idx : BitVec 4) (r : Reg),
  (s.Issues f (.smov h idx r) h.g (if idx = 0x0B then [r, odd r] else [r]) [] →
    exec (.smov h idx r) s = .next (s.retire
      (if idx = 0x0B then f.setPair 4 r Config.partHash
        else if idx = 0x08 then f.setRegNow r f.mode
        else if idx = 0x0A then f.setRegNow r f.sat
        else f.setReg 4 r (s.special f idx.toNat)) (.smov h idx r) { stall := h.s.toNat })) ∧
  (s.Issues f (.sset h idx r) h.g (if idx = 0x0B then [r, odd r] else [r])
      (if idx = 0x0B then [rc r, rc (odd r)] else [rc r]) →
    exec (.sset h idx r) s = .next (s.retire
      (if idx = 0x08 then { f with mode := (f.mode &&& 0xFFFFFE00) ||| (f.reg r &&& 0x1FF) }
        else if idx = 0x0A then { f with sat := f.sat &&& ~~~(f.reg r &&& 3) }
        else f) (.sset h idx r) { stall := 3 })) ∧
  s.special f 0 = 64 ∧ s.special f 2 = f.fid ∧ s.special f 4 = .ofNat 32 (f.core % 256) ∧
  s.special f 6 = .ofNat 32 (f.core / 256) ∧ s.special f 7 = s.dev.setWidth 32 ∧ s.special f 0x0C = 0x1FFF ∧
  (f.held = none → s.special f 1 = 0xFFFFFFFF) ∧ (∀ b k, f.held = some (b, k) → s.special f 1 = .ofNat 32 k) ∧
  s.special f 5 = .ofNat 32 (f.core % 256 / 4) ∧
  (∀ k, 0x0D ≤ k → k ≤ 0x0F → s.special f k = 0) ∧
  (f.origin ≠ .launch → s.special f 3 = 0xFFFFFFFF) ∧
  (∀ l, s.launch? f.launch = some l →
    (f.origin = .launch → s.special f 3 = .ofNat 32 l.kern.bset) ∧
    (l.flags % 2 = 1 → s.special f 9 = .ofNat 32 (2 ^ 31 + l.h)) ∧
    (l.flags % 2 = 0 → s.special f 9 = .ofNat 32 l.period))

/-- R51, R159, R131, R273: `safept`, `nap` and `cwait`, where no trap or fault comes first. A swap to a translated body moves the
PC, and the fibre's loops to the same places of that body, where R273 has every loop stay as it is (DESIGN CHOICE, log 77; R346: no
loop-back and no tick moves); registers, frames and counters stay. That an entry which breaks a rule
traps FRAME is log 63 (DEDUCED); that a `nap` retires with its distance, and makes no pending write visible but by that,
is log 19 (DEDUCED). -/
def Obligations.SafePointAndWaitResults : Prop :=
  ∀ (s : State) (f : Fibre) (l : Launch) (h : Hdr) (v : Option (BitVec 19)) (n : BitVec 13) (c : Cls) (k : BitVec 6),
  let wide : Nat := match v with
    | none => n.toNat
    | some v => (v ++ n).toNat
  (∀ (e : List Byte) (t : State), let i := withExt v (.safept h n);
    s.Issues f i h.g [] [] → s.launch? f.launch = some l → wide < l.kern.nsafe →
    vread s (some f.core) (coreQuad f.core) l.asid 0 (l.kern.safetab + 16 * wide) 8 2 = .ok e t →
    (badEntry e = false → f.frames.length ≤ (e.getD 9 0).toNat → f.rebody = false → t.published l f wide = none →
      exec i s = .next (t.retire { f with tiles := e.getD 8 0xFF } i
        { stall := h.s.toNat, safe := true, live := .ofNat 64 (Dec.leNat (e.take 8)) ||| f.rangeMask })) ∧
    (∀ x pc, badEntry e = false → f.frames.length ≤ (e.getD 9 0).toNat → f.rebody = false →
      t.published l f wide = some (x, pc) →
      ∃ g, exec i s = .next ((t.setF g).laneDone f) ∧ g.uid = f.uid ∧ g.pc = pc ∧ g.craco = false ∧ g.xlat = true ∧
        g.vector = x.vector ∧ g.frames = f.frames ∧ g.outs = f.outs ∧ g.hbc = f.hbc ∧ g.dist = f.dist ∧ g.pend = [] ∧
        (∀ r : Reg, g.reg r = f.flush.reg r) ∧ (∀ p : Pred, g.pred p = f.flush.pred p) ∧
        ∀ m, m < 3 → g.loop m =
          { f.loop m with start := standsFor x.pairs (f.loop m).start, stop := standsFor x.ends (f.loop m).stop }) ∧
    ((badEntry e = true ∨ (e.getD 9 0).toNat < f.frames.length) → exec i s = .next (t.trapAt f i .frame))) ∧
  (let i := withExt v (.safept h n);
    s.Issues f i h.g [] [] → s.launch? f.launch = some l → l.kern.nsafe ≤ wide →
    exec i s = .next (s.trapAt f i .undef)) ∧
  (let i := withExt v (.nap h n);
    s.Issues f i h.g [] [] →
    (f.wait = .napOver → wide ≠ 0 ∨ h.s ≠ 0 →
      exec i s = .next (s.retire f i { stall := h.s.toNat, nap := wide, safe := true })) ∧
    (f.wait = .none → wide ≠ 0 ∨ h.s ≠ 0 ∨ f.craco = true ∨ f.xlat = true → exec i s = .next (s.block f .nap)) ∧
    (wide = 0 → h.s = 0 → f.craco = false → f.xlat = false → exec i s = .next (s.retire f i { stall := 0 }))) ∧
  (s.Issues f (.cwait h c k) h.g [] [] →
    (f.counter c ≤ k.toNat → f.mxFaults = [] →
      exec (.cwait h c k) s = .next (s.retire f (.cwait h c k) { stall := h.s.toNat, flush := true, safe := true })) ∧
    (k.toNat < f.counter c → exec (.cwait h c k) s = .next (s.block f (.counter c k.toNat))))

/-- R158: a fibre's first `tok.pass` under DET records its pass, which is a release (R228), and the token may move on
(R156); any other `tok.pass`, that of a child which inherits its parent's pass included (R157), only retires: that it closes no
record, where R228 lists every `tok.pass` as a release, is log 8 (DEDUCED). None waits. Its one encoding has a and d 0, and its feature bit is set. -/
def Obligations.TokenPass : Prop :=
  (∀ (s : State) (f : Fibre) (h : Hdr), s.Issues f (.tokPass h) h.g [] [] →
    ((s.det f = false ∨ f.passed = true) → exec (.tokPass h) s = .next (s.retire f (.tokPass h) { stall := h.s.toNat })) ∧
    (s.det f = true → f.passed = false →
      ∃ u g, exec (.tokPass h) s = .next u ∧ u.fib? f.uid = some g ∧ g.passed = true ∧
        g.pc = (f.retire true 4 { stall := h.s.toNat }).pc ∧ g.regs = (f.retire true 4 { stall := h.s.toNat }).regs ∧
        u.mem = s.mem ∧ u.accs = s.accs ∧ u.records = (s.release f.uid).records ∧
        ∀ n, n ≠ f.uid → u.fib? n = s.fib? n)) ∧
  decodeTableWord 32 0x80001B07 = some (.tokPass ⟨0, 3⟩) ∧
  (∀ (h : Hdr) (a d : Reg), (a ≠ 0 ∨ d ≠ 0) →
    decodeTableWord 32 (Enc.encD 0x36 0x40 h a.toNat d.toNat) = none) ∧
  Config.feat0.getLsbD 9 = true

/-! ## Cross-lane instructions and memory. -/

/-- R85 to R89: an instance executes for every lane at it; the lanes whose guard holds are active and write, the others
only retire. A lane reads its own source as an early read stands, and the others' with every write landed: that is the model's
choice (DEDUCED, log 26). Over 64 values the tree of an integer reduction gives their sum modulo 2^32, their least or greatest. -/
def Obligations.CrossLaneResults : Prop :=
  (∀ (s : State) (f : Fibre) (h : Hdr) (pa pd : Pred) (a d : Reg) (k : BitVec 3) (op : XlOp),
  s.cur? = some f → f.held.isSome = true → (s.instanceLanes f).Nodup → s.shortLanes f = [] →
  let at' := (s.instanceLanes f).filterMap s.fib?
  let act := at'.filter fun g => g.guard h.g
  let runs (i : Instr) (uses : List Reg) (srcs : List Nat) (eff : Fibre → Fibre) (ovf : Fibre → Bool) : Prop :=
    (∀ r ∈ uses, r.toNat < f.window) → (∀ g ∈ at', laneEarly h srcs g = []) →
    ∃ u, exec i s = .next u ∧ ((∀ g ∈ act, ovf g = false) → u.mem = s.mem ∧ u.spMem = s.spMem) ∧
      (∀ n, (∀ g ∈ at', g.uid ≠ n) → u.fib? n = s.fib? n) ∧
      ∀ g ∈ at', u.fib? g.uid = some ((if g.guard h.g = true then (if ovf g = true then (eff g).stick false true else eff g)
        else g).retire (s.det g) 4 { stall := h.s.toNat })
  let from' (g : Fibre) (j : Nat) : Word := s.laneReg (s.lanes g) (laneOf g) j a
  let off := 64 / 2 ^ k.toNat
  let leaves (me : Fibre) := (List.range 64).map fun n => match act.find? fun g => laneOf g == n with
    | some g => (if g.uid = me.uid then g.reg a else g.flush.reg a).toNat
    | none => redId op
  let tree (me : Fibre) := redTree (act.headD me) op 6 (leaves me) false
  let never : Fibre → Bool := fun _ => false
  runs (.xlElect h pd) [] [] (fun g => g.setPred 6 pd (laneOf g == firstLane act)) never ∧
  runs (.xlBcastB32 h a d) [a, d] [rc a] (fun g => g.setReg 6 d (from' g (firstLane act))) never ∧
  runs (.xlCount h pa d) [d] [pc8 pa]
    (fun g => g.setReg 6 d (.ofNat 32 (act.filter fun x => if x.uid = g.uid then x.pred pa else x.flush.pred pa).length))
    never ∧
  runs (.xlBflyB32 h k a d) [a, d] [rc a] (fun g => g.setReg 6 d (from' g (laneOf g ^^^ off))) never ∧
  runs (.xlUpB32 h k a d) [a, d] [rc a]
    (fun g => g.setReg 6 d (from' g (if laneOf g < off then laneOf g else laneOf g - off))) never ∧
  runs (.xlDownB32 h k a d) [a, d] [rc a]
    (fun g => g.setReg 6 d (from' g (if 64 ≤ laneOf g + off then laneOf g else laneOf g + off))) never ∧
  runs (.xlRed h op a d) [a, d] [rc a] (fun g => g.setReg 16 d (.ofNat 32 (tree g).1)) fun g => (tree g).2) ∧
  (∀ (g : Fibre) (v : List Nat) (o : Bool), v.length = 64 → (∀ x ∈ v, x < 2 ^ 32) →
  (redTree g .addI32 6 v o).1 = v.foldl (· + ·) 0 % 2 ^ 32 ∧
  (redTree g .minN32 6 v o).1 = v.foldl min (2 ^ 32 - 1) ∧
  (redTree g .maxN32 6 v o).1 = v.foldl max 0 ∧
  (∀ op ∈ ([.addI32, .minI32, .maxI32, .minN32, .maxN32, .andB32, .orB32, .xorB32, .minF32, .maxF32] : List XlOp),
    (redTree g op 6 v o).2 = o))

/-- R124, R103, R125, R224, R261: the checks of a global operand, in their order; where all pass, its translation stands.
An entry of the core's L1 TLB answers by itself. -/
def Obligations.GlobalOperandChecks : Prop :=
  ∀ (s : State) (f : Fibre) (va size align : Nat) (k : AccKind),
  (2 ^ 57 ≤ va → resolveGlobal s f va size align k = .trap .prot 0 va) ∧
  (va < 2 ^ 57 → va % align ≠ 0 → resolveGlobal s f va size align k = .trap .align 0 va) ∧
  (va < 2 ^ 57 → va % align = 0 → s.inFrames (s.asidOf f) va size = true →
    resolveGlobal s f va size align k = .trap .prot 0 va) ∧
  (va < 2 ^ 57 → va % align = 0 → s.inFrames (s.asidOf f) va size = false →
    (f.wait = .faultFailed (va / 4096) → resolveGlobal s f va size align k = .trap .page 0 va) ∧
    (f.wait ≠ .faultFailed (va / 4096) →
      (∀ z, s.lookup (some f.core) (coreQuad f.core) (s.asidOf f) va k = (z, .prot) →
        resolveGlobal s f va size align k = .trap .prot 0 va) ∧
      (∀ z l e, s.lookup (some f.core) (coreQuad f.core) (s.asidOf f) va k = (z, .ok l e) → f.tag = 0 →
        resolveGlobal s f va size align k = .ok l z) ∧
      (∀ z, s.lookup (some f.core) (coreQuad f.core) (s.asidOf f) va k = (z, .flip) →
        resolveGlobal s f va size align k = .wait z .bias) ∧
      (∀ z r l e, s.lookup (some f.core) (coreQuad f.core) (s.asidOf f) va k = (z, .fault r l e) →
        resolveGlobal s f va size align k =
          .wait (openFault z (coreDie f.core) (s.asidOf f) va k 0 r l e).1
            (openFault z (coreDie f.core) (s.asidOf f) va k 0 r l e).2.wait) ∧
      (∀ e, s.l1Find f.core (s.asidOf f) va = some e →
        (e.allows k = false → resolveGlobal s f va size align k = .trap .prot 0 va) ∧
        (e.allows k = true → s.flipping (e.loc.add (va - e.base)) = false → f.tag = 0 →
          resolveGlobal s f va size align k = .ok (e.loc.add (va - e.base)) s))))

/-- R28, R31, R124, R126, R136, R191: a load whose operand stands and that nothing holds back posts its access, at the
address its form gives, and retires. -/
def Obligations.LoadResults : Prop :=
  ∀ (s t : State) (f : Fibre) (h : Hdr) (v : Option (BitVec 19)) (off : BitVec 7) (a d : Reg) (ty : LdTy) (sp wide : Bool)
    (w : BitVec 4) (sc : Scope) (buf : Buf) (l : Loc),
  let posts (i : Instr) (n : Access) : Prop := t.CanPost f n → ∃ u, exec i s = .next u ∧ t.Posted f i h.s.toNat n u
  let plain (i : Instr) (glob : Bool) (ty : LdTy) (off : DWord) : Prop :=
    let addr := f.addrOf glob a off
    s.Issues f i h.g (baseRegs glob a ++ dataRegs (ldSize ty) d) ((baseRegs glob a).map rc) →
    (if glob then resolveGlobal s f addr (ldSize ty) (ldSize ty) .read
      else resolveSp s f addr (ldSize ty) (ldSize ty) false) = .ok l t →
    posts i (t.newAccess f i l addr (ldSize ty) (.load ty d))
  plain (withExt v (.ldB32Global h off a d)) true .b32 (offM v off 4) ∧
  plain (withExt v (.ldB64Global h off a d)) true .b64 (offM v off 8) ∧
  plain (withExt v (.ldB32Sp h off a d)) false .b32 (offM v off 4) ∧
  plain (withExt v (.ldPlain h ty sp a d)) (!sp) ty (offD v) ∧
  (let i := withExt v (.ldSw h w a d);
    let addr := f.addrOf false a (offD v);
    s.Issues f i h.g [a, d] [rc a] → resolveSw s f w.toNat addr 4 = .ok l t →
    posts i { t.newAccess f i l addr 4 (.load .b32 d) with win := t.winOf f w.toNat }) ∧
  (let i := withExt v (.ldAcq h sc wide a d);
    let addr := f.addrOf true a (offD v);
    let n := wideSize wide;
    s.Issues f i h.g (pairRegs a ++ dataRegs n d) (pairCodes a) → resolveGlobal s f addr n n .read = .ok l t →
    posts i { t.newAccess f i l addr n (.load (if wide then .b64 else .b32) d) with acq := true, scope := sc }) ∧
  (let i := withExt v (.ldCb h buf wide a d);
    let addr := f.addrOf false a (offD v);
    let n := wideSize wide;
    s.Issues f i h.g ([a] ++ dataRegs n d) [rc a] → resolveCb s f buf addr n = .ok l t →
    posts i (t.newAccess f i l addr n (.load (if wide then .b64 else .b32) d)))

/-- R28, R31, R124, R126, R133, R136, R191: a store posts its access with the data it read at issue, and retires; memory
changes only when the access is performed. -/
def Obligations.StoreResults : Prop :=
  ∀ (s t : State) (f : Fibre) (h : Hdr) (v : Option (BitVec 19)) (off : BitVec 7) (a d : Reg) (ty : StTy) (sp wide : Bool)
    (w : BitVec 4) (sc : Scope) (buf : Buf) (l : Loc),
  let posts (i : Instr) (n : Access) : Prop := t.CanPost f n → ∃ u, exec i s = .next u ∧ t.Posted f i h.s.toNat n u
  let plain (i : Instr) (glob : Bool) (n : Nat) (off : DWord) : Prop :=
    let addr := f.addrOf glob a off
    s.Issues f i h.g (baseRegs glob a ++ dataRegs n d) ((baseRegs glob a ++ dataRegs n d).map rc) →
    (if glob then resolveGlobal s f addr n n .write else resolveSp s f addr n n false) = .ok l t →
    posts i (t.newAccess f i l addr n (.store (f.data n d)))
  plain (withExt v (.stB32Global h off a d)) true 4 (offM v off 4) ∧
  plain (withExt v (.stB64Global h off a d)) true 8 (offM v off 8) ∧
  plain (withExt v (.stB32Sp h off a d)) false 4 (offM v off 4) ∧
  plain (withExt v (.stPlain h ty sp a d)) (!sp) (stSize ty) (offD v) ∧
  (let i := withExt v (.stSw h w a d);
    let addr := f.addrOf false a (offD v);
    s.Issues f i h.g [a, d] [rc a, rc d] → resolveSw s f w.toNat addr 4 = .ok l t →
    posts i { t.newAccess f i l addr 4 (.store (f.data 4 d)) with win := t.winOf f w.toNat }) ∧
  (let i := withExt v (.stRel h sc wide a d);
    let addr := f.addrOf true a (offD v);
    let n := wideSize wide;
    s.Issues f i h.g (pairRegs a ++ dataRegs n d) (pairCodes a ++ (dataRegs n d).map rc) →
    resolveGlobal s f addr n n .write = .ok l t →
    posts i { t.newAccess f i l addr n (.store (f.data n d)) with rel := true, scope := sc }) ∧
  (let i := withExt v (.stCb h buf wide a d);
    let addr := f.addrOf false a (offD v);
    let n := wideSize wide;
    s.Issues f i h.g ([a] ++ dataRegs n d) (rc a :: (dataRegs n d).map rc) → resolveCb s f buf addr n = .ok l t →
    posts i (t.newAccess f i l addr n (.store (f.data n d))))

/-- R141, R143, R293, R137, R139, R124: an atomic and a `plz.open` post their accesses; a copy that meets no other joins
its queue, or waits for a slot and then joins it with no check again; and what a copy is refused for at its issue. That the barrier bits of a copy that names no barrier are not judged is
log 83 (DESIGN CHOICE). -/
def Obligations.AtomicAndCopyResults : Prop :=
  (∀ (s t : State) (f : Fibre) (h : Hdr) (a b d bar : Reg) (sp dev barGlobal present : Bool) (ty : AtomTy) (sc : Scope) (sem : Sem)
    (op : AtomOp) (sw dw : BitVec 4) (src dst : Space) (q : BitVec 3) (l : Loc) (se de : CopyEnd) (ws wd : List (Loc × Nat)),
  let posts (i : Instr) (n : Access) : Prop := t.CanPost f n → ∃ u, exec i s = .next u ∧ t.Posted f i h.s.toNat n u
  (let i := Instr.atom h sp b a d ty sc sem op;
    let n := wideSize ty.wide;
    let addr := f.addrOf (!sp) a 0;
    s.Issues f i h.g (baseRegs (!sp) a ++ dataRegs n b ++ dataRegs n d)
      ((dataRegs n d ++ baseRegs (!sp) a ++ dataRegs n b).map rc) →
    (if sp then resolveSp s f addr n n false else resolveGlobal s f addr n n .atomic) = .ok l t →
    posts i { t.newAccess f i l addr n (.atom op ty (f.data n b) (f.data n d) d) with
      acq := decide (sem = .acq ∨ sem = .acqrel), rel := decide (sem = .rel ∨ sem = .acqrel), scope := sc }) ∧
  (let i := Instr.plzOpen h a d;
    let addr := (f.pair a).toNat;
    s.Issues f i h.g (pairRegs a ++ pairRegs d) (pairCodes a) → addr % 16 = 0 →
    resolveGlobal s f addr 16 16 .read = .ok l t → posts i (t.newAccess f i l addr 16 (.openPlaza d))) ∧
  (let i := Instr.cpy h b a d dev sw dw barGlobal src dst q present bar;
    let rs := spaceRegs dst d ++ spaceRegs src a ++ [b] ++
      (if present then (if barGlobal then pairRegs bar else [bar]) else []);
    let len := (f.reg b).toNat;
    s.Issues f i h.g rs (rs.map rc) → f.tag = 0 → len % 4 = 0 → (f.reg d).toNat % 4 = 0 → (f.reg a).toNat % 4 = 0 →
    copyEnd s f dst d dw.toNat len = .ok de wd → copyEnd s f src a sw.toNat len = .ok se ws →
    (if present then copyBar s f true barGlobal bar = .inl (.ok l t) else t = s) →
    t.copyOverlap f q.toNat de len (t.asidOf f) = none → (∀ c, f.wait ≠ .copySlot c) →
    ∃ c : Copy, c.id = t.nextId ∧ c.fib = f.uid ∧ c.src = se ∧ c.dst = de ∧ c.len = len ∧ c.landed = 0 ∧
      c.sent = 0 ∧ c.buf = [] ∧ c.hold = .none ∧ c.node = none ∧
      c.bar = (if present then some l else none) ∧ c.barScope = (if barGlobal = true ∧ dev = false then .die else .dev) ∧
      c.core = f.core ∧ c.queue = q.toNat ∧ c.asid = t.asidOf f ∧ c.wins = wd ++ ws ∧ c.failed = false ∧
      c.race = none ∧ c.set = f.set ∧ c.launch = f.launch ∧ c.block = f.block ∧ c.before = f.before ∧
      (t.copyCount f.core < Config.copySlots → f.counter .cp < 63 →
        exec i s = .next (({ t with copies := t.copies ++ [c], nextId := t.nextId + 2 } : State).retire
          (f.raise c.id .cp) i { stall := h.s.toNat })) ∧
      (Config.copySlots ≤ t.copyCount f.core ∨ 63 ≤ f.counter .cp →
        exec i s = .next (({ t with nextId := t.nextId + 1 } : State).block f (.copySlot c)))) ∧
  (let i := Instr.cpy h b a d dev sw dw barGlobal src dst q present bar;
    let rs := spaceRegs dst d ++ spaceRegs src a ++ [b] ++
      (if present then (if barGlobal then pairRegs bar else [bar]) else []);
    ∀ w : Copy, s.Issues f i h.g rs (rs.map rc) → f.wait = .copySlot w → s.copyCount f.core < Config.copySlots →
      f.counter .cp < 63 →
      exec i s = .next (({ s with
        copies := s.copies ++ [{ w with id := s.nextId }], nextId := s.nextId + 2
        tlbBusy := s.tlbBusy.map fun n => if n = w.id then s.nextId else n } : State).retire
        (f.raise s.nextId .cp) i { stall := h.s.toNat }))) ∧
  (∀ (s : State) (f : Fibre) (h : Hdr) (a b d bar : Reg) (sw dw : BitVec 4) (q : BitVec 3) (dev barGlobal : Bool),
  let i := Instr.cpy h b a d dev sw dw barGlobal .sp .sp q false bar
  s.Issues f i h.g [d, a, b] [rc d, rc a, rc b] → (∀ c, f.wait ≠ .copySlot c) →
  (f.tag ≠ 0 → exec i s = .next (s.trapAt f i .plazaMisuse 0x04 f.tag.toNat)) ∧
  (f.tag = 0 →
    ((f.reg d).toNat % 4 ≠ 0 → exec i s = .next (s.trapAt f i .align 0 (f.reg d).toNat)) ∧
    ((f.reg d).toNat % 4 = 0 → (f.reg a).toNat % 4 ≠ 0 →
      exec i s = .next (s.trapAt f i .align 0 (f.reg a).toNat)) ∧
    (∀ base size, s.spBase f false = some (base, size) → (f.reg d).toNat % 4 = 0 → (f.reg a).toNat % 4 = 0 →
      (f.reg b).toNat % 4 = 0 →
      (size < (f.reg d).toNat + (f.reg b).toNat → exec i s = .next (s.trapAt f i .prot 0 (f.reg d).toNat)) ∧
      ((f.reg d).toNat + (f.reg b).toNat ≤ size → size < (f.reg a).toNat + (f.reg b).toNat →
        exec i s = .next (s.trapAt f i .prot 0 (f.reg a).toNat)) ∧
      (∀ n, (f.reg d).toNat + (f.reg b).toNat ≤ size → (f.reg a).toNat + (f.reg b).toNat ≤ size →
        s.copyOverlap f q.toNat (.here (.sp (base + (f.reg d).toNat))) (f.reg b).toNat (s.asidOf f) = some n →
        exec i s = .next (s.trapAt f i .copyOverlap n (f.reg d).toNat)))))

/-- R127, R128, R129, R142, R214, R345: the oldest request of a line that waits in the Roundabout is sent; a load then lands
the bytes it sees, a store writes its bytes, and an atomic does both at once. In scratchpad and typed buffers only those
bytes and that register change; a word that a running pass updates, as a free value decides. -/
def Obligations.AccessEvents : Prop :=
  ∀ (s u : State) (a : Access) (f : Fibre) (core line : Nat) (ty : LdTy) (d : Reg) (v : DWord) (aop : AtomOp) (aty : AtomTy)
    (b x : DWord) (dst : Reg) (pre post : List RaEntry) (r : RaEntry),
  (s.roundabout = pre ++ r :: post → r.core = core → r.line = line → r.sent = false →
    (∀ q ∈ pre, ¬(q.core = core ∧ q.line = line ∧ q.sent = false)) →
    (∀ e ∈ s.fills, e.core = core → (sectorLoc e.sector).line ≠ line) →
    exec (.roundaboutSend core line) s =
      .next { s with roundabout := pre ++ ({ r with sent := true } : RaEntry) :: post }) ∧
  (s.Serves a f u → ((∃ k, a.loc = .sp k) ∨ ∃ k, a.loc = .cb k) →
    (a.op = .load ty d → s.byFill a.id = false →
      exec (.loadComplete a.id) s =
        .next ((u.endAccess a).modF a.fib fun g => g.landLoad a.wseq ty d (Dec.leNat (s.seen a)))) ∧
    (a.op = .load ty d → s.ownEarlier a = [] → s.seen a = s.bytes a.loc a.size) ∧
    (a.op = .store v → exec (.storePerform a.id) s =
      .next (((u.setBytes a.loc (Dec.leBytes a.size v.toNat)).chooseRun a.loc a.size).endAccess a)) ∧
    (∀ w : State, (∀ k, a.loc = .sp k → w.chooseRun a.loc a.size = w) ∧
      ((∀ e ∈ w.mx, e.run = []) → w.chooseRun a.loc a.size = w)) ∧
    (a.op = .atom aop aty b x dst →
      exec (.atomicExecute a.id) s = .next
        (((match atomNew aop aty (.ofNat 64 (Dec.leNat (s.bytes a.loc a.size))) b x with
            | some n => u.setBytes a.loc (Dec.leBytes a.size n)
            | none => u).endAccess a).modF a.fib fun g =>
          if aty.wide then g.landPair a.wseq dst (.ofNat 64 (Dec.leNat (s.bytes a.loc a.size)))
          else g.land a.wseq dst (.ofNat 32 (Dec.leNat (s.bytes a.loc a.size))))))

/-- R124, R127: bytes written are read back, in little-endian order, and no other byte changes. -/
def Obligations.WriteThenRead : Prop :=
  ∀ (m : Memory) (a n v b : Nat) (bs : List Byte), m.wf = true →
  (memWrite m a bs).wf = true ∧ memBytes (memWrite m a bs) a bs.length = bs ∧
  (b < a ∨ a + bs.length ≤ b → memGet (memWrite m a bs) b = memGet m b) ∧
  Dec.leNat (memBytes (memWrite m a (Dec.leBytes n v)) a n) = v % 256 ^ n

/-- R141: the new value of each atomic operation, for every type that it takes. -/
def Obligations.AtomicValues : Prop :=
  ∀ (x b d : DWord) (y c e : Word),
  let new (op : AtomOp) (ty : AtomTy) : Option Nat := atomNew op ty (y.setWidth 64) (c.setWidth 64) (e.setWidth 64)
  (∀ ty ∈ ([.i64, .n64] : List AtomTy), atomNew .add ty x b d = some (x + b).toNat) ∧
  atomNew .min .n64 x b d = some (min x.toNat b.toNat) ∧ atomNew .max .n64 x b d = some (max x.toNat b.toNat) ∧
  atomNew .min .i64 x b d = some (if x.sle b then x.toNat else b.toNat) ∧
  atomNew .max .i64 x b d = some (if b.sle x then x.toNat else b.toNat) ∧
  atomNew .and .b64 x b d = some (x &&& b).toNat ∧ atomNew .or .b64 x b d = some (x ||| b).toNat ∧
  atomNew .xor .b64 x b d = some (x ^^^ b).toNat ∧ atomNew .exch .b64 x b d = some b.toNat ∧
  atomNew .cas .b64 x b d = (if x = b then some d.toNat else none) ∧
  (∀ ty ∈ ([.i32, .n32] : List AtomTy), new .add ty = some (y + c).toNat) ∧
  new .min .n32 = some (min y.toNat c.toNat) ∧ new .max .n32 = some (max y.toNat c.toNat) ∧
  new .min .i32 = some (if y.sle c then y.toNat else c.toNat) ∧
  new .max .i32 = some (if c.sle y then y.toNat else c.toNat) ∧
  new .and .b32 = some (y &&& c).toNat ∧ new .or .b32 = some (y ||| c).toNat ∧ new .xor .b32 = some (y ^^^ c).toNat ∧
  (∀ ty ∈ ([.b32, .f32] : List AtomTy), new .exch ty = some c.toNat) ∧
  new .cas .b32 = (if y = c then some e.toNat else none) ∧
  new .add .f32 = some (fF32.round .ne false false ((fF32.val y.toNat).add .ne (fF32.val c.toNat))).1 ∧
  new .min .f32 = some (fF32.min y.toNat c.toNat) ∧ new .max .f32 = some (fF32.max y.toNat c.toNat)

/-! ## Barriers, sets, groups and plazas. -/

/-- R147 to R150: the barrier instructions at an object of this device that stands open. An arrival gives the phase it
arrived in; a wait goes on when its phase has completed, and blocks while it has not. The distance of 1 after a saturated wait
is log 20 (DEDUCED, from R161 and R44). -/
def Obligations.BarrierResults : Prop :=
  ∀ (s t r : State) (f : Fibre) (h : Hdr) (space : BarSpace) (a d : Reg) (l : Loc) (sat : Bool),
  resolveObj s f space a = .ok l t →
  let z := r.gained l 32
  let o := t.obj l
  let ready : Prop := t.ObjectOpen f l ∧ t.register (objAcc t f l 32 (objScope space)) = .ok r
  (s.Issues f (.barInit h space a d) h.g (barUses space a d) (rc d :: barSrcs space a) → ready → o.isSet = false →
    t.awaited l = false →
    exec (.barInit h space a d) s = .next (((z.setObj l ⟨0, (f.reg d).toNat, 0, 0, 0, 0⟩).retire f (.barInit h space a d)
      { stall := h.s.toNat }).recDone t.nextId)) ∧
  (s.Issues f (.barExpect h space a d) h.g (barUses space a d) (rc d :: barSrcs space a) → ready →
    exec (.barExpect h space a d) s = .next (((z.setObj l
      { o with bytesExp := (o.bytesExp + (f.reg d).toNat) % 2 ^ 64 }).retire f (.barExpect h space a d)
      { stall := h.s.toNat }).recDone t.nextId)) ∧
  (s.Issues f (.barArrive h space a d) h.g (barUses space a d) (barSrcs space a) → ready →
    (o.isSet = false ∨ f.set = some l) → o.arrived ≠ o.expected →
    ∃ g, (z.arrive f l .bar).fib? f.uid = some g ∧ g.uid = f.uid ∧ g.pc = f.pc ∧
      exec (.barArrive h space a d) s = .next (((z.arrive f l .bar).retire (g.setRegNow d o.phase) (.barArrive h space a d)
        { stall := h.s.toNat }).recDone t.nextId)) ∧
  (s.Issues f (.barWait h space a d) h.g (barUses space a d) (rc d :: barSrcs space a) → l.isPeer = false →
    o.failed = false →
    (f.wait = .released sat → (sat && f.satt) = false →
      exec (.barWait h space a d) s = .next (t.retire f (.barWait h space a d)
        { stall := h.s.toNat, flush := true, safe := true })) ∧
    (f.wait = .released true → f.satt = true → f.trapMode = false →
      ∃ u g, exec (.barWait h space a d) s = .next u ∧ u.fib? f.uid = some g ∧ g.dist = 1 ∧
        g.deferred = satTrap f (.barWait h space a d) (objAddr f space a) :: f.deferred) ∧
    (f.wait = .none → ready → (o.isSet = false ∨ f.set = some l) →
      (o.passed (f.reg d) = true → f.satt = false →
        exec (.barWait h space a d) s = .next ((z.retire f (.barWait h space a d)
          { stall := h.s.toNat, flush := true, safe := true }).recDone t.nextId)) ∧
      (o.passed (f.reg d) = false →
        exec (.barWait h space a d) s = .next ((z.block f (.phase l (f.reg d) .bar)).recDone t.nextId))))

/-- R148: an arrival at a barrier that is no set counts; the one that fills the phase completes it: the phase number
grows by 1, the counts start again, surplus bytes carry over, SAT becomes SATPH, and every fibre that waits for that
phase is released. -/
def Obligations.BarrierPhases : Prop :=
  ∀ (s : State) (f : Fibre) (l : Loc), s.memsOk → l.isPeer = false → s.bindings = [] → (∀ x ∈ s.fibres, x.set ≠ some l) →
  f.set ≠ some l → (∀ x ∈ s.heldArrivals, x.loc ≠ l) → l ∉ s.satNext → (s.obj l).arrived < (s.obj l).expected →
  let o := s.obj l
  let u := s.arrive f l .bar
  (((o.arrived + 1 < o.expected) ∨ o.landed < o.bytesExp) →
    u.obj l = { o with arrived := o.arrived + 1 } ∧ ∀ n, u.fib? n = s.fib? n) ∧
  (o.arrived + 1 = o.expected → o.bytesExp ≤ o.landed →
    u.obj l = { o with
      phase := o.phase + 1, arrived := 0, bytesExp := 0, landed := o.landed - o.bytesExp
      flags := o.flags / 4 * 4 + 2 * (o.flags % 2) } ∧
    (u.obj l).passed o.phase = true ∧
    ∀ g, s.fib? g.uid = some g → ∃ g', u.fib? g.uid = some g' ∧ { g' with wait := g.wait, rejoin := g.rejoin } = g ∧
      (g.wait = .phase l o.phase .bar → g'.wait = .released (o.flags % 2 == 1)) ∧
      ((∀ p k, g.wait ≠ .phase l p k) → g'.wait = g.wait) ∧
      ((∀ pc p k, g.rejoin ≠ some (pc, .phase l p k)) → g'.rejoin = g.rejoin))

/-- R96, R97: a rally arrives on the fibre's own set and waits, and goes on when its phase has completed. Of a fibre with no
set it traps SET whatever its operand; `rally.h` in a held batch traps HELD. -/
def Obligations.RallyResults : Prop :=
  ∀ (s t r : State) (f : Fibre) (h : Hdr) (a : Reg) (l : Loc) (sat : Bool) (form : Bool),
  let i := if form = true then Instr.rallyH h a else Instr.rally h a
  let kind : PhaseKind := if form = true then .rallyH else .rally
  s.Issues f i h.g [a] [rc a] →
  (f.wait = .released sat → (sat && f.satt) = false →
    exec i s = .next (s.retire f i { stall := h.s.toNat, flush := true, safe := true })) ∧
  (f.wait = .none → f.set = none → exec i s = .next (s.trapAt f i .set 0 (f.reg a).toNat)) ∧
  (f.wait = .none → (form = true → f.held = none) → resolveObj s f .sp a = .ok l t →
    t.ObjectOpen f l → t.register (objAcc t f l 32 .dev) = .ok r → f.set = some l → (t.obj l).isSet = true →
    (t.obj l).failed = false → (t.obj l).arrived ≠ (t.obj l).expected →
    let w := (r.gained l 32).block f (.phase l (t.obj l).phase kind)
    ∃ g, w.fib? f.uid = some g ∧ g.pc = f.pc ∧ g.wait = .phase l (t.obj l).phase kind ∧
      exec i s = .next ((w.arrive g l kind).recDone t.nextId)) ∧
  (f.wait = .none → form = true → f.set ≠ none → f.held ≠ none →
    exec i s = .next (s.trapAt f i .held 0 (f.reg a).toNat))

/-- R151, R152: `set.new` makes a set of one, `set.enrol` joins one, `set.quit` leaves it; each retires. A fibre that is in
another set departs from that first, an access of its own to that set's object (R147): where that is a race the instruction traps
RACE and is no event (R322). The DETAIL of `set.enrol` on the set of a
plaza member is log 92 (DESIGN CHOICE). -/
def Obligations.SetResults : Prop :=
  ∀ (s t r : State) (f : Fibre) (h : Hdr) (a : Reg) (l : Loc),
  let o := t.obj l
  let z := r.gained l 32
  let opens : Prop := f.held = none ∧ resolveObj s f .sp a = .ok l t ∧ t.ownAhead f l 32 = false ∧
    t.hostInWay l 32 true = [] ∧ t.mayServe l 32 true = true ∧ t.register (objAcc t f l 32 .dev) = .ok r ∧
    ∀ m, f.set = some m → m ≠ l → t.ownAhead f m 32 = false ∧ t.hostInWay m 32 true = [] ∧ t.mayServe m 32 true = true
  let moves (i : Instr) (body : State → State → Prop) : Prop :=
    ((f.set = none ∨ f.set = some l) → ∃ u, body z u ∧ exec i s = .next (u.recDone t.nextId)) ∧
    (∀ m, f.set = some m → m ≠ l →
      (∀ q, z.register (z.departAcc f m) = .ok q →
        ∃ u, body (q.gained m 32) u ∧ exec i s = .next ((u.recDone z.nextId).recDone t.nextId)) ∧
      (∀ d, z.register (z.departAcc f m) = .race d →
        exec i s = .next (({ z with records := t.records, touched := t.touched } : State).trapAt f i .race d
          (m.key.2 % 2 ^ 18) |>.recDone t.nextId)))
  (s.Issues f (.setNew h a) h.g [a] [rc a] → opens →
    moves (.setNew h a) fun y u => ∃ g, (y.depart f).fib? f.uid = some g ∧ g.pc = f.pc ∧ (f.set = none → g = f) ∧
      u = (({ y.depart f with satNext := (y.depart f).satNext.erase l } : State).setObj l ⟨0, 1, 0, 0, 0, 8⟩).retire
        { g with set := some l, arrived := none, votes := 0 } (.setNew h a) { stall := h.s.toNat }) ∧
  (s.Issues f (.setEnrol h a) h.g [a] [rc a] → opens → f.tag = 0 → o.damaged = false → o.isSet = true →
    t.memberOf l = none →
    moves (.setEnrol h a) fun y u => ∃ g, (y.depart f).fib? f.uid = some g ∧ g.pc = f.pc ∧ (f.set = none → g = f) ∧
      u = ((y.depart f).setObj l { (y.depart f).obj l with expected := ((y.depart f).obj l).expected + 1 }).retire
        { g with set := some l, arrived := none, votes := 0 } (.setEnrol h a) { stall := h.s.toNat }) ∧
  (s.Issues f (.setEnrol h a) h.g [a] [rc a] → opens → f.tag = 0 → o.damaged = false → o.isSet = true →
    ∀ hd, t.memberOf l = some hd →
    exec (.setEnrol h a) s = .next (t.trapAt f (.setEnrol h a) .plazaMisuse 0x04 hd.toNat)) ∧
  (s.Issues f (.setQuit h a) h.g [a] [rc a] → opens → f.tag = 0 → f.set = some l → o.damaged = false →
    moves (.setQuit h a) fun y u => ∃ g, (y.depart f).fib? f.uid = some g ∧ g.set = none ∧ g.arrived = none ∧
      g.pc = f.pc ∧ u = (y.depart f).retire g (.setQuit h a) { stall := h.s.toNat }) ∧
  (∀ op ∈ ([.setEnrol h a, .setQuit h a] : List Instr), s.Issues f op h.g [a] [rc a] → f.held = none → f.tag ≠ 0 →
    exec op s = .next (s.trapAt f op .plazaMisuse 0x04 f.tag.toNat)) ∧
  (∀ op ∈ ([.setNew h a, .setEnrol h a, .setQuit h a] : List Instr), s.Issues f op h.g [a] [rc a] → f.held ≠ none →
    exec op s = .next (s.trapAt f op .held 0 (f.reg a).toNat))

/-- R153 to R155: `grp.enter` takes the lowest free slot of the group, or gives all ones where none is free; `grp.leave`
shuts the set's window at once, waits for what was issued through it, and clears its slot; a set that holds one already, or none, traps SET, and makes no access
(R322). That d
holds the slot as `grp.enter` retires is the model's choice (DESIGN CHOICE, log 105). -/
def Obligations.GroupResults : Prop :=
  ∀ (s t r : State) (f : Fibre) (h : Hdr) (a d : Reg) (pa n : Nat) (m : Loc) (w : Window), f.set = some m →
  (f.pair a).toNat % 64 = 0 → resolveGlobal s f (f.pair a).toNat 64 64 .atomic = .ok (.dram pa) t →
  homeDie pa = coreDie f.core → t.meet (.dram pa) 64 f.tag true = (t, .go) → t.ownAhead f (.dram pa) 64 = false →
  checkRead t (.dram pa) 64 0 = (t, []) →
  t.hostInWay (.dram pa) 64 true = [] → t.mayServe (.dram pa) 64 true = true →
  (∀ k, k < 16 → slotBad (slotAt t (.dram pa) k) = false) →
  t.register (objAcc t f (.dram pa) 64 .die) = .ok r →
  let l := Loc.dram pa
  let z := r.gained l 64
  let v := z.release f.uid
  let alloc := t.allocOf f
  (s.Issues f (.grpEnter h a d) h.g (pairRegs a ++ [d]) (pairCodes a) → (∀ x ∈ t.windows, x.group = l → x.set ≠ m) →
    (n < 16 → Dec.fld (slotAt t l n) 31 1 = 0 → (∀ k, k < n → Dec.fld (slotAt t l k) 31 1 = 1) →
      exec (.grpEnter h a d) s = .next
        ((({ v.homeWrite (.dram (pa + 4 * n)) (Dec.leBytes 4 (2 ^ 31 + 65536 * (f.core % 256) + alloc)) with
            windows := t.windows ++ [⟨l, n, m, f.core, alloc, false⟩] } : State).retire (f.setRegNow d (.ofNat 32 n))
          (.grpEnter h a d) { stall := h.s.toNat }).recDone t.nextId)) ∧
    ((∀ k, k < 16 → Dec.fld (slotAt t l k) 31 1 = 1) →
      exec (.grpEnter h a d) s = .next ((v.retire (f.setRegNow d 0xFFFFFFFF) (.grpEnter h a d)
        { stall := h.s.toNat }).recDone t.nextId))) ∧
  (s.Issues f (.grpEnter h a d) h.g (pairRegs a ++ [d]) (pairCodes a) → (∃ x ∈ t.windows, x.group = l ∧ x.set = m) →
    exec (.grpEnter h a d) s = .next (t.trapAt f (.grpEnter h a d) .set 0 (f.pair a).toNat)) ∧
  (s.Issues f (.grpLeave h a) h.g (pairRegs a) (pairCodes a) →
    (t.windows.find? (fun x => x.group == l && x.set == m) = some w →
      let y : State := if w.shut = true then z
        else { v with windows := t.windows.map fun x => if x = w then { x with shut := true } else x }
      (t.windowUses l w.n m = [] →
        exec (.grpLeave h a) s = .next ((({ y.homeWrite (.dram (pa + 4 * w.n)) (Dec.leBytes 4 0) with
            windows := y.windows.filter fun x => !(x.group == l && x.n == w.n) } : State).retire f (.grpLeave h a)
          { stall := h.s.toNat, safe := true }).recDone t.nextId)) ∧
      (t.windowUses l w.n m ≠ [] →
        exec (.grpLeave h a) s = .next ((y.block f (.window w.n (t.windowUses l w.n m))).recDone t.nextId))) ∧
    ((∀ x ∈ t.windows, x.group = l → x.set ≠ m) →
      exec (.grpLeave h a) s = .next (t.trapAt f (.grpLeave h a) .set 0 (f.pair a).toNat)))

/-- R292, R294 to R296, R299: the set-collective plaza instructions arrive on the fibre's set; a vote or a leave is cast
once for the set (at a peer's plaza in one message for all its fibres), and the plaza seals when votes and leaves make EXPECT; a
leave that finds the plaza no longer OPEN lets none go; then each retires, and a member of a committed
plaza, or one that has left, has no tag. An abort of a peer's plaza goes to its coordinator in one message, and comes from a
peer as one (the messages are the model's choice, log 17). -/
def Obligations.PlazaResults : Prop :=
  (∀ (s t r : State) (f : Fibre) (h : Hdr) (a d : Reg) (l : Loc) (sat : Bool) (e : Nat),
  let hd := f.pair a
  let i := Instr.plzEnter h a d
  let open' : Prop := resolveObj s f .sp d = .ok l t ∧ t.ObjectOpen f l ∧ t.register (objAcc t f l 32 .dev) = .ok r ∧
    f.set = some l ∧ (t.obj l).isSet = true ∧ (t.obj l).failed = false ∧ (t.obj l).arrived ≠ (t.obj l).expected
  let arrives (i : Instr) (minor : Nat) : Prop :=
    let w := (r.gained l 32).block f (.phase l (t.obj l).phase (.plz minor hd))
    ∃ g, w.fib? f.uid = some g ∧ g.pc = f.pc ∧ g.wait = .phase l (t.obj l).phase (.plz minor hd) ∧
      exec i s = .next ((w.arrive g l (.plz minor hd)).recDone t.nextId)
  let leaves (s : State) (g : Fibre) (i : Instr) : State := s.retire g i { stall := h.s.toNat, flush := true, safe := true }
  (s.Issues f i h.g (pairRegs a ++ [d]) (pairCodes a ++ [rc d]) →
    (f.wait = .none → s.badHandle hd = false → f.tag = 0 → open' → arrives i 1) ∧
    ((f.wait = .collective none e sat ∨ f.wait = .replied 0 false sat) → (sat && f.satt) = false →
      exec i s = .next (leaves s f i))) ∧
  (∀ leave : Bool, let j := if leave = true then Instr.plzLeave h a d else Instr.plzVote h a d;
    s.Issues f j h.g (pairRegs a ++ [d]) (pairCodes a ++ [rc d]) →
    (f.wait = .none → s.badHandle hd = false → f.tag = hd → hd ≠ 0 → resolveObj s f .sp d = .ok l t →
      t.settled hd l = false →
      (f.counter .st = 0 ∧ f.counter .at = 0 ∧ f.counter .rm = 0 → open' → arrives j (if leave = true then 2 else 3)) ∧
      (¬(f.counter .st = 0 ∧ f.counter .at = 0 ∧ f.counter .rm = 0) → exec j s = .next (t.block f .drainStores))) ∧
    (f.wait = .ballot sat → s.isLocal hd = true → f.plzSet = some l → exec j s = .next (s.castOnce hd l leave)) ∧
    (f.wait = .ballot sat → s.isLocal hd = false → f.plzSet = some l → exec j s = .next (s.castAway hd l leave)) ∧
    ((f.wait = .committed sat ∨ f.wait = .collective none e sat ∨ f.wait = .replied 0 false sat) →
      (sat && f.satt) = false →
      exec j s = .next (leaves { s with away := s.away.filter fun m => !(m.2 == hd && some m.1 == f.plzSet) }
        { f with tag := 0, plzSet := none } j).freePlazas))) ∧
  (∀ (s : State) (hd : DWord) (p : Plaza) (l : Loc) (leave : Bool), s.current? hd = some p → p.state = .opened →
  p.members.any (fun m => m.set == l && !m.voted && !m.left) = true →
  ∃ q, (s.castOnce hd l leave).plaza? hd = some q ∧ q.gen = p.gen ∧ q.expect = p.expect ∧
    q.votes + q.leaves = p.votes + p.leaves + 1 ∧ q.votes = (if leave then p.votes else p.votes + 1) ∧
    q.state = (if p.votes + p.leaves + 1 = p.expect then .sealing else .opened) ∧
    (q.members.any fun m => m.set == l && !m.voted && !m.left) = false) ∧
  (∀ (s : State) (hd : DWord) (p : Plaza) (l : Loc), s.current? hd = some p → p.state ≠ .opened → s.castOnce hd l true = s) ∧
  (∀ (s : State) (hd : DWord) (l : Loc) (leave : Bool),
    let u := s.castAway hd l leave
    (∃ fs, u = { s with nextId := s.nextId + 1, fibres := fs }) ∧
    ∀ f : Fibre, s.fib? f.uid = some f →
      (∀ sat, f.tag = hd → f.plzSet = some l → f.wait = .ballot sat → f.rejoin = none → u.fib? f.uid = some
        { f with wait := .remote (Dec.fld hd.toNat 52 12) s.nextId true sat (if leave then .leave hd else .other) }) ∧
      (f.tag ≠ hd ∨ f.plzSet ≠ some l → u.fib? f.uid = some f)) ∧
  (∀ (s : State) (f : Fibre) (h : Hdr) (a : Reg) (peer : PeerFibre) (addr size cause : Nat) (sc : Scope),
  let hd := f.pair a
  (s.Issues f (.plzAbort h a) h.g (pairRegs a) (pairCodes a) → s.badHandle hd = false → s.isLocal hd = false →
    ∃ v : State, exec (.plzAbort h a) s = .next (v.retire f (.plzAbort h a) { stall := h.s.toNat }) ∧
      (∀ x, s.awayPlazas.find? (fun x => x.handle == hd) = some x → x.asked = true → v = s) ∧
      ((∀ x, s.awayPlazas.find? (fun x => x.handle == hd) = some x → x.asked = false) →
        v.replies = s.replies ++ [2 :: 5 :: Dec.leBytes 8 hd.toNat])) ∧
  (s.isLocal hd = true → exec (.remoteRequest peer addr size sc (.plzAbort hd (.ofNat 8 cause))) s =
    .next (s.abortPlaza hd (cause % 256))))

/-- R301: `plz.abort` aborts the plaza of its handle with DETAIL 0x05 where it is OPEN and changes no other plaza; it
retires whatever tag the fibre carries, raises no counter and does not wait. With d not 0 there is no such instruction.
A handle that R292 refuses traps. A plaza of a peer is not in this device's hands: nothing of it is changed here. -/
def Obligations.PlazaAbort : Prop :=
  (∀ (s : State) (f : Fibre) (h : Hdr) (a : Reg), s.Issues f (.plzAbort h a) h.g (pairRegs a) (pairCodes a) →
    let hd := (f.pair a).toNat
    (s.badHandle (f.pair a) = false → s.isLocal (f.pair a) = true →
      exec (.plzAbort h a) s = .next (({ s with plazas := s.plazas.map fun p =>
          if hd = s.dev.toNat * 2 ^ 52 + p.die * 2 ^ 50 + p.index * 2 ^ 32 + p.gen ∧ p.die < 4 ∧ p.index < 2 ^ 18 ∧
              p.gen < 2 ^ 32 ∧ p.state = .opened
          then ({ p with state := .aborting, cause := 5 } : Plaza) else p } : State).retire f (.plzAbort h a)
        { stall := h.s.toNat })) ∧
    (s.badHandle (f.pair a) = false → s.isLocal (f.pair a) = false →
      ∃ v : State, exec (.plzAbort h a) s = .next (v.retire f (.plzAbort h a) { stall := h.s.toNat }) ∧
        v.plazas = s.plazas ∧ v.fibres = s.fibres ∧ v.mem = s.mem) ∧
    (s.badHandle (f.pair a) = true →
      exec (.plzAbort h a) s = .next (s.trapAt f (.plzAbort h a) .plazaMisuse 0x03 hd))) ∧
  (∀ (h : Hdr) (a d : Reg), d ≠ 0 → decodeTableWord 32 (Enc.encD 0x31 0x04 h a.toNat d.toNat) = none)

/-! ## The units. -/

/-- R194, R195, R199, R241, R246, R249, R274: a matrix or selection operation whose block passes its checks takes a place in
its quad's table, or waits for one outside it; `launch` queues the launch that its record describes, and closes the fibre's
records as its counters drain (R228; DESIGN CHOICE, log 119); one that is refused is no event, so that its reads leave no record
(R322). The block is read as an access of the fibre, registered before it (DEDUCED, log 97); that a `launch` makes the pending writes
visible is log 118 (DESIGN CHOICE). -/
def Obligations.MatrixAndLaunchResults : Prop :=
  ∀ (s t y z : State) (f : Fibre) (h : Hdr) (two : Bool) (a d : Reg) (l : Loc) (e : TlbEntry) (sva : Nat) (bd : Binding)
    (r b mask : List Byte) (la : Launch),
  let off := (f.reg a).toNat
  let reads (t : State) (l : Loc) (b : List Byte) (u : State) : Prop := t.ownAhead f l 64 = false ∧
    ∃ q, t.register { objAcc t f l 64 .dev with writes := false, sync := false } = .ok q ∧ b = q.bytes l 64 ∧
      u = ({ q with nextId := q.nextId + 1 } : State).recDone t.nextId
  let posts (i : Instr) (t : State) (kind : MxKind) (off : Nat) (blk mask : List Byte) (cls : Nat) : Prop :=
    (∀ op, f.wait ≠ .table op) →
    let room : Prop := (kind.tabled = true → t.tableCount (coreQuad f.core) < Config.tableEntries) ∧ f.counter .mx < 63
    let names (n : MxEntry) : Prop := n.id = t.nextId ∧ n.fib = f.uid ∧ n.quad = coreQuad f.core ∧ n.kind = kind ∧
      n.ord = f.mxSeq + 1 ∧ n.off = off ∧ n.blk = blk ∧ n.mask = mask ∧ n.cls = cls ∧ n.pass = 0 ∧ n.ovf = false ∧
      n.hold = .none ∧ n.failed = false ∧ n.asid = t.asidOf f ∧ n.iaddr = f.pc ∧ n.stage = .idle ∧
      n.waitAt = mxWait kind (((t.spBase f kind.array).map (·.1)).getD 0) blk
    (room → ∃ n : MxEntry, names n ∧ n.tabled = true ∧ (n.waitAt = none → n.released = true ∧ n.refused = none) ∧
      (∀ w p, n.waitAt = some (w, p) → (t.obj w).failed = false →
        n.refused = none ∧ n.released = (t.obj w).passed p) ∧
      (∀ w p, n.waitAt = some (w, p) → (t.obj w).failed = true → n.refused = some (2, 0)) ∧
      exec i s = .next (({ t with mx := (t.mx.filter fun g => g.id != n.id) ++ [n], nextId := t.nextId + 1 } : State).retire
        { f.raise n.id .mx with mxSeq := f.mxSeq + 1 } i { stall := h.s.toNat })) ∧
    (¬room → ∃ n : MxEntry, names n ∧ n.tabled = false ∧
      exec i s = .next (({ t with mx := t.mx ++ [n], nextId := t.nextId + 1 } : State).block f (.table n.id)))
  (off % 64 = 0 → resolveSp s f off 64 64 false = .ok l t → reads t l b y →
    (s.Issues f (.mxa h a) h.g [a] [rc a] → mxCheck y f b off none = none →
      posts (.mxa h a) y .dense off b [] (mxClassOf y f b)) ∧
    (s.Issues f (.mxs h two a d) h.g [a, d] [rc a, rc d] → mxCheck y f b off (some (f.reg d).toNat) = none →
      posts (.mxs h two a d) y (.sparse two (f.reg d).toNat) off b [] (mxClassOf y f b)) ∧
    (s.Issues f (.asel h a) h.g [a] [rc a] → selFields b (SelBlk.read b) (y.spadOf f) = true →
      reads y (.sp (((y.spBase f false).map (·.1)).getD 0 + (SelBlk.read b).maskoff)) mask z → maskFields mask = true →
      f.tag = 0 → posts (.asel h a) z .asel off b mask 0) ∧
    (s.Issues f (.agat h a) h.g [a] [rc a] → gatFields b (GatBlk.read b) (y.spadOf f) = true → f.tag = 0 →
      y.holdsQuad f = true → posts (.agat h a) y .agat off b [] 0)) ∧
  (∀ (op : Nat) (n : MxEntry), f.wait = .table op → (s.mx.find? fun x => x.id == op) = some n →
    (s.Issues f (.mxa h a) h.g [a] [rc a] → exec (.mxa h a) s = .next (tableMx s f (.mxa h a) h n)) ∧
    (s.Issues f (.mxs h two a d) h.g [a, d] [rc a, rc d] →
      exec (.mxs h two a d) s = .next (tableMx s f (.mxs h two a d) h n)) ∧
    (s.Issues f (.asel h a) h.g [a] [rc a] → exec (.asel h a) s = .next (tableMx s f (.asel h a) h n)) ∧
    (s.Issues f (.agat h a) h.g [a] [rc a] → exec (.agat h a) s = .next (tableMx s f (.agat h a) h n))) ∧
  (let va := (f.pair a).toNat;
    s.Issues f (.ksumRebuild h a) h.g (pairRegs a) (pairCodes a) → f.tag = 0 →
    resolveGlobal s f va 1 1 .read = .ok l t → t.l1Find f.core (t.asidOf f) va = some e →
    checkPage t (t.asidOf f) va l e none = .ok y sva bd → translateFor y f sva .read = .ok (.dram bd.spa) z →
    posts (.ksumRebuild h a) z (.ksum (va / 16384 * 16384) bd) (va / 16384 * 16384) [] [] 0) ∧
  (let va := (f.pair a).toNat;
    s.Issues f (.launch h a) h.g (pairRegs a) (pairCodes a) → va % 64 = 0 →
    (f.tag ≠ 0 → exec (.launch h a) s = .next (s.trapAt f (.launch h a) .plazaMisuse 0x04 f.tag.toNat)) ∧
    (f.tag = 0 → s.graphStop f = none → f.counter .st ≠ 0 → exec (.launch h a) s = .next (s.block f (.counter .st 0))) ∧
    (f.tag = 0 → s.graphStop f = none → f.counter .st = 0 → readRecord s f va 4 = .ok r t →
      (fb r 49 1 = t.asidOf f → t.checkLaunch r none f.before = .ok la y →
        let w := (({ y.release f.uid with launches := y.launches ++ [la], nextId := y.nextId + 1 } : State).retire
          { f with closing := f.closing ++ [y.nextId] } (.launch h a) { stall := h.s.toNat, safe := true, flush := true })
        exec (.launch h a) s = .next (w.closeDrained f.uid) ∧
        (f.outs = [] → (y.fib? f.uid).isSome = true →
          ∀ x ∈ (w.closeDrained f.uid).records, x.fib = f.uid → y.nextId ≤ x.owner)) ∧
      (∀ code, fb r 49 1 = t.asidOf f → t.checkLaunch r none f.before = .refuse code y →
        exec (.launch h a) s = .next
          (({ y with records := s.records, touched := s.touched } : State).trapAt f (.launch h a) .launch code)) ∧
      (fb r 49 1 ≠ t.asidOf f → exec (.launch h a) s = .next
        (({ t with records := s.records, touched := s.touched } : State).trapAt f (.launch h a) .launch 0x40))))

/-- R51, R55, R95, R97, R106, R107, R109, R112, R132, R161: the steps at a fibre's boundary and of the Crossing, each where
it falls. A saved fibre is chosen by the number that its wait began with, also for one that waits to be restored, and comes
back for a deferred trap too (DEDUCED, log 29); HELD has the PC and the INSN of its boundary (DEDUCED, log 66), and SAFE_DISTANCE too
(DESIGN CHOICE, log 107); a nap that is ended early lets its writes be seen (DEDUCED, log 19); a trap's effects wait with its record
(DEDUCED, log 4); and that a starved fibre has the very next turn is the model's choice (DESIGN CHOICE, log 1). -/
def Obligations.FibreEvents : Prop :=
  ∀ (s : State) (f : Fibre) (l : Launch) (core seg launch : Nat) (fid : BitVec 31) (r : Range)
    (u : (Range → Range) → Fibre → Fibre) (d : Deferred) (ds : List Deferred), s.fib? f.uid = some f →
  (s.detLaunch launch = true → exec (.heartbeatTick launch core) s = .next s) ∧
  (s.detLaunch launch = false →
    let ticked := s.fibres.filter fun g => g.launch == launch && g.core == core && g.status == .resident &&
      g.wait == .none && !g.trapMode && !g.stopped
    (ticked = [] → exec (.heartbeatTick launch core) s = .next s) ∧
    (ticked = [f] →
      (f.inGroup = false → exec (.heartbeatTick launch core) s = .next (s.deliverTick f)) ∧
      (f.inGroup = true →
        exec (.heartbeatTick launch core) s = .next (s.modF f.uid fun g => { g with tickDue := true }))) ∧
    ((s.fibres.map (·.uid)).Nodup → (∀ g ∈ s.fibres, g.uid < s.nextId) →
      ∃ v, exec (.heartbeatTick launch core) s = .next v ∧ v.mem = s.mem ∧
        (∀ g ∈ s.fibres, g ∉ ticked → v.fib? g.uid = some g) ∧
        ∀ g ∈ ticked, (g.inGroup = true → v.fib? g.uid = some { g with tickDue := true }) ∧
          (g.inGroup = false →
            ∃ t : State, t.accs = s.accs ∧ t.fib? g.uid = some g ∧ v.fib? g.uid = (t.deliverTick g).fib? g.uid))) ∧
  (f.status = .resident → s.launch? f.launch = some l → l.flags % 2 = 1 → l.h ≤ f.hbc → f.trapMode = false →
    f.wait = .none →
    exec (.detHeartbeat f.uid) s =
      .next ((s.modF f.uid fun g => { g with hbc := 0 }).deliverTick { f with hbc := 0 })) ∧
  (f.status = .resident → s.dueRange f = some (r, u) → s.rangeLanding f r = false →
    exec (.rangeSplit f.uid) s = .next (s.splitRange f r u)) ∧
  (s.launch? f.launch = some l → s.slotFree l f.block core = true → s.freeSeg l = some seg →
    coreDie core = coreDie f.core → f.preempt = false →
    (f.status = .queued → core < 1024 → core ∉ s.gated →
      (∀ g ∈ s.fibres, g.uid ≠ f.uid → g.launch = f.launch → coreDie g.core = coreDie core →
        g.fid = .ofNat 32 (2 ^ 31 + fid.toNat) → g.status = .ended ∨ g.status = .queued) →
      (∀ g ∈ s.fibres, coreDie g.core = coreDie core → s.restorable g = false) →
      exec (.childStart f.uid core fid) s = .next (s.modF f.uid fun g =>
        { g with status := .resident, core := core, fid := .ofNat 32 (2 ^ 31 + fid.toNat), seg := some seg })) ∧
    (∀ g ∈ s.fibres, coreDie g.core = coreDie core → s.restorable g = true →
      exec (.childStart f.uid core fid) s = .next s) ∧
    (f.status = .joinSaved → core ∉ s.gated → (s.waitOver f = true ∨ f.deferredDue = true) →
      exec (.joinRestore f.uid core) s = .next (s.modF f.uid fun g =>
        { g with status := .resident, core := core, seg := some seg }))) ∧
  (∀ g ∈ s.fibres, g.status = .queued ∨ s.restorable g = true → coreDie g.core = coreDie f.core →
    s.launch? g.launch = some l →
    f ∈ s.crowdedBy l g.block (coreDie f.core) → (∀ x ∈ s.crowdedBy l g.block (coreDie f.core), f.since ≤ x.since) →
    f.outs = [] →
    exec (.joinSave f.uid) s = .next (s.modF f.uid fun g => { g.flush with status := .joinSaved, seg := none })) ∧
  (f.status = .resident → f.stopped = false → f.trapMode = false → f.wait = .none → f.abort = none →
    f.deferred = d :: ds →
    (∀ lr y, s.recordAt f true = .ok lr y ∨ s.recordAt f true = .gone y →
      (d.cause ≠ .held → exec (.deferredTrap f.uid) s = .next (y.takeTrap { f with deferred := ds }
        { cause := d.cause, detail := d.detail, pc := f.pc, iaddr := d.iaddr, insn := d.insn, daddr := d.daddr
          deferred := decide (d.cause ≠ .sat ∧ d.cause ≠ .soft) })) ∧
      (d.cause = .held → exec (.deferredTrap f.uid) s = .next ((y.drawInsn f).takeTrap { f with deferred := ds }
        { cause := .held, pc := f.pc, iaddr := f.pc, insn := y.insnAt f, daddr := d.daddr }))) ∧
    (∀ y, s.recordAt f true = .wait y → exec (.deferredTrap f.uid) s = .next y)) ∧
  (f.status = .resident → f.stopped = false → f.preempt = true → 4096 < f.distNow → f.trapMode = false → f.wait = .none →
    (∀ lr y, s.recordAt f true = .ok lr y ∨ s.recordAt f true = .gone y →
      exec (.safeDistance f.uid) s = .next ((y.drawInsn f).takeTrap f
        { cause := .safeDistance, pc := f.pc, iaddr := f.pc, insn := y.insnAt f })) ∧
    (∀ y, s.recordAt f true = .wait y → exec (.safeDistance f.uid) s = .next y)) ∧
  (f.wait = .nap →
    exec (.napEnd f.uid) s = .next (s.modF f.uid fun g =>
      { g with wait := .napOver, waited := g.wakes, stopped := false })) ∧
  (s.mayRun f = true → exec (.issueStarvation f.uid) s = .next { s with starved := some f.uid })

/-- R68, R108 to R110: a tick promotes the oldest frame where it is a call frame; a split gives the child the top
grain·⌊remaining/(2·grain)⌋ iterations, so that the parent keeps at least half, and each side at least the grain; the range
may be the root or a frame of the stack, of either form, with a reduction or without. The limit of form L is not wrapped
(DESIGN CHOICE, log 69); a promoted child's loops are copied and inactive, and a form-L child's other loops are that with counter
0 (DEDUCED, log 87). -/
def Obligations.TicksAndSplits : Prop :=
  (∀ (i l : Int) (g : Nat), 1 ≤ g →
    (l - i < 2 * g → splitMid i l g = none) ∧
    (2 * g ≤ l - i → ∃ mid, splitMid i l g = some mid ∧ l - mid = g * ((l - i) / (2 * g)) ∧ i + g ≤ mid ∧ mid + g ≤ l ∧
      l - mid ≤ mid - i)) ∧
  (∀ (s : State) (f : Fibre) (target : Nat) (args : List Word) (rest : List Frame), s.fib? f.uid = some f →
    f.uid ≠ s.nextId → f.root = none → f.frames = rest ++ [.call target args none] →
    (∀ r ∈ f.ranges, s.rangeLanding f r = false) → args.length ≤ 63 →
    let u := s.deliverTick f
    ∃ g c, u.fib? f.uid = some g ∧ u.fibres.getLast? = some c ∧
      g.frames = rest ++ [.call target args (some s.nextId)] ∧ g.pc = f.pc ∧ g.tickDue = false ∧
      c.uid = s.nextId ∧ c.status = .queued ∧ c.origin = .call ∧ c.pc = target ∧ c.launch = f.launch ∧
      c.block = f.block ∧ c.mode = f.mode ∧ c.hbc = 0 ∧ c.frames = [] ∧ u.mem = s.mem ∧
      (∀ k, k < 3 → c.loop k = { f.loop k with active := false }) ∧
      ∀ n : Reg, c.reg n = (if n = 0 then 0 else args.getD (n.toNat - 1) 0)) ∧
  (∀ (s : State) (f : Fibre) (r : Range) (mid : Int) (u : (Range → Range) → Fibre → Fibre), s.fib? f.uid = some f →
    f.uid ≠ s.nextId → r.loopN < 3 → f.qualifies r = true →
    ((u = onRoot ∧ f.root = some r) ∨ ∃ n, u = onFrame n ∧ f.frames.reverse[n]? = some (.range r)) →
    let i := (f.flush.reg r.idx).toInt
    let l := if r.formL = true then i + (f.loop r.loopN).count.toNat else (f.flush.reg r.lim).toInt
    splitMid i l r.grain = some mid →
    let v := s.splitRange f r u
    let kept : Range := { r with armed := false, due := false, kids := s.nextId :: r.kids }
    ∃ g c, v.fib? f.uid = some g ∧ v.fibres.getLast? = some c ∧ v.mem = s.mem ∧ g.pc = f.pc ∧
      (u = onRoot → g.root = some kept ∧ g.frames = f.frames) ∧
      (∀ n, u = onFrame n → g.root = f.root ∧ g.frames.reverse[n]? = some (.range kept) ∧
        ∀ m, m ≠ n → g.frames.reverse[m]? = f.frames.reverse[m]?) ∧
      (r.formL = true → g.regs = f.regs ∧ g.pend = f.pend ∧
        g.loop r.loopN = { f.loop r.loopN with count := .ofInt 32 (mid - i) } ∧
        ∀ k, k < 3 → k ≠ r.loopN → g.loop k = f.loop k) ∧
      (r.formL = false → (r.lim ≠ 0 → g.reg r.lim = .ofInt 32 mid) ∧ ∀ k, g.loop k = f.loop k) ∧
      c.uid = s.nextId ∧ c.status = .queued ∧ c.origin = .range ∧ c.pc = f.pc ∧ c.frames = [] ∧
      c.root = some { r with armed := false, due := false, kids := [] } ∧ c.pend = [] ∧ c.prio = f.prio ∧ c.mode = f.mode ∧
      (∀ n : Pred, c.pred n = f.flush.pred n) ∧
      (∀ n : Reg, c.reg n =
        if n = 0 then 0
        else if r.op ≠ .none ∧ r.ty = .i64 ∧ n = odd r.acc then (redIdentity r.ty r.op).extractLsb' 32 32
        else if r.op ≠ .none ∧ n = r.acc then (redIdentity r.ty r.op).setWidth 32
        else if n = r.idx then .ofInt 32 mid
        else f.flush.reg n) ∧
      ∀ k, k < 3 → c.loop k =
        if r.formL = false then f.loop k
        else if k = r.loopN then { f.loop k with count := .ofInt 32 (l - mid), order := 0 }
        else { f.loop k with active := false, count := 0 })

/-- R137, R138, R224, R225, R231, R269: a copy between scratchpads or typed buffers reads and lands word by word; a walk
fills the TLB or opens a fault record; a record that closes sends on those that wait for it; an invalidation drops the
entries of its range; a full detector makes an error record. A piece is registered with its first word (DEDUCED, log 84). -/
def Obligations.MemoryEvents : Prop :=
  ∀ (s r t : State) (c : Copy) (sl dl l : Loc) (quad va die rec reason level ea : Nat) (asid : BitVec 8) (k : AccKind)
    (e : TlbEntry) (w : Word),
  ((s.copies.find? fun x => x.id == c.id) = some c → c.failed = false → c.hold = .none →
    (∀ x ∈ s.copies, ¬(x.core = c.core ∧ x.queue = c.queue ∧ x.node.isSome = c.node.isSome ∧ x.id < c.id)) →
    let stop := c.pieceEnd c.landed
    (c.len ≠ 0 → c.sent < stop → c.src = .here sl → ((∃ j, sl = .sp j) ∨ ∃ j, sl = .cb j) →
      (if c.pieceStart c.sent = true
        then s.register (pieceAcc c false c.id (sl.add c.sent) (stop - c.sent)) = .ok r else r = s) →
      let n := min 4 (stop - c.sent)
      let d : Copy := { c with sent := c.sent + n, buf := c.buf ++ s.bytes (sl.add c.sent) n }
      exec (.copyPieceLand c.id) s = .next (if d.sent = c.len then (r.setCopy d).copySent d else r.setCopy d)) ∧
    (c.len ≠ 0 → stop ≤ c.sent → c.bar = none → c.dst = .here dl → ((∃ j, dl = .sp j) ∨ ∃ j, dl = .cb j) →
      (if c.pieceStart c.landed = true
        then s.register (pieceAcc c true (c.id + 1) (dl.add c.landed) (stop - c.landed)) = .ok r else r = s) →
      let n := min 4 (c.sent - c.landed)
      let d : Copy := { c with landed := c.landed + n, buf := c.buf.drop n }
      let v := ((r.setBytes (dl.add c.landed) (c.buf.take n)).chooseRun (dl.add c.landed) n).setCopy d
      exec (.copyPieceLand c.id) s = .next (if d.landed = c.len then v.endCopy d else v)) ∧
    (c.len = 0 → c.bar = none → exec (.copyPieceLand c.id) s = .next (s.endCopy c))) ∧
  (s.tlbFind quad asid.toNat va = some e → exec (.tableWalk quad asid va k) s = .next s) ∧
  (s.tlbFind quad asid.toNat va = none →
    (s.uncachedAll 4 (s.walkAddrs asid.toNat va) = (t, false) → exec (.tableWalk quad asid va k) s = .next t) ∧
    (s.uncachedAll 4 (s.walkAddrs asid.toNat va) = (t, true) →
      (walk (t.ctxSee asid.toNat) quad asid.toNat va = .ok l e →
        exec (.tableWalk quad asid va k) s = .next ((t.ctxSee asid.toNat).tlbFill e)) ∧
      (walk (t.ctxSee asid.toNat) quad asid.toNat va = .fault reason level ea →
        exec (.tableWalk quad asid va k) s =
          .next (openFault (t.ctxSee asid.toNat) (quadDie quad) asid.toNat va k 0 reason level ea).1))) ∧
  (∀ ok : Bool, let page := ((s.faults.find? fun x => x.die == die && x.index == rec).map fun x => x.va / 4096).getD 0;
    ∃ u, exec (if ok = true then .faultdoneResolved die rec else .faultdoneUnresolvable die rec) s = .next u ∧
    u.faults = s.faults.filter (fun x => !(x.die == die && x.index == rec)) ∧ u.mem = s.mem ∧ u.tlb = s.tlb ∧
    ∀ f, s.fib? f.uid = some f →
      u.fib? f.uid = some (if f.wait = .fault die rec then
          ({ f with wait := if ok = true then .none else .faultFailed page } : Fibre)
        else if f.wait = .faultFull die then ({ f with wait := .none } : Fibre) else f)) ∧
  (∃ u, exec (.tlbinv w) s = .next u ∧ u.mem = s.mem ∧
    (let gone (x : TlbEntry) : Prop := x.asid = w.toNat / 2 ^ 24 ∧ s.bar.tlbva.toNat < x.base + x.size ∧
        x.base < s.bar.tlbva.toNat + 4096 * (w.toNat % 2 ^ 24 + 1);
      (∀ x, x ∈ u.tlb ↔ x ∈ s.tlb ∧ ¬gone x) ∧ ∀ n x, (n, x) ∈ u.l1tlb ↔ (n, x) ∈ s.l1tlb ∧ ¬gone x) ∧
    (u.tlbBusy = [] → ∀ x ∈ u.ctxSeen, x.1 ≠ w.toNat / 2 ^ 24) ∧
    (u.bar.sync.getLsbD 0 = true ↔ u.tlbBusy ≠ []) ∧ (∀ n, 0 < n → u.bar.sync.getLsbD n = s.bar.sync.getLsbD n)) ∧
  (s.tableFull die = false → exec (.detectorFull die) s = .next s) ∧
  (die < 4 → s.tableFull die = true → die ∉ s.detectorFull → ∃ u, exec (.detectorFull die) s = .next u ∧ die ∈ u.detectorFull ∧
    u.errors = s.errors ++ [⟨0x04, 9, die, 0, s.bar.errseq.getD die 0 + 1⟩] ∧ u.mem = s.mem ∧ u.records = s.records)

/-- R215 to R220, R233: what each coherence step does to the L1 copies and the directories, where it applies: the home's,
and that of the proxy slice through which a core of another die is served. That an owner which sends no data leaves X with S is
the model's choice (DESIGN CHOICE, log 96). An uncached read carries its agent and the upset that
it finds (DESIGN CHOICE, log 57; for an SRAM error, DEDUCED, log 75). -/
def Obligations.CoherenceEvents : Prop :=
  ∀ (s : State) (x k line addr d : Nat) (data : List Byte) (e : FillEntry) (ag : BitVec 8) (up : Upset) (a : Access) (ty : LdTy) (dst : Reg),
  (s.serves x k false = true → s.l1At x k = .i → (∀ f ∈ s.fills, f.core = x → f.sector = k → f.killed = true) →
    s.hostInWay (sectorLoc k) 64 false = [] →
    let g := s.getS x k
    let t := (checkRead g.1 (sectorLoc k) 64 0).1
    exec (.gets x k) s = .next (({ t with
      fills := t.fills ++ [⟨x, k, t.bytes (sectorLoc k) 64, g.2, [], false⟩] } : State).joinFill x k) ∧
    t.mem = s.mem ∧
    (servedBy x k = none →
      ((s.dirAt none k).state = .i → s.keySector k = false → g.1.dirAt none k = ⟨k, .em x, []⟩ ∧ g.2 = true) ∧
      ((s.dirAt none k).state = .s → x ∈ (g.1.dirAt none k).sharers ∧ (g.1.dirAt none k).state = .s ∧ g.2 = false) ∧
      (∀ y, (s.dirAt none k).state = .em y → y ≠ x → y < 1024 → g.2 = false ∧
        (s.l1At y k = .m → g.1.l1At y k = .o ∧ g.1.dirAt none k = ⟨k, .o y, [x]⟩) ∧
        (s.l1At y k = .e → g.1.l1At y k = .s ∧ g.1.dirAt none k = ⟨k, .s, [y, x]⟩))) ∧
    (servedBy x k = some d → s.l1At (proxyOf d) k = .i → (s.dirAt (some d) k).state = .i →
      (s.dirAt none k).state = .i → s.keySector k = false →
      g.1.dirAt none k = ⟨k, .em (proxyOf d), []⟩ ∧ g.1.dirAt (some d) k = ⟨k, .em x, []⟩ ∧ g.2 = true)) ∧
  (∀ op ∈ ([.getm x k, .upgrade x k] : List Instr), s.serves x k true = true →
    (if op = .getm x k then s.l1At x k = .i else (s.l1At x k = .s ∨ s.l1At x k = .o)) → s.keySector k = false →
    s.hostInWay (sectorLoc k) 64 true = [] → s.pinned (sectorLoc k) 64 = false →
    ∃ u, exec op s = .next u ∧ u.mem = s.mem ∧ u.l1At x k = .m ∧
      (servedBy x k = none → u.dirAt none k = ⟨k, .em x, []⟩ ∧
        ∀ y ∈ (s.dirAt none k).holders, y ≠ x → u.l1At y k = .i) ∧
      (servedBy x k = some d → u.dirAt (some d) k = ⟨k, .em x, []⟩ ∧
        (s.l1At (proxyOf d) k ≠ .m → s.l1At (proxyOf d) k ≠ .e →
          ∀ y ∈ (s.dirAt none k).holders, y ≠ proxyOf d → y ≠ x → u.l1At y k = .i))) ∧
  (inDram addr data.length = true → data ≠ [] → (addr + data.length - 1) / 64 = addr / 64 →
    s.meet (.dram addr) data.length 0 true = (s, .go) → s.hostInWay (.dram (64 * (addr / 64))) 64 true = [] →
    s.pinned (.dram (64 * (addr / 64))) 64 = false →
    ∃ u, exec (.homeWrite addr data) s = .next u ∧ u = s.homeWrite (.dram addr) data ∧
      (u.dirAt none (addr / 64)).state = .i ∧
      ∀ y ∈ (s.dirAt none (addr / 64)).holders, u.l1At y (addr / 64) = .i) ∧
  (inDram (64 * k) 64 = true → s.meet (.dram (64 * k)) 64 0 false = (s, .go) →
    s.hostInWay (.dram (64 * k)) 64 false = [] →
    exec (.uncachedRead ⟨k, ag, up⟩) s =
      .next (checkRead ((s.homePeek k).upset k up) (.dram (64 * k)) 64 ag.toNat).1) ∧
  (x < 1024 → (s.dirAt (servedBy x k) k).state = .em x → ∃ u, exec (.probeShare x k) s = .next u ∧ u.mem = s.mem ∧
    (s.l1At x k = .m → u.l1At x k = .o ∧ (u.dirAt (servedBy x k) k).state = .o x) ∧
    (s.l1At x k = .e → u.l1At x k = .s ∧ u.dirAt (servedBy x k) k = ⟨k, .s, [x]⟩)) ∧
  (x < 1024 → ∃ u, exec (.probeInvalidate x k) s = .next u ∧ u.l1At x k = .i ∧ u.mem = s.mem ∧
    ∀ f ∈ u.fills, f.core = x → f.sector = k → f.killed = true) ∧
  (x < 1024 → s.l1At x k = .m ∨ s.l1At x k = .o →
    ∃ u, exec (.putm x k) s = .next u ∧ u.l1At x k = .i ∧ u.mem = s.mem ∧
      u.dirAt (servedBy x k) k = (s.dirAt (servedBy x k) k).without x) ∧
  (x < 1024 → s.l1At x k = .s ∨ s.l1At x k = .e →
    ∃ u, exec (.puts x k) s = .next u ∧ u.l1At x k = .i ∧ u.mem = s.mem ∧
      u.dirAt (servedBy x k) k = (s.dirAt (servedBy x k) k).without x) ∧
  (x < 1024 → ∃ u, exec (.lineEvict x line) s = .next u ∧ u.mem = s.mem ∧ ∀ n, n < 4 → u.l1At x (4 * line + n) = .i) ∧
  ((s.fills.find? fun g => g.core == x && g.sector == k) = some e →
    let w : State := { s with fills := s.fills.erase e }
    (e.killed = true → e.served = [] → exec (.fill x k) s = .next w) ∧
    (e.killed = false → x ∉ s.gated →
      let v := w.setL1 x k (if e.excl then .e else .s)
      (e.served = [] → exec (.fill x k) s = .next v) ∧
      (e.served = [a.id] → s.acc? a.id = some a → a.op = .load ty dst →
        exec (.fill x k) s = .next ((v.endAccess a).modF a.fib fun g => g.landLoad a.wseq ty dst
          (Dec.leNat ((e.data.drop (a.loc.key.2 % 64)).take a.size)))))) ∧
  (x < 1024 → x ∉ s.gated → s.roundCount x = 0 →
    (∀ f ∈ s.fibres, f.core = x → f.status ≠ .resident ∧ f.status ≠ .parked) →
    ∃ u, exec (.corePowerGate x) s = .next u ∧ u.mem = s.mem ∧ x ∈ u.gated ∧ ∀ c ∈ u.l1, c.1 ≠ x) ∧
  (∃ u, exec (.coreWake x) s = .next u ∧ x ∉ u.gated ∧ u.mem = s.mem ∧ ∀ y, y ≠ x → (y ∈ u.gated ↔ y ∈ s.gated))

/-- R180, R192, R195, R197, R199, R241, R246, R249: the steps of the matrix and selection engines where their bytes are at
hand: a granted pass begins, fetches its sources one by one, loads the plane, applies block after block and writes the results
word by word, sources and words in an order that free values give (R204, R345); an
`asel` in one step; an `agat` reads its COUNT and its list, then pages and pieces; a rebuild reads sector after sector, in an order
that free values give (R345), and then writes the signpost; and the sum of one integer block. The steps that a run is
cut into, and the lines that a pass pins from its start, are DEDUCED (log 18). -/
def Obligations.MatrixEvents : Prop :=
  ∀ (s t t1 t2 : State) (e : MxEntry) (rows signs : List (List Byte)) (ps : List Piece) (pss : List (List Piece))
    (todo : List (Nat × List Piece)) (bd : Binding) (va b row : Nat),
  ((s.mx.find? fun g => g.id == e.id && g.quad == e.quad && g.kind.array && g.tabled) = some e →
    let x := MxBlk.read e.blk
    (e.barFails = true → e.stage = .idle →
      exec (.mxPass e.quad e.id) s = .next (abortMx s e (x.arrLoc e) .copyFault 0 e.off)) ∧
    (e.barFails = false → granted s e.quad = some e →
      (e.stage = .idle → (x.reload = true ∨ s.latchedFmt e.quad (x.plane % 2) = some x.wfmt) →
        admitSrcs s e 2 (e.srcs.1 ++ e.srcs.2.1 ++ e.srcs.2.2.1 ++ e.srcs.2.2.2) = .ok pss t →
        exec (.mxPass e.quad e.id) s = .next (t.setMx { e with
          starved := false, stage := .fetching ((List.range pss.length).zip pss), rows := List.replicate pss.length [], run := []
          bsize := if relief s e x then 16 else blockB x.cls, pins := pinsOf pss.flatten })) ∧
      (e.stage = .idle → x.reload = false → s.latchedFmt e.quad (x.plane % 2) ≠ some x.wfmt →
        exec (.mxPass e.quad e.id) s = .next (abortMx s e (x.arrLoc e) .mxFormat 4 e.off)) ∧
      (e.stage = .fetching todo → todo ≠ [] → e.refused = none →
        let k := (Config.freeValue s.freeCount).toNat % todo.length
        todo[k]? = some (row, ps) → meetLocs s false (ps.map fun p => p.2) = (t, true) → checkPieces t e 2 ps = (t1, none) →
        let r := readPieces { t1 with freeCount := t1.freeCount + 1 } ps
        exec (.mxPass e.quad e.id) s = .next (r.2.setMx { e with
          stage := .fetching (todo.eraseIdx k), rows := e.rows.set row r.1 })) ∧
      (e.stage = .fetching [] →
        let w := (passRows e.srcs e.rows).w
        (e.kind.stream.bind fun p => lineFault x p.1 e.k0 e.kn w) = none →
        let code (row : List Byte) (k : Nat) : Nat :=
          if e.kind.stream.isSome then sparseCode x.wfmt row (e.k0 + k) else element x.wfmt row k
        let loaded := if x.reload = true
          then s.loadPlane e.quad e.plane x.wfmt (w.map fun row => (List.range e.kn).map (code row)) else s
        exec (.mxPass e.quad e.id) s = .next ((loaded.tlbSettle e.id).setMx { e with stage := .applying 0 })) ∧
      (e.stage = .applying b →
        let q := passRows e.srcs e.rows
        let dropped (n k : Nat) : Bool := e.kind.stream.isSome && !sparseKept x.wfmt (q.w.getD n []) (e.k0 + k)
        let res : List (Nat × Nat × Bool) := x.elements.map fun p =>
          (elementKey e.quad x.areg p.1 p.2, blockOf s x e.quad e.plane (dropped p.2) (q.a.getD p.1 []) (q.ws.getD p.2 [])
            (q.as.getD p.1 []) p.2 (e.value s p.1 p.2) (e.blockKs b))
        let n : MxEntry := { e with ovf := e.ovf || res.any (fun r => r.2.2), run := res.map fun r => (r.1, r.2.1) }
        (b < e.blocks →
          exec (.mxPass e.quad e.id) s = .next (s.setMx { n with stage := .applying (b + 1) })) ∧
        (e.blocks ≤ b → ∀ key v, let k := (Config.freeValue s.freeCount).toNat % e.run.length
          e.run[k]? = some (key, v) →
          exec (.mxPass e.quad e.id) s =
            .next ((({ s with freeCount := s.freeCount + 1 } : State).setBytes (.cb key) (Dec.leBytes 4 v)).setMx
              { e with run := e.run.eraseIdx k })) ∧
        (e.blocks ≤ b → e.run = [] →
          let m : MxEntry := { e with pass := e.pass + 1, stage := .idle, pins := [], rows := [] }
          exec (.mxPass e.quad e.id) s =
            .next (if m.pass = x.passes e.kind.stream.isSome then finishMx s m (x.arrLoc e) else s.setMx m))))) ∧
  (∃ u, exec (.arbiterStarvation e.quad e.id) s = .next u ∧ u.mem = s.mem ∧ u.tbMem = s.tbMem ∧
    u.mx = s.mx.map fun g => if g.id = e.id ∧ g.quad = e.quad ∧ g.ready s then { g with starved := true } else g) ∧
  ((s.mx.find? fun g => g.id == e.id && g.kind == .asel && g.tabled && g.stage == .idle) = some e → e.hold = .none →
    let x := SelBlk.read e.blk
    fetchSrcs s e 3 [⟨false, x.qoff, .sp (e.spBase + x.qoff), x.qlen⟩, ⟨true, x.pladdr, .dram 0, 8 * x.npages⟩] =
      .ok rows t →
    readPages t e x ((List.range x.npages).map fun i => fb (rows.getD 1 []) (8 * i) 8) = .ok signs t1 →
    let qs := (List.range (dCount x.dcode)).map fun c =>
      if x.qf32 then fF32.val (fb (rows.getD 0 []) (4 * c) 4) else fBF16.val (fb (rows.getD 0 []) (2 * c) 2)
    let cls := (List.range x.npages).map (classify e.mask (keysOf x.dcode x.kfmt))
    let bs := (List.range x.npages).map fun i =>
      if cls.getD i .excluded = .excluded then f32NegInf else bound qs (signs.getD i [])
    let keep := selected x cls bs
    let out : List (Nat × List Byte) := (x.listoff, Dec.leBytes 4 keep.length ++ keep.flatMap (Dec.leBytes 2)) ::
      if x.bounds then [(x.boundoff, bs.flatMap (Dec.leBytes 4))] else []
    registerPieces t1 (selAcc t1 e) (out.map fun p => (p.1, .sp (e.spBase + p.1), p.2.length)) = .ok () t2 →
    exec (.aselRun e.id) s = .next (finishMx
      (out.foldl (fun (t : State) (p : Nat × List Byte) => t.setBytes (.sp (e.spBase + p.1)) p.2) t2) e
      (if x.arrb then some (.sp (e.barBase + x.arroff)) else none))) ∧
  ((s.mx.find? fun g => g.id == e.id && g.kind == .agat && g.tabled) = some e → e.barFails = false → e.hold = .none →
    e.released = true → e.mask = [] →
    let x := GatBlk.read e.blk
    let n := Dec.leNat (rows.headD [])
    let count := rows.headD []
    let list := signs.headD []
    let idx (j : Nat) : Nat := fb (count ++ list) (4 + 2 * j) 2
    fetchSrcs s e 2 [⟨false, x.listoff, .sp (e.spBase + x.listoff), 4⟩] = .ok rows t →
    (4096 < n → exec (.agatRun e.id) s = .next (abortGat t e x .summary 6 e.off)) ∧
    (0 < n → n ≤ 4096 →
      fetchSrcs t e 2 [⟨false, x.listoff + 4, .sp (e.spBase + x.listoff + 4), 2 * n⟩] = .ok signs t1 →
      ((∃ j, j < n ∧ (x.npages ≤ idx j ∨ (j + 1 < n ∧ idx (j + 1) ≤ idx j))) →
        exec (.agatRun e.id) s = .next (abortGat t1 e x .summary 6 e.off)) ∧
      ((∀ j, j < n → idx j < x.npages ∧ (j + 1 < n → idx j < idx (j + 1))) →
        (Config.bufBytes < x.doff + 16384 * n → exec (.agatRun e.id) s = .next (abortGat t1 e x .prot 0 x.doff)) ∧
        (x.doff + 16384 * n ≤ Config.bufBytes →
          exec (.agatRun e.id) s = .next (t1.setMx { e with mask := count ++ list }))))) ∧
  ((s.mx.find? fun g => g.id == e.id && g.kind == .agat && g.tabled) = some e → e.barFails = false → e.hold = .none →
    e.released = true → e.mask ≠ [] →
    let x := GatBlk.read e.blk
    (e.page = none →
      fetchSrcs s e 2 [⟨true, x.pladdr + 8 * fb e.mask (4 + 2 * (e.pass / 64)) 2, .dram 0, 8⟩] = .ok rows t →
      Dec.leNat (rows.headD []) % 16384 = 0 →
      exec (.agatRun e.id) s = .next (t.setMx { e with page := some (Dec.leNat (rows.headD [])) })) ∧
    (e.page = some va → fetchSrcs s e 2 [⟨true, va + 256 * (e.pass % 64), .dram 0, 256⟩] = .ok rows t →
      let n : MxEntry := { e with pass := e.pass + 1, page := if (e.pass + 1) % 64 = 0 then none else some va }
      let u := (t.setBytes (.cb (cbKey e.quad (if x.wbuf then 0 else 1) (x.doff + 256 * e.pass))) (rows.headD [])).setMx n
      let v := if x.cntb then u.landBytes (.sp (e.barBase + x.baroff)) 256 else u
      exec (.agatRun e.id) s = .next (if n.pass = 64 * fb e.mask 0 4 then v.leaveMx n else v))) ∧
  ((s.mx.find? fun g => g.id == e.id && g.tabled) = some e → e.kind = .ksum va bd → e.hold = .none →
    (e.stage = .idle → e.failed = false → walkRange s e 3 6 va 16384 = .ok ps t →
      exec (.ksumRebuildRun e.id) s = .next (t.setMx { e with
        stage := .fetching ((ps.flatMap fun p =>
          (List.range (p.2.2 / 64)).map fun i => [(p.1 + 64 * i, p.2.1.add (64 * i), 64)]).map (0, ·))
        mask := emptySign (dCount bd.dcode) })) ∧
    (∀ a l, e.stage = .fetching todo → todo ≠ [] →
      let k := (Config.freeValue s.freeCount).toNat % todo.length
      todo[k]? = some (row, [(a, l, 64)]) → meetLocs s false [(l, 64)] = (t, true) →
      checkPieces t e 3 [(a, l, 64)] = (t1, none) →
      let r := readPieces { t1 with freeCount := t1.freeCount + 1 } [(a, l, 64)]
      let es := if bd.kfmt then 1 else 2
      exec (.ksumRebuildRun e.id) s = .next (r.2.setMx { e with
        stage := .fetching (todo.eraseIdx k)
        mask := (List.range (r.1.length / es)).foldl (fun g k =>
          widenSign g (((a - va) / es + k) % dCount bd.dcode) (keyCode bd.kfmt (fb r.1 (k * es) es))) e.mask })) ∧
    (e.stage = .fetching [] → meetLocs s true [(.dram bd.spa, 4 * dCount bd.dcode)] = (t, true) →
      exec (.ksumRebuildRun e.id) s = .next ((t.homeWrite (.dram bd.spa) e.mask).leaveMx e))) ∧
  (∀ (start : Int) (p : List Int),
    let z := start + p.sum
    (-(2 ^ 31) ≤ z → z < 2 ^ 31 → blockInt start p = (z, false)) ∧
    (2 ^ 31 ≤ z → blockInt start p = (2 ^ 31 - 1, true)) ∧
    (z < -(2 ^ 31) → blockInt start p = (-(2 ^ 31), true)))

/-! ## Boot, host, Square and fabric. -/

/-- R256, R264 to R268, R282, R283, R285: power-up, the boot commands in their states, the quote, the thermal trip and a
clock step. That memory with nothing written reads 0 after power-up is log 2 (DESIGN CHOICE: no rule gives it contents). What CMD
RESET keeps and clears is DEDUCED (log 52), and when bring-up meets a fault of the host link a DESIGN CHOICE (log 81). -/
def Obligations.BootEvents : Prop :=
  ∀ (s : State) (short : Bool) (dev : BitVec 12) (failed : List (BitVec 68)) (ports : BitVec 16)
    (paths : List (Nat × Nat × Nat)) (up : Bool),
  (∃ u, exec (.powerUp short dev) s = .next u ∧ u.bar = Regs.reset ∧ u.dev = dev ∧ u.shortReach = short ∧ u.mem = [] ∧
    u.spMem = [] ∧ u.fibres = [] ∧ u.launches = [] ∧ u.hostMem = s.hostMem) ∧
  (s.bar.status = 1 → ∃ u, exec .cmdLoad s = .next u ∧ u.bar = { s.bar with status := 2 } ∧ u.mem = s.mem ∧
    u.image = memBytes s.hostMem s.bar.image.toNat
      (256 + Dec.leNat (memBytes s.hostMem (s.bar.image.toNat + 8) 4))) ∧
  (s.bar.status = 2 → ∃ u, exec .verify s = .next u ∧ u.bar = { s.bar with status := verifyStatus s.image } ∧
    u.mem = s.mem ∧ verifyStatus s.image ∈ ([3, 0x81, 0x82, 0x83, 0x84] : List Nat) ∧
    (verifyStatus s.image = 3 → u.imageHash = imageDigest s.image ∧ u.recordHash = Config.recordHash)) ∧
  (s.bar.status = 3 →
    let fs := [0, 1, 2, 3].map fun d => failed.getD d 0
    let cs := [0, 1, 2, 3].map fun d => placementClass d (fs.getD d 0)
    ((∃ c ∈ cs, c = none) → exec (.selftest failed) s = .next { s with bar := { s.bar with status := 0x85 } }) ∧
    ((∀ c ∈ cs, c ≠ none) → exec (.selftest failed) s =
      .next { s with bar := { s.bar with status := 4 }, failedQuads := fs, classes := cs.map fun c => c.getD 0 })) ∧
  (s.bar.status = 4 →
    ((∃ d, d < 4 ∧ Config.dramTrains d = false) →
      exec (.train ports paths) s = .next { s with bar := { s.bar with status := 0x86 } }) ∧
    ((∀ d, d < 4 → Config.dramTrains d = true) → Config.linkFaults s.freeCount = true →
      exec (.train ports paths) s = .next { s with bar := { s.bar with status := 0x87 }, freeCount := s.freeCount + 1 }) ∧
    ((∀ d, d < 4 → Config.dramTrains d = true) → Config.linkFaults s.freeCount = false →
      ∃ u, exec (.train ports paths) s = .next u ∧ u.bar = { s.bar with status := 5 } ∧ u.ports = ports ∧ u.mem = s.mem ∧
        (∀ p, p ∈ u.paths ↔ p ∈ paths ∧ p.1 < 4096 ∧ p.1 ≠ s.dev.toNat ∧ p.2.1 < 16 ∧ ports.getLsbD p.2.1 = true) ∧
        ∀ r, r ∈ u.routes ↔ ∃ n, (r.1, r.2, n) ∈ u.paths ∧ ∀ q ∈ u.paths, q.1 = r.1 → n < q.2.2 ∨ (n = q.2.2 ∧ r.2 ≤ q.2.1))) ∧
  ((s.bar.status = 5 ∨ 0x81 ≤ s.bar.status) → ∃ u, exec .cmdReset s = .next u ∧ u.bar.status = 1 ∧ u.bar.sync = 0 ∧
    u.bar.ctxbase = s.bar.ctxbase ∧ u.mem = [] ∧ u.launches = [] ∧ u.fibres = [] ∧ u.hostMem = s.hostMem ∧
    u.dev = s.dev) ∧
  (s.bar.status = 5 → ∃ u sig, exec .cmdQuote s = .next u ∧ sig.length = 64 ∧ u.mem = s.mem ∧
    u.hostMem = memWrite s.hostMem s.bar.quoteaddr.toNat (s.quoteBody ++ sig)) ∧
  (exec .thermalTrip s = .next { s with bar := { s.bar with status := 0x88 } }) ∧
  (∃ u, exec (.clockStep up) s = .next u ∧ u.mem = s.mem ∧ u.fibres = s.fibres ∧
    (900 ≤ s.bar.clock.toNat → s.bar.clock.toNat ≤ 1500 →
      900 ≤ u.bar.clock.toNat ∧ u.bar.clock.toNat ≤ 1500 ∧
      (up = true → s.bar.clock.toNat ≤ 1400 → u.bar.clock.toNat = s.bar.clock.toNat + 100) ∧
      (up = false → 1000 ≤ s.bar.clock.toNat → u.bar.clock.toNat + 100 = s.bar.clock.toNat)))

/-- R224, R239, R255, R258, R260, R261, R275, R276: the host's accesses, and its commands where they are accepted. A register
keeps every value (DESIGN CHOICE, log 53), a reply is 0 and the bytes (DESIGN CHOICE, log 17), and the host keeps no copy of a
line that it writes (DEDUCED, log 51). A GRAPHREG write waits until its object can be read, as the kicks of its index do
(R276); what a poisoned object gives is the model's choice (DESIGN CHOICE, log 114). -/
def Obligations.HostEvents : Prop :=
  ∀ (s : State) (off addr len line node : Nat) (v w : DWord) (kw : Word) (data : List Byte) (p : Nat × Bool) (g : Graph)
    (r : Replay) (t y : State),
  (off ∈ ([0x010, 0x030, 0x050, 0x080, 0x088, 0x098, 0x220] : List Nat) →
    ∃ u, exec (.registerWrite off v) s = .next u ∧ u.bar.read off = v ∧ u.mem = s.mem ∧ u.bar.status = s.bar.status) ∧
  (off ∈ ([0x000, 0x008, 0x060, 0x078, 0x0A0, 0x0C0, 0x100] : List Nat) →
    exec (.registerWrite off v) s = .next s) ∧
  (off = 0x038 → ∃ u, exec (.registerWrite off v) s = .next u ∧ u.bar.read off = v ∧ u.mem = s.mem ∧ u.fibres = s.fibres ∧
    u.bar.status = s.bar.status) ∧
  (2 ^ 63 ≤ w.toNat → s.biasRefused w = false → s.biasWaits w = false →
    ∃ u, exec (.biasToHost w) s = .next u ∧ u.biasCmd = none ∧ u.mem = s.mem ∧
      (∀ n, biasPage w ≤ n → n < biasPage w + biasCount w → n ∈ u.hostBias) ∧
      (∀ n, ¬(biasPage w ≤ n ∧ n < biasPage w + biasCount w) → (n ∈ u.hostBias ↔ n ∈ s.hostBias)) ∧
      u.bar.sync.getLsbD 1 = false ∧ u.bar.sync.getLsbD 2 = false) ∧
  (w.toNat < 2 ^ 63 → s.biasRefused w = false → (∀ x ∈ s.hostLines, biasHas w x.1 = false) →
    ∃ u, exec (.biasToDevice w) s = .next u ∧ u.biasCmd = none ∧ u.mem = s.mem ∧
      (∀ n, n ∈ u.hostBias ↔ n ∈ s.hostBias ∧ ¬(biasPage w ≤ n ∧ n < biasPage w + biasCount w)) ∧
      u.bar.sync.getLsbD 1 = false ∧ u.bar.sync.getLsbD 2 = false) ∧
  (s.biasRefused w = true → ∀ op ∈ ([.biasToHost w, .biasToDevice w] : List Instr),
    (op = .biasToHost w ↔ 2 ^ 63 ≤ w.toNat) → exec op s = .next (s.syncBit 2 true)) ∧
  (Dec.fld kw.toNat 31 1 = 0 → bindRefused s kw = false →
    ∃ u, exec (.keybindBind kw) s = .next u ∧ u.mem = s.mem ∧ u.bar.sync.getLsbD 4 = false ∧
      u.bindings = bindPages s kw ++ s.bindings.filter fun b => !((bindPages s kw).any fun c => c.page == b.page)) ∧
  (Dec.fld kw.toNat 31 1 = 1 → bindRefused s kw = false →
    ∃ u, exec (.keybindUnbind kw) s = .next u ∧ u.mem = s.mem ∧ u.bar.sync.getLsbD 4 = false ∧
      ∀ b, b ∈ u.bindings ↔ b ∈ s.bindings ∧
        ¬(s.bar.keypa.toNat / 16384 ≤ b.page ∧ b.page ≤ s.bar.keypa.toNat / 16384 + kw.toNat % 2 ^ 24)) ∧
  (inDram addr len = true → s.flippingAny addr len = false → s.meet (.dram addr) len 0 false = (s, .go) →
    (∀ k ∈ sectorsOf addr len, s.mismatch k = false ∧ k ∉ s.poison) →
    ∃ u, exec (.hostMemRead addr len .uncached) s = .next u ∧ u.mem = s.mem ∧
      u.replies = s.replies ++ [0 :: memBytes s.mem addr len]) ∧
  (inDram addr data.length = true → data ≠ [] → s.flippingAny addr data.length = false →
    s.meet (.dram addr) data.length 0 true = (s, .go) → s.pinned (.dram addr) data.length = false →
    s.hostHas (s.signSectors (.dram addr) data.length) true = [] →
    ∃ u, exec (.hostMemWrite addr data) s = .next u ∧ u.mem = (s.homeWrite (.dram addr) data).mem ∧
      ∀ k ∈ sectorsOf addr data.length, ∀ h ∈ u.hostLines, h.1 ≠ k) ∧
  ((s.snoops.find? fun q => q.1 == line) = some p →
    let answered (u : State) : Prop := exec (.hostSnoopResponse line data) s = .next u ∧ u.snoops = s.snoops.erase p ∧
      (p.2 = true → ∀ h ∈ u.hostLines, h.1 ≠ line)
    ((∀ h ∈ s.hostLines, h.1 = line → h.2 ≠ .e) → ∃ u, answered u ∧ u.mem = s.mem) ∧
    ((∃ h ∈ s.hostLines, h.1 = line ∧ h.2 = .e) → data.length = 64 → s.meet (.dram (64 * line)) 64 0 true = (s, .go) →
      s.pinned (.dram (64 * line)) 64 = false → s.hostHas (s.signSectors (.dram (64 * line)) 64) true = [] →
      ∃ u, answered u ∧ u.mem = (s.homeWrite (.dram (64 * line)) data).mem)) ∧
  (∃ u, exec (.cxlCacheSnoop line true) s = .next u ∧ (∀ c ∈ u.cxlLines, c.1 ≠ line) ∧ u.hostMem = s.hostMem ∧
    u.dirAt none (hostSector + line) = ⟨hostSector + line, .i, []⟩ ∧
    ∀ y ∈ (s.dirAt none (hostSector + line)).holders, u.l1At y (hostSector + line) = .i) ∧
  (∃ u, exec (.cxlCacheSnoop line false) s = .next u ∧ (∀ c ∈ u.cxlLines, c.1 = line → c.2 = .s) ∧ u.hostMem = s.hostMem) ∧
  ((∀ c ∈ s.cxlLines, c.1 ≠ line) → data.length = 64 → ∀ ex : Bool,
    ∃ u, exec (.cxlCacheResponse line ex data) s = .next u ∧ (line, (if ex then .e else .s)) ∈ u.cxlLines ∧
      u.hostMem = memWrite s.hostMem (64 * line) data ∧ u.mem = s.mem) ∧
  (s.bar.status = 5 → v.toNat % 2 ^ 52 ≠ 0 → inDram (v.toNat % 2 ^ 52) 64 = true →
    let pa := v.toNat % 2 ^ 52
    let q : State := if v ∈ s.graphRegs then s
      else { s with graphRegs := (s.graphRegs.filter fun x => regIndex x != v.toNat / 2 ^ 52) ++ [v] }
    (meetLocs q false ((q.graphSpans pa).filter fun x => x.2 ≠ 0) = (t, false) →
      exec (.graphreg v) s = .next t ∧ v ∈ t.graphRegs ∧ t.graphs = s.graphs) ∧
    (∀ whole, meetLocs q false ((q.graphSpans pa).filter fun x => x.2 ≠ 0) = (t, true) →
      t.readSpans (q.graphSpans pa) = (y, whole) →
      ∃ u, exec (.graphreg v) s = .next u ∧ u.mem = s.mem ∧ (∀ x ∈ u.graphRegs, x.toNat / 2 ^ 52 ≠ v.toNat / 2 ^ 52) ∧
        u.graphs = ⟨v.toNat / 2 ^ 52, pa, !(whole && s.graphOk pa)⟩ ::
          s.graphs.filter fun x => x.index != v.toNat / 2 ^ 52)) ∧
  (∀ x, s.regWaits (w.toNat / 2 ^ 52) = some x → s.bar.status = 5 →
    (s.kicks.filter fun x => kickGraph x == w.toNat / 2 ^ 52).length < 16 →
    exec (.kick w) s = .next { s with kicks := s.kicks ++ [w] }) ∧
  (s.graph? (w.toNat / 2 ^ 52) = some g → s.regWaits (w.toNat / 2 ^ 52) = none → s.bar.status = 5 →
    let queued := (s.kicks.filter fun x => kickGraph x == g.index).length
    (g.bad = true → exec (.kick w) s = .next (s.endKick g 0x46)) ∧
    (g.bad = false → 16 ≤ queued → exec (.kick w) s = .next (s.endKick g 0x47)) ∧
    (g.bad = false → queued < 16 → (s.replay? g.index).isSome = true →
      exec (.kick w) s = .next { s with kicks := s.kicks ++ [w] })) ∧
  (s.kickEnds = [] → s.replay? g.index = some r → r.node node = .running → (s.gnode r.pa node).kind < 2 →
    meetLocs s false ((s.graphSpans r.pa).filter fun q => q.2 ≠ 0) = (s, true) →
    meetLocs s false ((s.tableSpans r.pa).filter fun q => q.2 ≠ 0) = (s, true) →
    s.nodeOver r (s.gnode r.pa node).kind node = true →
    (s.readSpans (s.tableSpans r.pa) = (t, true) →
      exec (.nodeComplete g.index node) s = .next ((t.nodeDone r.pa r node []).graphEnds g.index)) ∧
    (s.readSpans (s.tableSpans r.pa) = (t, false) →
      exec (.nodeComplete g.index node) s = .next (t.tableLost r node)))

/-- R116, R165, R166, R273, R278 to R281: the Square places and retires blocks, completes launches and swaps bodies; the
blocks of an address space are saved and restored. An allocation identifier is the lowest free one (DESIGN CHOICE, log 49); the
operands of a translation and its body's size (DESIGN CHOICE, log 77), the reply to a refused restore (DESIGN CHOICE, log 17), and
which gang goes first and reserves what (logs 48 and 76) are the model's too. -/
def Obligations.SquareEvents : Prop :=
  ∀ (s t : State) (l : Launch) (b : Block) (die alloc kdesc entry vector code : Nat) (cores segs : List Nat) (asid : BitVec 8)
    (points : List (Nat × Nat)) (place : List (List Nat)),
  (s.reserve.launch? l.id = some l → s.bar.status = 5 → l.waits = true → cores.length = l.gang * l.clusterBlocks →
    s.reserve.behind l die = false → s.reserve.placeAll l.id die (gangs l.gang l.clusterBlocks cores) = some t →
    exec (.blockPlace l.id die cores) s = .next t) ∧
  (s.launch? l.id = some l → cores.length = l.gang → s.gangOk l l.placed die cores = true →
    (∀ k, k < cores.length → s.coreTakes l (cores.getD k 0) (l.fibresOn k) = true) →
    (s.fibres.filter fun f => f.launch == l.id && (f.status == .resident || f.status == .parked)).length +
      l.blockFibres ≤ l.slotcap →
    s.freeSegs l l.blockFibres = segs → segs.length = l.blockFibres →
    freeIndex ((s.blocks.filter fun b => !b.retired).map (·.alloc)) 65535 1 = some alloc →
    ∃ u, s.placeOn l die cores = some u ∧
      u.fibres = s.fibres ++ (List.range l.blockFibres).map (fun n => launchFibre l l.placed
        (cores.getD (n / perCore l.window) 0) (s.nextId + n) n (segs.getD n 0)
        (.sp (spKey (cores.headD 0) alloc l.kern.bset))) ∧
      u.blocks = s.blocks ++ [⟨l.id, l.placed, l.place l.placed, die, cores, alloc, false, false, [], [], [], []⟩] ∧
      u.mem = s.mem ∧
      u.launch? l.id = some { l with placed := l.placed + 1, overtakes := 0, gangProtected := false, reserved := [] } ∧
      (s.memsOk → l.blockFibres < 2 ^ 32 →
        u.obj (.sp (spKey (cores.headD 0) alloc l.kern.bset)) = ⟨0, l.blockFibres, 0, 0, 0, 8⟩)) ∧
  (s.launch? l.id = some l → l.waits = true →
    exec (.gangProtection l.id l.placed) s = .next (s.setLaunch { l with gangProtected := true }).reserve) ∧
  (s.launch? l.id = some l → s.block? l.id b.id = some b → b.launch = l.id → b.retired = false → b.saved = false →
    l.flags % 2 = 0 → (∀ f ∈ s.fibres, f.launch = l.id → f.block = b.id → f.status = .ended) →
    (∀ w ∈ s.windows, ¬(w.alloc = b.alloc ∧ w.core ∈ b.cores)) → s.reaching b = false →
    ∃ u, exec (.blockRetire l.id b.id) s = .next u ∧ u.block? l.id b.id = some { b with retired := true } ∧
      u.mem = s.mem ∧ u.spMem = s.spMem ∧ ∀ f, f ∈ u.fibres ↔ f ∈ s.fibres ∧ ¬(f.launch = l.id ∧ f.block = b.id)) ∧
  (s.launch? l.id = some l → l.status = .running → l.placed = l.blocks →
    (∀ c ∈ s.blocks, c.launch = l.id → c.retired = true) → l.doneaddr = 0 →
    ∃ u, exec (.launchComplete l.id) s = .next u ∧ u.launch? l.id = some { l with status := .complete } ∧
      u.mem = s.mem ∧ ∀ c ∈ u.blocks, c.launch ≠ l.id) ∧
  (let runs (g : Fibre) (k : Launch) : Prop := g ∈ s.fibres ∧ k ∈ s.launches ∧ g.craco = true ∧ g.status = .resident ∧
      k.id = g.launch ∧ k.craco = true ∧ k.kdesc = kdesc ∧ k.asid = asid.toNat ∧ k.status = .running
    let publish := exec (.translationPublish kdesc asid entry vector points) s
    ((∀ g k, ¬runs g k) → publish = .next s) ∧
    ((∃ g k, runs g k) →
      (s.ctxRead 10 asid.toNat = .wait t ∨ s.ctxRead 10 asid.toNat = .fail t → publish = .next t) ∧
      (∀ bs, s.ctxRead 10 asid.toNat = .ok bs t →
        ((∀ g k, runs g k → t.translation g k.kern entry vector points = none) → publish = .next t) ∧
        (∀ m, t.ctxBad asid.toNat = false → t.ctxXcache asid.toNat ≠ 0 →
          t.xcacheUsed asid.toNat + (Config.bodyBytes kdesc).toNat ≤ t.ctxXsize asid.toNat →
          (∀ x ∈ t.xcache, ¬(x.kdesc = kdesc ∧ x.asid = asid.toNat ∧ x.sig = t.sig)) →
          (∀ g k, runs g k → t.translation g k.kern entry vector points = some m) →
          ∃ g k, runs g k ∧ publish = .next { t with xcache := t.xcache ++
            [⟨kdesc, asid.toNat, t.sig, entry, vector, points, m, t.endsOf g m, (Config.bodyBytes kdesc).toNat⟩] })))) ∧
  (let bs := s.commanded asid.toNat false;
    let q : State := { s with fibres := s.fibres.map fun f => if bs.any (·.has f) then f.request else f };
    (bs ≠ [] → (∀ c ∈ bs, q.drainedBlock c = true) →
      exec (.preemptSave asid) s = .next (bs.foldl State.saveBlock q)) ∧
    ((∃ c ∈ bs, q.drainedBlock c = false) → exec (.preemptSave asid) s = .next q)) ∧
  (let bs := s.commanded asid.toNat true;
    (bs ≠ [] → bs.length = place.length → s.restoreAll (bs.zip place) = .ok t →
      exec (.preemptRestore asid place) s = .next t) ∧
    (bs ≠ [] → bs.length = place.length → s.restoreAll (bs.zip place) = .error code →
      ∃ u, exec (.preemptRestore asid place) s = .next u ∧ u.mem = s.mem ∧ u.blocks = s.blocks ∧ u.fibres = s.fibres ∧
        [0, .ofNat 8 code] ∈ u.replies))

/-- R284 to R288, R294, R300 to R303: ports fail and recover, peers' requests are performed and replies land, and a
plaza seals, publishes, times out and is discarded. The bytes of replies and the kinds of answers (log 17) and a clock that an
expired timeout moves forward (log 15) are DESIGN CHOICES. -/
def Obligations.FabricEvents : Prop :=
  ∀ (s : State) (port addr size dir acc : Nat) (pf : PeerFibre) (sc : Scope) (v data : DWord) (a : Access) (f : Fibre) (p : Plaza)
    (ty : LdTy) (d : Reg) (plz : Bool) (asks : Asks),
  (port < 16 → s.ports.getLsbD port = true → s.failedReplays.length = 16 →
    (∃ u, exec (.flitReceive port true) s = .next u ∧ u.failedReplays.getD port 0 = 0 ∧ u.ports = s.ports ∧ u.mem = s.mem) ∧
    (s.failedReplays.getD port 0 < 16 → ∃ u, exec (.flitReceive port false) s = .next u ∧ u.ports = s.ports ∧
      u.failedReplays.getD port 0 = s.failedReplays.getD port 0 + 1 ∧ u.routes = s.routes) ∧
    (16 ≤ s.failedReplays.getD port 0 → ∃ u, exec (.flitReceive port false) s = .next u ∧
      u.ports.getLsbD port = false ∧ u.routes = u.bestRoutes ∧ ∀ r ∈ u.routes, r.2 ≠ port)) ∧
  (inDram addr size = true → s.meet (.dram addr) size 0 false = (s, .go) → s.hostInWay (.dram addr) size false = [] →
    (∀ k ∈ sectorsOf addr size, s.mismatch k = false ∧ k ∉ s.poison) →
    ∃ u, exec (.remoteRequest pf addr size sc .load) s = .next u ∧ u.mem = s.mem ∧
      u.replies = s.replies ++ [0 :: memBytes s.mem addr size]) ∧
  (inDram addr size = true → s.meet (.dram addr) size 0 true = (s, .go) → s.hostInWay (.dram addr) size true = [] →
    s.pinned (.dram addr) size = false →
    exec (.remoteRequest pf addr size sc (.store v)) s =
      .next ((s.homeWrite (.dram addr) (Dec.leBytes size v.toNat)).reply [])) ∧
  (s.acc? a.id = some a → s.fib? a.fib = some f → a.loc.isPeer = true → s.accReady a = true → a.op = .load ty d →
    exec (.remoteAck a.id data .ok) s = .next ((s.endAccess a).modF a.fib fun g => g.landLoad a.wseq ty d
      (Dec.leNat (if a.plainLoad then (s.ownEarlier a).foldl (forwardOne a) (Dec.leBytes a.size data.toNat)
        else Dec.leBytes a.size data.toNat)))) ∧
  (s.acc? acc = none → ∃ u, exec (.remoteAck acc data .ok) s = .next u ∧ u.mem = s.mem ∧
    ∀ g n sat, s.fib? g.uid = some g → g.wait = .remote n acc plz sat asks → g.rejoin = none →
      u.fib? g.uid = some (match asks, decide (data = 0) with
        | .enter h, true => { g with wait := .replied data false sat, tag := h, plzSet := g.set }
        | .leave _, true => { g with wait := .replied data false sat, tag := 0, plzSet := none }
        | _, _ => { g with wait := .replied data false sat })) ∧
  (s.plazaAt p.die p.index = some p → p.state = .sealing → dir ∉ p.sealed →
    ∃ u q, exec (.sealAck p.die p.index dir) s = .next u ∧ u.plazaAt p.die p.index = some q ∧ q.sealed = dir :: p.sealed ∧
      u.mem = s.mem ∧ (q.state = .sealing ∨ q.state = .publishing) ∧
      (q.state = .publishing ↔ ∀ x ∈ s.participants p, x ∈ dir :: p.sealed) ∧
      (∀ w ∈ u.wsLines, w.handle = p.handle s.dev → lineDie w.line = dir → w.sealed = true)) ∧
  (s.plazaAt p.die p.index = some p → p.state = .publishing → dir ∉ p.published →
    s.dirLines (p.handle s.dev) dir = [] → (∃ x ∈ p.sealed, x ∈ s.participants p ∧ x ≠ dir ∧ x ∉ p.published) →
    ∃ u, exec (.publishReport p.die p.index dir) s = .next u ∧ u.mem = s.mem ∧
      u.plazaAt p.die p.index = some { p with published := dir :: p.published }) ∧
  (s.plazaAt p.die p.index = some p → p.state = .publishing → dir ∉ p.published →
    s.dirLines (p.handle s.dev) dir = [] → (∀ x ∈ p.sealed, x ∈ s.participants p → x = dir ∨ x ∈ p.published) →
    ∃ u q, exec (.publishReport p.die p.index dir) s = .next u ∧ u.mem = s.mem ∧ u.plazaAt p.die p.index = some q ∧
      (q.state = .committed ∨ q.state = .free)) ∧
  (s.plazaAt p.die p.index = some p → p.state = .opened → p.timeout ≠ 0 → p.die < 4 → p.index < 2 ^ 18 → p.gen < 2 ^ 32 →
    ∃ u, exec (.plazaTimeout p.die p.index) s = .next u ∧ u.mem = s.mem ∧
      p.opened + 1000 * p.timeout ≤ u.fabricClock ∧
      u.plazaAt p.die p.index = some { p with state := .aborting, cause := 0x04 }) ∧
  (s.plazaAt p.die p.index = some p → p.state = .aborting → 0 ∉ p.discarded → (∀ g ∈ s.fibres, g.tag ≠ p.handle s.dev) →
    (∀ g ∈ s.fibres, ∀ x, g.abort = some x → x.2 ≠ p.handle s.dev) →
    ∃ u, exec (.plazaDiscard p.die p.index) s = .next u ∧ u.mem = s.mem ∧
      (∀ w ∈ u.wsLines, w.handle = p.handle s.dev → w.gone = true ∧ w.bytes = []) ∧
      ∃ q, u.plazaAt p.die p.index = some q ∧ q.discarded = 0 :: p.discarded ∧
        (q.state = .aborting ∨ q.state = .aborted ∨ q.state = .free) ∧
        (q.state = .aborting ↔ ∃ x ∈ p.discards, x ∉ 0 :: p.discarded) ∧
        (q.state ≠ .aborting → ∀ w ∈ u.wsLines, w.handle ≠ p.handle s.dev))

/-! ## The whole machine. -/

/-- R24, R44 and the model's agenda (DESIGN CHOICE, log 1): on a fibre's turn, at no boundary that comes first, the step executes
the instruction that stands at its PC, and the fibre is no longer starved; bytes that are no instruction take UNDEF. An instruction
that has waited is the one that was fetched as it issued; a wait that stands under a trap goes on first (DESIGN CHOICE, log 62).
An event of the agenda is executed, after a thermal trip only one that outlives it (DEDUCED, log 55). With an empty agenda, where nothing that a
device has under way changes the state, the turn is that of the first fibre in the order of issue that can change it. -/
def Obligations.StepRunsTheInstruction : Prop :=
  ∀ (s t v : State) (f : Fibre) (u : Nat) (ts : List Turn) (bs : List Byte) (i : Instr) (why : Reject) (pre post : List Fibre),
  let z : State := { s with agenda := ts }
  (s.agenda = .fibre u :: ts → z.fib? u = some f → z.canAct f = true → z.boundary f = false →
    (∀ g, f.rejoins = some g → step s = .next ((z.setF g).fed u)) ∧
    (f.rejoins = none → f.waited = true → f.inst = some i → exec i ((z.openIssue f).issueAt f i) = .next v →
      step s = .next (v.fed u))) ∧
  (s.agenda = .fibre u :: ts → z.fib? u = some f → z.canAct f = true → z.boundary f = false → f.rejoins = none →
    (f.waited = false ∨ f.inst = none) → fetchGroup (z.openIssue f) f f.pc = .ok bs t →
    (decode bs = .ok i → exec i (t.issueAt f i) = .next v → step s = .next (v.fed u)) ∧
    (decode bs = .ok i → (∀ w, exec i (t.issueAt f i) ≠ .next w) → step s = exec i (t.issueAt f i)) ∧
    (decode bs = .error why → step s = .next ((t.takeTrap f
      { cause := .undef, pc := f.pc, iaddr := f.pc, insn := Dec.leNat (bs.take 4) }).fed u))) ∧
  (s.agenda = .event i :: ts → i.isStep = true → (s.bar.status = 0x88 → Instr.outlivesTrip i = true) →
    step s = exec i z) ∧
  (s.agenda = .event i :: ts → i.isStep = true → s.bar.status = 0x88 → Instr.outlivesTrip i = false →
    step s = .next z) ∧
  (s.agenda = .bias :: ts → s.bar.status = 5 → step s = .next z.biasGo) ∧
  (let b := s.byAge;
    s.agenda = [] → s.bar.status = 5 → firstChange s s.pending = .next s → s.biasGo = s →
    b.issueOrder = pre ++ f :: post → (∀ g ∈ pre, b.turn g = .next b) → b.boundary f = false →
    f.rejoins = none → (f.waited = false ∨ f.inst = none) → fetchGroup (b.openIssue f) f f.pc = .ok bs t → decode bs = .ok i → exec i (t.issueAt f i) = .next v → v ≠ b →
    step s = .next (v.issued f.uid))

/-- R258, R264: the machine right after reset: registers, boot state and empty tables. What no rule gives is the model's
choice (logs 2, 11 to 15). -/
def Obligations.ResetState : Prop :=
  State.reset.bar.status = 1 ∧ State.reset.bar.powercap = 2600 ∧ State.reset.bar.clock = 1500 ∧
  State.reset.bar.sync = 0 ∧ State.reset.bar.read 0x000 = 0x03840001 ∧ State.reset.bar.ctxbase = 0 ∧
  State.reset.fibres = [] ∧ State.reset.launches = [] ∧ State.reset.blocks = [] ∧ State.reset.mem = [] ∧
  State.reset.tlb = [] ∧ State.reset.plazas = [] ∧ State.reset.agenda = [] ∧ State.reset.memsOk ∧
  step State.reset = .next State.reset

/-- The encodings of the spec's own examples (R29 to R42 and R90, R120), decoded. -/
def Obligations.DecodesTheSpecsWords : Prop :=
  decodeTableWord 32 0x00890587 = some (.addI32Imm ⟨0, 3⟩ 1 8) ∧
  decodeTableWord 32 0x00018607 = some (.movImm ⟨0, 3⟩ 0 12) ∧
  decodeTableWord 32 0x9240E107 = some (.madLoI32 ⟨0, 3⟩ 9 8 7) ∧
  decodeTableWord 32 0x10294707 = some (.leaN32 ⟨0, 3⟩ 8 4 10 2) ∧
  decodeTableWord 32 0x9C698887 = some (.ffmaF32 ⟨0, 3⟩ 14 13 12) ∧
  decodeTableWord 32 0x4030AC07 = some (.cvt ⟨0, 3⟩ .f32 .f16 6 5) ∧
  decodeTableWord 32 0x00482F07 = some (.cmpI32Imm ⟨0, 3⟩ .eq 1 0 9) ∧
  decodeTableWord 32 0x82618F87 = some (.xlRed ⟨0, 3⟩ .addF32 12 12) ∧
  decodeTableWord 32 0x0001904F = some (.bra ⟨9, 3⟩ 12) ∧
  decodeTableWord 64 0x0000050116215807 = some (.atom ⟨0, 3⟩ false 11 4 10 .n32 .die .rlx .add)

/-- R24 to R43: decoding the encoding of a well-formed instruction gives it back, with every operand, whatever bytes
follow it; and an encoding has the size that the instruction is said to have. -/
def Obligations.EncodeDecodeRoundTrip : Prop :=
  ∀ (i : Instr) (rest : List Byte), i.wf = true →
  decode (encode i ++ rest) = .ok i ∧ (encode i).length = i.size

/-- Every step that goes on keeps the canonical form of every memory. -/
def Obligations.EveryStepKeepsMemories : Prop :=
  ∀ s t : State, s.memsOk → step s = .next t → t.memsOk
end

