-- ==== Sys2Proof/Laws/Memory.lean ====
section
/-! SUPPORT. Plain memory: what is read after a write, and that every operation keeps the canonical form. -/

namespace Sys2Proof.Machine

/-! The canonical form. -/

theorem wfFrom_mono {m : Memory} {lo hi : Nat} (h : Memory.wfFrom hi m = true) (hl : lo ≤ hi) :
    Memory.wfFrom lo m = true := by
  cases m with
  | nil => rfl
  | cons c m =>
    simp only [Memory.wfFrom, Bool.and_eq_true, decide_eq_true_eq] at h ⊢
    exact ⟨⟨Nat.le_trans hl h.1.1, h.1.2⟩, h.2⟩

theorem memSet_wfFrom {m : Memory} {lo x : Nat} (v : Byte) (h : Memory.wfFrom lo m = true) (hx : lo ≤ x) :
    Memory.wfFrom lo (memSet m x v) = true := by
  induction m generalizing lo with
  | nil =>
    unfold memSet
    split
    · rfl
    · next hv => simp [Memory.wfFrom, hx, hv]
  | cons c m ih =>
    obtain ⟨a, b⟩ := c
    simp only [Memory.wfFrom, Bool.and_eq_true, decide_eq_true_eq] at h
    unfold memSet
    split
    · next hlt =>
      split
      · simp only [Memory.wfFrom, Bool.and_eq_true, decide_eq_true_eq]; exact h
      · next hv =>
        simp only [Memory.wfFrom, Bool.and_eq_true, decide_eq_true_eq]
        exact ⟨⟨hx, by simpa using hv⟩, ⟨hlt, h.1.2⟩, h.2⟩
    · split
      · next he =>
        subst he
        split
        · exact wfFrom_mono h.2 (Nat.le_succ_of_le hx)
        · next hv =>
          simp only [Memory.wfFrom, Bool.and_eq_true, decide_eq_true_eq]
          exact ⟨⟨hx, by simpa using hv⟩, h.2⟩
      · next hn he =>
        simp only [Memory.wfFrom, Bool.and_eq_true, decide_eq_true_eq]
        exact ⟨h.1, ih h.2 (by omega)⟩

/-- A byte written keeps the canonical form. -/
theorem memSet_wf {m : Memory} (x : Nat) (v : Byte) (h : m.wf = true) : (memSet m x v).wf = true :=
  memSet_wfFrom v h (Nat.zero_le _)

theorem memWrite_wf {m : Memory} (a : Nat) (bs : List Byte) (h : m.wf = true) : (memWrite m a bs).wf = true := by
  induction bs generalizing m a with
  | nil => exact h
  | cons b bs ih => exact ih (a + 1) (memSet_wf a b h)

theorem filter_wfFrom {m : Memory} {lo : Nat} (p : Host.Cell → Bool) (h : Memory.wfFrom lo m = true) :
    Memory.wfFrom lo (m.filter p) = true := by
  induction m generalizing lo with
  | nil => rfl
  | cons c m ih =>
    simp only [Memory.wfFrom, Bool.and_eq_true, decide_eq_true_eq] at h
    rw [List.filter_cons]
    split
    · simp only [Memory.wfFrom, Bool.and_eq_true, decide_eq_true_eq]
      exact ⟨h.1, ih h.2⟩
    · exact wfFrom_mono (ih h.2) (Nat.le_succ_of_le h.1.1)

theorem memDrop_wf {m : Memory} (lo hi : Nat) (h : m.wf = true) : (memDrop m lo hi).wf = true := filter_wfFrom _ h

/-- Any fold of writes of bytes keeps the canonical form. -/
theorem foldl_wf {α : Type} (l : List α) (u : Memory → α → Memory) {m : Memory} (h : m.wf = true)
    (hu : ∀ m x, Memory.wf m = true → (u m x).wf = true) : (l.foldl u m).wf = true := by
  induction l generalizing m with
  | nil => exact h
  | cons x l ih => exact ih (hu m x h)

theorem putPart_wf {m : Memory} (base : Nat) (part : Memory) (h : m.wf = true) : (putPart m base part).wf = true :=
  foldl_wf part _ h fun _ _ hm => memSet_wf _ _ hm

/-! What is read. -/

theorem memGet_below {m : Memory} {lo x : Nat} (h : Memory.wfFrom lo m = true) (hx : x < lo) : memGet m x = unlisted := by
  cases m with
  | nil => rfl
  | cons c m =>
    simp only [Memory.wfFrom, Bool.and_eq_true, decide_eq_true_eq] at h
    simp only [memGet]
    rw [if_pos (Nat.lt_of_lt_of_le hx h.1.1)]

/-- A byte written is read back. -/
theorem memGet_memSet_from {m : Memory} {lo x : Nat} (v : Byte) (h : Memory.wfFrom lo m = true) (hx : lo ≤ x) :
    memGet (memSet m x v) x = v := by
  induction m generalizing lo with
  | nil =>
    unfold memSet
    split
    · next hv => exact hv.symm
    · simp [memGet]
  | cons c m ih =>
    obtain ⟨a, b⟩ := c
    simp only [Memory.wfFrom, Bool.and_eq_true, decide_eq_true_eq] at h
    unfold memSet
    split
    · next hlt =>
      split
      · next hv => simp [memGet, hlt, hv]
      · simp [memGet]
    · split
      · next he =>
        split
        · next hv => rw [hv]; exact memGet_below h.2 (by omega)
        · simp [memGet]
      · next hn he =>
        simp only [memGet, if_neg hn, if_neg he]
        exact ih h.2 (by omega)

theorem memGet_memSet {m : Memory} (x : Nat) (v : Byte) (h : m.wf = true) : memGet (memSet m x v) x = v :=
  memGet_memSet_from v h (Nat.zero_le _)

/-- No other byte changes. -/
theorem memGet_memSet_other {m : Memory} {lo x y : Nat} (v : Byte) (h : Memory.wfFrom lo m = true) (hy : y ≠ x) :
    memGet (memSet m x v) y = memGet m y := by
  induction m generalizing lo with
  | nil =>
    unfold memSet
    split
    · rfl
    · simp [memGet, hy]
  | cons c m ih =>
    obtain ⟨a, b⟩ := c
    simp only [Memory.wfFrom, Bool.and_eq_true, decide_eq_true_eq] at h
    unfold memSet
    split
    · next hlt =>
      split
      · rfl
      · simp only [memGet]
        by_cases h1 : y < x
        · rw [if_pos h1, if_pos (Nat.lt_trans h1 hlt)]
        · rw [if_neg h1, if_neg hy]
    · split
      · next he =>
        subst he
        split
        · simp only [memGet, if_neg hy]
          split
          · next h1 => exact memGet_below h.2 (by omega)
          · rfl
        · simp [memGet, hy]
      · next hn he =>
        simp only [memGet]
        rw [ih h.2]

/-- Bytes outside a write read as before. -/
theorem memGet_memWrite_other {m : Memory} (a : Nat) (bs : List Byte) {y : Nat} (h : m.wf = true)
    (hy : y < a ∨ a + bs.length ≤ y) : memGet (memWrite m a bs) y = memGet m y := by
  induction bs generalizing m a with
  | nil => rfl
  | cons b bs ih =>
    simp only [List.length_cons] at hy
    rw [memWrite, ih (a + 1) (memSet_wf a b h) (by omega), memGet_memSet_other b h (by omega)]

@[simp] theorem memBytes_length (m : Memory) (a n : Nat) : (memBytes m a n).length = n := by
  induction n generalizing a with
  | zero => rfl
  | succ n ih => simp [memBytes, ih]

/-! The five memories together. -/

theorem reset_memsOk : State.reset.memsOk := ⟨rfl, rfl, rfl, rfl, rfl⟩

theorem setBytes_memsOk {s : State} (l : Loc) (bs : List Byte) (h : s.memsOk) : (s.setBytes l bs).memsOk := by
  obtain ⟨h1, h2, h3, h4, h5⟩ := h
  cases l
  · exact ⟨memWrite_wf _ _ h1, h2, h3, h4, h5⟩
  · exact ⟨h1, memWrite_wf _ _ h2, h3, h4, h5⟩
  · exact ⟨h1, h2, h3, h4, h5⟩
  · exact ⟨h1, h2, memWrite_wf _ _ h3, h4, h5⟩
  · exact ⟨h1, h2, h3, memWrite_wf _ _ h4, h5⟩

/-- Any fold of changes that keep the memories canonical does. -/
theorem foldl_memsOk {α : Type} (l : List α) (u : State → α → State) {s : State} (h : s.memsOk)
    (hu : ∀ s x, State.memsOk s → (u s x).memsOk) : (l.foldl u s).memsOk := by
  induction l generalizing s with
  | nil => exact h
  | cons x l ih => exact ih (hu s x h)

/-! Directories and L1 copies are no memory (R213 to R220). -/

theorem setDir_memsOk {s : State} (p : Option Nat) (e : DirEntry) (h : s.memsOk) : (s.setDir p e).memsOk := by
  cases p <;> exact h
theorem invalidateCore_memsOk {s : State} (k x : Nat) (h : s.memsOk) : (s.invalidateCore k x).memsOk := h

theorem invalidate_memsOk {s : State} (k y : Nat) (h : s.memsOk) : (s.invalidate k y).memsOk := by
  unfold State.invalidate
  split
  · exact h
  · exact setDir_memsOk _ _ (foldl_memsOk _ _ h fun _ _ hs => hs)

theorem recallAll_memsOk {s : State} (p : Option Nat) (k : Nat) (x : Option Nat) (h : s.memsOk) :
    (s.recallAll p k x).memsOk := foldl_memsOk _ _ h fun _ _ hs => invalidate_memsOk _ _ hs

theorem homeClear_memsOk {s : State} (k : Nat) (h : s.memsOk) : (s.homeClear k).memsOk :=
  setDir_memsOk _ _ (recallAll_memsOk _ _ _ h)

theorem store_memsOk {s : State} (pa : Nat) (bs : List Byte) (h : s.memsOk) : (s.store pa bs).memsOk :=
  setBytes_memsOk (s := s) (.dram pa) bs h

theorem widenOne_memsOk {s : State} (b : Binding) (c v : Nat) (h : s.memsOk) : (widenOne s b c v).memsOk :=
  store_memsOk (s := (Loc.sectors (.dram (b.spa + 4 * c)) 4).foldl (fun t k => t.homeClear k) s) _ _
    (foldl_memsOk _ _ h fun _ k hs => homeClear_memsOk k hs)

theorem widen_memsOk {s : State} (pa n : Nat) (h : s.memsOk) : (s.widen pa n).memsOk := by
  refine foldl_memsOk _ _ h fun s b hs => ?_
  split
  · exact foldl_memsOk _ _ hs fun s i hs => widenOne_memsOk _ _ _ hs
  · exact hs

/-- A write performed at its home keeps the memories canonical. -/
theorem perform_memsOk {s : State} (l : Loc) (bs : List Byte) (h : s.memsOk) : (s.perform l bs).memsOk := by
  cases l
  · exact widen_memsOk _ _ (store_memsOk _ _ h)
  · exact setBytes_memsOk (s := s) (.host _) bs h
  · exact h
  · exact setBytes_memsOk (s := s) (.sp _) bs h
  · exact setBytes_memsOk (s := s) (.cb _) bs h

/-- Queues, messages and registers are no memory. -/
theorem msix_memsOk {s : State} (m : List Nat) (h : s.memsOk) : ({ s with msix := m } : State).memsOk := h

theorem makeError_memsOk {s : State} (k a d x : Nat) (h : s.memsOk) : (makeError s k a d x).memsOk := by
  rw [makeError]
  extract_lets r u
  split
  · exact h
  · refine msix_memsOk _ ?_
    simp only [u]
    split
    · exact setBytes_memsOk _ _ h
    · exact h

theorem checkRead_memsOk {s : State} (l : Loc) (n a : Nat) (h : s.memsOk) : (checkRead s l n a).1.memsOk := by
  unfold checkRead
  split
  · refine foldl_memsOk _ _ h fun s k hs => ?_
    split
    · exact makeError_memsOk _ _ _ _ hs
    · exact hs
  · exact h

theorem writeFault_memsOk {s : State} (f : FaultRec) (h : s.memsOk) : (writeFault s f).memsOk := by
  rw [writeFault]
  split
  · exact h
  · extract_lets u
    have hu : u.memsOk := setBytes_memsOk _ _ h
    clear_value u
    exact hu

theorem openFault_memsOk {s : State} (d a v : Nat) (k : AccKind) (g r l e : Nat) (h : s.memsOk) :
    (openFault s d a v k g r l e).1.memsOk := by
  unfold openFault
  split
  · exact h
  · dsimp only
    split
    · exact h
    · exact writeFault_memsOk _ h

theorem tlbFill_memsOk {s : State} (e : TlbEntry) (h : s.memsOk) : (s.tlbFill e).memsOk := by
  unfold State.tlbFill
  split <;> exact h

/-! Probes, requests and the accesses of L1s and homes (R214 to R220). -/

theorem probeCore_memsOk {s : State} (k x : Nat) (h : s.memsOk) : (s.probeCore k x).1.memsOk := by
  unfold State.probeCore
  split
  · exact h
  · exact h
  · exact h
  · exact h
  · split <;> exact h

theorem probeProxy_memsOk {s : State} (k d : Nat) (h : s.memsOk) : (s.probeProxy k d).1.memsOk := by
  unfold State.probeProxy
  extract_lets e r
  have hr : r.1.memsOk := by
    simp only [r]
    split
    · exact setDir_memsOk _ _ (probeCore_memsOk _ _ h)
    · exact h
    · exact h
    · exact h
  clear_value r
  split
  · exact hr
  · exact hr
  · exact hr
  · split <;> exact hr
  · split <;> exact hr

theorem share_memsOk {s : State} (p : Option Nat) (k y : Nat) (js : List Nat) (h : s.memsOk) : (s.share p k y js).memsOk := by
  unfold State.share
  refine setDir_memsOk _ _ ?_
  split
  · exact probeCore_memsOk _ _ h
  · exact probeProxy_memsOk _ _ h

theorem serveS_memsOk {s : State} (p : Option Nat) (x k : Nat) (h : s.memsOk) : (s.serveS p x k).1.memsOk := by
  unfold State.serveS
  extract_lets e
  split
  · split <;> exact setDir_memsOk _ _ h
  · exact setDir_memsOk _ _ h
  · split
    · exact h
    · exact share_memsOk _ _ _ _ h
  · split
    · exact h
    · exact setDir_memsOk _ _ h

theorem serveM_memsOk {s : State} (p : Option Nat) (x k : Nat) (h : s.memsOk) : (s.serveM p x k).memsOk :=
  setDir_memsOk _ _ (recallAll_memsOk _ _ _ h)

theorem getS_memsOk {s : State} (x k : Nat) (h : s.memsOk) : (s.getS x k).1.memsOk := by
  unfold State.getS
  split
  · exact serveS_memsOk _ _ _ h
  · refine serveS_memsOk _ _ _ ?_
    split
    · exact serveS_memsOk (s := s) _ _ _ h
    · exact h

theorem getM_memsOk {s : State} (x k : Nat) (h : s.memsOk) : (s.getM x k).memsOk := by
  unfold State.getM
  split
  · exact h
  · extract_lets u
    have hu : u.memsOk := h
    clear_value u
    split
    · exact serveM_memsOk _ _ _ hu
    · refine serveM_memsOk _ _ _ ?_
      unfold State.proxyM
      split
      · exact hu
      · exact hu
      · exact serveM_memsOk _ _ _ hu
      · exact serveM_memsOk _ _ _ hu
      · exact serveM_memsOk _ _ _ hu

theorem homePeek_memsOk {s : State} (k : Nat) (h : s.memsOk) : (s.homePeek k).memsOk := by
  unfold State.homePeek
  split
  · exact share_memsOk _ _ _ _ h
  · exact h
  · exact h
  · exact h

theorem peekAll_memsOk {s : State} (l : Loc) (n : Nat) (h : s.memsOk) : (s.peekAll l n).memsOk :=
  foldl_memsOk _ _ h fun _ _ hs => homePeek_memsOk _ hs

/-- A load through an L1 changes no memory (R215). -/
theorem fibreLoad_memsOk {s : State} (x : Nat) (l : Loc) (n : Nat) (h : s.memsOk) : (s.fibreLoad x l n).memsOk := by
  refine foldl_memsOk _ _ h fun s k hs => ?_
  split
  · exact getS_memsOk _ _ hs
  · exact hs

/-- A store through an L1 keeps the memories canonical (R214, R215). -/
theorem fibreStore_memsOk {s : State} (x : Nat) (l : Loc) (bs : List Byte) (h : s.memsOk) : (s.fibreStore x l bs).memsOk := by
  refine perform_memsOk _ _ (foldl_memsOk _ _ h fun s k hs => ?_)
  split
  · exact homeClear_memsOk _ hs
  · split
    · exact hs
    · exact hs
    · exact getM_memsOk _ _ (checkRead_memsOk _ _ _ hs)
    · exact getM_memsOk _ _ hs
    · exact getM_memsOk _ _ hs

/-- A write by an agent that does not cache keeps the memories canonical (R217). -/
theorem homeWrite_memsOk {s : State} (l : Loc) (bs : List Byte) (h : s.memsOk) : (s.homeWrite l bs).memsOk :=
  perform_memsOk _ _ (foldl_memsOk _ _ h fun _ k hs => homeClear_memsOk k hs)

/-- An uncached read of a table or a descriptor changes no memory but the error ring (R217, R235). -/
theorem uncached_memsOk {s : State} (pa n agent : Nat) (h : s.memsOk) : (s.uncached pa n agent).1.memsOk := by
  unfold State.uncached
  extract_lets ks
  split
  · exact checkRead_memsOk _ _ _ (peekAll_memsOk _ _ h)
  · exact h

theorem uncachedAll_memsOk {s : State} (agent : Nat) (as : List Nat) (h : s.memsOk) : (s.uncachedAll agent as).1.memsOk := by
  induction as generalizing s with
  | nil => exact h
  | cons a as ih =>
    unfold State.uncachedAll
    dsimp only
    split
    · exact ih (uncached_memsOk _ _ _ h)
    · exact uncached_memsOk _ _ _ h

theorem setObj_memsOk {s : State} (l : Loc) (o : Obj) (h : s.memsOk) : (s.setObj l o).memsOk := homeWrite_memsOk l _ h

theorem retire_memsOk {s : State} (f : Fibre) (i : Instr) (r : Retire) (h : s.memsOk) : (s.retire f i r).memsOk := by
  unfold State.retire State.laneDone
  split <;> exact h

theorem block_memsOk {s : State} (f : Fibre) (w : Wait) (h : s.memsOk) : (s.block f w).memsOk := by
  unfold State.block State.laneDone
  split <;> exact h

theorem abortPlaza_memsOk {s : State} (hd : DWord) (c : Nat) (h : s.memsOk) : (s.abortPlaza hd c).memsOk := h

theorem causeAbort_memsOk {s : State} (hd : DWord) (c : Nat) (h : s.memsOk) : (s.causeAbort hd c).memsOk := by
  unfold State.causeAbort
  split
  · exact h
  · split
    · split <;> exact h
    · exact h

theorem laneDone_memsOk {s : State} (f : Fibre) (h : s.memsOk) : (s.laneDone f).memsOk := by
  unfold State.laneDone
  split <;> exact h

theorem hostFaults_memsOk {s : State} (l : List (List Byte)) (h : s.memsOk) : ({ s with hostFaults := l } : State).memsOk := h

theorem park_memsOk {s : State} (f : Fibre) (bs : List Byte) (h : s.memsOk) : (s.park f bs).memsOk := by
  unfold State.park
  extract_lets u v
  have hu : u.memsOk := laneDone_memsOk _ h
  have hv : v.memsOk := hostFaults_memsOk _ hu
  clear_value v
  split
  · exact hv
  · exact causeAbort_memsOk _ _ hv

theorem findEntry_memsOk {s : State} (core : Option Nat) (quad asid va : Nat) (h : s.memsOk) :
    (s.findEntry core quad asid va).1.memsOk := by
  unfold State.findEntry
  extract_lets keep r t
  have hk : ∀ (t : State) e, t.memsOk → (keep t e).memsOk := fun t e ht => by
    simp only [keep]
    split
    · unfold State.l1Fill
      split <;> exact ht
    · exact ht
  clear_value keep
  split
  · exact h
  · split
    · exact hk _ _ h
    · have hr : r.1.memsOk := uncachedAll_memsOk _ _ h
      have ht : t.memsOk := by
        simp only [t]
        unfold State.ctxSee
        split <;> exact hr
      clear_value t r
      split
      · exact hr
      · split
        · exact hk _ _ (tlbFill_memsOk _ ht)
        · exact ht

theorem meetLine_memsOk {s : State} (tag : DWord) (w : Bool) (x : WsLine) (h : s.memsOk) : (meetLine s tag w x).1.memsOk := by
  unfold meetLine
  split
  · exact h
  · split
    · exact h
    · dsimp only
      split
      · dsimp only
        split
        · exact h
        · split
          · exact causeAbort_memsOk _ _ h
          · exact h
      · split
        · split
          · exact h
          · dsimp only
            split
            · exact causeAbort_memsOk _ _ h
            · split
              · exact h
              · exact causeAbort_memsOk _ _ h
        · exact h

theorem meetLines_memsOk {s : State} (tag : DWord) (w : Bool) (xs : List WsLine) (h : s.memsOk) :
    (meetLines s tag w xs).1.memsOk := by
  induction xs generalizing s with
  | nil => exact h
  | cons x xs ih =>
    unfold meetLines
    dsimp only
    split
    · exact meetLine_memsOk _ _ _ h
    · exact ih (meetLine_memsOk _ _ _ h)

/-- What an access meets on its lines changes no memory (R298). -/
theorem meet_memsOk {s : State} (l : Loc) (n : Nat) (tag : DWord) (w : Bool) (h : s.memsOk) : (s.meet l n tag w).1.memsOk := by
  unfold State.meet
  split
  · exact meetLines_memsOk _ _ _ h
  · exact h

/-- The state in which a trap record's place has been found, or is waited for. -/
def RecordAt.state : RecordAt → State
  | .ok _ t => t
  | .gone t => t
  | .wait t => t
theorem recordAt_memsOk {s : State} (f : Fibre) (w : Bool) (h : s.memsOk) : (s.recordAt f w).state.memsOk := by
  have he : (s.findEntry (some f.core) (coreQuad f.core) (s.asidOf f) (s.recordAddr f)).1.memsOk := findEntry_memsOk _ _ _ _ h
  unfold State.recordAt
  extract_lets r
  simp only [r]
  clear r
  revert he
  generalize s.findEntry (some f.core) (coreQuad f.core) (s.asidOf f) (s.recordAddr f) = r
  intro he
  split
  · exact he
  · exact he
  · exact he
  · exact he
  · exact he
  · next l _ _ _ =>
    split
    · exact he
    · have hm : (r.1.meet l 64 f.tag w).1.memsOk := meet_memsOk _ _ _ _ he
      revert hm
      split
      · next e => rw [e]; exact id
      · next e =>
        rw [e]
        intro hm
        split
        · exact hm
        · split
          · exact hm
          · exact hm

/-- What stands around the writing of a trap's record changes no memory (R162). -/
theorem whenRecord_memsOk {s : State} (f : Fibre) (k : State → State) (h : s.memsOk)
    (hk : ∀ t : State, t.memsOk → (k t).memsOk) : (s.whenRecord f k).memsOk := by
  have hr := recordAt_memsOk f true h
  unfold State.whenRecord
  split
  · exact hk _ h
  · split
    · next e => rw [e] at hr; exact hk _ hr
    · next e => rw [e] at hr; exact hk _ hr
    · next e => rw [e] at hr; exact hr
theorem writeRecord_memsOk {s : State} (f : Fibre) (bs : List Byte) (k : State → State) (h : s.memsOk)
    (hk : ∀ t : State, t.memsOk → (k t).memsOk) : (s.writeRecord f bs k).memsOk := by
  have hr := recordAt_memsOk f true h
  unfold State.writeRecord
  split
  · next e => rw [e] at hr; exact hk _ (homeWrite_memsOk _ _ hr)
  · next e => rw [e] at hr; exact hk _ hr
  · next e => rw [e] at hr; exact hr

/-- Taking a trap keeps the memories canonical (R162). -/
theorem takeTrap_memsOk {s : State} (f : Fibre) (t : TrapInfo) (h : s.memsOk) : (s.takeTrap f t).memsOk := by
  unfold State.takeTrap
  extract_lets g
  clear_value g
  split
  · exact park_memsOk _ _ h
  · refine writeRecord_memsOk _ _ _ h fun u hu => ?_
    split
    · exact park_memsOk _ _ hu
    · exact laneDone_memsOk _ hu

theorem trapAt_memsOk {s : State} (f : Fibre) (i : Instr) (c : Cause) (d a : Nat) (h : s.memsOk) :
    (s.trapAt f i c d a).memsOk := takeTrap_memsOk f _ h

/-- An instruction keeps the memories canonical when its own effect does. -/
theorem issue_memsOk {s t : State} {i : Instr} {g : BitVec 4} {st : Nat} {uses : List Reg} {srcs : List Nat}
    {body : Fibre → State} (h : s.memsOk) (hb : ∀ f, s.cur? = some f → (body f).memsOk)
    (ht : issue s i g st uses srcs body = .next t) : t.memsOk := by
  revert ht
  unfold issue
  split
  · intro ht; cases ht
  · next f hf =>
    split
    · intro ht; cases ht; exact trapAt_memsOk _ _ _ _ _ h
    · dsimp only
      split
      · split
        · intro ht; cases ht; exact trapAt_memsOk _ _ _ _ _ h
        · intro ht; cases ht; exact hb f hf
      · split
        · intro ht; cases ht; exact trapAt_memsOk _ _ _ _ _ h
        · intro ht; cases ht; exact retire_memsOk _ _ _ h

/-- Every lane instruction keeps the memories canonical. -/
theorem lane_memsOk {s t : State} {i : Instr} {hd : Hdr} {uses : List Reg} {srcs : List Nat} {eff : Fibre → Fibre}
    (h : s.memsOk) (ht : lane s i hd uses srcs eff = .next t) : t.memsOk :=
  issue_memsOk h (fun _ _ => retire_memsOk _ _ _ h) ht

/-! Taking free values changes no memory, no fibre and nothing else but the counter (log 3). -/

theorem draw_memsOk {s : State} (n : Nat) : (s.draw n).memsOk ↔ s.memsOk := Iff.rfl
@[simp] theorem draw_fib? (s : State) (n u : Nat) : (s.draw n).fib? u = s.fib? u := rfl
@[simp] theorem draw_mem (s : State) (n : Nat) : (s.draw n).mem = s.mem := rfl
@[simp] theorem draw_fibres (s : State) (n : Nat) : (s.draw n).fibres = s.fibres := rfl

end Sys2Proof.Machine
end

