-- ==== Sys2Proof/Laws/Coherence.lean ====
section
/-! SUPPORT. L1 copies and directories (R213 to R220): what each reads after an update, and what a recall leaves. -/

namespace Sys2Proof.Machine

/-- The L1 state of a sector after an update: the new one where it was set, the old one elsewhere. -/
theorem setL1_l1At (s : State) (x k y q : Nat) (v : L1) :
    (s.setL1 x k v).l1At y q = if y = x ∧ q = k then v else s.l1At y q := by
  unfold State.l1At State.setL1
  by_cases h : y = x ∧ q = k
  · obtain ⟨rfl, rfl⟩ := h
    by_cases hv : v = .i
    · subst hv
      have : (s.l1.filter fun e => !(e.1 == y && e.2.1 == q)).find? (fun e => e.1 == y && e.2.1 == q) = none := by
        rw [List.find?_eq_none]
        intro e he
        have := (List.mem_filter.mp he).2
        simpa [imp_iff_not_or] using this
      simp only [if_true, and_self, this]
    · simp [hv]
  · have hf : ∀ l : List (Nat × Nat × L1), (l.filter fun e => !(e.1 == x && e.2.1 == k)).find?
        (fun e => e.1 == y && e.2.1 == q) = l.find? fun e => e.1 == y && e.2.1 == q := by
      intro l
      induction l with
      | nil => rfl
      | cons e l ih =>
        by_cases he : e.1 = x ∧ e.2.1 = k
        · have hn : (e.1 == y && e.2.1 == q) = false := by
            rw [Bool.and_eq_false_iff]
            by_cases h1 : e.1 = y
            · right
              simp only [beq_eq_false_iff_ne]
              exact fun h2 => h ⟨h1.symm.trans he.1, h2.symm.trans he.2⟩
            · left
              simpa using h1
          rw [List.filter_cons_of_neg (by simp [he.1, he.2]), List.find?_cons_of_neg (by simp [hn]), ih]
        · rw [List.filter_cons_of_pos (by simpa [imp_iff_not_or] using he)]
          simp only [List.find?_cons]
          rw [ih]
    rw [if_neg h]
    by_cases hv : v = .i
    · simp only [hv, if_true, hf]
    · have hn : (x == y && k == q) = false := by
        rw [Bool.and_eq_false_iff]
        by_cases h1 : x = y
        · right
          simp only [beq_eq_false_iff_ne]
          exact fun h2 => h ⟨h1.symm, h2.symm⟩
        · left
          simpa using h1
      simp only [if_neg hv, List.find?_cons, hn, hf]

/-- A directory entry is read back; an empty one reads as no entry. -/
theorem setDir_dirAt (s : State) (p : Option Nat) (e : DirEntry) (h : e.state = .i → e.sharers = []) :
    (s.setDir p e).dirAt p e.sector = e := by
  obtain ⟨k, st, sh⟩ := e
  by_cases hi : st = .i
  · subst hi
    obtain rfl := h rfl
    cases p with
    | none =>
      have : (s.dir.filter fun d => d.sector != k).find? (fun d => d.sector == k) = none := by
        rw [List.find?_eq_none]
        intro d hd
        simpa using (List.mem_filter.mp hd).2
      simp only [State.dirAt, State.setDir, if_true, this]
      rfl
    | some d =>
      have : (s.proxyDir.filter fun q => !(q.1 == d && q.2.sector == k)).find? (fun q => q.1 == d && q.2.sector == k) =
          none := by
        rw [List.find?_eq_none]
        intro q hq
        have := (List.mem_filter.mp hq).2
        simpa [imp_iff_not_or] using this
      simp only [State.dirAt, State.setDir, if_true, this]
      rfl
  · cases p <;> simp [State.dirAt, State.setDir, hi]

/-- After a home write's recall nobody is listed (R216). -/
theorem homeClear_dirAt (s : State) (k : Nat) : (s.homeClear k).dirAt none k = ⟨k, .i, []⟩ :=
  setDir_dirAt _ _ ⟨k, .i, []⟩ fun _ => rfl

/-- A core that gained the sector by GetM is its owner at the directory that serves it, and holds it in M (R216). -/
theorem serveM_dirAt (s : State) (p : Option Nat) (x k : Nat) : (s.serveM p x k).dirAt p k = ⟨k, .em x, []⟩ := by
  have h := setDir_dirAt (s.recallAll p k (some x)) p ⟨k, .em x, []⟩ (fun h => by cases h)
  cases p <;> exact h
theorem serveM_l1At (s : State) (p : Option Nat) (x k : Nat) : (s.serveM p x k).l1At x k = .m := by
  unfold State.serveM
  rw [setL1_l1At, if_pos ⟨rfl, rfl⟩]

end Sys2Proof.Machine
end

