-- ==== Sys2Proof/Laws/Ends.lean ====
section
/-! SUPPORT. What the operations at an instruction's end and at its wait can do, one inversion each: a registration (R147, R322), the
trap record's read (R164, R317), a copy's slot (R137), and the records that a `launch` closes as its counters drain (R228). -/

namespace Sys2Proof.Machine

/-- A registration goes on with its record, or the instruction traps RACE or waits for room and leaves none. -/
theorem State.registerFrom_cases (s s0 : State) (f : Fibre) (i : Instr) (a : NewAcc) (addr : Nat) (k : State → State) :
    (∃ d, s.register a = .race d ∧ s.registerFrom s0 f i a addr k = (s.unread s0).trapAt f i .race d addr) ∨
    (s.register a = .full ∧ s.registerFrom s0 f i a addr k = (s.unread s0).block f (.room a.loc a.size)) ∨
    ∃ t, s.register a = .ok t ∧ s.registerFrom s0 f i a addr k =
      (k ((a.loc.sectors a.size).foldl (fun t q => t.homeClear q) { t with nextId := t.nextId + 1 })).recDone a.owner := by
  unfold State.registerFrom
  cases h : s.register a with
  | race d => exact .inl ⟨d, rfl, rfl⟩
  | full => exact .inr (.inl ⟨rfl, rfl⟩)
  | ok t => exact .inr (.inr ⟨t, rfl, rfl⟩)

@[simp] theorem State.unread_records (t s : State) : (t.unread s).records = s.records := rfl
@[simp] theorem State.unread_touched (t s : State) : (t.unread s).touched = s.touched := rfl
@[simp] theorem State.unread_mem (t s : State) : (t.unread s).mem = t.mem := rfl
@[simp] theorem State.unread_fib? (t s : State) (n : Nat) : (t.unread s).fib? n = t.fib? n := rfl

/-- What the bytes of a trap record give: UNDEF where it is rejected, else the return. -/
def State.judged (f : Fibre) (i : Instr) (k : State → List Byte → State) (t : State) (rb : List Byte) : State :=
  if badRecord rb then t.trapAt f i .undef else k t rb
/-- The read of the trap record: it is judged whole or as free values, poison traps INTEGRITY, and until it can be read the fibre
stands. -/
theorem State.readRecord_cases (s : State) (f : Fibre) (i : Instr) (k : State → List Byte → State) :
    (∃ t, s.recordAt f false = .gone t ∧ s.readRecord f i k = State.judged f i k (t.draw 64) (t.freeBytesAt 64)) ∨
    (∃ t, s.recordAt f false = .wait t ∧ s.readRecord f i k = t) ∨
    ∃ l t, s.recordAt f false = .ok l t ∧
      ((t.ownAhead f l 64 = true ∧ s.readRecord f i k = t) ∨
        (t.ownAhead f l 64 = false ∧ ∃ r, r = checkRead (t.peekAll l 64) l 64 0 ∧
          ((r.2 = [] ∧ s.readRecord f i k = State.judged f i k r.1 (r.1.bytes l 64)) ∨
            (r.2 ≠ [] ∧ s.readRecord f i k = r.1.trapAt f i .integrity 0 (s.recordAddr f))))) := by
  unfold State.readRecord
  cases h : s.recordAt f false with
  | gone t => exact .inl ⟨t, rfl, rfl⟩
  | wait t => exact .inr (.inl ⟨t, rfl, rfl⟩)
  | ok l t =>
    refine .inr (.inr ⟨l, t, rfl, ?_⟩)
    cases ha : t.ownAhead f l 64
    · simp only [ha, Bool.false_eq_true, if_false, true_and, false_and, false_or]
      refine ⟨_, rfl, ?_⟩
      generalize checkRead (t.peekAll l 64) l 64 0 = r
      obtain ⟨u, bad⟩ := r
      cases bad with
      | nil => exact .inl ⟨rfl, rfl⟩
      | cons b bs => exact .inr ⟨List.cons_ne_nil b bs, rfl⟩
    · simp [ha]

/-- A checked copy joins its queue, or waits with its checks made. -/
theorem queueCopy_cases (s : State) (f : Fibre) (i : Instr) (h : Hdr) (c : Copy) :
    ((Config.copySlots ≤ s.copyCount f.core ∨ 63 ≤ f.counter .cp) ∧
      queueCopy s f i h c = ({ s with nextId := s.nextId + 1 } : State).block f (.copySlot c)) ∨
    (s.copyCount f.core < Config.copySlots ∧ f.counter .cp < 63 ∧
      queueCopy s f i h c = ({ s with copies := s.copies ++ [c], nextId := s.nextId + 2 } : State).retire
        (f.raise c.id .cp) i { stall := h.s.toNat }) := by
  unfold queueCopy
  split
  · exact .inl ⟨‹_›, rfl⟩
  · rename_i hn
    exact .inr ⟨by omega, by omega, rfl⟩

theorem foldl_max_ge (l : List Nat) (a : Nat) : a ≤ l.foldl max a := by
  induction l generalizing a with
  | nil => exact Nat.le_refl a
  | cons x xs ih => exact Nat.le_trans (Nat.le_max_left a x) (ih (max a x))
theorem mem_le_foldl_max {l : List Nat} {b : Nat} (h : b ∈ l) (a : Nat) : b ≤ l.foldl max a := by
  induction l generalizing a with
  | nil => cases h
  | cons x xs ih =>
    cases h with
    | head => exact Nat.le_trans (Nat.le_max_right a b) (foldl_max_ge xs _)
    | tail _ hb => exact ih hb _

/-- A `launch` whose older operations are all over is drained. -/
theorem Fibre.le_drained {f : Fibre} {b : Nat} (h : b ∈ f.closing) (ho : ∀ o ∈ f.outs, b ≤ o.id) : b ≤ f.drained :=
  mem_le_foldl_max (List.mem_filter.mpr ⟨h, List.all_eq_true.mpr fun o hm => decide_eq_true (ho o hm)⟩) 0

/-- Closing what has drained keeps memory, and of the records exactly those that are not the fibre's or not older than its drained
`launch`. -/
theorem State.closeDrained_records {s : State} {fib : Nat} {f : Fibre} (hf : s.fib? fib = some f) (r : RegionRec) :
    r ∈ (s.closeDrained fib).records ↔ r ∈ s.records ∧ (r.fib = fib → f.drained ≤ r.owner) := by
  unfold State.closeDrained
  simp only [hf]
  split
  · rename_i h0
    simp [h0]
  · simp only [State.closeRecs, State.modF, List.mem_filter, Bool.not_eq_true', Bool.and_eq_false_iff, beq_eq_false_iff_ne,
      decide_eq_false_iff_not, Nat.not_lt]
    exact and_congr_right fun _ => ⟨fun h he => h.resolve_left fun hn => hn he, fun h => by
      by_cases he : r.fib = fib
      · exact .inr (h he)
      · exact .inl he⟩
@[simp] theorem State.closeDrained_mem (s : State) (fib : Nat) : (s.closeDrained fib).mem = s.mem := by
  unfold State.closeDrained
  cases s.fib? fib with
  | none => rfl
  | some f => by_cases h : f.drained = 0 <;> simp [h, State.closeRecs, State.modF]

end Sys2Proof.Machine
end

