-- ==== Sys2Proof/Laws/State.lean ====
section
/-! SUPPORT. What each plain update of State leaves as it was, field by field, and what retiring and blocking leave. -/

namespace Sys2Proof.Machine

/-! State.setF changes fibres alone. -/

@[simp] theorem State.setF_bar (s : State) (f : Fibre) : (s.setF f).bar = s.bar := rfl
@[simp] theorem State.setF_shortReach (s : State) (f : Fibre) : (s.setF f).shortReach = s.shortReach := rfl
@[simp] theorem State.setF_dev (s : State) (f : Fibre) : (s.setF f).dev = s.dev := rfl
@[simp] theorem State.setF_ports (s : State) (f : Fibre) : (s.setF f).ports = s.ports := rfl
@[simp] theorem State.setF_failedReplays (s : State) (f : Fibre) : (s.setF f).failedReplays = s.failedReplays := rfl
@[simp] theorem State.setF_paths (s : State) (f : Fibre) : (s.setF f).paths = s.paths := rfl
@[simp] theorem State.setF_routes (s : State) (f : Fibre) : (s.setF f).routes = s.routes := rfl
@[simp] theorem State.setF_image (s : State) (f : Fibre) : (s.setF f).image = s.image := rfl
@[simp] theorem State.setF_imageHash (s : State) (f : Fibre) : (s.setF f).imageHash = s.imageHash := rfl
@[simp] theorem State.setF_recordHash (s : State) (f : Fibre) : (s.setF f).recordHash = s.recordHash := rfl
@[simp] theorem State.setF_classes (s : State) (f : Fibre) : (s.setF f).classes = s.classes := rfl
@[simp] theorem State.setF_failedQuads (s : State) (f : Fibre) : (s.setF f).failedQuads = s.failedQuads := rfl
@[simp] theorem State.setF_mem (s : State) (f : Fibre) : (s.setF f).mem = s.mem := rfl
@[simp] theorem State.setF_hostMem (s : State) (f : Fibre) : (s.setF f).hostMem = s.hostMem := rfl
@[simp] theorem State.setF_spMem (s : State) (f : Fibre) : (s.setF f).spMem = s.spMem := rfl
@[simp] theorem State.setF_tbMem (s : State) (f : Fibre) : (s.setF f).tbMem = s.tbMem := rfl
@[simp] theorem State.setF_planeMem (s : State) (f : Fibre) : (s.setF f).planeMem = s.planeMem := rfl
@[simp] theorem State.setF_latched (s : State) (f : Fibre) : (s.setF f).latched = s.latched := rfl
@[simp] theorem State.setF_checks (s : State) (f : Fibre) : (s.setF f).checks = s.checks := rfl
@[simp] theorem State.setF_poison (s : State) (f : Fibre) : (s.setF f).poison = s.poison := rfl
@[simp] theorem State.setF_hostBias (s : State) (f : Fibre) : (s.setF f).hostBias = s.hostBias := rfl
@[simp] theorem State.setF_biasCmd (s : State) (f : Fibre) : (s.setF f).biasCmd = s.biasCmd := rfl
@[simp] theorem State.setF_hostLines (s : State) (f : Fibre) : (s.setF f).hostLines = s.hostLines := rfl
@[simp] theorem State.setF_snoops (s : State) (f : Fibre) : (s.setF f).snoops = s.snoops := rfl
@[simp] theorem State.setF_cxlLines (s : State) (f : Fibre) : (s.setF f).cxlLines = s.cxlLines := rfl
@[simp] theorem State.setF_l1 (s : State) (f : Fibre) : (s.setF f).l1 = s.l1 := rfl
@[simp] theorem State.setF_dir (s : State) (f : Fibre) : (s.setF f).dir = s.dir := rfl
@[simp] theorem State.setF_proxyDir (s : State) (f : Fibre) : (s.setF f).proxyDir = s.proxyDir := rfl
@[simp] theorem State.setF_fills (s : State) (f : Fibre) : (s.setF f).fills = s.fills := rfl
@[simp] theorem State.setF_gated (s : State) (f : Fibre) : (s.setF f).gated = s.gated := rfl
@[simp] theorem State.setF_records (s : State) (f : Fibre) : (s.setF f).records = s.records := rfl
@[simp] theorem State.setF_touched (s : State) (f : Fibre) : (s.setF f).touched = s.touched := rfl
@[simp] theorem State.setF_detectorFull (s : State) (f : Fibre) : (s.setF f).detectorFull = s.detectorFull := rfl
@[simp] theorem State.setF_tlb (s : State) (f : Fibre) : (s.setF f).tlb = s.tlb := rfl
@[simp] theorem State.setF_l1tlb (s : State) (f : Fibre) : (s.setF f).l1tlb = s.l1tlb := rfl
@[simp] theorem State.setF_ctxSeen (s : State) (f : Fibre) : (s.setF f).ctxSeen = s.ctxSeen := rfl
@[simp] theorem State.setF_tlbBusy (s : State) (f : Fibre) : (s.setF f).tlbBusy = s.tlbBusy := rfl
@[simp] theorem State.setF_tlbInv (s : State) (f : Fibre) : (s.setF f).tlbInv = s.tlbInv := rfl
@[simp] theorem State.setF_faults (s : State) (f : Fibre) : (s.setF f).faults = s.faults := rfl
@[simp] theorem State.setF_faultCount (s : State) (f : Fibre) : (s.setF f).faultCount = s.faultCount := rfl
@[simp] theorem State.setF_errors (s : State) (f : Fibre) : (s.setF f).errors = s.errors := rfl
@[simp] theorem State.setF_msix (s : State) (f : Fibre) : (s.setF f).msix = s.msix := rfl
@[simp] theorem State.setF_hostFaults (s : State) (f : Fibre) : (s.setF f).hostFaults = s.hostFaults := rfl
@[simp] theorem State.setF_bindings (s : State) (f : Fibre) : (s.setF f).bindings = s.bindings := rfl
@[simp] theorem State.setF_plazas (s : State) (f : Fibre) : (s.setF f).plazas = s.plazas := rfl
@[simp] theorem State.setF_wsLines (s : State) (f : Fibre) : (s.setF f).wsLines = s.wsLines := rfl
@[simp] theorem State.setF_awayPlazas (s : State) (f : Fibre) : (s.setF f).awayPlazas = s.awayPlazas := rfl
@[simp] theorem State.setF_fabricClock (s : State) (f : Fibre) : (s.setF f).fabricClock = s.fabricClock := rfl
@[simp] theorem State.setF_graphs (s : State) (f : Fibre) : (s.setF f).graphs = s.graphs := rfl
@[simp] theorem State.setF_graphRegs (s : State) (f : Fibre) : (s.setF f).graphRegs = s.graphRegs := rfl
@[simp] theorem State.setF_replays (s : State) (f : Fibre) : (s.setF f).replays = s.replays := rfl
@[simp] theorem State.setF_kicks (s : State) (f : Fibre) : (s.setF f).kicks = s.kicks := rfl
@[simp] theorem State.setF_kickEnds (s : State) (f : Fibre) : (s.setF f).kickEnds = s.kickEnds := rfl
@[simp] theorem State.setF_launches (s : State) (f : Fibre) : (s.setF f).launches = s.launches := rfl
@[simp] theorem State.setF_blocks (s : State) (f : Fibre) : (s.setF f).blocks = s.blocks := rfl
@[simp] theorem State.setF_xcache (s : State) (f : Fibre) : (s.setF f).xcache = s.xcache := rfl
@[simp] theorem State.setF_mx (s : State) (f : Fibre) : (s.setF f).mx = s.mx := rfl
@[simp] theorem State.setF_heldArrivals (s : State) (f : Fibre) : (s.setF f).heldArrivals = s.heldArrivals := rfl
@[simp] theorem State.setF_satNext (s : State) (f : Fibre) : (s.setF f).satNext = s.satNext := rfl
@[simp] theorem State.setF_peerWaits (s : State) (f : Fibre) : (s.setF f).peerWaits = s.peerWaits := rfl
@[simp] theorem State.setF_copies (s : State) (f : Fibre) : (s.setF f).copies = s.copies := rfl
@[simp] theorem State.setF_accs (s : State) (f : Fibre) : (s.setF f).accs = s.accs := rfl
@[simp] theorem State.setF_roundabout (s : State) (f : Fibre) : (s.setF f).roundabout = s.roundabout := rfl
@[simp] theorem State.setF_windows (s : State) (f : Fibre) : (s.setF f).windows = s.windows := rfl
@[simp] theorem State.setF_batches (s : State) (f : Fibre) : (s.setF f).batches = s.batches := rfl
@[simp] theorem State.setF_nextId (s : State) (f : Fibre) : (s.setF f).nextId = s.nextId := rfl
@[simp] theorem State.setF_freeCount (s : State) (f : Fibre) : (s.setF f).freeCount = s.freeCount := rfl
@[simp] theorem State.setF_replies (s : State) (f : Fibre) : (s.setF f).replies = s.replies := rfl
@[simp] theorem State.setF_agenda (s : State) (f : Fibre) : (s.setF f).agenda = s.agenda := rfl
@[simp] theorem State.setF_cur (s : State) (f : Fibre) : (s.setF f).cur = s.cur := rfl
@[simp] theorem State.setF_starved (s : State) (f : Fibre) : (s.setF f).starved = s.starved := rfl
@[simp] theorem State.setF_away (s : State) (f : Fibre) : (s.setF f).away = s.away := rfl

/-! State.modF changes fibres alone. -/

@[simp] theorem State.modF_bar (s : State) (n : Nat) (u : Fibre → Fibre) : (s.modF n u).bar = s.bar := rfl
@[simp] theorem State.modF_shortReach (s : State) (n : Nat) (u : Fibre → Fibre) : (s.modF n u).shortReach = s.shortReach := rfl
@[simp] theorem State.modF_dev (s : State) (n : Nat) (u : Fibre → Fibre) : (s.modF n u).dev = s.dev := rfl
@[simp] theorem State.modF_ports (s : State) (n : Nat) (u : Fibre → Fibre) : (s.modF n u).ports = s.ports := rfl
@[simp] theorem State.modF_failedReplays (s : State) (n : Nat) (u : Fibre → Fibre) : (s.modF n u).failedReplays = s.failedReplays := rfl
@[simp] theorem State.modF_paths (s : State) (n : Nat) (u : Fibre → Fibre) : (s.modF n u).paths = s.paths := rfl
@[simp] theorem State.modF_routes (s : State) (n : Nat) (u : Fibre → Fibre) : (s.modF n u).routes = s.routes := rfl
@[simp] theorem State.modF_image (s : State) (n : Nat) (u : Fibre → Fibre) : (s.modF n u).image = s.image := rfl
@[simp] theorem State.modF_imageHash (s : State) (n : Nat) (u : Fibre → Fibre) : (s.modF n u).imageHash = s.imageHash := rfl
@[simp] theorem State.modF_recordHash (s : State) (n : Nat) (u : Fibre → Fibre) : (s.modF n u).recordHash = s.recordHash := rfl
@[simp] theorem State.modF_classes (s : State) (n : Nat) (u : Fibre → Fibre) : (s.modF n u).classes = s.classes := rfl
@[simp] theorem State.modF_failedQuads (s : State) (n : Nat) (u : Fibre → Fibre) : (s.modF n u).failedQuads = s.failedQuads := rfl
@[simp] theorem State.modF_mem (s : State) (n : Nat) (u : Fibre → Fibre) : (s.modF n u).mem = s.mem := rfl
@[simp] theorem State.modF_hostMem (s : State) (n : Nat) (u : Fibre → Fibre) : (s.modF n u).hostMem = s.hostMem := rfl
@[simp] theorem State.modF_spMem (s : State) (n : Nat) (u : Fibre → Fibre) : (s.modF n u).spMem = s.spMem := rfl
@[simp] theorem State.modF_tbMem (s : State) (n : Nat) (u : Fibre → Fibre) : (s.modF n u).tbMem = s.tbMem := rfl
@[simp] theorem State.modF_planeMem (s : State) (n : Nat) (u : Fibre → Fibre) : (s.modF n u).planeMem = s.planeMem := rfl
@[simp] theorem State.modF_latched (s : State) (n : Nat) (u : Fibre → Fibre) : (s.modF n u).latched = s.latched := rfl
@[simp] theorem State.modF_checks (s : State) (n : Nat) (u : Fibre → Fibre) : (s.modF n u).checks = s.checks := rfl
@[simp] theorem State.modF_poison (s : State) (n : Nat) (u : Fibre → Fibre) : (s.modF n u).poison = s.poison := rfl
@[simp] theorem State.modF_hostBias (s : State) (n : Nat) (u : Fibre → Fibre) : (s.modF n u).hostBias = s.hostBias := rfl
@[simp] theorem State.modF_biasCmd (s : State) (n : Nat) (u : Fibre → Fibre) : (s.modF n u).biasCmd = s.biasCmd := rfl
@[simp] theorem State.modF_hostLines (s : State) (n : Nat) (u : Fibre → Fibre) : (s.modF n u).hostLines = s.hostLines := rfl
@[simp] theorem State.modF_snoops (s : State) (n : Nat) (u : Fibre → Fibre) : (s.modF n u).snoops = s.snoops := rfl
@[simp] theorem State.modF_cxlLines (s : State) (n : Nat) (u : Fibre → Fibre) : (s.modF n u).cxlLines = s.cxlLines := rfl
@[simp] theorem State.modF_l1 (s : State) (n : Nat) (u : Fibre → Fibre) : (s.modF n u).l1 = s.l1 := rfl
@[simp] theorem State.modF_dir (s : State) (n : Nat) (u : Fibre → Fibre) : (s.modF n u).dir = s.dir := rfl
@[simp] theorem State.modF_proxyDir (s : State) (n : Nat) (u : Fibre → Fibre) : (s.modF n u).proxyDir = s.proxyDir := rfl
@[simp] theorem State.modF_fills (s : State) (n : Nat) (u : Fibre → Fibre) : (s.modF n u).fills = s.fills := rfl
@[simp] theorem State.modF_gated (s : State) (n : Nat) (u : Fibre → Fibre) : (s.modF n u).gated = s.gated := rfl
@[simp] theorem State.modF_records (s : State) (n : Nat) (u : Fibre → Fibre) : (s.modF n u).records = s.records := rfl
@[simp] theorem State.modF_touched (s : State) (n : Nat) (u : Fibre → Fibre) : (s.modF n u).touched = s.touched := rfl
@[simp] theorem State.modF_detectorFull (s : State) (n : Nat) (u : Fibre → Fibre) : (s.modF n u).detectorFull = s.detectorFull := rfl
@[simp] theorem State.modF_tlb (s : State) (n : Nat) (u : Fibre → Fibre) : (s.modF n u).tlb = s.tlb := rfl
@[simp] theorem State.modF_l1tlb (s : State) (n : Nat) (u : Fibre → Fibre) : (s.modF n u).l1tlb = s.l1tlb := rfl
@[simp] theorem State.modF_ctxSeen (s : State) (n : Nat) (u : Fibre → Fibre) : (s.modF n u).ctxSeen = s.ctxSeen := rfl
@[simp] theorem State.modF_tlbBusy (s : State) (n : Nat) (u : Fibre → Fibre) : (s.modF n u).tlbBusy = s.tlbBusy := rfl
@[simp] theorem State.modF_tlbInv (s : State) (n : Nat) (u : Fibre → Fibre) : (s.modF n u).tlbInv = s.tlbInv := rfl
@[simp] theorem State.modF_faults (s : State) (n : Nat) (u : Fibre → Fibre) : (s.modF n u).faults = s.faults := rfl
@[simp] theorem State.modF_faultCount (s : State) (n : Nat) (u : Fibre → Fibre) : (s.modF n u).faultCount = s.faultCount := rfl
@[simp] theorem State.modF_errors (s : State) (n : Nat) (u : Fibre → Fibre) : (s.modF n u).errors = s.errors := rfl
@[simp] theorem State.modF_msix (s : State) (n : Nat) (u : Fibre → Fibre) : (s.modF n u).msix = s.msix := rfl
@[simp] theorem State.modF_hostFaults (s : State) (n : Nat) (u : Fibre → Fibre) : (s.modF n u).hostFaults = s.hostFaults := rfl
@[simp] theorem State.modF_bindings (s : State) (n : Nat) (u : Fibre → Fibre) : (s.modF n u).bindings = s.bindings := rfl
@[simp] theorem State.modF_plazas (s : State) (n : Nat) (u : Fibre → Fibre) : (s.modF n u).plazas = s.plazas := rfl
@[simp] theorem State.modF_wsLines (s : State) (n : Nat) (u : Fibre → Fibre) : (s.modF n u).wsLines = s.wsLines := rfl
@[simp] theorem State.modF_awayPlazas (s : State) (n : Nat) (u : Fibre → Fibre) : (s.modF n u).awayPlazas = s.awayPlazas := rfl
@[simp] theorem State.modF_fabricClock (s : State) (n : Nat) (u : Fibre → Fibre) : (s.modF n u).fabricClock = s.fabricClock := rfl
@[simp] theorem State.modF_graphs (s : State) (n : Nat) (u : Fibre → Fibre) : (s.modF n u).graphs = s.graphs := rfl
@[simp] theorem State.modF_graphRegs (s : State) (n : Nat) (u : Fibre → Fibre) : (s.modF n u).graphRegs = s.graphRegs := rfl
@[simp] theorem State.modF_replays (s : State) (n : Nat) (u : Fibre → Fibre) : (s.modF n u).replays = s.replays := rfl
@[simp] theorem State.modF_kicks (s : State) (n : Nat) (u : Fibre → Fibre) : (s.modF n u).kicks = s.kicks := rfl
@[simp] theorem State.modF_kickEnds (s : State) (n : Nat) (u : Fibre → Fibre) : (s.modF n u).kickEnds = s.kickEnds := rfl
@[simp] theorem State.modF_launches (s : State) (n : Nat) (u : Fibre → Fibre) : (s.modF n u).launches = s.launches := rfl
@[simp] theorem State.modF_blocks (s : State) (n : Nat) (u : Fibre → Fibre) : (s.modF n u).blocks = s.blocks := rfl
@[simp] theorem State.modF_xcache (s : State) (n : Nat) (u : Fibre → Fibre) : (s.modF n u).xcache = s.xcache := rfl
@[simp] theorem State.modF_mx (s : State) (n : Nat) (u : Fibre → Fibre) : (s.modF n u).mx = s.mx := rfl
@[simp] theorem State.modF_heldArrivals (s : State) (n : Nat) (u : Fibre → Fibre) : (s.modF n u).heldArrivals = s.heldArrivals := rfl
@[simp] theorem State.modF_satNext (s : State) (n : Nat) (u : Fibre → Fibre) : (s.modF n u).satNext = s.satNext := rfl
@[simp] theorem State.modF_peerWaits (s : State) (n : Nat) (u : Fibre → Fibre) : (s.modF n u).peerWaits = s.peerWaits := rfl
@[simp] theorem State.modF_copies (s : State) (n : Nat) (u : Fibre → Fibre) : (s.modF n u).copies = s.copies := rfl
@[simp] theorem State.modF_accs (s : State) (n : Nat) (u : Fibre → Fibre) : (s.modF n u).accs = s.accs := rfl
@[simp] theorem State.modF_roundabout (s : State) (n : Nat) (u : Fibre → Fibre) : (s.modF n u).roundabout = s.roundabout := rfl
@[simp] theorem State.modF_windows (s : State) (n : Nat) (u : Fibre → Fibre) : (s.modF n u).windows = s.windows := rfl
@[simp] theorem State.modF_batches (s : State) (n : Nat) (u : Fibre → Fibre) : (s.modF n u).batches = s.batches := rfl
@[simp] theorem State.modF_nextId (s : State) (n : Nat) (u : Fibre → Fibre) : (s.modF n u).nextId = s.nextId := rfl
@[simp] theorem State.modF_freeCount (s : State) (n : Nat) (u : Fibre → Fibre) : (s.modF n u).freeCount = s.freeCount := rfl
@[simp] theorem State.modF_replies (s : State) (n : Nat) (u : Fibre → Fibre) : (s.modF n u).replies = s.replies := rfl
@[simp] theorem State.modF_agenda (s : State) (n : Nat) (u : Fibre → Fibre) : (s.modF n u).agenda = s.agenda := rfl
@[simp] theorem State.modF_cur (s : State) (n : Nat) (u : Fibre → Fibre) : (s.modF n u).cur = s.cur := rfl
@[simp] theorem State.modF_starved (s : State) (n : Nat) (u : Fibre → Fibre) : (s.modF n u).starved = s.starved := rfl
@[simp] theorem State.modF_away (s : State) (n : Nat) (u : Fibre → Fibre) : (s.modF n u).away = s.away := rfl

/-! State.setLaunch changes launches alone. -/

@[simp] theorem State.setLaunch_bar (s : State) (l : Launch) : (s.setLaunch l).bar = s.bar := rfl
@[simp] theorem State.setLaunch_shortReach (s : State) (l : Launch) : (s.setLaunch l).shortReach = s.shortReach := rfl
@[simp] theorem State.setLaunch_dev (s : State) (l : Launch) : (s.setLaunch l).dev = s.dev := rfl
@[simp] theorem State.setLaunch_ports (s : State) (l : Launch) : (s.setLaunch l).ports = s.ports := rfl
@[simp] theorem State.setLaunch_failedReplays (s : State) (l : Launch) : (s.setLaunch l).failedReplays = s.failedReplays := rfl
@[simp] theorem State.setLaunch_paths (s : State) (l : Launch) : (s.setLaunch l).paths = s.paths := rfl
@[simp] theorem State.setLaunch_routes (s : State) (l : Launch) : (s.setLaunch l).routes = s.routes := rfl
@[simp] theorem State.setLaunch_image (s : State) (l : Launch) : (s.setLaunch l).image = s.image := rfl
@[simp] theorem State.setLaunch_imageHash (s : State) (l : Launch) : (s.setLaunch l).imageHash = s.imageHash := rfl
@[simp] theorem State.setLaunch_recordHash (s : State) (l : Launch) : (s.setLaunch l).recordHash = s.recordHash := rfl
@[simp] theorem State.setLaunch_classes (s : State) (l : Launch) : (s.setLaunch l).classes = s.classes := rfl
@[simp] theorem State.setLaunch_failedQuads (s : State) (l : Launch) : (s.setLaunch l).failedQuads = s.failedQuads := rfl
@[simp] theorem State.setLaunch_mem (s : State) (l : Launch) : (s.setLaunch l).mem = s.mem := rfl
@[simp] theorem State.setLaunch_hostMem (s : State) (l : Launch) : (s.setLaunch l).hostMem = s.hostMem := rfl
@[simp] theorem State.setLaunch_spMem (s : State) (l : Launch) : (s.setLaunch l).spMem = s.spMem := rfl
@[simp] theorem State.setLaunch_tbMem (s : State) (l : Launch) : (s.setLaunch l).tbMem = s.tbMem := rfl
@[simp] theorem State.setLaunch_planeMem (s : State) (l : Launch) : (s.setLaunch l).planeMem = s.planeMem := rfl
@[simp] theorem State.setLaunch_latched (s : State) (l : Launch) : (s.setLaunch l).latched = s.latched := rfl
@[simp] theorem State.setLaunch_checks (s : State) (l : Launch) : (s.setLaunch l).checks = s.checks := rfl
@[simp] theorem State.setLaunch_poison (s : State) (l : Launch) : (s.setLaunch l).poison = s.poison := rfl
@[simp] theorem State.setLaunch_hostBias (s : State) (l : Launch) : (s.setLaunch l).hostBias = s.hostBias := rfl
@[simp] theorem State.setLaunch_biasCmd (s : State) (l : Launch) : (s.setLaunch l).biasCmd = s.biasCmd := rfl
@[simp] theorem State.setLaunch_hostLines (s : State) (l : Launch) : (s.setLaunch l).hostLines = s.hostLines := rfl
@[simp] theorem State.setLaunch_snoops (s : State) (l : Launch) : (s.setLaunch l).snoops = s.snoops := rfl
@[simp] theorem State.setLaunch_cxlLines (s : State) (l : Launch) : (s.setLaunch l).cxlLines = s.cxlLines := rfl
@[simp] theorem State.setLaunch_l1 (s : State) (l : Launch) : (s.setLaunch l).l1 = s.l1 := rfl
@[simp] theorem State.setLaunch_dir (s : State) (l : Launch) : (s.setLaunch l).dir = s.dir := rfl
@[simp] theorem State.setLaunch_proxyDir (s : State) (l : Launch) : (s.setLaunch l).proxyDir = s.proxyDir := rfl
@[simp] theorem State.setLaunch_fills (s : State) (l : Launch) : (s.setLaunch l).fills = s.fills := rfl
@[simp] theorem State.setLaunch_gated (s : State) (l : Launch) : (s.setLaunch l).gated = s.gated := rfl
@[simp] theorem State.setLaunch_records (s : State) (l : Launch) : (s.setLaunch l).records = s.records := rfl
@[simp] theorem State.setLaunch_touched (s : State) (l : Launch) : (s.setLaunch l).touched = s.touched := rfl
@[simp] theorem State.setLaunch_detectorFull (s : State) (l : Launch) : (s.setLaunch l).detectorFull = s.detectorFull := rfl
@[simp] theorem State.setLaunch_tlb (s : State) (l : Launch) : (s.setLaunch l).tlb = s.tlb := rfl
@[simp] theorem State.setLaunch_l1tlb (s : State) (l : Launch) : (s.setLaunch l).l1tlb = s.l1tlb := rfl
@[simp] theorem State.setLaunch_ctxSeen (s : State) (l : Launch) : (s.setLaunch l).ctxSeen = s.ctxSeen := rfl
@[simp] theorem State.setLaunch_tlbBusy (s : State) (l : Launch) : (s.setLaunch l).tlbBusy = s.tlbBusy := rfl
@[simp] theorem State.setLaunch_tlbInv (s : State) (l : Launch) : (s.setLaunch l).tlbInv = s.tlbInv := rfl
@[simp] theorem State.setLaunch_faults (s : State) (l : Launch) : (s.setLaunch l).faults = s.faults := rfl
@[simp] theorem State.setLaunch_faultCount (s : State) (l : Launch) : (s.setLaunch l).faultCount = s.faultCount := rfl
@[simp] theorem State.setLaunch_errors (s : State) (l : Launch) : (s.setLaunch l).errors = s.errors := rfl
@[simp] theorem State.setLaunch_msix (s : State) (l : Launch) : (s.setLaunch l).msix = s.msix := rfl
@[simp] theorem State.setLaunch_hostFaults (s : State) (l : Launch) : (s.setLaunch l).hostFaults = s.hostFaults := rfl
@[simp] theorem State.setLaunch_bindings (s : State) (l : Launch) : (s.setLaunch l).bindings = s.bindings := rfl
@[simp] theorem State.setLaunch_plazas (s : State) (l : Launch) : (s.setLaunch l).plazas = s.plazas := rfl
@[simp] theorem State.setLaunch_wsLines (s : State) (l : Launch) : (s.setLaunch l).wsLines = s.wsLines := rfl
@[simp] theorem State.setLaunch_awayPlazas (s : State) (l : Launch) : (s.setLaunch l).awayPlazas = s.awayPlazas := rfl
@[simp] theorem State.setLaunch_fabricClock (s : State) (l : Launch) : (s.setLaunch l).fabricClock = s.fabricClock := rfl
@[simp] theorem State.setLaunch_graphs (s : State) (l : Launch) : (s.setLaunch l).graphs = s.graphs := rfl
@[simp] theorem State.setLaunch_graphRegs (s : State) (l : Launch) : (s.setLaunch l).graphRegs = s.graphRegs := rfl
@[simp] theorem State.setLaunch_replays (s : State) (l : Launch) : (s.setLaunch l).replays = s.replays := rfl
@[simp] theorem State.setLaunch_kicks (s : State) (l : Launch) : (s.setLaunch l).kicks = s.kicks := rfl
@[simp] theorem State.setLaunch_kickEnds (s : State) (l : Launch) : (s.setLaunch l).kickEnds = s.kickEnds := rfl
@[simp] theorem State.setLaunch_blocks (s : State) (l : Launch) : (s.setLaunch l).blocks = s.blocks := rfl
@[simp] theorem State.setLaunch_xcache (s : State) (l : Launch) : (s.setLaunch l).xcache = s.xcache := rfl
@[simp] theorem State.setLaunch_mx (s : State) (l : Launch) : (s.setLaunch l).mx = s.mx := rfl
@[simp] theorem State.setLaunch_heldArrivals (s : State) (l : Launch) : (s.setLaunch l).heldArrivals = s.heldArrivals := rfl
@[simp] theorem State.setLaunch_satNext (s : State) (l : Launch) : (s.setLaunch l).satNext = s.satNext := rfl
@[simp] theorem State.setLaunch_peerWaits (s : State) (l : Launch) : (s.setLaunch l).peerWaits = s.peerWaits := rfl
@[simp] theorem State.setLaunch_copies (s : State) (l : Launch) : (s.setLaunch l).copies = s.copies := rfl
@[simp] theorem State.setLaunch_accs (s : State) (l : Launch) : (s.setLaunch l).accs = s.accs := rfl
@[simp] theorem State.setLaunch_roundabout (s : State) (l : Launch) : (s.setLaunch l).roundabout = s.roundabout := rfl
@[simp] theorem State.setLaunch_windows (s : State) (l : Launch) : (s.setLaunch l).windows = s.windows := rfl
@[simp] theorem State.setLaunch_batches (s : State) (l : Launch) : (s.setLaunch l).batches = s.batches := rfl
@[simp] theorem State.setLaunch_fibres (s : State) (l : Launch) : (s.setLaunch l).fibres = s.fibres := rfl
@[simp] theorem State.setLaunch_nextId (s : State) (l : Launch) : (s.setLaunch l).nextId = s.nextId := rfl
@[simp] theorem State.setLaunch_freeCount (s : State) (l : Launch) : (s.setLaunch l).freeCount = s.freeCount := rfl
@[simp] theorem State.setLaunch_replies (s : State) (l : Launch) : (s.setLaunch l).replies = s.replies := rfl
@[simp] theorem State.setLaunch_agenda (s : State) (l : Launch) : (s.setLaunch l).agenda = s.agenda := rfl
@[simp] theorem State.setLaunch_cur (s : State) (l : Launch) : (s.setLaunch l).cur = s.cur := rfl
@[simp] theorem State.setLaunch_starved (s : State) (l : Launch) : (s.setLaunch l).starved = s.starved := rfl
@[simp] theorem State.setLaunch_away (s : State) (l : Launch) : (s.setLaunch l).away = s.away := rfl

/-! State.setBlock changes blocks alone. -/

@[simp] theorem State.setBlock_bar (s : State) (b : Block) : (s.setBlock b).bar = s.bar := rfl
@[simp] theorem State.setBlock_shortReach (s : State) (b : Block) : (s.setBlock b).shortReach = s.shortReach := rfl
@[simp] theorem State.setBlock_dev (s : State) (b : Block) : (s.setBlock b).dev = s.dev := rfl
@[simp] theorem State.setBlock_ports (s : State) (b : Block) : (s.setBlock b).ports = s.ports := rfl
@[simp] theorem State.setBlock_failedReplays (s : State) (b : Block) : (s.setBlock b).failedReplays = s.failedReplays := rfl
@[simp] theorem State.setBlock_paths (s : State) (b : Block) : (s.setBlock b).paths = s.paths := rfl
@[simp] theorem State.setBlock_routes (s : State) (b : Block) : (s.setBlock b).routes = s.routes := rfl
@[simp] theorem State.setBlock_image (s : State) (b : Block) : (s.setBlock b).image = s.image := rfl
@[simp] theorem State.setBlock_imageHash (s : State) (b : Block) : (s.setBlock b).imageHash = s.imageHash := rfl
@[simp] theorem State.setBlock_recordHash (s : State) (b : Block) : (s.setBlock b).recordHash = s.recordHash := rfl
@[simp] theorem State.setBlock_classes (s : State) (b : Block) : (s.setBlock b).classes = s.classes := rfl
@[simp] theorem State.setBlock_failedQuads (s : State) (b : Block) : (s.setBlock b).failedQuads = s.failedQuads := rfl
@[simp] theorem State.setBlock_mem (s : State) (b : Block) : (s.setBlock b).mem = s.mem := rfl
@[simp] theorem State.setBlock_hostMem (s : State) (b : Block) : (s.setBlock b).hostMem = s.hostMem := rfl
@[simp] theorem State.setBlock_spMem (s : State) (b : Block) : (s.setBlock b).spMem = s.spMem := rfl
@[simp] theorem State.setBlock_tbMem (s : State) (b : Block) : (s.setBlock b).tbMem = s.tbMem := rfl
@[simp] theorem State.setBlock_planeMem (s : State) (b : Block) : (s.setBlock b).planeMem = s.planeMem := rfl
@[simp] theorem State.setBlock_latched (s : State) (b : Block) : (s.setBlock b).latched = s.latched := rfl
@[simp] theorem State.setBlock_checks (s : State) (b : Block) : (s.setBlock b).checks = s.checks := rfl
@[simp] theorem State.setBlock_poison (s : State) (b : Block) : (s.setBlock b).poison = s.poison := rfl
@[simp] theorem State.setBlock_hostBias (s : State) (b : Block) : (s.setBlock b).hostBias = s.hostBias := rfl
@[simp] theorem State.setBlock_biasCmd (s : State) (b : Block) : (s.setBlock b).biasCmd = s.biasCmd := rfl
@[simp] theorem State.setBlock_hostLines (s : State) (b : Block) : (s.setBlock b).hostLines = s.hostLines := rfl
@[simp] theorem State.setBlock_snoops (s : State) (b : Block) : (s.setBlock b).snoops = s.snoops := rfl
@[simp] theorem State.setBlock_cxlLines (s : State) (b : Block) : (s.setBlock b).cxlLines = s.cxlLines := rfl
@[simp] theorem State.setBlock_l1 (s : State) (b : Block) : (s.setBlock b).l1 = s.l1 := rfl
@[simp] theorem State.setBlock_dir (s : State) (b : Block) : (s.setBlock b).dir = s.dir := rfl
@[simp] theorem State.setBlock_proxyDir (s : State) (b : Block) : (s.setBlock b).proxyDir = s.proxyDir := rfl
@[simp] theorem State.setBlock_fills (s : State) (b : Block) : (s.setBlock b).fills = s.fills := rfl
@[simp] theorem State.setBlock_gated (s : State) (b : Block) : (s.setBlock b).gated = s.gated := rfl
@[simp] theorem State.setBlock_records (s : State) (b : Block) : (s.setBlock b).records = s.records := rfl
@[simp] theorem State.setBlock_touched (s : State) (b : Block) : (s.setBlock b).touched = s.touched := rfl
@[simp] theorem State.setBlock_detectorFull (s : State) (b : Block) : (s.setBlock b).detectorFull = s.detectorFull := rfl
@[simp] theorem State.setBlock_tlb (s : State) (b : Block) : (s.setBlock b).tlb = s.tlb := rfl
@[simp] theorem State.setBlock_l1tlb (s : State) (b : Block) : (s.setBlock b).l1tlb = s.l1tlb := rfl
@[simp] theorem State.setBlock_ctxSeen (s : State) (b : Block) : (s.setBlock b).ctxSeen = s.ctxSeen := rfl
@[simp] theorem State.setBlock_tlbBusy (s : State) (b : Block) : (s.setBlock b).tlbBusy = s.tlbBusy := rfl
@[simp] theorem State.setBlock_tlbInv (s : State) (b : Block) : (s.setBlock b).tlbInv = s.tlbInv := rfl
@[simp] theorem State.setBlock_faults (s : State) (b : Block) : (s.setBlock b).faults = s.faults := rfl
@[simp] theorem State.setBlock_faultCount (s : State) (b : Block) : (s.setBlock b).faultCount = s.faultCount := rfl
@[simp] theorem State.setBlock_errors (s : State) (b : Block) : (s.setBlock b).errors = s.errors := rfl
@[simp] theorem State.setBlock_msix (s : State) (b : Block) : (s.setBlock b).msix = s.msix := rfl
@[simp] theorem State.setBlock_hostFaults (s : State) (b : Block) : (s.setBlock b).hostFaults = s.hostFaults := rfl
@[simp] theorem State.setBlock_bindings (s : State) (b : Block) : (s.setBlock b).bindings = s.bindings := rfl
@[simp] theorem State.setBlock_plazas (s : State) (b : Block) : (s.setBlock b).plazas = s.plazas := rfl
@[simp] theorem State.setBlock_wsLines (s : State) (b : Block) : (s.setBlock b).wsLines = s.wsLines := rfl
@[simp] theorem State.setBlock_awayPlazas (s : State) (b : Block) : (s.setBlock b).awayPlazas = s.awayPlazas := rfl
@[simp] theorem State.setBlock_fabricClock (s : State) (b : Block) : (s.setBlock b).fabricClock = s.fabricClock := rfl
@[simp] theorem State.setBlock_graphs (s : State) (b : Block) : (s.setBlock b).graphs = s.graphs := rfl
@[simp] theorem State.setBlock_graphRegs (s : State) (b : Block) : (s.setBlock b).graphRegs = s.graphRegs := rfl
@[simp] theorem State.setBlock_replays (s : State) (b : Block) : (s.setBlock b).replays = s.replays := rfl
@[simp] theorem State.setBlock_kicks (s : State) (b : Block) : (s.setBlock b).kicks = s.kicks := rfl
@[simp] theorem State.setBlock_kickEnds (s : State) (b : Block) : (s.setBlock b).kickEnds = s.kickEnds := rfl
@[simp] theorem State.setBlock_launches (s : State) (b : Block) : (s.setBlock b).launches = s.launches := rfl
@[simp] theorem State.setBlock_xcache (s : State) (b : Block) : (s.setBlock b).xcache = s.xcache := rfl
@[simp] theorem State.setBlock_mx (s : State) (b : Block) : (s.setBlock b).mx = s.mx := rfl
@[simp] theorem State.setBlock_heldArrivals (s : State) (b : Block) : (s.setBlock b).heldArrivals = s.heldArrivals := rfl
@[simp] theorem State.setBlock_satNext (s : State) (b : Block) : (s.setBlock b).satNext = s.satNext := rfl
@[simp] theorem State.setBlock_peerWaits (s : State) (b : Block) : (s.setBlock b).peerWaits = s.peerWaits := rfl
@[simp] theorem State.setBlock_copies (s : State) (b : Block) : (s.setBlock b).copies = s.copies := rfl
@[simp] theorem State.setBlock_accs (s : State) (b : Block) : (s.setBlock b).accs = s.accs := rfl
@[simp] theorem State.setBlock_roundabout (s : State) (b : Block) : (s.setBlock b).roundabout = s.roundabout := rfl
@[simp] theorem State.setBlock_windows (s : State) (b : Block) : (s.setBlock b).windows = s.windows := rfl
@[simp] theorem State.setBlock_batches (s : State) (b : Block) : (s.setBlock b).batches = s.batches := rfl
@[simp] theorem State.setBlock_fibres (s : State) (b : Block) : (s.setBlock b).fibres = s.fibres := rfl
@[simp] theorem State.setBlock_nextId (s : State) (b : Block) : (s.setBlock b).nextId = s.nextId := rfl
@[simp] theorem State.setBlock_freeCount (s : State) (b : Block) : (s.setBlock b).freeCount = s.freeCount := rfl
@[simp] theorem State.setBlock_replies (s : State) (b : Block) : (s.setBlock b).replies = s.replies := rfl
@[simp] theorem State.setBlock_agenda (s : State) (b : Block) : (s.setBlock b).agenda = s.agenda := rfl
@[simp] theorem State.setBlock_cur (s : State) (b : Block) : (s.setBlock b).cur = s.cur := rfl
@[simp] theorem State.setBlock_starved (s : State) (b : Block) : (s.setBlock b).starved = s.starved := rfl
@[simp] theorem State.setBlock_away (s : State) (b : Block) : (s.setBlock b).away = s.away := rfl

/-! State.setPlaza changes plazas alone. -/

@[simp] theorem State.setPlaza_bar (s : State) (p : Plaza) : (s.setPlaza p).bar = s.bar := rfl
@[simp] theorem State.setPlaza_shortReach (s : State) (p : Plaza) : (s.setPlaza p).shortReach = s.shortReach := rfl
@[simp] theorem State.setPlaza_dev (s : State) (p : Plaza) : (s.setPlaza p).dev = s.dev := rfl
@[simp] theorem State.setPlaza_ports (s : State) (p : Plaza) : (s.setPlaza p).ports = s.ports := rfl
@[simp] theorem State.setPlaza_failedReplays (s : State) (p : Plaza) : (s.setPlaza p).failedReplays = s.failedReplays := rfl
@[simp] theorem State.setPlaza_paths (s : State) (p : Plaza) : (s.setPlaza p).paths = s.paths := rfl
@[simp] theorem State.setPlaza_routes (s : State) (p : Plaza) : (s.setPlaza p).routes = s.routes := rfl
@[simp] theorem State.setPlaza_image (s : State) (p : Plaza) : (s.setPlaza p).image = s.image := rfl
@[simp] theorem State.setPlaza_imageHash (s : State) (p : Plaza) : (s.setPlaza p).imageHash = s.imageHash := rfl
@[simp] theorem State.setPlaza_recordHash (s : State) (p : Plaza) : (s.setPlaza p).recordHash = s.recordHash := rfl
@[simp] theorem State.setPlaza_classes (s : State) (p : Plaza) : (s.setPlaza p).classes = s.classes := rfl
@[simp] theorem State.setPlaza_failedQuads (s : State) (p : Plaza) : (s.setPlaza p).failedQuads = s.failedQuads := rfl
@[simp] theorem State.setPlaza_mem (s : State) (p : Plaza) : (s.setPlaza p).mem = s.mem := rfl
@[simp] theorem State.setPlaza_hostMem (s : State) (p : Plaza) : (s.setPlaza p).hostMem = s.hostMem := rfl
@[simp] theorem State.setPlaza_spMem (s : State) (p : Plaza) : (s.setPlaza p).spMem = s.spMem := rfl
@[simp] theorem State.setPlaza_tbMem (s : State) (p : Plaza) : (s.setPlaza p).tbMem = s.tbMem := rfl
@[simp] theorem State.setPlaza_planeMem (s : State) (p : Plaza) : (s.setPlaza p).planeMem = s.planeMem := rfl
@[simp] theorem State.setPlaza_latched (s : State) (p : Plaza) : (s.setPlaza p).latched = s.latched := rfl
@[simp] theorem State.setPlaza_checks (s : State) (p : Plaza) : (s.setPlaza p).checks = s.checks := rfl
@[simp] theorem State.setPlaza_poison (s : State) (p : Plaza) : (s.setPlaza p).poison = s.poison := rfl
@[simp] theorem State.setPlaza_hostBias (s : State) (p : Plaza) : (s.setPlaza p).hostBias = s.hostBias := rfl
@[simp] theorem State.setPlaza_biasCmd (s : State) (p : Plaza) : (s.setPlaza p).biasCmd = s.biasCmd := rfl
@[simp] theorem State.setPlaza_hostLines (s : State) (p : Plaza) : (s.setPlaza p).hostLines = s.hostLines := rfl
@[simp] theorem State.setPlaza_snoops (s : State) (p : Plaza) : (s.setPlaza p).snoops = s.snoops := rfl
@[simp] theorem State.setPlaza_cxlLines (s : State) (p : Plaza) : (s.setPlaza p).cxlLines = s.cxlLines := rfl
@[simp] theorem State.setPlaza_l1 (s : State) (p : Plaza) : (s.setPlaza p).l1 = s.l1 := rfl
@[simp] theorem State.setPlaza_dir (s : State) (p : Plaza) : (s.setPlaza p).dir = s.dir := rfl
@[simp] theorem State.setPlaza_proxyDir (s : State) (p : Plaza) : (s.setPlaza p).proxyDir = s.proxyDir := rfl
@[simp] theorem State.setPlaza_fills (s : State) (p : Plaza) : (s.setPlaza p).fills = s.fills := rfl
@[simp] theorem State.setPlaza_gated (s : State) (p : Plaza) : (s.setPlaza p).gated = s.gated := rfl
@[simp] theorem State.setPlaza_records (s : State) (p : Plaza) : (s.setPlaza p).records = s.records := rfl
@[simp] theorem State.setPlaza_touched (s : State) (p : Plaza) : (s.setPlaza p).touched = s.touched := rfl
@[simp] theorem State.setPlaza_detectorFull (s : State) (p : Plaza) : (s.setPlaza p).detectorFull = s.detectorFull := rfl
@[simp] theorem State.setPlaza_tlb (s : State) (p : Plaza) : (s.setPlaza p).tlb = s.tlb := rfl
@[simp] theorem State.setPlaza_l1tlb (s : State) (p : Plaza) : (s.setPlaza p).l1tlb = s.l1tlb := rfl
@[simp] theorem State.setPlaza_ctxSeen (s : State) (p : Plaza) : (s.setPlaza p).ctxSeen = s.ctxSeen := rfl
@[simp] theorem State.setPlaza_tlbBusy (s : State) (p : Plaza) : (s.setPlaza p).tlbBusy = s.tlbBusy := rfl
@[simp] theorem State.setPlaza_tlbInv (s : State) (p : Plaza) : (s.setPlaza p).tlbInv = s.tlbInv := rfl
@[simp] theorem State.setPlaza_faults (s : State) (p : Plaza) : (s.setPlaza p).faults = s.faults := rfl
@[simp] theorem State.setPlaza_faultCount (s : State) (p : Plaza) : (s.setPlaza p).faultCount = s.faultCount := rfl
@[simp] theorem State.setPlaza_errors (s : State) (p : Plaza) : (s.setPlaza p).errors = s.errors := rfl
@[simp] theorem State.setPlaza_msix (s : State) (p : Plaza) : (s.setPlaza p).msix = s.msix := rfl
@[simp] theorem State.setPlaza_hostFaults (s : State) (p : Plaza) : (s.setPlaza p).hostFaults = s.hostFaults := rfl
@[simp] theorem State.setPlaza_bindings (s : State) (p : Plaza) : (s.setPlaza p).bindings = s.bindings := rfl
@[simp] theorem State.setPlaza_wsLines (s : State) (p : Plaza) : (s.setPlaza p).wsLines = s.wsLines := rfl
@[simp] theorem State.setPlaza_awayPlazas (s : State) (p : Plaza) : (s.setPlaza p).awayPlazas = s.awayPlazas := rfl
@[simp] theorem State.setPlaza_fabricClock (s : State) (p : Plaza) : (s.setPlaza p).fabricClock = s.fabricClock := rfl
@[simp] theorem State.setPlaza_graphs (s : State) (p : Plaza) : (s.setPlaza p).graphs = s.graphs := rfl
@[simp] theorem State.setPlaza_graphRegs (s : State) (p : Plaza) : (s.setPlaza p).graphRegs = s.graphRegs := rfl
@[simp] theorem State.setPlaza_replays (s : State) (p : Plaza) : (s.setPlaza p).replays = s.replays := rfl
@[simp] theorem State.setPlaza_kicks (s : State) (p : Plaza) : (s.setPlaza p).kicks = s.kicks := rfl
@[simp] theorem State.setPlaza_kickEnds (s : State) (p : Plaza) : (s.setPlaza p).kickEnds = s.kickEnds := rfl
@[simp] theorem State.setPlaza_launches (s : State) (p : Plaza) : (s.setPlaza p).launches = s.launches := rfl
@[simp] theorem State.setPlaza_blocks (s : State) (p : Plaza) : (s.setPlaza p).blocks = s.blocks := rfl
@[simp] theorem State.setPlaza_xcache (s : State) (p : Plaza) : (s.setPlaza p).xcache = s.xcache := rfl
@[simp] theorem State.setPlaza_mx (s : State) (p : Plaza) : (s.setPlaza p).mx = s.mx := rfl
@[simp] theorem State.setPlaza_heldArrivals (s : State) (p : Plaza) : (s.setPlaza p).heldArrivals = s.heldArrivals := rfl
@[simp] theorem State.setPlaza_satNext (s : State) (p : Plaza) : (s.setPlaza p).satNext = s.satNext := rfl
@[simp] theorem State.setPlaza_peerWaits (s : State) (p : Plaza) : (s.setPlaza p).peerWaits = s.peerWaits := rfl
@[simp] theorem State.setPlaza_copies (s : State) (p : Plaza) : (s.setPlaza p).copies = s.copies := rfl
@[simp] theorem State.setPlaza_accs (s : State) (p : Plaza) : (s.setPlaza p).accs = s.accs := rfl
@[simp] theorem State.setPlaza_roundabout (s : State) (p : Plaza) : (s.setPlaza p).roundabout = s.roundabout := rfl
@[simp] theorem State.setPlaza_windows (s : State) (p : Plaza) : (s.setPlaza p).windows = s.windows := rfl
@[simp] theorem State.setPlaza_batches (s : State) (p : Plaza) : (s.setPlaza p).batches = s.batches := rfl
@[simp] theorem State.setPlaza_fibres (s : State) (p : Plaza) : (s.setPlaza p).fibres = s.fibres := rfl
@[simp] theorem State.setPlaza_nextId (s : State) (p : Plaza) : (s.setPlaza p).nextId = s.nextId := rfl
@[simp] theorem State.setPlaza_freeCount (s : State) (p : Plaza) : (s.setPlaza p).freeCount = s.freeCount := rfl
@[simp] theorem State.setPlaza_replies (s : State) (p : Plaza) : (s.setPlaza p).replies = s.replies := rfl
@[simp] theorem State.setPlaza_agenda (s : State) (p : Plaza) : (s.setPlaza p).agenda = s.agenda := rfl
@[simp] theorem State.setPlaza_cur (s : State) (p : Plaza) : (s.setPlaza p).cur = s.cur := rfl
@[simp] theorem State.setPlaza_starved (s : State) (p : Plaza) : (s.setPlaza p).starved = s.starved := rfl
@[simp] theorem State.setPlaza_away (s : State) (p : Plaza) : (s.setPlaza p).away = s.away := rfl

/-! State.reply changes replies alone. -/

@[simp] theorem State.reply_bar (s : State) (bs : List Byte) : (s.reply bs).bar = s.bar := rfl
@[simp] theorem State.reply_shortReach (s : State) (bs : List Byte) : (s.reply bs).shortReach = s.shortReach := rfl
@[simp] theorem State.reply_dev (s : State) (bs : List Byte) : (s.reply bs).dev = s.dev := rfl
@[simp] theorem State.reply_ports (s : State) (bs : List Byte) : (s.reply bs).ports = s.ports := rfl
@[simp] theorem State.reply_failedReplays (s : State) (bs : List Byte) : (s.reply bs).failedReplays = s.failedReplays := rfl
@[simp] theorem State.reply_paths (s : State) (bs : List Byte) : (s.reply bs).paths = s.paths := rfl
@[simp] theorem State.reply_routes (s : State) (bs : List Byte) : (s.reply bs).routes = s.routes := rfl
@[simp] theorem State.reply_image (s : State) (bs : List Byte) : (s.reply bs).image = s.image := rfl
@[simp] theorem State.reply_imageHash (s : State) (bs : List Byte) : (s.reply bs).imageHash = s.imageHash := rfl
@[simp] theorem State.reply_recordHash (s : State) (bs : List Byte) : (s.reply bs).recordHash = s.recordHash := rfl
@[simp] theorem State.reply_classes (s : State) (bs : List Byte) : (s.reply bs).classes = s.classes := rfl
@[simp] theorem State.reply_failedQuads (s : State) (bs : List Byte) : (s.reply bs).failedQuads = s.failedQuads := rfl
@[simp] theorem State.reply_mem (s : State) (bs : List Byte) : (s.reply bs).mem = s.mem := rfl
@[simp] theorem State.reply_hostMem (s : State) (bs : List Byte) : (s.reply bs).hostMem = s.hostMem := rfl
@[simp] theorem State.reply_spMem (s : State) (bs : List Byte) : (s.reply bs).spMem = s.spMem := rfl
@[simp] theorem State.reply_tbMem (s : State) (bs : List Byte) : (s.reply bs).tbMem = s.tbMem := rfl
@[simp] theorem State.reply_planeMem (s : State) (bs : List Byte) : (s.reply bs).planeMem = s.planeMem := rfl
@[simp] theorem State.reply_latched (s : State) (bs : List Byte) : (s.reply bs).latched = s.latched := rfl
@[simp] theorem State.reply_checks (s : State) (bs : List Byte) : (s.reply bs).checks = s.checks := rfl
@[simp] theorem State.reply_poison (s : State) (bs : List Byte) : (s.reply bs).poison = s.poison := rfl
@[simp] theorem State.reply_hostBias (s : State) (bs : List Byte) : (s.reply bs).hostBias = s.hostBias := rfl
@[simp] theorem State.reply_biasCmd (s : State) (bs : List Byte) : (s.reply bs).biasCmd = s.biasCmd := rfl
@[simp] theorem State.reply_hostLines (s : State) (bs : List Byte) : (s.reply bs).hostLines = s.hostLines := rfl
@[simp] theorem State.reply_snoops (s : State) (bs : List Byte) : (s.reply bs).snoops = s.snoops := rfl
@[simp] theorem State.reply_cxlLines (s : State) (bs : List Byte) : (s.reply bs).cxlLines = s.cxlLines := rfl
@[simp] theorem State.reply_l1 (s : State) (bs : List Byte) : (s.reply bs).l1 = s.l1 := rfl
@[simp] theorem State.reply_dir (s : State) (bs : List Byte) : (s.reply bs).dir = s.dir := rfl
@[simp] theorem State.reply_proxyDir (s : State) (bs : List Byte) : (s.reply bs).proxyDir = s.proxyDir := rfl
@[simp] theorem State.reply_fills (s : State) (bs : List Byte) : (s.reply bs).fills = s.fills := rfl
@[simp] theorem State.reply_gated (s : State) (bs : List Byte) : (s.reply bs).gated = s.gated := rfl
@[simp] theorem State.reply_records (s : State) (bs : List Byte) : (s.reply bs).records = s.records := rfl
@[simp] theorem State.reply_touched (s : State) (bs : List Byte) : (s.reply bs).touched = s.touched := rfl
@[simp] theorem State.reply_detectorFull (s : State) (bs : List Byte) : (s.reply bs).detectorFull = s.detectorFull := rfl
@[simp] theorem State.reply_tlb (s : State) (bs : List Byte) : (s.reply bs).tlb = s.tlb := rfl
@[simp] theorem State.reply_l1tlb (s : State) (bs : List Byte) : (s.reply bs).l1tlb = s.l1tlb := rfl
@[simp] theorem State.reply_ctxSeen (s : State) (bs : List Byte) : (s.reply bs).ctxSeen = s.ctxSeen := rfl
@[simp] theorem State.reply_tlbBusy (s : State) (bs : List Byte) : (s.reply bs).tlbBusy = s.tlbBusy := rfl
@[simp] theorem State.reply_tlbInv (s : State) (bs : List Byte) : (s.reply bs).tlbInv = s.tlbInv := rfl
@[simp] theorem State.reply_faults (s : State) (bs : List Byte) : (s.reply bs).faults = s.faults := rfl
@[simp] theorem State.reply_faultCount (s : State) (bs : List Byte) : (s.reply bs).faultCount = s.faultCount := rfl
@[simp] theorem State.reply_errors (s : State) (bs : List Byte) : (s.reply bs).errors = s.errors := rfl
@[simp] theorem State.reply_msix (s : State) (bs : List Byte) : (s.reply bs).msix = s.msix := rfl
@[simp] theorem State.reply_hostFaults (s : State) (bs : List Byte) : (s.reply bs).hostFaults = s.hostFaults := rfl
@[simp] theorem State.reply_bindings (s : State) (bs : List Byte) : (s.reply bs).bindings = s.bindings := rfl
@[simp] theorem State.reply_plazas (s : State) (bs : List Byte) : (s.reply bs).plazas = s.plazas := rfl
@[simp] theorem State.reply_wsLines (s : State) (bs : List Byte) : (s.reply bs).wsLines = s.wsLines := rfl
@[simp] theorem State.reply_awayPlazas (s : State) (bs : List Byte) : (s.reply bs).awayPlazas = s.awayPlazas := rfl
@[simp] theorem State.reply_fabricClock (s : State) (bs : List Byte) : (s.reply bs).fabricClock = s.fabricClock := rfl
@[simp] theorem State.reply_graphs (s : State) (bs : List Byte) : (s.reply bs).graphs = s.graphs := rfl
@[simp] theorem State.reply_graphRegs (s : State) (bs : List Byte) : (s.reply bs).graphRegs = s.graphRegs := rfl
@[simp] theorem State.reply_replays (s : State) (bs : List Byte) : (s.reply bs).replays = s.replays := rfl
@[simp] theorem State.reply_kicks (s : State) (bs : List Byte) : (s.reply bs).kicks = s.kicks := rfl
@[simp] theorem State.reply_kickEnds (s : State) (bs : List Byte) : (s.reply bs).kickEnds = s.kickEnds := rfl
@[simp] theorem State.reply_launches (s : State) (bs : List Byte) : (s.reply bs).launches = s.launches := rfl
@[simp] theorem State.reply_blocks (s : State) (bs : List Byte) : (s.reply bs).blocks = s.blocks := rfl
@[simp] theorem State.reply_xcache (s : State) (bs : List Byte) : (s.reply bs).xcache = s.xcache := rfl
@[simp] theorem State.reply_mx (s : State) (bs : List Byte) : (s.reply bs).mx = s.mx := rfl
@[simp] theorem State.reply_heldArrivals (s : State) (bs : List Byte) : (s.reply bs).heldArrivals = s.heldArrivals := rfl
@[simp] theorem State.reply_satNext (s : State) (bs : List Byte) : (s.reply bs).satNext = s.satNext := rfl
@[simp] theorem State.reply_peerWaits (s : State) (bs : List Byte) : (s.reply bs).peerWaits = s.peerWaits := rfl
@[simp] theorem State.reply_copies (s : State) (bs : List Byte) : (s.reply bs).copies = s.copies := rfl
@[simp] theorem State.reply_accs (s : State) (bs : List Byte) : (s.reply bs).accs = s.accs := rfl
@[simp] theorem State.reply_roundabout (s : State) (bs : List Byte) : (s.reply bs).roundabout = s.roundabout := rfl
@[simp] theorem State.reply_windows (s : State) (bs : List Byte) : (s.reply bs).windows = s.windows := rfl
@[simp] theorem State.reply_batches (s : State) (bs : List Byte) : (s.reply bs).batches = s.batches := rfl
@[simp] theorem State.reply_fibres (s : State) (bs : List Byte) : (s.reply bs).fibres = s.fibres := rfl
@[simp] theorem State.reply_nextId (s : State) (bs : List Byte) : (s.reply bs).nextId = s.nextId := rfl
@[simp] theorem State.reply_freeCount (s : State) (bs : List Byte) : (s.reply bs).freeCount = s.freeCount := rfl
@[simp] theorem State.reply_agenda (s : State) (bs : List Byte) : (s.reply bs).agenda = s.agenda := rfl
@[simp] theorem State.reply_cur (s : State) (bs : List Byte) : (s.reply bs).cur = s.cur := rfl
@[simp] theorem State.reply_starved (s : State) (bs : List Byte) : (s.reply bs).starved = s.starved := rfl
@[simp] theorem State.reply_away (s : State) (bs : List Byte) : (s.reply bs).away = s.away := rfl

/-! State.syncBit changes bar alone. -/

@[simp] theorem State.syncBit_shortReach (s : State) (n : Nat) (v : Bool) : (s.syncBit n v).shortReach = s.shortReach := rfl
@[simp] theorem State.syncBit_dev (s : State) (n : Nat) (v : Bool) : (s.syncBit n v).dev = s.dev := rfl
@[simp] theorem State.syncBit_ports (s : State) (n : Nat) (v : Bool) : (s.syncBit n v).ports = s.ports := rfl
@[simp] theorem State.syncBit_failedReplays (s : State) (n : Nat) (v : Bool) : (s.syncBit n v).failedReplays = s.failedReplays := rfl
@[simp] theorem State.syncBit_paths (s : State) (n : Nat) (v : Bool) : (s.syncBit n v).paths = s.paths := rfl
@[simp] theorem State.syncBit_routes (s : State) (n : Nat) (v : Bool) : (s.syncBit n v).routes = s.routes := rfl
@[simp] theorem State.syncBit_image (s : State) (n : Nat) (v : Bool) : (s.syncBit n v).image = s.image := rfl
@[simp] theorem State.syncBit_imageHash (s : State) (n : Nat) (v : Bool) : (s.syncBit n v).imageHash = s.imageHash := rfl
@[simp] theorem State.syncBit_recordHash (s : State) (n : Nat) (v : Bool) : (s.syncBit n v).recordHash = s.recordHash := rfl
@[simp] theorem State.syncBit_classes (s : State) (n : Nat) (v : Bool) : (s.syncBit n v).classes = s.classes := rfl
@[simp] theorem State.syncBit_failedQuads (s : State) (n : Nat) (v : Bool) : (s.syncBit n v).failedQuads = s.failedQuads := rfl
@[simp] theorem State.syncBit_mem (s : State) (n : Nat) (v : Bool) : (s.syncBit n v).mem = s.mem := rfl
@[simp] theorem State.syncBit_hostMem (s : State) (n : Nat) (v : Bool) : (s.syncBit n v).hostMem = s.hostMem := rfl
@[simp] theorem State.syncBit_spMem (s : State) (n : Nat) (v : Bool) : (s.syncBit n v).spMem = s.spMem := rfl
@[simp] theorem State.syncBit_tbMem (s : State) (n : Nat) (v : Bool) : (s.syncBit n v).tbMem = s.tbMem := rfl
@[simp] theorem State.syncBit_planeMem (s : State) (n : Nat) (v : Bool) : (s.syncBit n v).planeMem = s.planeMem := rfl
@[simp] theorem State.syncBit_latched (s : State) (n : Nat) (v : Bool) : (s.syncBit n v).latched = s.latched := rfl
@[simp] theorem State.syncBit_checks (s : State) (n : Nat) (v : Bool) : (s.syncBit n v).checks = s.checks := rfl
@[simp] theorem State.syncBit_poison (s : State) (n : Nat) (v : Bool) : (s.syncBit n v).poison = s.poison := rfl
@[simp] theorem State.syncBit_hostBias (s : State) (n : Nat) (v : Bool) : (s.syncBit n v).hostBias = s.hostBias := rfl
@[simp] theorem State.syncBit_biasCmd (s : State) (n : Nat) (v : Bool) : (s.syncBit n v).biasCmd = s.biasCmd := rfl
@[simp] theorem State.syncBit_hostLines (s : State) (n : Nat) (v : Bool) : (s.syncBit n v).hostLines = s.hostLines := rfl
@[simp] theorem State.syncBit_snoops (s : State) (n : Nat) (v : Bool) : (s.syncBit n v).snoops = s.snoops := rfl
@[simp] theorem State.syncBit_cxlLines (s : State) (n : Nat) (v : Bool) : (s.syncBit n v).cxlLines = s.cxlLines := rfl
@[simp] theorem State.syncBit_l1 (s : State) (n : Nat) (v : Bool) : (s.syncBit n v).l1 = s.l1 := rfl
@[simp] theorem State.syncBit_dir (s : State) (n : Nat) (v : Bool) : (s.syncBit n v).dir = s.dir := rfl
@[simp] theorem State.syncBit_proxyDir (s : State) (n : Nat) (v : Bool) : (s.syncBit n v).proxyDir = s.proxyDir := rfl
@[simp] theorem State.syncBit_fills (s : State) (n : Nat) (v : Bool) : (s.syncBit n v).fills = s.fills := rfl
@[simp] theorem State.syncBit_gated (s : State) (n : Nat) (v : Bool) : (s.syncBit n v).gated = s.gated := rfl
@[simp] theorem State.syncBit_records (s : State) (n : Nat) (v : Bool) : (s.syncBit n v).records = s.records := rfl
@[simp] theorem State.syncBit_touched (s : State) (n : Nat) (v : Bool) : (s.syncBit n v).touched = s.touched := rfl
@[simp] theorem State.syncBit_detectorFull (s : State) (n : Nat) (v : Bool) : (s.syncBit n v).detectorFull = s.detectorFull := rfl
@[simp] theorem State.syncBit_tlb (s : State) (n : Nat) (v : Bool) : (s.syncBit n v).tlb = s.tlb := rfl
@[simp] theorem State.syncBit_l1tlb (s : State) (n : Nat) (v : Bool) : (s.syncBit n v).l1tlb = s.l1tlb := rfl
@[simp] theorem State.syncBit_ctxSeen (s : State) (n : Nat) (v : Bool) : (s.syncBit n v).ctxSeen = s.ctxSeen := rfl
@[simp] theorem State.syncBit_tlbBusy (s : State) (n : Nat) (v : Bool) : (s.syncBit n v).tlbBusy = s.tlbBusy := rfl
@[simp] theorem State.syncBit_tlbInv (s : State) (n : Nat) (v : Bool) : (s.syncBit n v).tlbInv = s.tlbInv := rfl
@[simp] theorem State.syncBit_faults (s : State) (n : Nat) (v : Bool) : (s.syncBit n v).faults = s.faults := rfl
@[simp] theorem State.syncBit_faultCount (s : State) (n : Nat) (v : Bool) : (s.syncBit n v).faultCount = s.faultCount := rfl
@[simp] theorem State.syncBit_errors (s : State) (n : Nat) (v : Bool) : (s.syncBit n v).errors = s.errors := rfl
@[simp] theorem State.syncBit_msix (s : State) (n : Nat) (v : Bool) : (s.syncBit n v).msix = s.msix := rfl
@[simp] theorem State.syncBit_hostFaults (s : State) (n : Nat) (v : Bool) : (s.syncBit n v).hostFaults = s.hostFaults := rfl
@[simp] theorem State.syncBit_bindings (s : State) (n : Nat) (v : Bool) : (s.syncBit n v).bindings = s.bindings := rfl
@[simp] theorem State.syncBit_plazas (s : State) (n : Nat) (v : Bool) : (s.syncBit n v).plazas = s.plazas := rfl
@[simp] theorem State.syncBit_wsLines (s : State) (n : Nat) (v : Bool) : (s.syncBit n v).wsLines = s.wsLines := rfl
@[simp] theorem State.syncBit_awayPlazas (s : State) (n : Nat) (v : Bool) : (s.syncBit n v).awayPlazas = s.awayPlazas := rfl
@[simp] theorem State.syncBit_fabricClock (s : State) (n : Nat) (v : Bool) : (s.syncBit n v).fabricClock = s.fabricClock := rfl
@[simp] theorem State.syncBit_graphs (s : State) (n : Nat) (v : Bool) : (s.syncBit n v).graphs = s.graphs := rfl
@[simp] theorem State.syncBit_graphRegs (s : State) (n : Nat) (v : Bool) : (s.syncBit n v).graphRegs = s.graphRegs := rfl
@[simp] theorem State.syncBit_replays (s : State) (n : Nat) (v : Bool) : (s.syncBit n v).replays = s.replays := rfl
@[simp] theorem State.syncBit_kicks (s : State) (n : Nat) (v : Bool) : (s.syncBit n v).kicks = s.kicks := rfl
@[simp] theorem State.syncBit_kickEnds (s : State) (n : Nat) (v : Bool) : (s.syncBit n v).kickEnds = s.kickEnds := rfl
@[simp] theorem State.syncBit_launches (s : State) (n : Nat) (v : Bool) : (s.syncBit n v).launches = s.launches := rfl
@[simp] theorem State.syncBit_blocks (s : State) (n : Nat) (v : Bool) : (s.syncBit n v).blocks = s.blocks := rfl
@[simp] theorem State.syncBit_xcache (s : State) (n : Nat) (v : Bool) : (s.syncBit n v).xcache = s.xcache := rfl
@[simp] theorem State.syncBit_mx (s : State) (n : Nat) (v : Bool) : (s.syncBit n v).mx = s.mx := rfl
@[simp] theorem State.syncBit_heldArrivals (s : State) (n : Nat) (v : Bool) : (s.syncBit n v).heldArrivals = s.heldArrivals := rfl
@[simp] theorem State.syncBit_satNext (s : State) (n : Nat) (v : Bool) : (s.syncBit n v).satNext = s.satNext := rfl
@[simp] theorem State.syncBit_peerWaits (s : State) (n : Nat) (v : Bool) : (s.syncBit n v).peerWaits = s.peerWaits := rfl
@[simp] theorem State.syncBit_copies (s : State) (n : Nat) (v : Bool) : (s.syncBit n v).copies = s.copies := rfl
@[simp] theorem State.syncBit_accs (s : State) (n : Nat) (v : Bool) : (s.syncBit n v).accs = s.accs := rfl
@[simp] theorem State.syncBit_roundabout (s : State) (n : Nat) (v : Bool) : (s.syncBit n v).roundabout = s.roundabout := rfl
@[simp] theorem State.syncBit_windows (s : State) (n : Nat) (v : Bool) : (s.syncBit n v).windows = s.windows := rfl
@[simp] theorem State.syncBit_batches (s : State) (n : Nat) (v : Bool) : (s.syncBit n v).batches = s.batches := rfl
@[simp] theorem State.syncBit_fibres (s : State) (n : Nat) (v : Bool) : (s.syncBit n v).fibres = s.fibres := rfl
@[simp] theorem State.syncBit_nextId (s : State) (n : Nat) (v : Bool) : (s.syncBit n v).nextId = s.nextId := rfl
@[simp] theorem State.syncBit_freeCount (s : State) (n : Nat) (v : Bool) : (s.syncBit n v).freeCount = s.freeCount := rfl
@[simp] theorem State.syncBit_replies (s : State) (n : Nat) (v : Bool) : (s.syncBit n v).replies = s.replies := rfl
@[simp] theorem State.syncBit_agenda (s : State) (n : Nat) (v : Bool) : (s.syncBit n v).agenda = s.agenda := rfl
@[simp] theorem State.syncBit_cur (s : State) (n : Nat) (v : Bool) : (s.syncBit n v).cur = s.cur := rfl
@[simp] theorem State.syncBit_starved (s : State) (n : Nat) (v : Bool) : (s.syncBit n v).starved = s.starved := rfl
@[simp] theorem State.syncBit_away (s : State) (n : Nat) (v : Bool) : (s.syncBit n v).away = s.away := rfl

/-! State.setMx changes mx alone. -/

@[simp] theorem State.setMx_bar (s : State) (e : MxEntry) : (s.setMx e).bar = s.bar := rfl
@[simp] theorem State.setMx_shortReach (s : State) (e : MxEntry) : (s.setMx e).shortReach = s.shortReach := rfl
@[simp] theorem State.setMx_dev (s : State) (e : MxEntry) : (s.setMx e).dev = s.dev := rfl
@[simp] theorem State.setMx_ports (s : State) (e : MxEntry) : (s.setMx e).ports = s.ports := rfl
@[simp] theorem State.setMx_failedReplays (s : State) (e : MxEntry) : (s.setMx e).failedReplays = s.failedReplays := rfl
@[simp] theorem State.setMx_paths (s : State) (e : MxEntry) : (s.setMx e).paths = s.paths := rfl
@[simp] theorem State.setMx_routes (s : State) (e : MxEntry) : (s.setMx e).routes = s.routes := rfl
@[simp] theorem State.setMx_image (s : State) (e : MxEntry) : (s.setMx e).image = s.image := rfl
@[simp] theorem State.setMx_imageHash (s : State) (e : MxEntry) : (s.setMx e).imageHash = s.imageHash := rfl
@[simp] theorem State.setMx_recordHash (s : State) (e : MxEntry) : (s.setMx e).recordHash = s.recordHash := rfl
@[simp] theorem State.setMx_classes (s : State) (e : MxEntry) : (s.setMx e).classes = s.classes := rfl
@[simp] theorem State.setMx_failedQuads (s : State) (e : MxEntry) : (s.setMx e).failedQuads = s.failedQuads := rfl
@[simp] theorem State.setMx_mem (s : State) (e : MxEntry) : (s.setMx e).mem = s.mem := rfl
@[simp] theorem State.setMx_hostMem (s : State) (e : MxEntry) : (s.setMx e).hostMem = s.hostMem := rfl
@[simp] theorem State.setMx_spMem (s : State) (e : MxEntry) : (s.setMx e).spMem = s.spMem := rfl
@[simp] theorem State.setMx_tbMem (s : State) (e : MxEntry) : (s.setMx e).tbMem = s.tbMem := rfl
@[simp] theorem State.setMx_planeMem (s : State) (e : MxEntry) : (s.setMx e).planeMem = s.planeMem := rfl
@[simp] theorem State.setMx_latched (s : State) (e : MxEntry) : (s.setMx e).latched = s.latched := rfl
@[simp] theorem State.setMx_checks (s : State) (e : MxEntry) : (s.setMx e).checks = s.checks := rfl
@[simp] theorem State.setMx_poison (s : State) (e : MxEntry) : (s.setMx e).poison = s.poison := rfl
@[simp] theorem State.setMx_hostBias (s : State) (e : MxEntry) : (s.setMx e).hostBias = s.hostBias := rfl
@[simp] theorem State.setMx_biasCmd (s : State) (e : MxEntry) : (s.setMx e).biasCmd = s.biasCmd := rfl
@[simp] theorem State.setMx_hostLines (s : State) (e : MxEntry) : (s.setMx e).hostLines = s.hostLines := rfl
@[simp] theorem State.setMx_snoops (s : State) (e : MxEntry) : (s.setMx e).snoops = s.snoops := rfl
@[simp] theorem State.setMx_cxlLines (s : State) (e : MxEntry) : (s.setMx e).cxlLines = s.cxlLines := rfl
@[simp] theorem State.setMx_l1 (s : State) (e : MxEntry) : (s.setMx e).l1 = s.l1 := rfl
@[simp] theorem State.setMx_dir (s : State) (e : MxEntry) : (s.setMx e).dir = s.dir := rfl
@[simp] theorem State.setMx_proxyDir (s : State) (e : MxEntry) : (s.setMx e).proxyDir = s.proxyDir := rfl
@[simp] theorem State.setMx_fills (s : State) (e : MxEntry) : (s.setMx e).fills = s.fills := rfl
@[simp] theorem State.setMx_gated (s : State) (e : MxEntry) : (s.setMx e).gated = s.gated := rfl
@[simp] theorem State.setMx_records (s : State) (e : MxEntry) : (s.setMx e).records = s.records := rfl
@[simp] theorem State.setMx_touched (s : State) (e : MxEntry) : (s.setMx e).touched = s.touched := rfl
@[simp] theorem State.setMx_detectorFull (s : State) (e : MxEntry) : (s.setMx e).detectorFull = s.detectorFull := rfl
@[simp] theorem State.setMx_tlb (s : State) (e : MxEntry) : (s.setMx e).tlb = s.tlb := rfl
@[simp] theorem State.setMx_l1tlb (s : State) (e : MxEntry) : (s.setMx e).l1tlb = s.l1tlb := rfl
@[simp] theorem State.setMx_ctxSeen (s : State) (e : MxEntry) : (s.setMx e).ctxSeen = s.ctxSeen := rfl
@[simp] theorem State.setMx_tlbBusy (s : State) (e : MxEntry) : (s.setMx e).tlbBusy = s.tlbBusy := rfl
@[simp] theorem State.setMx_tlbInv (s : State) (e : MxEntry) : (s.setMx e).tlbInv = s.tlbInv := rfl
@[simp] theorem State.setMx_faults (s : State) (e : MxEntry) : (s.setMx e).faults = s.faults := rfl
@[simp] theorem State.setMx_faultCount (s : State) (e : MxEntry) : (s.setMx e).faultCount = s.faultCount := rfl
@[simp] theorem State.setMx_errors (s : State) (e : MxEntry) : (s.setMx e).errors = s.errors := rfl
@[simp] theorem State.setMx_msix (s : State) (e : MxEntry) : (s.setMx e).msix = s.msix := rfl
@[simp] theorem State.setMx_hostFaults (s : State) (e : MxEntry) : (s.setMx e).hostFaults = s.hostFaults := rfl
@[simp] theorem State.setMx_bindings (s : State) (e : MxEntry) : (s.setMx e).bindings = s.bindings := rfl
@[simp] theorem State.setMx_plazas (s : State) (e : MxEntry) : (s.setMx e).plazas = s.plazas := rfl
@[simp] theorem State.setMx_wsLines (s : State) (e : MxEntry) : (s.setMx e).wsLines = s.wsLines := rfl
@[simp] theorem State.setMx_awayPlazas (s : State) (e : MxEntry) : (s.setMx e).awayPlazas = s.awayPlazas := rfl
@[simp] theorem State.setMx_fabricClock (s : State) (e : MxEntry) : (s.setMx e).fabricClock = s.fabricClock := rfl
@[simp] theorem State.setMx_graphs (s : State) (e : MxEntry) : (s.setMx e).graphs = s.graphs := rfl
@[simp] theorem State.setMx_graphRegs (s : State) (e : MxEntry) : (s.setMx e).graphRegs = s.graphRegs := rfl
@[simp] theorem State.setMx_replays (s : State) (e : MxEntry) : (s.setMx e).replays = s.replays := rfl
@[simp] theorem State.setMx_kicks (s : State) (e : MxEntry) : (s.setMx e).kicks = s.kicks := rfl
@[simp] theorem State.setMx_kickEnds (s : State) (e : MxEntry) : (s.setMx e).kickEnds = s.kickEnds := rfl
@[simp] theorem State.setMx_launches (s : State) (e : MxEntry) : (s.setMx e).launches = s.launches := rfl
@[simp] theorem State.setMx_blocks (s : State) (e : MxEntry) : (s.setMx e).blocks = s.blocks := rfl
@[simp] theorem State.setMx_xcache (s : State) (e : MxEntry) : (s.setMx e).xcache = s.xcache := rfl
@[simp] theorem State.setMx_heldArrivals (s : State) (e : MxEntry) : (s.setMx e).heldArrivals = s.heldArrivals := rfl
@[simp] theorem State.setMx_satNext (s : State) (e : MxEntry) : (s.setMx e).satNext = s.satNext := rfl
@[simp] theorem State.setMx_peerWaits (s : State) (e : MxEntry) : (s.setMx e).peerWaits = s.peerWaits := rfl
@[simp] theorem State.setMx_copies (s : State) (e : MxEntry) : (s.setMx e).copies = s.copies := rfl
@[simp] theorem State.setMx_accs (s : State) (e : MxEntry) : (s.setMx e).accs = s.accs := rfl
@[simp] theorem State.setMx_roundabout (s : State) (e : MxEntry) : (s.setMx e).roundabout = s.roundabout := rfl
@[simp] theorem State.setMx_windows (s : State) (e : MxEntry) : (s.setMx e).windows = s.windows := rfl
@[simp] theorem State.setMx_batches (s : State) (e : MxEntry) : (s.setMx e).batches = s.batches := rfl
@[simp] theorem State.setMx_fibres (s : State) (e : MxEntry) : (s.setMx e).fibres = s.fibres := rfl
@[simp] theorem State.setMx_nextId (s : State) (e : MxEntry) : (s.setMx e).nextId = s.nextId := rfl
@[simp] theorem State.setMx_freeCount (s : State) (e : MxEntry) : (s.setMx e).freeCount = s.freeCount := rfl
@[simp] theorem State.setMx_replies (s : State) (e : MxEntry) : (s.setMx e).replies = s.replies := rfl
@[simp] theorem State.setMx_agenda (s : State) (e : MxEntry) : (s.setMx e).agenda = s.agenda := rfl
@[simp] theorem State.setMx_cur (s : State) (e : MxEntry) : (s.setMx e).cur = s.cur := rfl
@[simp] theorem State.setMx_starved (s : State) (e : MxEntry) : (s.setMx e).starved = s.starved := rfl
@[simp] theorem State.setMx_away (s : State) (e : MxEntry) : (s.setMx e).away = s.away := rfl

/-! State.setCopy changes copies alone. -/

@[simp] theorem State.setCopy_bar (s : State) (c : Copy) : (s.setCopy c).bar = s.bar := rfl
@[simp] theorem State.setCopy_shortReach (s : State) (c : Copy) : (s.setCopy c).shortReach = s.shortReach := rfl
@[simp] theorem State.setCopy_dev (s : State) (c : Copy) : (s.setCopy c).dev = s.dev := rfl
@[simp] theorem State.setCopy_ports (s : State) (c : Copy) : (s.setCopy c).ports = s.ports := rfl
@[simp] theorem State.setCopy_failedReplays (s : State) (c : Copy) : (s.setCopy c).failedReplays = s.failedReplays := rfl
@[simp] theorem State.setCopy_paths (s : State) (c : Copy) : (s.setCopy c).paths = s.paths := rfl
@[simp] theorem State.setCopy_routes (s : State) (c : Copy) : (s.setCopy c).routes = s.routes := rfl
@[simp] theorem State.setCopy_image (s : State) (c : Copy) : (s.setCopy c).image = s.image := rfl
@[simp] theorem State.setCopy_imageHash (s : State) (c : Copy) : (s.setCopy c).imageHash = s.imageHash := rfl
@[simp] theorem State.setCopy_recordHash (s : State) (c : Copy) : (s.setCopy c).recordHash = s.recordHash := rfl
@[simp] theorem State.setCopy_classes (s : State) (c : Copy) : (s.setCopy c).classes = s.classes := rfl
@[simp] theorem State.setCopy_failedQuads (s : State) (c : Copy) : (s.setCopy c).failedQuads = s.failedQuads := rfl
@[simp] theorem State.setCopy_mem (s : State) (c : Copy) : (s.setCopy c).mem = s.mem := rfl
@[simp] theorem State.setCopy_hostMem (s : State) (c : Copy) : (s.setCopy c).hostMem = s.hostMem := rfl
@[simp] theorem State.setCopy_spMem (s : State) (c : Copy) : (s.setCopy c).spMem = s.spMem := rfl
@[simp] theorem State.setCopy_tbMem (s : State) (c : Copy) : (s.setCopy c).tbMem = s.tbMem := rfl
@[simp] theorem State.setCopy_planeMem (s : State) (c : Copy) : (s.setCopy c).planeMem = s.planeMem := rfl
@[simp] theorem State.setCopy_latched (s : State) (c : Copy) : (s.setCopy c).latched = s.latched := rfl
@[simp] theorem State.setCopy_checks (s : State) (c : Copy) : (s.setCopy c).checks = s.checks := rfl
@[simp] theorem State.setCopy_poison (s : State) (c : Copy) : (s.setCopy c).poison = s.poison := rfl
@[simp] theorem State.setCopy_hostBias (s : State) (c : Copy) : (s.setCopy c).hostBias = s.hostBias := rfl
@[simp] theorem State.setCopy_biasCmd (s : State) (c : Copy) : (s.setCopy c).biasCmd = s.biasCmd := rfl
@[simp] theorem State.setCopy_hostLines (s : State) (c : Copy) : (s.setCopy c).hostLines = s.hostLines := rfl
@[simp] theorem State.setCopy_snoops (s : State) (c : Copy) : (s.setCopy c).snoops = s.snoops := rfl
@[simp] theorem State.setCopy_cxlLines (s : State) (c : Copy) : (s.setCopy c).cxlLines = s.cxlLines := rfl
@[simp] theorem State.setCopy_l1 (s : State) (c : Copy) : (s.setCopy c).l1 = s.l1 := rfl
@[simp] theorem State.setCopy_dir (s : State) (c : Copy) : (s.setCopy c).dir = s.dir := rfl
@[simp] theorem State.setCopy_proxyDir (s : State) (c : Copy) : (s.setCopy c).proxyDir = s.proxyDir := rfl
@[simp] theorem State.setCopy_fills (s : State) (c : Copy) : (s.setCopy c).fills = s.fills := rfl
@[simp] theorem State.setCopy_gated (s : State) (c : Copy) : (s.setCopy c).gated = s.gated := rfl
@[simp] theorem State.setCopy_records (s : State) (c : Copy) : (s.setCopy c).records = s.records := rfl
@[simp] theorem State.setCopy_touched (s : State) (c : Copy) : (s.setCopy c).touched = s.touched := rfl
@[simp] theorem State.setCopy_detectorFull (s : State) (c : Copy) : (s.setCopy c).detectorFull = s.detectorFull := rfl
@[simp] theorem State.setCopy_tlb (s : State) (c : Copy) : (s.setCopy c).tlb = s.tlb := rfl
@[simp] theorem State.setCopy_l1tlb (s : State) (c : Copy) : (s.setCopy c).l1tlb = s.l1tlb := rfl
@[simp] theorem State.setCopy_ctxSeen (s : State) (c : Copy) : (s.setCopy c).ctxSeen = s.ctxSeen := rfl
@[simp] theorem State.setCopy_tlbBusy (s : State) (c : Copy) : (s.setCopy c).tlbBusy = s.tlbBusy := rfl
@[simp] theorem State.setCopy_tlbInv (s : State) (c : Copy) : (s.setCopy c).tlbInv = s.tlbInv := rfl
@[simp] theorem State.setCopy_faults (s : State) (c : Copy) : (s.setCopy c).faults = s.faults := rfl
@[simp] theorem State.setCopy_faultCount (s : State) (c : Copy) : (s.setCopy c).faultCount = s.faultCount := rfl
@[simp] theorem State.setCopy_errors (s : State) (c : Copy) : (s.setCopy c).errors = s.errors := rfl
@[simp] theorem State.setCopy_msix (s : State) (c : Copy) : (s.setCopy c).msix = s.msix := rfl
@[simp] theorem State.setCopy_hostFaults (s : State) (c : Copy) : (s.setCopy c).hostFaults = s.hostFaults := rfl
@[simp] theorem State.setCopy_bindings (s : State) (c : Copy) : (s.setCopy c).bindings = s.bindings := rfl
@[simp] theorem State.setCopy_plazas (s : State) (c : Copy) : (s.setCopy c).plazas = s.plazas := rfl
@[simp] theorem State.setCopy_wsLines (s : State) (c : Copy) : (s.setCopy c).wsLines = s.wsLines := rfl
@[simp] theorem State.setCopy_awayPlazas (s : State) (c : Copy) : (s.setCopy c).awayPlazas = s.awayPlazas := rfl
@[simp] theorem State.setCopy_fabricClock (s : State) (c : Copy) : (s.setCopy c).fabricClock = s.fabricClock := rfl
@[simp] theorem State.setCopy_graphs (s : State) (c : Copy) : (s.setCopy c).graphs = s.graphs := rfl
@[simp] theorem State.setCopy_graphRegs (s : State) (c : Copy) : (s.setCopy c).graphRegs = s.graphRegs := rfl
@[simp] theorem State.setCopy_replays (s : State) (c : Copy) : (s.setCopy c).replays = s.replays := rfl
@[simp] theorem State.setCopy_kicks (s : State) (c : Copy) : (s.setCopy c).kicks = s.kicks := rfl
@[simp] theorem State.setCopy_kickEnds (s : State) (c : Copy) : (s.setCopy c).kickEnds = s.kickEnds := rfl
@[simp] theorem State.setCopy_launches (s : State) (c : Copy) : (s.setCopy c).launches = s.launches := rfl
@[simp] theorem State.setCopy_blocks (s : State) (c : Copy) : (s.setCopy c).blocks = s.blocks := rfl
@[simp] theorem State.setCopy_xcache (s : State) (c : Copy) : (s.setCopy c).xcache = s.xcache := rfl
@[simp] theorem State.setCopy_mx (s : State) (c : Copy) : (s.setCopy c).mx = s.mx := rfl
@[simp] theorem State.setCopy_heldArrivals (s : State) (c : Copy) : (s.setCopy c).heldArrivals = s.heldArrivals := rfl
@[simp] theorem State.setCopy_satNext (s : State) (c : Copy) : (s.setCopy c).satNext = s.satNext := rfl
@[simp] theorem State.setCopy_peerWaits (s : State) (c : Copy) : (s.setCopy c).peerWaits = s.peerWaits := rfl
@[simp] theorem State.setCopy_accs (s : State) (c : Copy) : (s.setCopy c).accs = s.accs := rfl
@[simp] theorem State.setCopy_roundabout (s : State) (c : Copy) : (s.setCopy c).roundabout = s.roundabout := rfl
@[simp] theorem State.setCopy_windows (s : State) (c : Copy) : (s.setCopy c).windows = s.windows := rfl
@[simp] theorem State.setCopy_batches (s : State) (c : Copy) : (s.setCopy c).batches = s.batches := rfl
@[simp] theorem State.setCopy_fibres (s : State) (c : Copy) : (s.setCopy c).fibres = s.fibres := rfl
@[simp] theorem State.setCopy_nextId (s : State) (c : Copy) : (s.setCopy c).nextId = s.nextId := rfl
@[simp] theorem State.setCopy_freeCount (s : State) (c : Copy) : (s.setCopy c).freeCount = s.freeCount := rfl
@[simp] theorem State.setCopy_replies (s : State) (c : Copy) : (s.setCopy c).replies = s.replies := rfl
@[simp] theorem State.setCopy_agenda (s : State) (c : Copy) : (s.setCopy c).agenda = s.agenda := rfl
@[simp] theorem State.setCopy_cur (s : State) (c : Copy) : (s.setCopy c).cur = s.cur := rfl
@[simp] theorem State.setCopy_starved (s : State) (c : Copy) : (s.setCopy c).starved = s.starved := rfl
@[simp] theorem State.setCopy_away (s : State) (c : Copy) : (s.setCopy c).away = s.away := rfl

/-! State.setL1 changes l1 alone. -/

@[simp] theorem State.setL1_bar (s : State) (x k : Nat) (v : L1) : (s.setL1 x k v).bar = s.bar := rfl
@[simp] theorem State.setL1_shortReach (s : State) (x k : Nat) (v : L1) : (s.setL1 x k v).shortReach = s.shortReach := rfl
@[simp] theorem State.setL1_dev (s : State) (x k : Nat) (v : L1) : (s.setL1 x k v).dev = s.dev := rfl
@[simp] theorem State.setL1_ports (s : State) (x k : Nat) (v : L1) : (s.setL1 x k v).ports = s.ports := rfl
@[simp] theorem State.setL1_failedReplays (s : State) (x k : Nat) (v : L1) : (s.setL1 x k v).failedReplays = s.failedReplays := rfl
@[simp] theorem State.setL1_paths (s : State) (x k : Nat) (v : L1) : (s.setL1 x k v).paths = s.paths := rfl
@[simp] theorem State.setL1_routes (s : State) (x k : Nat) (v : L1) : (s.setL1 x k v).routes = s.routes := rfl
@[simp] theorem State.setL1_image (s : State) (x k : Nat) (v : L1) : (s.setL1 x k v).image = s.image := rfl
@[simp] theorem State.setL1_imageHash (s : State) (x k : Nat) (v : L1) : (s.setL1 x k v).imageHash = s.imageHash := rfl
@[simp] theorem State.setL1_recordHash (s : State) (x k : Nat) (v : L1) : (s.setL1 x k v).recordHash = s.recordHash := rfl
@[simp] theorem State.setL1_classes (s : State) (x k : Nat) (v : L1) : (s.setL1 x k v).classes = s.classes := rfl
@[simp] theorem State.setL1_failedQuads (s : State) (x k : Nat) (v : L1) : (s.setL1 x k v).failedQuads = s.failedQuads := rfl
@[simp] theorem State.setL1_mem (s : State) (x k : Nat) (v : L1) : (s.setL1 x k v).mem = s.mem := rfl
@[simp] theorem State.setL1_hostMem (s : State) (x k : Nat) (v : L1) : (s.setL1 x k v).hostMem = s.hostMem := rfl
@[simp] theorem State.setL1_spMem (s : State) (x k : Nat) (v : L1) : (s.setL1 x k v).spMem = s.spMem := rfl
@[simp] theorem State.setL1_tbMem (s : State) (x k : Nat) (v : L1) : (s.setL1 x k v).tbMem = s.tbMem := rfl
@[simp] theorem State.setL1_planeMem (s : State) (x k : Nat) (v : L1) : (s.setL1 x k v).planeMem = s.planeMem := rfl
@[simp] theorem State.setL1_latched (s : State) (x k : Nat) (v : L1) : (s.setL1 x k v).latched = s.latched := rfl
@[simp] theorem State.setL1_checks (s : State) (x k : Nat) (v : L1) : (s.setL1 x k v).checks = s.checks := rfl
@[simp] theorem State.setL1_poison (s : State) (x k : Nat) (v : L1) : (s.setL1 x k v).poison = s.poison := rfl
@[simp] theorem State.setL1_hostBias (s : State) (x k : Nat) (v : L1) : (s.setL1 x k v).hostBias = s.hostBias := rfl
@[simp] theorem State.setL1_biasCmd (s : State) (x k : Nat) (v : L1) : (s.setL1 x k v).biasCmd = s.biasCmd := rfl
@[simp] theorem State.setL1_hostLines (s : State) (x k : Nat) (v : L1) : (s.setL1 x k v).hostLines = s.hostLines := rfl
@[simp] theorem State.setL1_snoops (s : State) (x k : Nat) (v : L1) : (s.setL1 x k v).snoops = s.snoops := rfl
@[simp] theorem State.setL1_cxlLines (s : State) (x k : Nat) (v : L1) : (s.setL1 x k v).cxlLines = s.cxlLines := rfl
@[simp] theorem State.setL1_dir (s : State) (x k : Nat) (v : L1) : (s.setL1 x k v).dir = s.dir := rfl
@[simp] theorem State.setL1_proxyDir (s : State) (x k : Nat) (v : L1) : (s.setL1 x k v).proxyDir = s.proxyDir := rfl
@[simp] theorem State.setL1_fills (s : State) (x k : Nat) (v : L1) : (s.setL1 x k v).fills = s.fills := rfl
@[simp] theorem State.setL1_gated (s : State) (x k : Nat) (v : L1) : (s.setL1 x k v).gated = s.gated := rfl
@[simp] theorem State.setL1_records (s : State) (x k : Nat) (v : L1) : (s.setL1 x k v).records = s.records := rfl
@[simp] theorem State.setL1_touched (s : State) (x k : Nat) (v : L1) : (s.setL1 x k v).touched = s.touched := rfl
@[simp] theorem State.setL1_detectorFull (s : State) (x k : Nat) (v : L1) : (s.setL1 x k v).detectorFull = s.detectorFull := rfl
@[simp] theorem State.setL1_tlb (s : State) (x k : Nat) (v : L1) : (s.setL1 x k v).tlb = s.tlb := rfl
@[simp] theorem State.setL1_l1tlb (s : State) (x k : Nat) (v : L1) : (s.setL1 x k v).l1tlb = s.l1tlb := rfl
@[simp] theorem State.setL1_ctxSeen (s : State) (x k : Nat) (v : L1) : (s.setL1 x k v).ctxSeen = s.ctxSeen := rfl
@[simp] theorem State.setL1_tlbBusy (s : State) (x k : Nat) (v : L1) : (s.setL1 x k v).tlbBusy = s.tlbBusy := rfl
@[simp] theorem State.setL1_tlbInv (s : State) (x k : Nat) (v : L1) : (s.setL1 x k v).tlbInv = s.tlbInv := rfl
@[simp] theorem State.setL1_faults (s : State) (x k : Nat) (v : L1) : (s.setL1 x k v).faults = s.faults := rfl
@[simp] theorem State.setL1_faultCount (s : State) (x k : Nat) (v : L1) : (s.setL1 x k v).faultCount = s.faultCount := rfl
@[simp] theorem State.setL1_errors (s : State) (x k : Nat) (v : L1) : (s.setL1 x k v).errors = s.errors := rfl
@[simp] theorem State.setL1_msix (s : State) (x k : Nat) (v : L1) : (s.setL1 x k v).msix = s.msix := rfl
@[simp] theorem State.setL1_hostFaults (s : State) (x k : Nat) (v : L1) : (s.setL1 x k v).hostFaults = s.hostFaults := rfl
@[simp] theorem State.setL1_bindings (s : State) (x k : Nat) (v : L1) : (s.setL1 x k v).bindings = s.bindings := rfl
@[simp] theorem State.setL1_plazas (s : State) (x k : Nat) (v : L1) : (s.setL1 x k v).plazas = s.plazas := rfl
@[simp] theorem State.setL1_wsLines (s : State) (x k : Nat) (v : L1) : (s.setL1 x k v).wsLines = s.wsLines := rfl
@[simp] theorem State.setL1_awayPlazas (s : State) (x k : Nat) (v : L1) : (s.setL1 x k v).awayPlazas = s.awayPlazas := rfl
@[simp] theorem State.setL1_fabricClock (s : State) (x k : Nat) (v : L1) : (s.setL1 x k v).fabricClock = s.fabricClock := rfl
@[simp] theorem State.setL1_graphs (s : State) (x k : Nat) (v : L1) : (s.setL1 x k v).graphs = s.graphs := rfl
@[simp] theorem State.setL1_graphRegs (s : State) (x k : Nat) (v : L1) : (s.setL1 x k v).graphRegs = s.graphRegs := rfl
@[simp] theorem State.setL1_replays (s : State) (x k : Nat) (v : L1) : (s.setL1 x k v).replays = s.replays := rfl
@[simp] theorem State.setL1_kicks (s : State) (x k : Nat) (v : L1) : (s.setL1 x k v).kicks = s.kicks := rfl
@[simp] theorem State.setL1_kickEnds (s : State) (x k : Nat) (v : L1) : (s.setL1 x k v).kickEnds = s.kickEnds := rfl
@[simp] theorem State.setL1_launches (s : State) (x k : Nat) (v : L1) : (s.setL1 x k v).launches = s.launches := rfl
@[simp] theorem State.setL1_blocks (s : State) (x k : Nat) (v : L1) : (s.setL1 x k v).blocks = s.blocks := rfl
@[simp] theorem State.setL1_xcache (s : State) (x k : Nat) (v : L1) : (s.setL1 x k v).xcache = s.xcache := rfl
@[simp] theorem State.setL1_mx (s : State) (x k : Nat) (v : L1) : (s.setL1 x k v).mx = s.mx := rfl
@[simp] theorem State.setL1_heldArrivals (s : State) (x k : Nat) (v : L1) : (s.setL1 x k v).heldArrivals = s.heldArrivals := rfl
@[simp] theorem State.setL1_satNext (s : State) (x k : Nat) (v : L1) : (s.setL1 x k v).satNext = s.satNext := rfl
@[simp] theorem State.setL1_peerWaits (s : State) (x k : Nat) (v : L1) : (s.setL1 x k v).peerWaits = s.peerWaits := rfl
@[simp] theorem State.setL1_copies (s : State) (x k : Nat) (v : L1) : (s.setL1 x k v).copies = s.copies := rfl
@[simp] theorem State.setL1_accs (s : State) (x k : Nat) (v : L1) : (s.setL1 x k v).accs = s.accs := rfl
@[simp] theorem State.setL1_roundabout (s : State) (x k : Nat) (v : L1) : (s.setL1 x k v).roundabout = s.roundabout := rfl
@[simp] theorem State.setL1_windows (s : State) (x k : Nat) (v : L1) : (s.setL1 x k v).windows = s.windows := rfl
@[simp] theorem State.setL1_batches (s : State) (x k : Nat) (v : L1) : (s.setL1 x k v).batches = s.batches := rfl
@[simp] theorem State.setL1_fibres (s : State) (x k : Nat) (v : L1) : (s.setL1 x k v).fibres = s.fibres := rfl
@[simp] theorem State.setL1_nextId (s : State) (x k : Nat) (v : L1) : (s.setL1 x k v).nextId = s.nextId := rfl
@[simp] theorem State.setL1_freeCount (s : State) (x k : Nat) (v : L1) : (s.setL1 x k v).freeCount = s.freeCount := rfl
@[simp] theorem State.setL1_replies (s : State) (x k : Nat) (v : L1) : (s.setL1 x k v).replies = s.replies := rfl
@[simp] theorem State.setL1_agenda (s : State) (x k : Nat) (v : L1) : (s.setL1 x k v).agenda = s.agenda := rfl
@[simp] theorem State.setL1_cur (s : State) (x k : Nat) (v : L1) : (s.setL1 x k v).cur = s.cur := rfl
@[simp] theorem State.setL1_starved (s : State) (x k : Nat) (v : L1) : (s.setL1 x k v).starved = s.starved := rfl
@[simp] theorem State.setL1_away (s : State) (x k : Nat) (v : L1) : (s.setL1 x k v).away = s.away := rfl

/-! State.killFills changes fills alone. -/

@[simp] theorem State.killFills_bar (s : State) (x k : Nat) : (s.killFills x k).bar = s.bar := rfl
@[simp] theorem State.killFills_shortReach (s : State) (x k : Nat) : (s.killFills x k).shortReach = s.shortReach := rfl
@[simp] theorem State.killFills_dev (s : State) (x k : Nat) : (s.killFills x k).dev = s.dev := rfl
@[simp] theorem State.killFills_ports (s : State) (x k : Nat) : (s.killFills x k).ports = s.ports := rfl
@[simp] theorem State.killFills_failedReplays (s : State) (x k : Nat) : (s.killFills x k).failedReplays = s.failedReplays := rfl
@[simp] theorem State.killFills_paths (s : State) (x k : Nat) : (s.killFills x k).paths = s.paths := rfl
@[simp] theorem State.killFills_routes (s : State) (x k : Nat) : (s.killFills x k).routes = s.routes := rfl
@[simp] theorem State.killFills_image (s : State) (x k : Nat) : (s.killFills x k).image = s.image := rfl
@[simp] theorem State.killFills_imageHash (s : State) (x k : Nat) : (s.killFills x k).imageHash = s.imageHash := rfl
@[simp] theorem State.killFills_recordHash (s : State) (x k : Nat) : (s.killFills x k).recordHash = s.recordHash := rfl
@[simp] theorem State.killFills_classes (s : State) (x k : Nat) : (s.killFills x k).classes = s.classes := rfl
@[simp] theorem State.killFills_failedQuads (s : State) (x k : Nat) : (s.killFills x k).failedQuads = s.failedQuads := rfl
@[simp] theorem State.killFills_mem (s : State) (x k : Nat) : (s.killFills x k).mem = s.mem := rfl
@[simp] theorem State.killFills_hostMem (s : State) (x k : Nat) : (s.killFills x k).hostMem = s.hostMem := rfl
@[simp] theorem State.killFills_spMem (s : State) (x k : Nat) : (s.killFills x k).spMem = s.spMem := rfl
@[simp] theorem State.killFills_tbMem (s : State) (x k : Nat) : (s.killFills x k).tbMem = s.tbMem := rfl
@[simp] theorem State.killFills_planeMem (s : State) (x k : Nat) : (s.killFills x k).planeMem = s.planeMem := rfl
@[simp] theorem State.killFills_latched (s : State) (x k : Nat) : (s.killFills x k).latched = s.latched := rfl
@[simp] theorem State.killFills_checks (s : State) (x k : Nat) : (s.killFills x k).checks = s.checks := rfl
@[simp] theorem State.killFills_poison (s : State) (x k : Nat) : (s.killFills x k).poison = s.poison := rfl
@[simp] theorem State.killFills_hostBias (s : State) (x k : Nat) : (s.killFills x k).hostBias = s.hostBias := rfl
@[simp] theorem State.killFills_biasCmd (s : State) (x k : Nat) : (s.killFills x k).biasCmd = s.biasCmd := rfl
@[simp] theorem State.killFills_hostLines (s : State) (x k : Nat) : (s.killFills x k).hostLines = s.hostLines := rfl
@[simp] theorem State.killFills_snoops (s : State) (x k : Nat) : (s.killFills x k).snoops = s.snoops := rfl
@[simp] theorem State.killFills_cxlLines (s : State) (x k : Nat) : (s.killFills x k).cxlLines = s.cxlLines := rfl
@[simp] theorem State.killFills_l1 (s : State) (x k : Nat) : (s.killFills x k).l1 = s.l1 := rfl
@[simp] theorem State.killFills_dir (s : State) (x k : Nat) : (s.killFills x k).dir = s.dir := rfl
@[simp] theorem State.killFills_proxyDir (s : State) (x k : Nat) : (s.killFills x k).proxyDir = s.proxyDir := rfl
@[simp] theorem State.killFills_gated (s : State) (x k : Nat) : (s.killFills x k).gated = s.gated := rfl
@[simp] theorem State.killFills_records (s : State) (x k : Nat) : (s.killFills x k).records = s.records := rfl
@[simp] theorem State.killFills_touched (s : State) (x k : Nat) : (s.killFills x k).touched = s.touched := rfl
@[simp] theorem State.killFills_detectorFull (s : State) (x k : Nat) : (s.killFills x k).detectorFull = s.detectorFull := rfl
@[simp] theorem State.killFills_tlb (s : State) (x k : Nat) : (s.killFills x k).tlb = s.tlb := rfl
@[simp] theorem State.killFills_l1tlb (s : State) (x k : Nat) : (s.killFills x k).l1tlb = s.l1tlb := rfl
@[simp] theorem State.killFills_ctxSeen (s : State) (x k : Nat) : (s.killFills x k).ctxSeen = s.ctxSeen := rfl
@[simp] theorem State.killFills_tlbBusy (s : State) (x k : Nat) : (s.killFills x k).tlbBusy = s.tlbBusy := rfl
@[simp] theorem State.killFills_tlbInv (s : State) (x k : Nat) : (s.killFills x k).tlbInv = s.tlbInv := rfl
@[simp] theorem State.killFills_faults (s : State) (x k : Nat) : (s.killFills x k).faults = s.faults := rfl
@[simp] theorem State.killFills_faultCount (s : State) (x k : Nat) : (s.killFills x k).faultCount = s.faultCount := rfl
@[simp] theorem State.killFills_errors (s : State) (x k : Nat) : (s.killFills x k).errors = s.errors := rfl
@[simp] theorem State.killFills_msix (s : State) (x k : Nat) : (s.killFills x k).msix = s.msix := rfl
@[simp] theorem State.killFills_hostFaults (s : State) (x k : Nat) : (s.killFills x k).hostFaults = s.hostFaults := rfl
@[simp] theorem State.killFills_bindings (s : State) (x k : Nat) : (s.killFills x k).bindings = s.bindings := rfl
@[simp] theorem State.killFills_plazas (s : State) (x k : Nat) : (s.killFills x k).plazas = s.plazas := rfl
@[simp] theorem State.killFills_wsLines (s : State) (x k : Nat) : (s.killFills x k).wsLines = s.wsLines := rfl
@[simp] theorem State.killFills_awayPlazas (s : State) (x k : Nat) : (s.killFills x k).awayPlazas = s.awayPlazas := rfl
@[simp] theorem State.killFills_fabricClock (s : State) (x k : Nat) : (s.killFills x k).fabricClock = s.fabricClock := rfl
@[simp] theorem State.killFills_graphs (s : State) (x k : Nat) : (s.killFills x k).graphs = s.graphs := rfl
@[simp] theorem State.killFills_graphRegs (s : State) (x k : Nat) : (s.killFills x k).graphRegs = s.graphRegs := rfl
@[simp] theorem State.killFills_replays (s : State) (x k : Nat) : (s.killFills x k).replays = s.replays := rfl
@[simp] theorem State.killFills_kicks (s : State) (x k : Nat) : (s.killFills x k).kicks = s.kicks := rfl
@[simp] theorem State.killFills_kickEnds (s : State) (x k : Nat) : (s.killFills x k).kickEnds = s.kickEnds := rfl
@[simp] theorem State.killFills_launches (s : State) (x k : Nat) : (s.killFills x k).launches = s.launches := rfl
@[simp] theorem State.killFills_blocks (s : State) (x k : Nat) : (s.killFills x k).blocks = s.blocks := rfl
@[simp] theorem State.killFills_xcache (s : State) (x k : Nat) : (s.killFills x k).xcache = s.xcache := rfl
@[simp] theorem State.killFills_mx (s : State) (x k : Nat) : (s.killFills x k).mx = s.mx := rfl
@[simp] theorem State.killFills_heldArrivals (s : State) (x k : Nat) : (s.killFills x k).heldArrivals = s.heldArrivals := rfl
@[simp] theorem State.killFills_satNext (s : State) (x k : Nat) : (s.killFills x k).satNext = s.satNext := rfl
@[simp] theorem State.killFills_peerWaits (s : State) (x k : Nat) : (s.killFills x k).peerWaits = s.peerWaits := rfl
@[simp] theorem State.killFills_copies (s : State) (x k : Nat) : (s.killFills x k).copies = s.copies := rfl
@[simp] theorem State.killFills_accs (s : State) (x k : Nat) : (s.killFills x k).accs = s.accs := rfl
@[simp] theorem State.killFills_roundabout (s : State) (x k : Nat) : (s.killFills x k).roundabout = s.roundabout := rfl
@[simp] theorem State.killFills_windows (s : State) (x k : Nat) : (s.killFills x k).windows = s.windows := rfl
@[simp] theorem State.killFills_batches (s : State) (x k : Nat) : (s.killFills x k).batches = s.batches := rfl
@[simp] theorem State.killFills_fibres (s : State) (x k : Nat) : (s.killFills x k).fibres = s.fibres := rfl
@[simp] theorem State.killFills_nextId (s : State) (x k : Nat) : (s.killFills x k).nextId = s.nextId := rfl
@[simp] theorem State.killFills_freeCount (s : State) (x k : Nat) : (s.killFills x k).freeCount = s.freeCount := rfl
@[simp] theorem State.killFills_replies (s : State) (x k : Nat) : (s.killFills x k).replies = s.replies := rfl
@[simp] theorem State.killFills_agenda (s : State) (x k : Nat) : (s.killFills x k).agenda = s.agenda := rfl
@[simp] theorem State.killFills_cur (s : State) (x k : Nat) : (s.killFills x k).cur = s.cur := rfl
@[simp] theorem State.killFills_starved (s : State) (x k : Nat) : (s.killFills x k).starved = s.starved := rfl
@[simp] theorem State.killFills_away (s : State) (x k : Nat) : (s.killFills x k).away = s.away := rfl

/-! State.setDir changes dir and proxyDir alone. -/

@[simp] theorem State.setDir_bar (s : State) (p : Option Nat) (e : DirEntry) : (s.setDir p e).bar = s.bar := by cases p <;> rfl
@[simp] theorem State.setDir_shortReach (s : State) (p : Option Nat) (e : DirEntry) : (s.setDir p e).shortReach = s.shortReach := by cases p <;> rfl
@[simp] theorem State.setDir_dev (s : State) (p : Option Nat) (e : DirEntry) : (s.setDir p e).dev = s.dev := by cases p <;> rfl
@[simp] theorem State.setDir_ports (s : State) (p : Option Nat) (e : DirEntry) : (s.setDir p e).ports = s.ports := by cases p <;> rfl
@[simp] theorem State.setDir_failedReplays (s : State) (p : Option Nat) (e : DirEntry) : (s.setDir p e).failedReplays = s.failedReplays := by cases p <;> rfl
@[simp] theorem State.setDir_paths (s : State) (p : Option Nat) (e : DirEntry) : (s.setDir p e).paths = s.paths := by cases p <;> rfl
@[simp] theorem State.setDir_routes (s : State) (p : Option Nat) (e : DirEntry) : (s.setDir p e).routes = s.routes := by cases p <;> rfl
@[simp] theorem State.setDir_image (s : State) (p : Option Nat) (e : DirEntry) : (s.setDir p e).image = s.image := by cases p <;> rfl
@[simp] theorem State.setDir_imageHash (s : State) (p : Option Nat) (e : DirEntry) : (s.setDir p e).imageHash = s.imageHash := by cases p <;> rfl
@[simp] theorem State.setDir_recordHash (s : State) (p : Option Nat) (e : DirEntry) : (s.setDir p e).recordHash = s.recordHash := by cases p <;> rfl
@[simp] theorem State.setDir_classes (s : State) (p : Option Nat) (e : DirEntry) : (s.setDir p e).classes = s.classes := by cases p <;> rfl
@[simp] theorem State.setDir_failedQuads (s : State) (p : Option Nat) (e : DirEntry) : (s.setDir p e).failedQuads = s.failedQuads := by cases p <;> rfl
@[simp] theorem State.setDir_mem (s : State) (p : Option Nat) (e : DirEntry) : (s.setDir p e).mem = s.mem := by cases p <;> rfl
@[simp] theorem State.setDir_hostMem (s : State) (p : Option Nat) (e : DirEntry) : (s.setDir p e).hostMem = s.hostMem := by cases p <;> rfl
@[simp] theorem State.setDir_spMem (s : State) (p : Option Nat) (e : DirEntry) : (s.setDir p e).spMem = s.spMem := by cases p <;> rfl
@[simp] theorem State.setDir_tbMem (s : State) (p : Option Nat) (e : DirEntry) : (s.setDir p e).tbMem = s.tbMem := by cases p <;> rfl
@[simp] theorem State.setDir_planeMem (s : State) (p : Option Nat) (e : DirEntry) : (s.setDir p e).planeMem = s.planeMem := by cases p <;> rfl
@[simp] theorem State.setDir_latched (s : State) (p : Option Nat) (e : DirEntry) : (s.setDir p e).latched = s.latched := by cases p <;> rfl
@[simp] theorem State.setDir_checks (s : State) (p : Option Nat) (e : DirEntry) : (s.setDir p e).checks = s.checks := by cases p <;> rfl
@[simp] theorem State.setDir_poison (s : State) (p : Option Nat) (e : DirEntry) : (s.setDir p e).poison = s.poison := by cases p <;> rfl
@[simp] theorem State.setDir_hostBias (s : State) (p : Option Nat) (e : DirEntry) : (s.setDir p e).hostBias = s.hostBias := by cases p <;> rfl
@[simp] theorem State.setDir_biasCmd (s : State) (p : Option Nat) (e : DirEntry) : (s.setDir p e).biasCmd = s.biasCmd := by cases p <;> rfl
@[simp] theorem State.setDir_hostLines (s : State) (p : Option Nat) (e : DirEntry) : (s.setDir p e).hostLines = s.hostLines := by cases p <;> rfl
@[simp] theorem State.setDir_snoops (s : State) (p : Option Nat) (e : DirEntry) : (s.setDir p e).snoops = s.snoops := by cases p <;> rfl
@[simp] theorem State.setDir_cxlLines (s : State) (p : Option Nat) (e : DirEntry) : (s.setDir p e).cxlLines = s.cxlLines := by cases p <;> rfl
@[simp] theorem State.setDir_l1 (s : State) (p : Option Nat) (e : DirEntry) : (s.setDir p e).l1 = s.l1 := by cases p <;> rfl
@[simp] theorem State.setDir_fills (s : State) (p : Option Nat) (e : DirEntry) : (s.setDir p e).fills = s.fills := by cases p <;> rfl
@[simp] theorem State.setDir_gated (s : State) (p : Option Nat) (e : DirEntry) : (s.setDir p e).gated = s.gated := by cases p <;> rfl
@[simp] theorem State.setDir_records (s : State) (p : Option Nat) (e : DirEntry) : (s.setDir p e).records = s.records := by cases p <;> rfl
@[simp] theorem State.setDir_touched (s : State) (p : Option Nat) (e : DirEntry) : (s.setDir p e).touched = s.touched := by cases p <;> rfl
@[simp] theorem State.setDir_detectorFull (s : State) (p : Option Nat) (e : DirEntry) : (s.setDir p e).detectorFull = s.detectorFull := by cases p <;> rfl
@[simp] theorem State.setDir_tlb (s : State) (p : Option Nat) (e : DirEntry) : (s.setDir p e).tlb = s.tlb := by cases p <;> rfl
@[simp] theorem State.setDir_l1tlb (s : State) (p : Option Nat) (e : DirEntry) : (s.setDir p e).l1tlb = s.l1tlb := by cases p <;> rfl
@[simp] theorem State.setDir_ctxSeen (s : State) (p : Option Nat) (e : DirEntry) : (s.setDir p e).ctxSeen = s.ctxSeen := by cases p <;> rfl
@[simp] theorem State.setDir_tlbBusy (s : State) (p : Option Nat) (e : DirEntry) : (s.setDir p e).tlbBusy = s.tlbBusy := by cases p <;> rfl
@[simp] theorem State.setDir_tlbInv (s : State) (p : Option Nat) (e : DirEntry) : (s.setDir p e).tlbInv = s.tlbInv := by cases p <;> rfl
@[simp] theorem State.setDir_faults (s : State) (p : Option Nat) (e : DirEntry) : (s.setDir p e).faults = s.faults := by cases p <;> rfl
@[simp] theorem State.setDir_faultCount (s : State) (p : Option Nat) (e : DirEntry) : (s.setDir p e).faultCount = s.faultCount := by cases p <;> rfl
@[simp] theorem State.setDir_errors (s : State) (p : Option Nat) (e : DirEntry) : (s.setDir p e).errors = s.errors := by cases p <;> rfl
@[simp] theorem State.setDir_msix (s : State) (p : Option Nat) (e : DirEntry) : (s.setDir p e).msix = s.msix := by cases p <;> rfl
@[simp] theorem State.setDir_hostFaults (s : State) (p : Option Nat) (e : DirEntry) : (s.setDir p e).hostFaults = s.hostFaults := by cases p <;> rfl
@[simp] theorem State.setDir_bindings (s : State) (p : Option Nat) (e : DirEntry) : (s.setDir p e).bindings = s.bindings := by cases p <;> rfl
@[simp] theorem State.setDir_plazas (s : State) (p : Option Nat) (e : DirEntry) : (s.setDir p e).plazas = s.plazas := by cases p <;> rfl
@[simp] theorem State.setDir_wsLines (s : State) (p : Option Nat) (e : DirEntry) : (s.setDir p e).wsLines = s.wsLines := by cases p <;> rfl
@[simp] theorem State.setDir_awayPlazas (s : State) (p : Option Nat) (e : DirEntry) : (s.setDir p e).awayPlazas = s.awayPlazas := by cases p <;> rfl
@[simp] theorem State.setDir_fabricClock (s : State) (p : Option Nat) (e : DirEntry) : (s.setDir p e).fabricClock = s.fabricClock := by cases p <;> rfl
@[simp] theorem State.setDir_graphs (s : State) (p : Option Nat) (e : DirEntry) : (s.setDir p e).graphs = s.graphs := by cases p <;> rfl
@[simp] theorem State.setDir_graphRegs (s : State) (p : Option Nat) (e : DirEntry) : (s.setDir p e).graphRegs = s.graphRegs := by cases p <;> rfl
@[simp] theorem State.setDir_replays (s : State) (p : Option Nat) (e : DirEntry) : (s.setDir p e).replays = s.replays := by cases p <;> rfl
@[simp] theorem State.setDir_kicks (s : State) (p : Option Nat) (e : DirEntry) : (s.setDir p e).kicks = s.kicks := by cases p <;> rfl
@[simp] theorem State.setDir_kickEnds (s : State) (p : Option Nat) (e : DirEntry) : (s.setDir p e).kickEnds = s.kickEnds := by cases p <;> rfl
@[simp] theorem State.setDir_launches (s : State) (p : Option Nat) (e : DirEntry) : (s.setDir p e).launches = s.launches := by cases p <;> rfl
@[simp] theorem State.setDir_blocks (s : State) (p : Option Nat) (e : DirEntry) : (s.setDir p e).blocks = s.blocks := by cases p <;> rfl
@[simp] theorem State.setDir_xcache (s : State) (p : Option Nat) (e : DirEntry) : (s.setDir p e).xcache = s.xcache := by cases p <;> rfl
@[simp] theorem State.setDir_mx (s : State) (p : Option Nat) (e : DirEntry) : (s.setDir p e).mx = s.mx := by cases p <;> rfl
@[simp] theorem State.setDir_heldArrivals (s : State) (p : Option Nat) (e : DirEntry) : (s.setDir p e).heldArrivals = s.heldArrivals := by cases p <;> rfl
@[simp] theorem State.setDir_satNext (s : State) (p : Option Nat) (e : DirEntry) : (s.setDir p e).satNext = s.satNext := by cases p <;> rfl
@[simp] theorem State.setDir_peerWaits (s : State) (p : Option Nat) (e : DirEntry) : (s.setDir p e).peerWaits = s.peerWaits := by cases p <;> rfl
@[simp] theorem State.setDir_copies (s : State) (p : Option Nat) (e : DirEntry) : (s.setDir p e).copies = s.copies := by cases p <;> rfl
@[simp] theorem State.setDir_accs (s : State) (p : Option Nat) (e : DirEntry) : (s.setDir p e).accs = s.accs := by cases p <;> rfl
@[simp] theorem State.setDir_roundabout (s : State) (p : Option Nat) (e : DirEntry) : (s.setDir p e).roundabout = s.roundabout := by cases p <;> rfl
@[simp] theorem State.setDir_windows (s : State) (p : Option Nat) (e : DirEntry) : (s.setDir p e).windows = s.windows := by cases p <;> rfl
@[simp] theorem State.setDir_batches (s : State) (p : Option Nat) (e : DirEntry) : (s.setDir p e).batches = s.batches := by cases p <;> rfl
@[simp] theorem State.setDir_fibres (s : State) (p : Option Nat) (e : DirEntry) : (s.setDir p e).fibres = s.fibres := by cases p <;> rfl
@[simp] theorem State.setDir_nextId (s : State) (p : Option Nat) (e : DirEntry) : (s.setDir p e).nextId = s.nextId := by cases p <;> rfl
@[simp] theorem State.setDir_freeCount (s : State) (p : Option Nat) (e : DirEntry) : (s.setDir p e).freeCount = s.freeCount := by cases p <;> rfl
@[simp] theorem State.setDir_replies (s : State) (p : Option Nat) (e : DirEntry) : (s.setDir p e).replies = s.replies := by cases p <;> rfl
@[simp] theorem State.setDir_agenda (s : State) (p : Option Nat) (e : DirEntry) : (s.setDir p e).agenda = s.agenda := by cases p <;> rfl
@[simp] theorem State.setDir_cur (s : State) (p : Option Nat) (e : DirEntry) : (s.setDir p e).cur = s.cur := by cases p <;> rfl
@[simp] theorem State.setDir_starved (s : State) (p : Option Nat) (e : DirEntry) : (s.setDir p e).starved = s.starved := by cases p <;> rfl
@[simp] theorem State.setDir_away (s : State) (p : Option Nat) (e : DirEntry) : (s.setDir p e).away = s.away := by cases p <;> rfl

/-! State.fed changes starved alone. -/

@[simp] theorem State.fed_bar (s : State) (n : Nat) : (s.fed n).bar = s.bar := rfl
@[simp] theorem State.fed_shortReach (s : State) (n : Nat) : (s.fed n).shortReach = s.shortReach := rfl
@[simp] theorem State.fed_dev (s : State) (n : Nat) : (s.fed n).dev = s.dev := rfl
@[simp] theorem State.fed_ports (s : State) (n : Nat) : (s.fed n).ports = s.ports := rfl
@[simp] theorem State.fed_failedReplays (s : State) (n : Nat) : (s.fed n).failedReplays = s.failedReplays := rfl
@[simp] theorem State.fed_paths (s : State) (n : Nat) : (s.fed n).paths = s.paths := rfl
@[simp] theorem State.fed_routes (s : State) (n : Nat) : (s.fed n).routes = s.routes := rfl
@[simp] theorem State.fed_image (s : State) (n : Nat) : (s.fed n).image = s.image := rfl
@[simp] theorem State.fed_imageHash (s : State) (n : Nat) : (s.fed n).imageHash = s.imageHash := rfl
@[simp] theorem State.fed_recordHash (s : State) (n : Nat) : (s.fed n).recordHash = s.recordHash := rfl
@[simp] theorem State.fed_classes (s : State) (n : Nat) : (s.fed n).classes = s.classes := rfl
@[simp] theorem State.fed_failedQuads (s : State) (n : Nat) : (s.fed n).failedQuads = s.failedQuads := rfl
@[simp] theorem State.fed_mem (s : State) (n : Nat) : (s.fed n).mem = s.mem := rfl
@[simp] theorem State.fed_hostMem (s : State) (n : Nat) : (s.fed n).hostMem = s.hostMem := rfl
@[simp] theorem State.fed_spMem (s : State) (n : Nat) : (s.fed n).spMem = s.spMem := rfl
@[simp] theorem State.fed_tbMem (s : State) (n : Nat) : (s.fed n).tbMem = s.tbMem := rfl
@[simp] theorem State.fed_planeMem (s : State) (n : Nat) : (s.fed n).planeMem = s.planeMem := rfl
@[simp] theorem State.fed_latched (s : State) (n : Nat) : (s.fed n).latched = s.latched := rfl
@[simp] theorem State.fed_checks (s : State) (n : Nat) : (s.fed n).checks = s.checks := rfl
@[simp] theorem State.fed_poison (s : State) (n : Nat) : (s.fed n).poison = s.poison := rfl
@[simp] theorem State.fed_hostBias (s : State) (n : Nat) : (s.fed n).hostBias = s.hostBias := rfl
@[simp] theorem State.fed_biasCmd (s : State) (n : Nat) : (s.fed n).biasCmd = s.biasCmd := rfl
@[simp] theorem State.fed_hostLines (s : State) (n : Nat) : (s.fed n).hostLines = s.hostLines := rfl
@[simp] theorem State.fed_snoops (s : State) (n : Nat) : (s.fed n).snoops = s.snoops := rfl
@[simp] theorem State.fed_cxlLines (s : State) (n : Nat) : (s.fed n).cxlLines = s.cxlLines := rfl
@[simp] theorem State.fed_l1 (s : State) (n : Nat) : (s.fed n).l1 = s.l1 := rfl
@[simp] theorem State.fed_dir (s : State) (n : Nat) : (s.fed n).dir = s.dir := rfl
@[simp] theorem State.fed_proxyDir (s : State) (n : Nat) : (s.fed n).proxyDir = s.proxyDir := rfl
@[simp] theorem State.fed_fills (s : State) (n : Nat) : (s.fed n).fills = s.fills := rfl
@[simp] theorem State.fed_gated (s : State) (n : Nat) : (s.fed n).gated = s.gated := rfl
@[simp] theorem State.fed_records (s : State) (n : Nat) : (s.fed n).records = s.records := rfl
@[simp] theorem State.fed_touched (s : State) (n : Nat) : (s.fed n).touched = s.touched := rfl
@[simp] theorem State.fed_detectorFull (s : State) (n : Nat) : (s.fed n).detectorFull = s.detectorFull := rfl
@[simp] theorem State.fed_tlb (s : State) (n : Nat) : (s.fed n).tlb = s.tlb := rfl
@[simp] theorem State.fed_l1tlb (s : State) (n : Nat) : (s.fed n).l1tlb = s.l1tlb := rfl
@[simp] theorem State.fed_ctxSeen (s : State) (n : Nat) : (s.fed n).ctxSeen = s.ctxSeen := rfl
@[simp] theorem State.fed_tlbBusy (s : State) (n : Nat) : (s.fed n).tlbBusy = s.tlbBusy := rfl
@[simp] theorem State.fed_tlbInv (s : State) (n : Nat) : (s.fed n).tlbInv = s.tlbInv := rfl
@[simp] theorem State.fed_faults (s : State) (n : Nat) : (s.fed n).faults = s.faults := rfl
@[simp] theorem State.fed_faultCount (s : State) (n : Nat) : (s.fed n).faultCount = s.faultCount := rfl
@[simp] theorem State.fed_errors (s : State) (n : Nat) : (s.fed n).errors = s.errors := rfl
@[simp] theorem State.fed_msix (s : State) (n : Nat) : (s.fed n).msix = s.msix := rfl
@[simp] theorem State.fed_hostFaults (s : State) (n : Nat) : (s.fed n).hostFaults = s.hostFaults := rfl
@[simp] theorem State.fed_bindings (s : State) (n : Nat) : (s.fed n).bindings = s.bindings := rfl
@[simp] theorem State.fed_plazas (s : State) (n : Nat) : (s.fed n).plazas = s.plazas := rfl
@[simp] theorem State.fed_wsLines (s : State) (n : Nat) : (s.fed n).wsLines = s.wsLines := rfl
@[simp] theorem State.fed_awayPlazas (s : State) (n : Nat) : (s.fed n).awayPlazas = s.awayPlazas := rfl
@[simp] theorem State.fed_fabricClock (s : State) (n : Nat) : (s.fed n).fabricClock = s.fabricClock := rfl
@[simp] theorem State.fed_graphs (s : State) (n : Nat) : (s.fed n).graphs = s.graphs := rfl
@[simp] theorem State.fed_graphRegs (s : State) (n : Nat) : (s.fed n).graphRegs = s.graphRegs := rfl
@[simp] theorem State.fed_replays (s : State) (n : Nat) : (s.fed n).replays = s.replays := rfl
@[simp] theorem State.fed_kicks (s : State) (n : Nat) : (s.fed n).kicks = s.kicks := rfl
@[simp] theorem State.fed_kickEnds (s : State) (n : Nat) : (s.fed n).kickEnds = s.kickEnds := rfl
@[simp] theorem State.fed_launches (s : State) (n : Nat) : (s.fed n).launches = s.launches := rfl
@[simp] theorem State.fed_blocks (s : State) (n : Nat) : (s.fed n).blocks = s.blocks := rfl
@[simp] theorem State.fed_xcache (s : State) (n : Nat) : (s.fed n).xcache = s.xcache := rfl
@[simp] theorem State.fed_mx (s : State) (n : Nat) : (s.fed n).mx = s.mx := rfl
@[simp] theorem State.fed_heldArrivals (s : State) (n : Nat) : (s.fed n).heldArrivals = s.heldArrivals := rfl
@[simp] theorem State.fed_satNext (s : State) (n : Nat) : (s.fed n).satNext = s.satNext := rfl
@[simp] theorem State.fed_peerWaits (s : State) (n : Nat) : (s.fed n).peerWaits = s.peerWaits := rfl
@[simp] theorem State.fed_copies (s : State) (n : Nat) : (s.fed n).copies = s.copies := rfl
@[simp] theorem State.fed_accs (s : State) (n : Nat) : (s.fed n).accs = s.accs := rfl
@[simp] theorem State.fed_roundabout (s : State) (n : Nat) : (s.fed n).roundabout = s.roundabout := rfl
@[simp] theorem State.fed_windows (s : State) (n : Nat) : (s.fed n).windows = s.windows := rfl
@[simp] theorem State.fed_batches (s : State) (n : Nat) : (s.fed n).batches = s.batches := rfl
@[simp] theorem State.fed_fibres (s : State) (n : Nat) : (s.fed n).fibres = s.fibres := rfl
@[simp] theorem State.fed_nextId (s : State) (n : Nat) : (s.fed n).nextId = s.nextId := rfl
@[simp] theorem State.fed_freeCount (s : State) (n : Nat) : (s.fed n).freeCount = s.freeCount := rfl
@[simp] theorem State.fed_replies (s : State) (n : Nat) : (s.fed n).replies = s.replies := rfl
@[simp] theorem State.fed_agenda (s : State) (n : Nat) : (s.fed n).agenda = s.agenda := rfl
@[simp] theorem State.fed_cur (s : State) (n : Nat) : (s.fed n).cur = s.cur := rfl
@[simp] theorem State.fed_away (s : State) (n : Nat) : (s.fed n).away = s.away := rfl

/-! State.goLast changes fibres alone. -/

@[simp] theorem State.goLast_bar (s : State) (n : Nat) : (s.goLast n).bar = s.bar := rfl
@[simp] theorem State.goLast_shortReach (s : State) (n : Nat) : (s.goLast n).shortReach = s.shortReach := rfl
@[simp] theorem State.goLast_dev (s : State) (n : Nat) : (s.goLast n).dev = s.dev := rfl
@[simp] theorem State.goLast_ports (s : State) (n : Nat) : (s.goLast n).ports = s.ports := rfl
@[simp] theorem State.goLast_failedReplays (s : State) (n : Nat) : (s.goLast n).failedReplays = s.failedReplays := rfl
@[simp] theorem State.goLast_paths (s : State) (n : Nat) : (s.goLast n).paths = s.paths := rfl
@[simp] theorem State.goLast_routes (s : State) (n : Nat) : (s.goLast n).routes = s.routes := rfl
@[simp] theorem State.goLast_image (s : State) (n : Nat) : (s.goLast n).image = s.image := rfl
@[simp] theorem State.goLast_imageHash (s : State) (n : Nat) : (s.goLast n).imageHash = s.imageHash := rfl
@[simp] theorem State.goLast_recordHash (s : State) (n : Nat) : (s.goLast n).recordHash = s.recordHash := rfl
@[simp] theorem State.goLast_classes (s : State) (n : Nat) : (s.goLast n).classes = s.classes := rfl
@[simp] theorem State.goLast_failedQuads (s : State) (n : Nat) : (s.goLast n).failedQuads = s.failedQuads := rfl
@[simp] theorem State.goLast_mem (s : State) (n : Nat) : (s.goLast n).mem = s.mem := rfl
@[simp] theorem State.goLast_hostMem (s : State) (n : Nat) : (s.goLast n).hostMem = s.hostMem := rfl
@[simp] theorem State.goLast_spMem (s : State) (n : Nat) : (s.goLast n).spMem = s.spMem := rfl
@[simp] theorem State.goLast_tbMem (s : State) (n : Nat) : (s.goLast n).tbMem = s.tbMem := rfl
@[simp] theorem State.goLast_planeMem (s : State) (n : Nat) : (s.goLast n).planeMem = s.planeMem := rfl
@[simp] theorem State.goLast_latched (s : State) (n : Nat) : (s.goLast n).latched = s.latched := rfl
@[simp] theorem State.goLast_checks (s : State) (n : Nat) : (s.goLast n).checks = s.checks := rfl
@[simp] theorem State.goLast_poison (s : State) (n : Nat) : (s.goLast n).poison = s.poison := rfl
@[simp] theorem State.goLast_hostBias (s : State) (n : Nat) : (s.goLast n).hostBias = s.hostBias := rfl
@[simp] theorem State.goLast_biasCmd (s : State) (n : Nat) : (s.goLast n).biasCmd = s.biasCmd := rfl
@[simp] theorem State.goLast_hostLines (s : State) (n : Nat) : (s.goLast n).hostLines = s.hostLines := rfl
@[simp] theorem State.goLast_snoops (s : State) (n : Nat) : (s.goLast n).snoops = s.snoops := rfl
@[simp] theorem State.goLast_cxlLines (s : State) (n : Nat) : (s.goLast n).cxlLines = s.cxlLines := rfl
@[simp] theorem State.goLast_l1 (s : State) (n : Nat) : (s.goLast n).l1 = s.l1 := rfl
@[simp] theorem State.goLast_dir (s : State) (n : Nat) : (s.goLast n).dir = s.dir := rfl
@[simp] theorem State.goLast_proxyDir (s : State) (n : Nat) : (s.goLast n).proxyDir = s.proxyDir := rfl
@[simp] theorem State.goLast_fills (s : State) (n : Nat) : (s.goLast n).fills = s.fills := rfl
@[simp] theorem State.goLast_gated (s : State) (n : Nat) : (s.goLast n).gated = s.gated := rfl
@[simp] theorem State.goLast_records (s : State) (n : Nat) : (s.goLast n).records = s.records := rfl
@[simp] theorem State.goLast_touched (s : State) (n : Nat) : (s.goLast n).touched = s.touched := rfl
@[simp] theorem State.goLast_detectorFull (s : State) (n : Nat) : (s.goLast n).detectorFull = s.detectorFull := rfl
@[simp] theorem State.goLast_tlb (s : State) (n : Nat) : (s.goLast n).tlb = s.tlb := rfl
@[simp] theorem State.goLast_l1tlb (s : State) (n : Nat) : (s.goLast n).l1tlb = s.l1tlb := rfl
@[simp] theorem State.goLast_ctxSeen (s : State) (n : Nat) : (s.goLast n).ctxSeen = s.ctxSeen := rfl
@[simp] theorem State.goLast_tlbBusy (s : State) (n : Nat) : (s.goLast n).tlbBusy = s.tlbBusy := rfl
@[simp] theorem State.goLast_tlbInv (s : State) (n : Nat) : (s.goLast n).tlbInv = s.tlbInv := rfl
@[simp] theorem State.goLast_faults (s : State) (n : Nat) : (s.goLast n).faults = s.faults := rfl
@[simp] theorem State.goLast_faultCount (s : State) (n : Nat) : (s.goLast n).faultCount = s.faultCount := rfl
@[simp] theorem State.goLast_errors (s : State) (n : Nat) : (s.goLast n).errors = s.errors := rfl
@[simp] theorem State.goLast_msix (s : State) (n : Nat) : (s.goLast n).msix = s.msix := rfl
@[simp] theorem State.goLast_hostFaults (s : State) (n : Nat) : (s.goLast n).hostFaults = s.hostFaults := rfl
@[simp] theorem State.goLast_bindings (s : State) (n : Nat) : (s.goLast n).bindings = s.bindings := rfl
@[simp] theorem State.goLast_plazas (s : State) (n : Nat) : (s.goLast n).plazas = s.plazas := rfl
@[simp] theorem State.goLast_wsLines (s : State) (n : Nat) : (s.goLast n).wsLines = s.wsLines := rfl
@[simp] theorem State.goLast_awayPlazas (s : State) (n : Nat) : (s.goLast n).awayPlazas = s.awayPlazas := rfl
@[simp] theorem State.goLast_fabricClock (s : State) (n : Nat) : (s.goLast n).fabricClock = s.fabricClock := rfl
@[simp] theorem State.goLast_graphs (s : State) (n : Nat) : (s.goLast n).graphs = s.graphs := rfl
@[simp] theorem State.goLast_graphRegs (s : State) (n : Nat) : (s.goLast n).graphRegs = s.graphRegs := rfl
@[simp] theorem State.goLast_replays (s : State) (n : Nat) : (s.goLast n).replays = s.replays := rfl
@[simp] theorem State.goLast_kicks (s : State) (n : Nat) : (s.goLast n).kicks = s.kicks := rfl
@[simp] theorem State.goLast_kickEnds (s : State) (n : Nat) : (s.goLast n).kickEnds = s.kickEnds := rfl
@[simp] theorem State.goLast_launches (s : State) (n : Nat) : (s.goLast n).launches = s.launches := rfl
@[simp] theorem State.goLast_blocks (s : State) (n : Nat) : (s.goLast n).blocks = s.blocks := rfl
@[simp] theorem State.goLast_xcache (s : State) (n : Nat) : (s.goLast n).xcache = s.xcache := rfl
@[simp] theorem State.goLast_mx (s : State) (n : Nat) : (s.goLast n).mx = s.mx := rfl
@[simp] theorem State.goLast_heldArrivals (s : State) (n : Nat) : (s.goLast n).heldArrivals = s.heldArrivals := rfl
@[simp] theorem State.goLast_satNext (s : State) (n : Nat) : (s.goLast n).satNext = s.satNext := rfl
@[simp] theorem State.goLast_peerWaits (s : State) (n : Nat) : (s.goLast n).peerWaits = s.peerWaits := rfl
@[simp] theorem State.goLast_copies (s : State) (n : Nat) : (s.goLast n).copies = s.copies := rfl
@[simp] theorem State.goLast_accs (s : State) (n : Nat) : (s.goLast n).accs = s.accs := rfl
@[simp] theorem State.goLast_roundabout (s : State) (n : Nat) : (s.goLast n).roundabout = s.roundabout := rfl
@[simp] theorem State.goLast_windows (s : State) (n : Nat) : (s.goLast n).windows = s.windows := rfl
@[simp] theorem State.goLast_batches (s : State) (n : Nat) : (s.goLast n).batches = s.batches := rfl
@[simp] theorem State.goLast_nextId (s : State) (n : Nat) : (s.goLast n).nextId = s.nextId := rfl
@[simp] theorem State.goLast_freeCount (s : State) (n : Nat) : (s.goLast n).freeCount = s.freeCount := rfl
@[simp] theorem State.goLast_replies (s : State) (n : Nat) : (s.goLast n).replies = s.replies := rfl
@[simp] theorem State.goLast_agenda (s : State) (n : Nat) : (s.goLast n).agenda = s.agenda := rfl
@[simp] theorem State.goLast_cur (s : State) (n : Nat) : (s.goLast n).cur = s.cur := rfl
@[simp] theorem State.goLast_starved (s : State) (n : Nat) : (s.goLast n).starved = s.starved := rfl
@[simp] theorem State.goLast_away (s : State) (n : Nat) : (s.goLast n).away = s.away := rfl

/-! State.laneDone changes batches alone. -/

@[simp] theorem State.laneDone_bar (s : State) (f : Fibre) : (s.laneDone f).bar = s.bar := by unfold State.laneDone; split <;> rfl
@[simp] theorem State.laneDone_shortReach (s : State) (f : Fibre) : (s.laneDone f).shortReach = s.shortReach := by unfold State.laneDone; split <;> rfl
@[simp] theorem State.laneDone_dev (s : State) (f : Fibre) : (s.laneDone f).dev = s.dev := by unfold State.laneDone; split <;> rfl
@[simp] theorem State.laneDone_ports (s : State) (f : Fibre) : (s.laneDone f).ports = s.ports := by unfold State.laneDone; split <;> rfl
@[simp] theorem State.laneDone_failedReplays (s : State) (f : Fibre) : (s.laneDone f).failedReplays = s.failedReplays := by unfold State.laneDone; split <;> rfl
@[simp] theorem State.laneDone_paths (s : State) (f : Fibre) : (s.laneDone f).paths = s.paths := by unfold State.laneDone; split <;> rfl
@[simp] theorem State.laneDone_routes (s : State) (f : Fibre) : (s.laneDone f).routes = s.routes := by unfold State.laneDone; split <;> rfl
@[simp] theorem State.laneDone_image (s : State) (f : Fibre) : (s.laneDone f).image = s.image := by unfold State.laneDone; split <;> rfl
@[simp] theorem State.laneDone_imageHash (s : State) (f : Fibre) : (s.laneDone f).imageHash = s.imageHash := by unfold State.laneDone; split <;> rfl
@[simp] theorem State.laneDone_recordHash (s : State) (f : Fibre) : (s.laneDone f).recordHash = s.recordHash := by unfold State.laneDone; split <;> rfl
@[simp] theorem State.laneDone_classes (s : State) (f : Fibre) : (s.laneDone f).classes = s.classes := by unfold State.laneDone; split <;> rfl
@[simp] theorem State.laneDone_failedQuads (s : State) (f : Fibre) : (s.laneDone f).failedQuads = s.failedQuads := by unfold State.laneDone; split <;> rfl
@[simp] theorem State.laneDone_mem (s : State) (f : Fibre) : (s.laneDone f).mem = s.mem := by unfold State.laneDone; split <;> rfl
@[simp] theorem State.laneDone_hostMem (s : State) (f : Fibre) : (s.laneDone f).hostMem = s.hostMem := by unfold State.laneDone; split <;> rfl
@[simp] theorem State.laneDone_spMem (s : State) (f : Fibre) : (s.laneDone f).spMem = s.spMem := by unfold State.laneDone; split <;> rfl
@[simp] theorem State.laneDone_tbMem (s : State) (f : Fibre) : (s.laneDone f).tbMem = s.tbMem := by unfold State.laneDone; split <;> rfl
@[simp] theorem State.laneDone_planeMem (s : State) (f : Fibre) : (s.laneDone f).planeMem = s.planeMem := by unfold State.laneDone; split <;> rfl
@[simp] theorem State.laneDone_latched (s : State) (f : Fibre) : (s.laneDone f).latched = s.latched := by unfold State.laneDone; split <;> rfl
@[simp] theorem State.laneDone_checks (s : State) (f : Fibre) : (s.laneDone f).checks = s.checks := by unfold State.laneDone; split <;> rfl
@[simp] theorem State.laneDone_poison (s : State) (f : Fibre) : (s.laneDone f).poison = s.poison := by unfold State.laneDone; split <;> rfl
@[simp] theorem State.laneDone_hostBias (s : State) (f : Fibre) : (s.laneDone f).hostBias = s.hostBias := by unfold State.laneDone; split <;> rfl
@[simp] theorem State.laneDone_biasCmd (s : State) (f : Fibre) : (s.laneDone f).biasCmd = s.biasCmd := by unfold State.laneDone; split <;> rfl
@[simp] theorem State.laneDone_hostLines (s : State) (f : Fibre) : (s.laneDone f).hostLines = s.hostLines := by unfold State.laneDone; split <;> rfl
@[simp] theorem State.laneDone_snoops (s : State) (f : Fibre) : (s.laneDone f).snoops = s.snoops := by unfold State.laneDone; split <;> rfl
@[simp] theorem State.laneDone_cxlLines (s : State) (f : Fibre) : (s.laneDone f).cxlLines = s.cxlLines := by unfold State.laneDone; split <;> rfl
@[simp] theorem State.laneDone_l1 (s : State) (f : Fibre) : (s.laneDone f).l1 = s.l1 := by unfold State.laneDone; split <;> rfl
@[simp] theorem State.laneDone_dir (s : State) (f : Fibre) : (s.laneDone f).dir = s.dir := by unfold State.laneDone; split <;> rfl
@[simp] theorem State.laneDone_proxyDir (s : State) (f : Fibre) : (s.laneDone f).proxyDir = s.proxyDir := by unfold State.laneDone; split <;> rfl
@[simp] theorem State.laneDone_fills (s : State) (f : Fibre) : (s.laneDone f).fills = s.fills := by unfold State.laneDone; split <;> rfl
@[simp] theorem State.laneDone_gated (s : State) (f : Fibre) : (s.laneDone f).gated = s.gated := by unfold State.laneDone; split <;> rfl
@[simp] theorem State.laneDone_records (s : State) (f : Fibre) : (s.laneDone f).records = s.records := by unfold State.laneDone; split <;> rfl
@[simp] theorem State.laneDone_touched (s : State) (f : Fibre) : (s.laneDone f).touched = s.touched := by unfold State.laneDone; split <;> rfl
@[simp] theorem State.laneDone_detectorFull (s : State) (f : Fibre) : (s.laneDone f).detectorFull = s.detectorFull := by unfold State.laneDone; split <;> rfl
@[simp] theorem State.laneDone_tlb (s : State) (f : Fibre) : (s.laneDone f).tlb = s.tlb := by unfold State.laneDone; split <;> rfl
@[simp] theorem State.laneDone_l1tlb (s : State) (f : Fibre) : (s.laneDone f).l1tlb = s.l1tlb := by unfold State.laneDone; split <;> rfl
@[simp] theorem State.laneDone_ctxSeen (s : State) (f : Fibre) : (s.laneDone f).ctxSeen = s.ctxSeen := by unfold State.laneDone; split <;> rfl
@[simp] theorem State.laneDone_tlbBusy (s : State) (f : Fibre) : (s.laneDone f).tlbBusy = s.tlbBusy := by unfold State.laneDone; split <;> rfl
@[simp] theorem State.laneDone_tlbInv (s : State) (f : Fibre) : (s.laneDone f).tlbInv = s.tlbInv := by unfold State.laneDone; split <;> rfl
@[simp] theorem State.laneDone_faults (s : State) (f : Fibre) : (s.laneDone f).faults = s.faults := by unfold State.laneDone; split <;> rfl
@[simp] theorem State.laneDone_faultCount (s : State) (f : Fibre) : (s.laneDone f).faultCount = s.faultCount := by unfold State.laneDone; split <;> rfl
@[simp] theorem State.laneDone_errors (s : State) (f : Fibre) : (s.laneDone f).errors = s.errors := by unfold State.laneDone; split <;> rfl
@[simp] theorem State.laneDone_msix (s : State) (f : Fibre) : (s.laneDone f).msix = s.msix := by unfold State.laneDone; split <;> rfl
@[simp] theorem State.laneDone_hostFaults (s : State) (f : Fibre) : (s.laneDone f).hostFaults = s.hostFaults := by unfold State.laneDone; split <;> rfl
@[simp] theorem State.laneDone_bindings (s : State) (f : Fibre) : (s.laneDone f).bindings = s.bindings := by unfold State.laneDone; split <;> rfl
@[simp] theorem State.laneDone_plazas (s : State) (f : Fibre) : (s.laneDone f).plazas = s.plazas := by unfold State.laneDone; split <;> rfl
@[simp] theorem State.laneDone_wsLines (s : State) (f : Fibre) : (s.laneDone f).wsLines = s.wsLines := by unfold State.laneDone; split <;> rfl
@[simp] theorem State.laneDone_awayPlazas (s : State) (f : Fibre) : (s.laneDone f).awayPlazas = s.awayPlazas := by unfold State.laneDone; split <;> rfl
@[simp] theorem State.laneDone_fabricClock (s : State) (f : Fibre) : (s.laneDone f).fabricClock = s.fabricClock := by unfold State.laneDone; split <;> rfl
@[simp] theorem State.laneDone_graphs (s : State) (f : Fibre) : (s.laneDone f).graphs = s.graphs := by unfold State.laneDone; split <;> rfl
@[simp] theorem State.laneDone_graphRegs (s : State) (f : Fibre) : (s.laneDone f).graphRegs = s.graphRegs := by unfold State.laneDone; split <;> rfl
@[simp] theorem State.laneDone_replays (s : State) (f : Fibre) : (s.laneDone f).replays = s.replays := by unfold State.laneDone; split <;> rfl
@[simp] theorem State.laneDone_kicks (s : State) (f : Fibre) : (s.laneDone f).kicks = s.kicks := by unfold State.laneDone; split <;> rfl
@[simp] theorem State.laneDone_kickEnds (s : State) (f : Fibre) : (s.laneDone f).kickEnds = s.kickEnds := by unfold State.laneDone; split <;> rfl
@[simp] theorem State.laneDone_launches (s : State) (f : Fibre) : (s.laneDone f).launches = s.launches := by unfold State.laneDone; split <;> rfl
@[simp] theorem State.laneDone_blocks (s : State) (f : Fibre) : (s.laneDone f).blocks = s.blocks := by unfold State.laneDone; split <;> rfl
@[simp] theorem State.laneDone_xcache (s : State) (f : Fibre) : (s.laneDone f).xcache = s.xcache := by unfold State.laneDone; split <;> rfl
@[simp] theorem State.laneDone_mx (s : State) (f : Fibre) : (s.laneDone f).mx = s.mx := by unfold State.laneDone; split <;> rfl
@[simp] theorem State.laneDone_heldArrivals (s : State) (f : Fibre) : (s.laneDone f).heldArrivals = s.heldArrivals := by unfold State.laneDone; split <;> rfl
@[simp] theorem State.laneDone_satNext (s : State) (f : Fibre) : (s.laneDone f).satNext = s.satNext := by unfold State.laneDone; split <;> rfl
@[simp] theorem State.laneDone_peerWaits (s : State) (f : Fibre) : (s.laneDone f).peerWaits = s.peerWaits := by unfold State.laneDone; split <;> rfl
@[simp] theorem State.laneDone_copies (s : State) (f : Fibre) : (s.laneDone f).copies = s.copies := by unfold State.laneDone; split <;> rfl
@[simp] theorem State.laneDone_accs (s : State) (f : Fibre) : (s.laneDone f).accs = s.accs := by unfold State.laneDone; split <;> rfl
@[simp] theorem State.laneDone_roundabout (s : State) (f : Fibre) : (s.laneDone f).roundabout = s.roundabout := by unfold State.laneDone; split <;> rfl
@[simp] theorem State.laneDone_windows (s : State) (f : Fibre) : (s.laneDone f).windows = s.windows := by unfold State.laneDone; split <;> rfl
@[simp] theorem State.laneDone_fibres (s : State) (f : Fibre) : (s.laneDone f).fibres = s.fibres := by unfold State.laneDone; split <;> rfl
@[simp] theorem State.laneDone_nextId (s : State) (f : Fibre) : (s.laneDone f).nextId = s.nextId := by unfold State.laneDone; split <;> rfl
@[simp] theorem State.laneDone_freeCount (s : State) (f : Fibre) : (s.laneDone f).freeCount = s.freeCount := by unfold State.laneDone; split <;> rfl
@[simp] theorem State.laneDone_replies (s : State) (f : Fibre) : (s.laneDone f).replies = s.replies := by unfold State.laneDone; split <;> rfl
@[simp] theorem State.laneDone_agenda (s : State) (f : Fibre) : (s.laneDone f).agenda = s.agenda := by unfold State.laneDone; split <;> rfl
@[simp] theorem State.laneDone_cur (s : State) (f : Fibre) : (s.laneDone f).cur = s.cur := by unfold State.laneDone; split <;> rfl
@[simp] theorem State.laneDone_starved (s : State) (f : Fibre) : (s.laneDone f).starved = s.starved := by unfold State.laneDone; split <;> rfl
@[simp] theorem State.laneDone_away (s : State) (f : Fibre) : (s.laneDone f).away = s.away := by unfold State.laneDone; split <;> rfl

/-! State.retire changes fibres and batches alone. -/

@[simp] theorem State.retire_bar (s : State) (f : Fibre) (i : Instr) (r : Retire) : (s.retire f i r).bar = s.bar := by simp [State.retire]
@[simp] theorem State.retire_shortReach (s : State) (f : Fibre) (i : Instr) (r : Retire) : (s.retire f i r).shortReach = s.shortReach := by simp [State.retire]
@[simp] theorem State.retire_dev (s : State) (f : Fibre) (i : Instr) (r : Retire) : (s.retire f i r).dev = s.dev := by simp [State.retire]
@[simp] theorem State.retire_ports (s : State) (f : Fibre) (i : Instr) (r : Retire) : (s.retire f i r).ports = s.ports := by simp [State.retire]
@[simp] theorem State.retire_failedReplays (s : State) (f : Fibre) (i : Instr) (r : Retire) : (s.retire f i r).failedReplays = s.failedReplays := by simp [State.retire]
@[simp] theorem State.retire_paths (s : State) (f : Fibre) (i : Instr) (r : Retire) : (s.retire f i r).paths = s.paths := by simp [State.retire]
@[simp] theorem State.retire_routes (s : State) (f : Fibre) (i : Instr) (r : Retire) : (s.retire f i r).routes = s.routes := by simp [State.retire]
@[simp] theorem State.retire_image (s : State) (f : Fibre) (i : Instr) (r : Retire) : (s.retire f i r).image = s.image := by simp [State.retire]
@[simp] theorem State.retire_imageHash (s : State) (f : Fibre) (i : Instr) (r : Retire) : (s.retire f i r).imageHash = s.imageHash := by simp [State.retire]
@[simp] theorem State.retire_recordHash (s : State) (f : Fibre) (i : Instr) (r : Retire) : (s.retire f i r).recordHash = s.recordHash := by simp [State.retire]
@[simp] theorem State.retire_classes (s : State) (f : Fibre) (i : Instr) (r : Retire) : (s.retire f i r).classes = s.classes := by simp [State.retire]
@[simp] theorem State.retire_failedQuads (s : State) (f : Fibre) (i : Instr) (r : Retire) : (s.retire f i r).failedQuads = s.failedQuads := by simp [State.retire]
@[simp] theorem State.retire_mem (s : State) (f : Fibre) (i : Instr) (r : Retire) : (s.retire f i r).mem = s.mem := by simp [State.retire]
@[simp] theorem State.retire_hostMem (s : State) (f : Fibre) (i : Instr) (r : Retire) : (s.retire f i r).hostMem = s.hostMem := by simp [State.retire]
@[simp] theorem State.retire_spMem (s : State) (f : Fibre) (i : Instr) (r : Retire) : (s.retire f i r).spMem = s.spMem := by simp [State.retire]
@[simp] theorem State.retire_tbMem (s : State) (f : Fibre) (i : Instr) (r : Retire) : (s.retire f i r).tbMem = s.tbMem := by simp [State.retire]
@[simp] theorem State.retire_planeMem (s : State) (f : Fibre) (i : Instr) (r : Retire) : (s.retire f i r).planeMem = s.planeMem := by simp [State.retire]
@[simp] theorem State.retire_latched (s : State) (f : Fibre) (i : Instr) (r : Retire) : (s.retire f i r).latched = s.latched := by simp [State.retire]
@[simp] theorem State.retire_checks (s : State) (f : Fibre) (i : Instr) (r : Retire) : (s.retire f i r).checks = s.checks := by simp [State.retire]
@[simp] theorem State.retire_poison (s : State) (f : Fibre) (i : Instr) (r : Retire) : (s.retire f i r).poison = s.poison := by simp [State.retire]
@[simp] theorem State.retire_hostBias (s : State) (f : Fibre) (i : Instr) (r : Retire) : (s.retire f i r).hostBias = s.hostBias := by simp [State.retire]
@[simp] theorem State.retire_biasCmd (s : State) (f : Fibre) (i : Instr) (r : Retire) : (s.retire f i r).biasCmd = s.biasCmd := by simp [State.retire]
@[simp] theorem State.retire_hostLines (s : State) (f : Fibre) (i : Instr) (r : Retire) : (s.retire f i r).hostLines = s.hostLines := by simp [State.retire]
@[simp] theorem State.retire_snoops (s : State) (f : Fibre) (i : Instr) (r : Retire) : (s.retire f i r).snoops = s.snoops := by simp [State.retire]
@[simp] theorem State.retire_cxlLines (s : State) (f : Fibre) (i : Instr) (r : Retire) : (s.retire f i r).cxlLines = s.cxlLines := by simp [State.retire]
@[simp] theorem State.retire_l1 (s : State) (f : Fibre) (i : Instr) (r : Retire) : (s.retire f i r).l1 = s.l1 := by simp [State.retire]
@[simp] theorem State.retire_dir (s : State) (f : Fibre) (i : Instr) (r : Retire) : (s.retire f i r).dir = s.dir := by simp [State.retire]
@[simp] theorem State.retire_proxyDir (s : State) (f : Fibre) (i : Instr) (r : Retire) : (s.retire f i r).proxyDir = s.proxyDir := by simp [State.retire]
@[simp] theorem State.retire_fills (s : State) (f : Fibre) (i : Instr) (r : Retire) : (s.retire f i r).fills = s.fills := by simp [State.retire]
@[simp] theorem State.retire_gated (s : State) (f : Fibre) (i : Instr) (r : Retire) : (s.retire f i r).gated = s.gated := by simp [State.retire]
@[simp] theorem State.retire_records (s : State) (f : Fibre) (i : Instr) (r : Retire) : (s.retire f i r).records = s.records := by simp [State.retire]
@[simp] theorem State.retire_touched (s : State) (f : Fibre) (i : Instr) (r : Retire) : (s.retire f i r).touched = s.touched := by simp [State.retire]
@[simp] theorem State.retire_detectorFull (s : State) (f : Fibre) (i : Instr) (r : Retire) : (s.retire f i r).detectorFull = s.detectorFull := by simp [State.retire]
@[simp] theorem State.retire_tlb (s : State) (f : Fibre) (i : Instr) (r : Retire) : (s.retire f i r).tlb = s.tlb := by simp [State.retire]
@[simp] theorem State.retire_l1tlb (s : State) (f : Fibre) (i : Instr) (r : Retire) : (s.retire f i r).l1tlb = s.l1tlb := by simp [State.retire]
@[simp] theorem State.retire_ctxSeen (s : State) (f : Fibre) (i : Instr) (r : Retire) : (s.retire f i r).ctxSeen = s.ctxSeen := by simp [State.retire]
@[simp] theorem State.retire_tlbBusy (s : State) (f : Fibre) (i : Instr) (r : Retire) : (s.retire f i r).tlbBusy = s.tlbBusy := by simp [State.retire]
@[simp] theorem State.retire_tlbInv (s : State) (f : Fibre) (i : Instr) (r : Retire) : (s.retire f i r).tlbInv = s.tlbInv := by simp [State.retire]
@[simp] theorem State.retire_faults (s : State) (f : Fibre) (i : Instr) (r : Retire) : (s.retire f i r).faults = s.faults := by simp [State.retire]
@[simp] theorem State.retire_faultCount (s : State) (f : Fibre) (i : Instr) (r : Retire) : (s.retire f i r).faultCount = s.faultCount := by simp [State.retire]
@[simp] theorem State.retire_errors (s : State) (f : Fibre) (i : Instr) (r : Retire) : (s.retire f i r).errors = s.errors := by simp [State.retire]
@[simp] theorem State.retire_msix (s : State) (f : Fibre) (i : Instr) (r : Retire) : (s.retire f i r).msix = s.msix := by simp [State.retire]
@[simp] theorem State.retire_hostFaults (s : State) (f : Fibre) (i : Instr) (r : Retire) : (s.retire f i r).hostFaults = s.hostFaults := by simp [State.retire]
@[simp] theorem State.retire_bindings (s : State) (f : Fibre) (i : Instr) (r : Retire) : (s.retire f i r).bindings = s.bindings := by simp [State.retire]
@[simp] theorem State.retire_plazas (s : State) (f : Fibre) (i : Instr) (r : Retire) : (s.retire f i r).plazas = s.plazas := by simp [State.retire]
@[simp] theorem State.retire_wsLines (s : State) (f : Fibre) (i : Instr) (r : Retire) : (s.retire f i r).wsLines = s.wsLines := by simp [State.retire]
@[simp] theorem State.retire_awayPlazas (s : State) (f : Fibre) (i : Instr) (r : Retire) : (s.retire f i r).awayPlazas = s.awayPlazas := by simp [State.retire]
@[simp] theorem State.retire_fabricClock (s : State) (f : Fibre) (i : Instr) (r : Retire) : (s.retire f i r).fabricClock = s.fabricClock := by simp [State.retire]
@[simp] theorem State.retire_graphs (s : State) (f : Fibre) (i : Instr) (r : Retire) : (s.retire f i r).graphs = s.graphs := by simp [State.retire]
@[simp] theorem State.retire_graphRegs (s : State) (f : Fibre) (i : Instr) (r : Retire) : (s.retire f i r).graphRegs = s.graphRegs := by simp [State.retire]
@[simp] theorem State.retire_replays (s : State) (f : Fibre) (i : Instr) (r : Retire) : (s.retire f i r).replays = s.replays := by simp [State.retire]
@[simp] theorem State.retire_kicks (s : State) (f : Fibre) (i : Instr) (r : Retire) : (s.retire f i r).kicks = s.kicks := by simp [State.retire]
@[simp] theorem State.retire_kickEnds (s : State) (f : Fibre) (i : Instr) (r : Retire) : (s.retire f i r).kickEnds = s.kickEnds := by simp [State.retire]
@[simp] theorem State.retire_launches (s : State) (f : Fibre) (i : Instr) (r : Retire) : (s.retire f i r).launches = s.launches := by simp [State.retire]
@[simp] theorem State.retire_blocks (s : State) (f : Fibre) (i : Instr) (r : Retire) : (s.retire f i r).blocks = s.blocks := by simp [State.retire]
@[simp] theorem State.retire_xcache (s : State) (f : Fibre) (i : Instr) (r : Retire) : (s.retire f i r).xcache = s.xcache := by simp [State.retire]
@[simp] theorem State.retire_mx (s : State) (f : Fibre) (i : Instr) (r : Retire) : (s.retire f i r).mx = s.mx := by simp [State.retire]
@[simp] theorem State.retire_heldArrivals (s : State) (f : Fibre) (i : Instr) (r : Retire) : (s.retire f i r).heldArrivals = s.heldArrivals := by simp [State.retire]
@[simp] theorem State.retire_satNext (s : State) (f : Fibre) (i : Instr) (r : Retire) : (s.retire f i r).satNext = s.satNext := by simp [State.retire]
@[simp] theorem State.retire_peerWaits (s : State) (f : Fibre) (i : Instr) (r : Retire) : (s.retire f i r).peerWaits = s.peerWaits := by simp [State.retire]
@[simp] theorem State.retire_copies (s : State) (f : Fibre) (i : Instr) (r : Retire) : (s.retire f i r).copies = s.copies := by simp [State.retire]
@[simp] theorem State.retire_accs (s : State) (f : Fibre) (i : Instr) (r : Retire) : (s.retire f i r).accs = s.accs := by simp [State.retire]
@[simp] theorem State.retire_roundabout (s : State) (f : Fibre) (i : Instr) (r : Retire) : (s.retire f i r).roundabout = s.roundabout := by simp [State.retire]
@[simp] theorem State.retire_windows (s : State) (f : Fibre) (i : Instr) (r : Retire) : (s.retire f i r).windows = s.windows := by simp [State.retire]
@[simp] theorem State.retire_nextId (s : State) (f : Fibre) (i : Instr) (r : Retire) : (s.retire f i r).nextId = s.nextId := by simp [State.retire]
@[simp] theorem State.retire_freeCount (s : State) (f : Fibre) (i : Instr) (r : Retire) : (s.retire f i r).freeCount = s.freeCount := by simp [State.retire]
@[simp] theorem State.retire_replies (s : State) (f : Fibre) (i : Instr) (r : Retire) : (s.retire f i r).replies = s.replies := by simp [State.retire]
@[simp] theorem State.retire_agenda (s : State) (f : Fibre) (i : Instr) (r : Retire) : (s.retire f i r).agenda = s.agenda := by simp [State.retire]
@[simp] theorem State.retire_cur (s : State) (f : Fibre) (i : Instr) (r : Retire) : (s.retire f i r).cur = s.cur := by simp [State.retire]
@[simp] theorem State.retire_starved (s : State) (f : Fibre) (i : Instr) (r : Retire) : (s.retire f i r).starved = s.starved := by simp [State.retire]
@[simp] theorem State.retire_away (s : State) (f : Fibre) (i : Instr) (r : Retire) : (s.retire f i r).away = s.away := by simp [State.retire]

/-! State.block changes fibres and batches alone. -/

@[simp] theorem State.block_bar (s : State) (f : Fibre) (w : Wait) : (s.block f w).bar = s.bar := by simp [State.block]
@[simp] theorem State.block_shortReach (s : State) (f : Fibre) (w : Wait) : (s.block f w).shortReach = s.shortReach := by simp [State.block]
@[simp] theorem State.block_dev (s : State) (f : Fibre) (w : Wait) : (s.block f w).dev = s.dev := by simp [State.block]
@[simp] theorem State.block_ports (s : State) (f : Fibre) (w : Wait) : (s.block f w).ports = s.ports := by simp [State.block]
@[simp] theorem State.block_failedReplays (s : State) (f : Fibre) (w : Wait) : (s.block f w).failedReplays = s.failedReplays := by simp [State.block]
@[simp] theorem State.block_paths (s : State) (f : Fibre) (w : Wait) : (s.block f w).paths = s.paths := by simp [State.block]
@[simp] theorem State.block_routes (s : State) (f : Fibre) (w : Wait) : (s.block f w).routes = s.routes := by simp [State.block]
@[simp] theorem State.block_image (s : State) (f : Fibre) (w : Wait) : (s.block f w).image = s.image := by simp [State.block]
@[simp] theorem State.block_imageHash (s : State) (f : Fibre) (w : Wait) : (s.block f w).imageHash = s.imageHash := by simp [State.block]
@[simp] theorem State.block_recordHash (s : State) (f : Fibre) (w : Wait) : (s.block f w).recordHash = s.recordHash := by simp [State.block]
@[simp] theorem State.block_classes (s : State) (f : Fibre) (w : Wait) : (s.block f w).classes = s.classes := by simp [State.block]
@[simp] theorem State.block_failedQuads (s : State) (f : Fibre) (w : Wait) : (s.block f w).failedQuads = s.failedQuads := by simp [State.block]
@[simp] theorem State.block_mem (s : State) (f : Fibre) (w : Wait) : (s.block f w).mem = s.mem := by simp [State.block]
@[simp] theorem State.block_hostMem (s : State) (f : Fibre) (w : Wait) : (s.block f w).hostMem = s.hostMem := by simp [State.block]
@[simp] theorem State.block_spMem (s : State) (f : Fibre) (w : Wait) : (s.block f w).spMem = s.spMem := by simp [State.block]
@[simp] theorem State.block_tbMem (s : State) (f : Fibre) (w : Wait) : (s.block f w).tbMem = s.tbMem := by simp [State.block]
@[simp] theorem State.block_planeMem (s : State) (f : Fibre) (w : Wait) : (s.block f w).planeMem = s.planeMem := by simp [State.block]
@[simp] theorem State.block_latched (s : State) (f : Fibre) (w : Wait) : (s.block f w).latched = s.latched := by simp [State.block]
@[simp] theorem State.block_checks (s : State) (f : Fibre) (w : Wait) : (s.block f w).checks = s.checks := by simp [State.block]
@[simp] theorem State.block_poison (s : State) (f : Fibre) (w : Wait) : (s.block f w).poison = s.poison := by simp [State.block]
@[simp] theorem State.block_hostBias (s : State) (f : Fibre) (w : Wait) : (s.block f w).hostBias = s.hostBias := by simp [State.block]
@[simp] theorem State.block_biasCmd (s : State) (f : Fibre) (w : Wait) : (s.block f w).biasCmd = s.biasCmd := by simp [State.block]
@[simp] theorem State.block_hostLines (s : State) (f : Fibre) (w : Wait) : (s.block f w).hostLines = s.hostLines := by simp [State.block]
@[simp] theorem State.block_snoops (s : State) (f : Fibre) (w : Wait) : (s.block f w).snoops = s.snoops := by simp [State.block]
@[simp] theorem State.block_cxlLines (s : State) (f : Fibre) (w : Wait) : (s.block f w).cxlLines = s.cxlLines := by simp [State.block]
@[simp] theorem State.block_l1 (s : State) (f : Fibre) (w : Wait) : (s.block f w).l1 = s.l1 := by simp [State.block]
@[simp] theorem State.block_dir (s : State) (f : Fibre) (w : Wait) : (s.block f w).dir = s.dir := by simp [State.block]
@[simp] theorem State.block_proxyDir (s : State) (f : Fibre) (w : Wait) : (s.block f w).proxyDir = s.proxyDir := by simp [State.block]
@[simp] theorem State.block_fills (s : State) (f : Fibre) (w : Wait) : (s.block f w).fills = s.fills := by simp [State.block]
@[simp] theorem State.block_gated (s : State) (f : Fibre) (w : Wait) : (s.block f w).gated = s.gated := by simp [State.block]
@[simp] theorem State.block_records (s : State) (f : Fibre) (w : Wait) : (s.block f w).records = s.records := by simp [State.block]
@[simp] theorem State.block_touched (s : State) (f : Fibre) (w : Wait) : (s.block f w).touched = s.touched := by simp [State.block]
@[simp] theorem State.block_detectorFull (s : State) (f : Fibre) (w : Wait) : (s.block f w).detectorFull = s.detectorFull := by simp [State.block]
@[simp] theorem State.block_tlb (s : State) (f : Fibre) (w : Wait) : (s.block f w).tlb = s.tlb := by simp [State.block]
@[simp] theorem State.block_l1tlb (s : State) (f : Fibre) (w : Wait) : (s.block f w).l1tlb = s.l1tlb := by simp [State.block]
@[simp] theorem State.block_ctxSeen (s : State) (f : Fibre) (w : Wait) : (s.block f w).ctxSeen = s.ctxSeen := by simp [State.block]
@[simp] theorem State.block_tlbBusy (s : State) (f : Fibre) (w : Wait) : (s.block f w).tlbBusy = s.tlbBusy := by simp [State.block]
@[simp] theorem State.block_tlbInv (s : State) (f : Fibre) (w : Wait) : (s.block f w).tlbInv = s.tlbInv := by simp [State.block]
@[simp] theorem State.block_faults (s : State) (f : Fibre) (w : Wait) : (s.block f w).faults = s.faults := by simp [State.block]
@[simp] theorem State.block_faultCount (s : State) (f : Fibre) (w : Wait) : (s.block f w).faultCount = s.faultCount := by simp [State.block]
@[simp] theorem State.block_errors (s : State) (f : Fibre) (w : Wait) : (s.block f w).errors = s.errors := by simp [State.block]
@[simp] theorem State.block_msix (s : State) (f : Fibre) (w : Wait) : (s.block f w).msix = s.msix := by simp [State.block]
@[simp] theorem State.block_hostFaults (s : State) (f : Fibre) (w : Wait) : (s.block f w).hostFaults = s.hostFaults := by simp [State.block]
@[simp] theorem State.block_bindings (s : State) (f : Fibre) (w : Wait) : (s.block f w).bindings = s.bindings := by simp [State.block]
@[simp] theorem State.block_plazas (s : State) (f : Fibre) (w : Wait) : (s.block f w).plazas = s.plazas := by simp [State.block]
@[simp] theorem State.block_wsLines (s : State) (f : Fibre) (w : Wait) : (s.block f w).wsLines = s.wsLines := by simp [State.block]
@[simp] theorem State.block_awayPlazas (s : State) (f : Fibre) (w : Wait) : (s.block f w).awayPlazas = s.awayPlazas := by simp [State.block]
@[simp] theorem State.block_fabricClock (s : State) (f : Fibre) (w : Wait) : (s.block f w).fabricClock = s.fabricClock := by simp [State.block]
@[simp] theorem State.block_graphs (s : State) (f : Fibre) (w : Wait) : (s.block f w).graphs = s.graphs := by simp [State.block]
@[simp] theorem State.block_graphRegs (s : State) (f : Fibre) (w : Wait) : (s.block f w).graphRegs = s.graphRegs := by simp [State.block]
@[simp] theorem State.block_replays (s : State) (f : Fibre) (w : Wait) : (s.block f w).replays = s.replays := by simp [State.block]
@[simp] theorem State.block_kicks (s : State) (f : Fibre) (w : Wait) : (s.block f w).kicks = s.kicks := by simp [State.block]
@[simp] theorem State.block_kickEnds (s : State) (f : Fibre) (w : Wait) : (s.block f w).kickEnds = s.kickEnds := by simp [State.block]
@[simp] theorem State.block_launches (s : State) (f : Fibre) (w : Wait) : (s.block f w).launches = s.launches := by simp [State.block]
@[simp] theorem State.block_blocks (s : State) (f : Fibre) (w : Wait) : (s.block f w).blocks = s.blocks := by simp [State.block]
@[simp] theorem State.block_xcache (s : State) (f : Fibre) (w : Wait) : (s.block f w).xcache = s.xcache := by simp [State.block]
@[simp] theorem State.block_mx (s : State) (f : Fibre) (w : Wait) : (s.block f w).mx = s.mx := by simp [State.block]
@[simp] theorem State.block_heldArrivals (s : State) (f : Fibre) (w : Wait) : (s.block f w).heldArrivals = s.heldArrivals := by simp [State.block]
@[simp] theorem State.block_satNext (s : State) (f : Fibre) (w : Wait) : (s.block f w).satNext = s.satNext := by simp [State.block]
@[simp] theorem State.block_peerWaits (s : State) (f : Fibre) (w : Wait) : (s.block f w).peerWaits = s.peerWaits := by simp [State.block]
@[simp] theorem State.block_copies (s : State) (f : Fibre) (w : Wait) : (s.block f w).copies = s.copies := by simp [State.block]
@[simp] theorem State.block_accs (s : State) (f : Fibre) (w : Wait) : (s.block f w).accs = s.accs := by simp [State.block]
@[simp] theorem State.block_roundabout (s : State) (f : Fibre) (w : Wait) : (s.block f w).roundabout = s.roundabout := by simp [State.block]
@[simp] theorem State.block_windows (s : State) (f : Fibre) (w : Wait) : (s.block f w).windows = s.windows := by simp [State.block]
@[simp] theorem State.block_nextId (s : State) (f : Fibre) (w : Wait) : (s.block f w).nextId = s.nextId := by simp [State.block]
@[simp] theorem State.block_freeCount (s : State) (f : Fibre) (w : Wait) : (s.block f w).freeCount = s.freeCount := by simp [State.block]
@[simp] theorem State.block_replies (s : State) (f : Fibre) (w : Wait) : (s.block f w).replies = s.replies := by simp [State.block]
@[simp] theorem State.block_agenda (s : State) (f : Fibre) (w : Wait) : (s.block f w).agenda = s.agenda := by simp [State.block]
@[simp] theorem State.block_cur (s : State) (f : Fibre) (w : Wait) : (s.block f w).cur = s.cur := by simp [State.block]
@[simp] theorem State.block_starved (s : State) (f : Fibre) (w : Wait) : (s.block f w).starved = s.starved := by simp [State.block]
@[simp] theorem State.block_away (s : State) (f : Fibre) (w : Wait) : (s.block f w).away = s.away := by simp [State.block]

/-! The fibres after an update, by name. -/

/-- Looking up a fibre after every fibre has been changed by a function that keeps names. -/
theorem find_map_uid (l : List Fibre) (u : Fibre → Fibre) (n : Nat) (h : ∀ g, (u g).uid = g.uid) :
    (l.map u).find? (fun g => g.uid == n) = (l.find? fun g => g.uid == n).map u := by
  induction l with
  | nil => rfl
  | cons a l ih =>
    simp only [List.map_cons, List.find?_cons, h]
    cases a.uid == n
    · exact ih
    · rfl

theorem State.setF_fib_other (s : State) (f : Fibre) {n : Nat} (h : n ≠ f.uid) : (s.setF f).fib? n = s.fib? n := by
  unfold State.fib? State.setF
  induction s.fibres with
  | nil => rfl
  | cons g l ih =>
    simp only [List.map_cons, List.find?_cons]
    by_cases hg : g.uid = f.uid
    · have : (g.uid == n) = false := by simp [hg, Ne.symm h]
      have h2 : (f.uid == n) = false := by simp [Ne.symm h]
      simp only [hg, if_true, h2]
      exact ih
    · simp only [hg, if_false]
      cases g.uid == n
      · exact ih
      · rfl

theorem State.setF_fib_self (s : State) (f : Fibre) (h : (s.fib? f.uid).isSome = true) :
    (s.setF f).fib? f.uid = some f := by
  revert h
  unfold State.fib? State.setF
  induction s.fibres with
  | nil => intro h; cases h
  | cons g l ih =>
    simp only [List.map_cons, List.find?_cons]
    by_cases hg : g.uid = f.uid
    · intro _
      simp [hg]
    · have : (g.uid == f.uid) = false := by simpa using hg
      simp only [hg, if_false, this]
      exact ih

theorem State.modF_fib (s : State) (m : Nat) (u : Fibre → Fibre) (n : Nat) (h : ∀ g, (u g).uid = g.uid) :
    (s.modF m u).fib? n = (s.fib? n).map fun g => if g.uid = m then u g else g := by
  unfold State.fib? State.modF
  exact find_map_uid _ _ _ fun g => by split <;> simp [h]

@[simp] theorem State.laneDone_fib (s : State) (f : Fibre) (n : Nat) : (s.laneDone f).fib? n = s.fib? n := by
  simp [State.fib?]

/-- Retiring changes fibres and batches alone. -/
theorem State.retire_eq (s : State) (f : Fibre) (i : Instr) (r : Retire) :
    ∃ fs bs, s.retire f i r = { s with fibres := fs, batches := bs } := by
  unfold State.retire State.laneDone
  split
  · exact ⟨_, _, rfl⟩
  · exact ⟨_, s.batches, rfl⟩

/-- Blocking changes fibres and batches alone. -/
theorem State.block_eq (s : State) (f : Fibre) (w : Wait) :
    ∃ fs bs, s.block f w = { s with fibres := fs, batches := bs } := by
  unfold State.block State.laneDone
  split
  · exact ⟨_, _, rfl⟩
  · exact ⟨_, s.batches, rfl⟩

end Sys2Proof.Machine
end

