-- ==== Sys2Proof/Laws/Fibre.lean ====
section
/-! SUPPORT. Registers, predicates and fixed-latency writes (R27, R46 to R50): what each operation on a fibre leaves as
it was, and what a register reads after it. -/

namespace Sys2Proof.Machine

/-! What each operation can change. -/

theorem Fibre.put_eq (f : Fibre) (c : Nat) (v : Word) : ∃ rs ps, f.put c v = { f with regs := rs, preds := ps } := by
  unfold Fibre.put Fibre.setRegRaw Fibre.setPredRaw
  repeat' split
  all_goals exact ⟨_, _, rfl⟩

theorem Fibre.apply_eq (f : Fibre) (p : Pend) : ∃ rs ps, f.apply p = { f with regs := rs, preds := ps } := by
  rw [Fibre.apply]
  split
  · exact ⟨_, _, rfl⟩
  · exact Fibre.put_eq f p.code p.val

theorem Fibre.applyAll_eq (f : Fibre) (l : List Pend) : ∃ rs ps, f.applyAll l = { f with regs := rs, preds := ps } := by
  unfold Fibre.applyAll
  induction l generalizing f with
  | nil => exact ⟨_, _, rfl⟩
  | cons p l ih =>
    obtain ⟨r1, p1, h1⟩ := Fibre.apply_eq f p
    obtain ⟨r2, p2, h2⟩ := ih (f.apply p)
    exact ⟨r2, p2, by rw [List.foldl_cons, h2, h1]⟩

theorem Fibre.landNow_eq (f : Fibre) (p : Nat × Nat × Word) :
    ∃ rs ps pd, f.landNow p = { f with regs := rs, preds := ps, pend := pd } := by
  obtain ⟨rs, ps, h⟩ := Fibre.put_eq f p.2.1 p.2.2
  exact ⟨rs, ps, _, by rw [Fibre.landNow, h]⟩

theorem Fibre.settle_eq (f : Fibre) :
    ∃ rs ps pd, f.settle = { f with regs := rs, preds := ps, pend := pd, landed := [] } := by
  have go (l : List (Nat × Nat × Word)) (f : Fibre) :
      ∃ rs ps pd, l.foldl Fibre.landNow f = { f with regs := rs, preds := ps, pend := pd } := by
    induction l generalizing f with
    | nil => exact ⟨_, _, _, rfl⟩
    | cons p l ih =>
      obtain ⟨r1, p1, d1, h1⟩ := Fibre.landNow_eq f p
      obtain ⟨r2, p2, d2, h2⟩ := ih (f.landNow p)
      exact ⟨r2, p2, d2, by rw [List.foldl_cons, h2, h1]⟩
  obtain ⟨rs, ps, pd, h⟩ := go f.landed f
  exact ⟨rs, ps, pd, by rw [Fibre.settle, h]⟩

theorem Fibre.flush_eq (f : Fibre) :
    ∃ rs ps, f.flush = { f with regs := rs, preds := ps, pend := [], landed := [] } := by
  obtain ⟨r1, p1, d1, h1⟩ := Fibre.settle_eq f
  obtain ⟨rs, ps, h⟩ := Fibre.applyAll_eq f.settle f.settle.pend
  exact ⟨rs, ps, by rw [Fibre.flush, h, h1]⟩

theorem Fibre.advance_eq (f : Fibre) (n : Nat) :
    ∃ rs ps pd, f.advance n = { f with regs := rs, preds := ps, pend := pd } := by
  obtain ⟨rs, ps, h⟩ := Fibre.applyAll_eq f
    ((f.pend.map fun p => { p with left := p.left - n }).filter fun p => p.left = 0)
  exact ⟨rs, ps, _, by rw [Fibre.advance, h]⟩

theorem Fibre.later_eq (f : Fibre) (l c : Nat) (v : Word) : ∃ pd w, f.later l c v = { f with pend := pd, wseq := w } := by
  unfold Fibre.later
  split
  · exact ⟨f.pend, f.wseq, rfl⟩
  · exact ⟨_, _, rfl⟩

theorem Fibre.now_eq (f : Fibre) (c : Nat) (v : Word) :
    ∃ rs ps pd ld, f.now c v = { f with regs := rs, preds := ps, pend := pd, landed := ld } := by
  obtain ⟨rs, ps, h⟩ := Fibre.put_eq f c v
  exact ⟨rs, ps, _, _, by rw [Fibre.now, h]⟩

/-! The fields that Fibre.put keeps. -/

@[simp] theorem Fibre.put_uid (f : Fibre) (c : Nat) (v : Word) : (f.put c v).uid = f.uid := by
  obtain ⟨_, _, h⟩ := Fibre.put_eq f c v; rw [h]
@[simp] theorem Fibre.put_launch (f : Fibre) (c : Nat) (v : Word) : (f.put c v).launch = f.launch := by
  obtain ⟨_, _, h⟩ := Fibre.put_eq f c v; rw [h]
@[simp] theorem Fibre.put_block (f : Fibre) (c : Nat) (v : Word) : (f.put c v).block = f.block := by
  obtain ⟨_, _, h⟩ := Fibre.put_eq f c v; rw [h]
@[simp] theorem Fibre.put_core (f : Fibre) (c : Nat) (v : Word) : (f.put c v).core = f.core := by
  obtain ⟨_, _, h⟩ := Fibre.put_eq f c v; rw [h]
@[simp] theorem Fibre.put_fid (f : Fibre) (c : Nat) (v : Word) : (f.put c v).fid = f.fid := by
  obtain ⟨_, _, h⟩ := Fibre.put_eq f c v; rw [h]
@[simp] theorem Fibre.put_origin (f : Fibre) (c : Nat) (v : Word) : (f.put c v).origin = f.origin := by
  obtain ⟨_, _, h⟩ := Fibre.put_eq f c v; rw [h]
@[simp] theorem Fibre.put_status (f : Fibre) (c : Nat) (v : Word) : (f.put c v).status = f.status := by
  obtain ⟨_, _, h⟩ := Fibre.put_eq f c v; rw [h]
@[simp] theorem Fibre.put_pc (f : Fibre) (c : Nat) (v : Word) : (f.put c v).pc = f.pc := by
  obtain ⟨_, _, h⟩ := Fibre.put_eq f c v; rw [h]
@[simp] theorem Fibre.put_window (f : Fibre) (c : Nat) (v : Word) : (f.put c v).window = f.window := by
  obtain ⟨_, _, h⟩ := Fibre.put_eq f c v; rw [h]
@[simp] theorem Fibre.put_pend (f : Fibre) (c : Nat) (v : Word) : (f.put c v).pend = f.pend := by
  obtain ⟨_, _, h⟩ := Fibre.put_eq f c v; rw [h]
@[simp] theorem Fibre.put_landed (f : Fibre) (c : Nat) (v : Word) : (f.put c v).landed = f.landed := by
  obtain ⟨_, _, h⟩ := Fibre.put_eq f c v; rw [h]
@[simp] theorem Fibre.put_wseq (f : Fibre) (c : Nat) (v : Word) : (f.put c v).wseq = f.wseq := by
  obtain ⟨_, _, h⟩ := Fibre.put_eq f c v; rw [h]
@[simp] theorem Fibre.put_frames (f : Fibre) (c : Nat) (v : Word) : (f.put c v).frames = f.frames := by
  obtain ⟨_, _, h⟩ := Fibre.put_eq f c v; rw [h]
@[simp] theorem Fibre.put_inline (f : Fibre) (c : Nat) (v : Word) : (f.put c v).inline = f.inline := by
  obtain ⟨_, _, h⟩ := Fibre.put_eq f c v; rw [h]
@[simp] theorem Fibre.put_root (f : Fibre) (c : Nat) (v : Word) : (f.put c v).root = f.root := by
  obtain ⟨_, _, h⟩ := Fibre.put_eq f c v; rw [h]
@[simp] theorem Fibre.put_lc0 (f : Fibre) (c : Nat) (v : Word) : (f.put c v).lc0 = f.lc0 := by
  obtain ⟨_, _, h⟩ := Fibre.put_eq f c v; rw [h]
@[simp] theorem Fibre.put_lc1 (f : Fibre) (c : Nat) (v : Word) : (f.put c v).lc1 = f.lc1 := by
  obtain ⟨_, _, h⟩ := Fibre.put_eq f c v; rw [h]
@[simp] theorem Fibre.put_lc2 (f : Fibre) (c : Nat) (v : Word) : (f.put c v).lc2 = f.lc2 := by
  obtain ⟨_, _, h⟩ := Fibre.put_eq f c v; rw [h]
@[simp] theorem Fibre.put_loopSeq (f : Fibre) (c : Nat) (v : Word) : (f.put c v).loopSeq = f.loopSeq := by
  obtain ⟨_, _, h⟩ := Fibre.put_eq f c v; rw [h]
@[simp] theorem Fibre.put_prio (f : Fibre) (c : Nat) (v : Word) : (f.put c v).prio = f.prio := by
  obtain ⟨_, _, h⟩ := Fibre.put_eq f c v; rw [h]
@[simp] theorem Fibre.put_mode (f : Fibre) (c : Nat) (v : Word) : (f.put c v).mode = f.mode := by
  obtain ⟨_, _, h⟩ := Fibre.put_eq f c v; rw [h]
@[simp] theorem Fibre.put_sat (f : Fibre) (c : Nat) (v : Word) : (f.put c v).sat = f.sat := by
  obtain ⟨_, _, h⟩ := Fibre.put_eq f c v; rw [h]
@[simp] theorem Fibre.put_outs (f : Fibre) (c : Nat) (v : Word) : (f.put c v).outs = f.outs := by
  obtain ⟨_, _, h⟩ := Fibre.put_eq f c v; rw [h]
@[simp] theorem Fibre.put_set (f : Fibre) (c : Nat) (v : Word) : (f.put c v).set = f.set := by
  obtain ⟨_, _, h⟩ := Fibre.put_eq f c v; rw [h]
@[simp] theorem Fibre.put_arrived (f : Fibre) (c : Nat) (v : Word) : (f.put c v).arrived = f.arrived := by
  obtain ⟨_, _, h⟩ := Fibre.put_eq f c v; rw [h]
@[simp] theorem Fibre.put_votes (f : Fibre) (c : Nat) (v : Word) : (f.put c v).votes = f.votes := by
  obtain ⟨_, _, h⟩ := Fibre.put_eq f c v; rw [h]
@[simp] theorem Fibre.put_held (f : Fibre) (c : Nat) (v : Word) : (f.put c v).held = f.held := by
  obtain ⟨_, _, h⟩ := Fibre.put_eq f c v; rw [h]
@[simp] theorem Fibre.put_tag (f : Fibre) (c : Nat) (v : Word) : (f.put c v).tag = f.tag := by
  obtain ⟨_, _, h⟩ := Fibre.put_eq f c v; rw [h]
@[simp] theorem Fibre.put_plzSet (f : Fibre) (c : Nat) (v : Word) : (f.put c v).plzSet = f.plzSet := by
  obtain ⟨_, _, h⟩ := Fibre.put_eq f c v; rw [h]
@[simp] theorem Fibre.put_aborted (f : Fibre) (c : Nat) (v : Word) : (f.put c v).aborted = f.aborted := by
  obtain ⟨_, _, h⟩ := Fibre.put_eq f c v; rw [h]
@[simp] theorem Fibre.put_hbc (f : Fibre) (c : Nat) (v : Word) : (f.put c v).hbc = f.hbc := by
  obtain ⟨_, _, h⟩ := Fibre.put_eq f c v; rw [h]
@[simp] theorem Fibre.put_dist (f : Fibre) (c : Nat) (v : Word) : (f.put c v).dist = f.dist := by
  obtain ⟨_, _, h⟩ := Fibre.put_eq f c v; rw [h]
@[simp] theorem Fibre.put_passed (f : Fibre) (c : Nat) (v : Word) : (f.put c v).passed = f.passed := by
  obtain ⟨_, _, h⟩ := Fibre.put_eq f c v; rw [h]
@[simp] theorem Fibre.put_seg (f : Fibre) (c : Nat) (v : Word) : (f.put c v).seg = f.seg := by
  obtain ⟨_, _, h⟩ := Fibre.put_eq f c v; rw [h]
@[simp] theorem Fibre.put_tiles (f : Fibre) (c : Nat) (v : Word) : (f.put c v).tiles = f.tiles := by
  obtain ⟨_, _, h⟩ := Fibre.put_eq f c v; rw [h]
@[simp] theorem Fibre.put_live (f : Fibre) (c : Nat) (v : Word) : (f.put c v).live = f.live := by
  obtain ⟨_, _, h⟩ := Fibre.put_eq f c v; rw [h]
@[simp] theorem Fibre.put_craco (f : Fibre) (c : Nat) (v : Word) : (f.put c v).craco = f.craco := by
  obtain ⟨_, _, h⟩ := Fibre.put_eq f c v; rw [h]
@[simp] theorem Fibre.put_xlat (f : Fibre) (c : Nat) (v : Word) : (f.put c v).xlat = f.xlat := by
  obtain ⟨_, _, h⟩ := Fibre.put_eq f c v; rw [h]
@[simp] theorem Fibre.put_vector (f : Fibre) (c : Nat) (v : Word) : (f.put c v).vector = f.vector := by
  obtain ⟨_, _, h⟩ := Fibre.put_eq f c v; rw [h]
@[simp] theorem Fibre.put_trapMode (f : Fibre) (c : Nat) (v : Word) : (f.put c v).trapMode = f.trapMode := by
  obtain ⟨_, _, h⟩ := Fibre.put_eq f c v; rw [h]
@[simp] theorem Fibre.put_deferred (f : Fibre) (c : Nat) (v : Word) : (f.put c v).deferred = f.deferred := by
  obtain ⟨_, _, h⟩ := Fibre.put_eq f c v; rw [h]
@[simp] theorem Fibre.put_fresh (f : Fibre) (c : Nat) (v : Word) : (f.put c v).fresh = f.fresh := by
  obtain ⟨_, _, h⟩ := Fibre.put_eq f c v; rw [h]
@[simp] theorem Fibre.put_mxFaults (f : Fibre) (c : Nat) (v : Word) : (f.put c v).mxFaults = f.mxFaults := by
  obtain ⟨_, _, h⟩ := Fibre.put_eq f c v; rw [h]
@[simp] theorem Fibre.put_abort (f : Fibre) (c : Nat) (v : Word) : (f.put c v).abort = f.abort := by
  obtain ⟨_, _, h⟩ := Fibre.put_eq f c v; rw [h]
@[simp] theorem Fibre.put_wait (f : Fibre) (c : Nat) (v : Word) : (f.put c v).wait = f.wait := by
  obtain ⟨_, _, h⟩ := Fibre.put_eq f c v; rw [h]
@[simp] theorem Fibre.put_waited (f : Fibre) (c : Nat) (v : Word) : (f.put c v).waited = f.waited := by
  obtain ⟨_, _, h⟩ := Fibre.put_eq f c v; rw [h]
@[simp] theorem Fibre.put_inst (f : Fibre) (c : Nat) (v : Word) : (f.put c v).inst = f.inst := by
  obtain ⟨_, _, h⟩ := Fibre.put_eq f c v; rw [h]
@[simp] theorem Fibre.put_tickDue (f : Fibre) (c : Nat) (v : Word) : (f.put c v).tickDue = f.tickDue := by
  obtain ⟨_, _, h⟩ := Fibre.put_eq f c v; rw [h]
@[simp] theorem Fibre.put_rebody (f : Fibre) (c : Nat) (v : Word) : (f.put c v).rebody = f.rebody := by
  obtain ⟨_, _, h⟩ := Fibre.put_eq f c v; rw [h]
@[simp] theorem Fibre.put_fuse (f : Fibre) (c : Nat) (v : Word) : (f.put c v).fuse = f.fuse := by
  obtain ⟨_, _, h⟩ := Fibre.put_eq f c v; rw [h]
@[simp] theorem Fibre.put_rejoin (f : Fibre) (c : Nat) (v : Word) : (f.put c v).rejoin = f.rejoin := by
  obtain ⟨_, _, h⟩ := Fibre.put_eq f c v; rw [h]
@[simp] theorem Fibre.put_mxSeq (f : Fibre) (c : Nat) (v : Word) : (f.put c v).mxSeq = f.mxSeq := by
  obtain ⟨_, _, h⟩ := Fibre.put_eq f c v; rw [h]
@[simp] theorem Fibre.put_preempt (f : Fibre) (c : Nat) (v : Word) : (f.put c v).preempt = f.preempt := by
  obtain ⟨_, _, h⟩ := Fibre.put_eq f c v; rw [h]
@[simp] theorem Fibre.put_stopped (f : Fibre) (c : Nat) (v : Word) : (f.put c v).stopped = f.stopped := by
  obtain ⟨_, _, h⟩ := Fibre.put_eq f c v; rw [h]
@[simp] theorem Fibre.put_result (f : Fibre) (c : Nat) (v : Word) : (f.put c v).result = f.result := by
  obtain ⟨_, _, h⟩ := Fibre.put_eq f c v; rw [h]
@[simp] theorem Fibre.put_closing (f : Fibre) (c : Nat) (v : Word) : (f.put c v).closing = f.closing := by
  obtain ⟨_, _, h⟩ := Fibre.put_eq f c v; rw [h]
@[simp] theorem Fibre.put_after (f : Fibre) (c : Nat) (v : Word) : (f.put c v).after = f.after := by
  obtain ⟨_, _, h⟩ := Fibre.put_eq f c v; rw [h]
@[simp] theorem Fibre.put_before (f : Fibre) (c : Nat) (v : Word) : (f.put c v).before = f.before := by
  obtain ⟨_, _, h⟩ := Fibre.put_eq f c v; rw [h]
@[simp] theorem Fibre.put_parent (f : Fibre) (c : Nat) (v : Word) : (f.put c v).parent = f.parent := by
  obtain ⟨_, _, h⟩ := Fibre.put_eq f c v; rw [h]

/-! The fields that Fibre.applyAll keeps. -/

@[simp] theorem Fibre.applyAll_uid (f : Fibre) (l : List Pend) : (f.applyAll l).uid = f.uid := by
  obtain ⟨_, _, h⟩ := Fibre.applyAll_eq f l; rw [h]
@[simp] theorem Fibre.applyAll_launch (f : Fibre) (l : List Pend) : (f.applyAll l).launch = f.launch := by
  obtain ⟨_, _, h⟩ := Fibre.applyAll_eq f l; rw [h]
@[simp] theorem Fibre.applyAll_block (f : Fibre) (l : List Pend) : (f.applyAll l).block = f.block := by
  obtain ⟨_, _, h⟩ := Fibre.applyAll_eq f l; rw [h]
@[simp] theorem Fibre.applyAll_core (f : Fibre) (l : List Pend) : (f.applyAll l).core = f.core := by
  obtain ⟨_, _, h⟩ := Fibre.applyAll_eq f l; rw [h]
@[simp] theorem Fibre.applyAll_fid (f : Fibre) (l : List Pend) : (f.applyAll l).fid = f.fid := by
  obtain ⟨_, _, h⟩ := Fibre.applyAll_eq f l; rw [h]
@[simp] theorem Fibre.applyAll_origin (f : Fibre) (l : List Pend) : (f.applyAll l).origin = f.origin := by
  obtain ⟨_, _, h⟩ := Fibre.applyAll_eq f l; rw [h]
@[simp] theorem Fibre.applyAll_status (f : Fibre) (l : List Pend) : (f.applyAll l).status = f.status := by
  obtain ⟨_, _, h⟩ := Fibre.applyAll_eq f l; rw [h]
@[simp] theorem Fibre.applyAll_pc (f : Fibre) (l : List Pend) : (f.applyAll l).pc = f.pc := by
  obtain ⟨_, _, h⟩ := Fibre.applyAll_eq f l; rw [h]
@[simp] theorem Fibre.applyAll_window (f : Fibre) (l : List Pend) : (f.applyAll l).window = f.window := by
  obtain ⟨_, _, h⟩ := Fibre.applyAll_eq f l; rw [h]
@[simp] theorem Fibre.applyAll_pend (f : Fibre) (l : List Pend) : (f.applyAll l).pend = f.pend := by
  obtain ⟨_, _, h⟩ := Fibre.applyAll_eq f l; rw [h]
@[simp] theorem Fibre.applyAll_landed (f : Fibre) (l : List Pend) : (f.applyAll l).landed = f.landed := by
  obtain ⟨_, _, h⟩ := Fibre.applyAll_eq f l; rw [h]
@[simp] theorem Fibre.applyAll_wseq (f : Fibre) (l : List Pend) : (f.applyAll l).wseq = f.wseq := by
  obtain ⟨_, _, h⟩ := Fibre.applyAll_eq f l; rw [h]
@[simp] theorem Fibre.applyAll_frames (f : Fibre) (l : List Pend) : (f.applyAll l).frames = f.frames := by
  obtain ⟨_, _, h⟩ := Fibre.applyAll_eq f l; rw [h]
@[simp] theorem Fibre.applyAll_inline (f : Fibre) (l : List Pend) : (f.applyAll l).inline = f.inline := by
  obtain ⟨_, _, h⟩ := Fibre.applyAll_eq f l; rw [h]
@[simp] theorem Fibre.applyAll_root (f : Fibre) (l : List Pend) : (f.applyAll l).root = f.root := by
  obtain ⟨_, _, h⟩ := Fibre.applyAll_eq f l; rw [h]
@[simp] theorem Fibre.applyAll_lc0 (f : Fibre) (l : List Pend) : (f.applyAll l).lc0 = f.lc0 := by
  obtain ⟨_, _, h⟩ := Fibre.applyAll_eq f l; rw [h]
@[simp] theorem Fibre.applyAll_lc1 (f : Fibre) (l : List Pend) : (f.applyAll l).lc1 = f.lc1 := by
  obtain ⟨_, _, h⟩ := Fibre.applyAll_eq f l; rw [h]
@[simp] theorem Fibre.applyAll_lc2 (f : Fibre) (l : List Pend) : (f.applyAll l).lc2 = f.lc2 := by
  obtain ⟨_, _, h⟩ := Fibre.applyAll_eq f l; rw [h]
@[simp] theorem Fibre.applyAll_loopSeq (f : Fibre) (l : List Pend) : (f.applyAll l).loopSeq = f.loopSeq := by
  obtain ⟨_, _, h⟩ := Fibre.applyAll_eq f l; rw [h]
@[simp] theorem Fibre.applyAll_prio (f : Fibre) (l : List Pend) : (f.applyAll l).prio = f.prio := by
  obtain ⟨_, _, h⟩ := Fibre.applyAll_eq f l; rw [h]
@[simp] theorem Fibre.applyAll_mode (f : Fibre) (l : List Pend) : (f.applyAll l).mode = f.mode := by
  obtain ⟨_, _, h⟩ := Fibre.applyAll_eq f l; rw [h]
@[simp] theorem Fibre.applyAll_sat (f : Fibre) (l : List Pend) : (f.applyAll l).sat = f.sat := by
  obtain ⟨_, _, h⟩ := Fibre.applyAll_eq f l; rw [h]
@[simp] theorem Fibre.applyAll_outs (f : Fibre) (l : List Pend) : (f.applyAll l).outs = f.outs := by
  obtain ⟨_, _, h⟩ := Fibre.applyAll_eq f l; rw [h]
@[simp] theorem Fibre.applyAll_set (f : Fibre) (l : List Pend) : (f.applyAll l).set = f.set := by
  obtain ⟨_, _, h⟩ := Fibre.applyAll_eq f l; rw [h]
@[simp] theorem Fibre.applyAll_arrived (f : Fibre) (l : List Pend) : (f.applyAll l).arrived = f.arrived := by
  obtain ⟨_, _, h⟩ := Fibre.applyAll_eq f l; rw [h]
@[simp] theorem Fibre.applyAll_votes (f : Fibre) (l : List Pend) : (f.applyAll l).votes = f.votes := by
  obtain ⟨_, _, h⟩ := Fibre.applyAll_eq f l; rw [h]
@[simp] theorem Fibre.applyAll_held (f : Fibre) (l : List Pend) : (f.applyAll l).held = f.held := by
  obtain ⟨_, _, h⟩ := Fibre.applyAll_eq f l; rw [h]
@[simp] theorem Fibre.applyAll_tag (f : Fibre) (l : List Pend) : (f.applyAll l).tag = f.tag := by
  obtain ⟨_, _, h⟩ := Fibre.applyAll_eq f l; rw [h]
@[simp] theorem Fibre.applyAll_plzSet (f : Fibre) (l : List Pend) : (f.applyAll l).plzSet = f.plzSet := by
  obtain ⟨_, _, h⟩ := Fibre.applyAll_eq f l; rw [h]
@[simp] theorem Fibre.applyAll_aborted (f : Fibre) (l : List Pend) : (f.applyAll l).aborted = f.aborted := by
  obtain ⟨_, _, h⟩ := Fibre.applyAll_eq f l; rw [h]
@[simp] theorem Fibre.applyAll_hbc (f : Fibre) (l : List Pend) : (f.applyAll l).hbc = f.hbc := by
  obtain ⟨_, _, h⟩ := Fibre.applyAll_eq f l; rw [h]
@[simp] theorem Fibre.applyAll_dist (f : Fibre) (l : List Pend) : (f.applyAll l).dist = f.dist := by
  obtain ⟨_, _, h⟩ := Fibre.applyAll_eq f l; rw [h]
@[simp] theorem Fibre.applyAll_passed (f : Fibre) (l : List Pend) : (f.applyAll l).passed = f.passed := by
  obtain ⟨_, _, h⟩ := Fibre.applyAll_eq f l; rw [h]
@[simp] theorem Fibre.applyAll_seg (f : Fibre) (l : List Pend) : (f.applyAll l).seg = f.seg := by
  obtain ⟨_, _, h⟩ := Fibre.applyAll_eq f l; rw [h]
@[simp] theorem Fibre.applyAll_tiles (f : Fibre) (l : List Pend) : (f.applyAll l).tiles = f.tiles := by
  obtain ⟨_, _, h⟩ := Fibre.applyAll_eq f l; rw [h]
@[simp] theorem Fibre.applyAll_live (f : Fibre) (l : List Pend) : (f.applyAll l).live = f.live := by
  obtain ⟨_, _, h⟩ := Fibre.applyAll_eq f l; rw [h]
@[simp] theorem Fibre.applyAll_craco (f : Fibre) (l : List Pend) : (f.applyAll l).craco = f.craco := by
  obtain ⟨_, _, h⟩ := Fibre.applyAll_eq f l; rw [h]
@[simp] theorem Fibre.applyAll_xlat (f : Fibre) (l : List Pend) : (f.applyAll l).xlat = f.xlat := by
  obtain ⟨_, _, h⟩ := Fibre.applyAll_eq f l; rw [h]
@[simp] theorem Fibre.applyAll_vector (f : Fibre) (l : List Pend) : (f.applyAll l).vector = f.vector := by
  obtain ⟨_, _, h⟩ := Fibre.applyAll_eq f l; rw [h]
@[simp] theorem Fibre.applyAll_trapMode (f : Fibre) (l : List Pend) : (f.applyAll l).trapMode = f.trapMode := by
  obtain ⟨_, _, h⟩ := Fibre.applyAll_eq f l; rw [h]
@[simp] theorem Fibre.applyAll_deferred (f : Fibre) (l : List Pend) : (f.applyAll l).deferred = f.deferred := by
  obtain ⟨_, _, h⟩ := Fibre.applyAll_eq f l; rw [h]
@[simp] theorem Fibre.applyAll_fresh (f : Fibre) (l : List Pend) : (f.applyAll l).fresh = f.fresh := by
  obtain ⟨_, _, h⟩ := Fibre.applyAll_eq f l; rw [h]
@[simp] theorem Fibre.applyAll_mxFaults (f : Fibre) (l : List Pend) : (f.applyAll l).mxFaults = f.mxFaults := by
  obtain ⟨_, _, h⟩ := Fibre.applyAll_eq f l; rw [h]
@[simp] theorem Fibre.applyAll_abort (f : Fibre) (l : List Pend) : (f.applyAll l).abort = f.abort := by
  obtain ⟨_, _, h⟩ := Fibre.applyAll_eq f l; rw [h]
@[simp] theorem Fibre.applyAll_wait (f : Fibre) (l : List Pend) : (f.applyAll l).wait = f.wait := by
  obtain ⟨_, _, h⟩ := Fibre.applyAll_eq f l; rw [h]
@[simp] theorem Fibre.applyAll_waited (f : Fibre) (l : List Pend) : (f.applyAll l).waited = f.waited := by
  obtain ⟨_, _, h⟩ := Fibre.applyAll_eq f l; rw [h]
@[simp] theorem Fibre.applyAll_inst (f : Fibre) (l : List Pend) : (f.applyAll l).inst = f.inst := by
  obtain ⟨_, _, h⟩ := Fibre.applyAll_eq f l; rw [h]
@[simp] theorem Fibre.applyAll_tickDue (f : Fibre) (l : List Pend) : (f.applyAll l).tickDue = f.tickDue := by
  obtain ⟨_, _, h⟩ := Fibre.applyAll_eq f l; rw [h]
@[simp] theorem Fibre.applyAll_rebody (f : Fibre) (l : List Pend) : (f.applyAll l).rebody = f.rebody := by
  obtain ⟨_, _, h⟩ := Fibre.applyAll_eq f l; rw [h]
@[simp] theorem Fibre.applyAll_fuse (f : Fibre) (l : List Pend) : (f.applyAll l).fuse = f.fuse := by
  obtain ⟨_, _, h⟩ := Fibre.applyAll_eq f l; rw [h]
@[simp] theorem Fibre.applyAll_rejoin (f : Fibre) (l : List Pend) : (f.applyAll l).rejoin = f.rejoin := by
  obtain ⟨_, _, h⟩ := Fibre.applyAll_eq f l; rw [h]
@[simp] theorem Fibre.applyAll_mxSeq (f : Fibre) (l : List Pend) : (f.applyAll l).mxSeq = f.mxSeq := by
  obtain ⟨_, _, h⟩ := Fibre.applyAll_eq f l; rw [h]
@[simp] theorem Fibre.applyAll_preempt (f : Fibre) (l : List Pend) : (f.applyAll l).preempt = f.preempt := by
  obtain ⟨_, _, h⟩ := Fibre.applyAll_eq f l; rw [h]
@[simp] theorem Fibre.applyAll_stopped (f : Fibre) (l : List Pend) : (f.applyAll l).stopped = f.stopped := by
  obtain ⟨_, _, h⟩ := Fibre.applyAll_eq f l; rw [h]
@[simp] theorem Fibre.applyAll_result (f : Fibre) (l : List Pend) : (f.applyAll l).result = f.result := by
  obtain ⟨_, _, h⟩ := Fibre.applyAll_eq f l; rw [h]
@[simp] theorem Fibre.applyAll_closing (f : Fibre) (l : List Pend) : (f.applyAll l).closing = f.closing := by
  obtain ⟨_, _, h⟩ := Fibre.applyAll_eq f l; rw [h]
@[simp] theorem Fibre.applyAll_after (f : Fibre) (l : List Pend) : (f.applyAll l).after = f.after := by
  obtain ⟨_, _, h⟩ := Fibre.applyAll_eq f l; rw [h]
@[simp] theorem Fibre.applyAll_before (f : Fibre) (l : List Pend) : (f.applyAll l).before = f.before := by
  obtain ⟨_, _, h⟩ := Fibre.applyAll_eq f l; rw [h]
@[simp] theorem Fibre.applyAll_parent (f : Fibre) (l : List Pend) : (f.applyAll l).parent = f.parent := by
  obtain ⟨_, _, h⟩ := Fibre.applyAll_eq f l; rw [h]

/-! The fields that Fibre.settle keeps. -/

@[simp] theorem Fibre.settle_uid (f : Fibre) : (f.settle).uid = f.uid := by
  obtain ⟨_, _, _, h⟩ := Fibre.settle_eq f; rw [h]
@[simp] theorem Fibre.settle_launch (f : Fibre) : (f.settle).launch = f.launch := by
  obtain ⟨_, _, _, h⟩ := Fibre.settle_eq f; rw [h]
@[simp] theorem Fibre.settle_block (f : Fibre) : (f.settle).block = f.block := by
  obtain ⟨_, _, _, h⟩ := Fibre.settle_eq f; rw [h]
@[simp] theorem Fibre.settle_core (f : Fibre) : (f.settle).core = f.core := by
  obtain ⟨_, _, _, h⟩ := Fibre.settle_eq f; rw [h]
@[simp] theorem Fibre.settle_fid (f : Fibre) : (f.settle).fid = f.fid := by
  obtain ⟨_, _, _, h⟩ := Fibre.settle_eq f; rw [h]
@[simp] theorem Fibre.settle_origin (f : Fibre) : (f.settle).origin = f.origin := by
  obtain ⟨_, _, _, h⟩ := Fibre.settle_eq f; rw [h]
@[simp] theorem Fibre.settle_status (f : Fibre) : (f.settle).status = f.status := by
  obtain ⟨_, _, _, h⟩ := Fibre.settle_eq f; rw [h]
@[simp] theorem Fibre.settle_pc (f : Fibre) : (f.settle).pc = f.pc := by
  obtain ⟨_, _, _, h⟩ := Fibre.settle_eq f; rw [h]
@[simp] theorem Fibre.settle_window (f : Fibre) : (f.settle).window = f.window := by
  obtain ⟨_, _, _, h⟩ := Fibre.settle_eq f; rw [h]
@[simp] theorem Fibre.settle_wseq (f : Fibre) : (f.settle).wseq = f.wseq := by
  obtain ⟨_, _, _, h⟩ := Fibre.settle_eq f; rw [h]
@[simp] theorem Fibre.settle_frames (f : Fibre) : (f.settle).frames = f.frames := by
  obtain ⟨_, _, _, h⟩ := Fibre.settle_eq f; rw [h]
@[simp] theorem Fibre.settle_inline (f : Fibre) : (f.settle).inline = f.inline := by
  obtain ⟨_, _, _, h⟩ := Fibre.settle_eq f; rw [h]
@[simp] theorem Fibre.settle_root (f : Fibre) : (f.settle).root = f.root := by
  obtain ⟨_, _, _, h⟩ := Fibre.settle_eq f; rw [h]
@[simp] theorem Fibre.settle_lc0 (f : Fibre) : (f.settle).lc0 = f.lc0 := by
  obtain ⟨_, _, _, h⟩ := Fibre.settle_eq f; rw [h]
@[simp] theorem Fibre.settle_lc1 (f : Fibre) : (f.settle).lc1 = f.lc1 := by
  obtain ⟨_, _, _, h⟩ := Fibre.settle_eq f; rw [h]
@[simp] theorem Fibre.settle_lc2 (f : Fibre) : (f.settle).lc2 = f.lc2 := by
  obtain ⟨_, _, _, h⟩ := Fibre.settle_eq f; rw [h]
@[simp] theorem Fibre.settle_loopSeq (f : Fibre) : (f.settle).loopSeq = f.loopSeq := by
  obtain ⟨_, _, _, h⟩ := Fibre.settle_eq f; rw [h]
@[simp] theorem Fibre.settle_prio (f : Fibre) : (f.settle).prio = f.prio := by
  obtain ⟨_, _, _, h⟩ := Fibre.settle_eq f; rw [h]
@[simp] theorem Fibre.settle_mode (f : Fibre) : (f.settle).mode = f.mode := by
  obtain ⟨_, _, _, h⟩ := Fibre.settle_eq f; rw [h]
@[simp] theorem Fibre.settle_sat (f : Fibre) : (f.settle).sat = f.sat := by
  obtain ⟨_, _, _, h⟩ := Fibre.settle_eq f; rw [h]
@[simp] theorem Fibre.settle_outs (f : Fibre) : (f.settle).outs = f.outs := by
  obtain ⟨_, _, _, h⟩ := Fibre.settle_eq f; rw [h]
@[simp] theorem Fibre.settle_set (f : Fibre) : (f.settle).set = f.set := by
  obtain ⟨_, _, _, h⟩ := Fibre.settle_eq f; rw [h]
@[simp] theorem Fibre.settle_arrived (f : Fibre) : (f.settle).arrived = f.arrived := by
  obtain ⟨_, _, _, h⟩ := Fibre.settle_eq f; rw [h]
@[simp] theorem Fibre.settle_votes (f : Fibre) : (f.settle).votes = f.votes := by
  obtain ⟨_, _, _, h⟩ := Fibre.settle_eq f; rw [h]
@[simp] theorem Fibre.settle_held (f : Fibre) : (f.settle).held = f.held := by
  obtain ⟨_, _, _, h⟩ := Fibre.settle_eq f; rw [h]
@[simp] theorem Fibre.settle_tag (f : Fibre) : (f.settle).tag = f.tag := by
  obtain ⟨_, _, _, h⟩ := Fibre.settle_eq f; rw [h]
@[simp] theorem Fibre.settle_plzSet (f : Fibre) : (f.settle).plzSet = f.plzSet := by
  obtain ⟨_, _, _, h⟩ := Fibre.settle_eq f; rw [h]
@[simp] theorem Fibre.settle_aborted (f : Fibre) : (f.settle).aborted = f.aborted := by
  obtain ⟨_, _, _, h⟩ := Fibre.settle_eq f; rw [h]
@[simp] theorem Fibre.settle_hbc (f : Fibre) : (f.settle).hbc = f.hbc := by
  obtain ⟨_, _, _, h⟩ := Fibre.settle_eq f; rw [h]
@[simp] theorem Fibre.settle_dist (f : Fibre) : (f.settle).dist = f.dist := by
  obtain ⟨_, _, _, h⟩ := Fibre.settle_eq f; rw [h]
@[simp] theorem Fibre.settle_passed (f : Fibre) : (f.settle).passed = f.passed := by
  obtain ⟨_, _, _, h⟩ := Fibre.settle_eq f; rw [h]
@[simp] theorem Fibre.settle_seg (f : Fibre) : (f.settle).seg = f.seg := by
  obtain ⟨_, _, _, h⟩ := Fibre.settle_eq f; rw [h]
@[simp] theorem Fibre.settle_tiles (f : Fibre) : (f.settle).tiles = f.tiles := by
  obtain ⟨_, _, _, h⟩ := Fibre.settle_eq f; rw [h]
@[simp] theorem Fibre.settle_live (f : Fibre) : (f.settle).live = f.live := by
  obtain ⟨_, _, _, h⟩ := Fibre.settle_eq f; rw [h]
@[simp] theorem Fibre.settle_craco (f : Fibre) : (f.settle).craco = f.craco := by
  obtain ⟨_, _, _, h⟩ := Fibre.settle_eq f; rw [h]
@[simp] theorem Fibre.settle_xlat (f : Fibre) : (f.settle).xlat = f.xlat := by
  obtain ⟨_, _, _, h⟩ := Fibre.settle_eq f; rw [h]
@[simp] theorem Fibre.settle_vector (f : Fibre) : (f.settle).vector = f.vector := by
  obtain ⟨_, _, _, h⟩ := Fibre.settle_eq f; rw [h]
@[simp] theorem Fibre.settle_trapMode (f : Fibre) : (f.settle).trapMode = f.trapMode := by
  obtain ⟨_, _, _, h⟩ := Fibre.settle_eq f; rw [h]
@[simp] theorem Fibre.settle_deferred (f : Fibre) : (f.settle).deferred = f.deferred := by
  obtain ⟨_, _, _, h⟩ := Fibre.settle_eq f; rw [h]
@[simp] theorem Fibre.settle_fresh (f : Fibre) : (f.settle).fresh = f.fresh := by
  obtain ⟨_, _, _, h⟩ := Fibre.settle_eq f; rw [h]
@[simp] theorem Fibre.settle_mxFaults (f : Fibre) : (f.settle).mxFaults = f.mxFaults := by
  obtain ⟨_, _, _, h⟩ := Fibre.settle_eq f; rw [h]
@[simp] theorem Fibre.settle_abort (f : Fibre) : (f.settle).abort = f.abort := by
  obtain ⟨_, _, _, h⟩ := Fibre.settle_eq f; rw [h]
@[simp] theorem Fibre.settle_wait (f : Fibre) : (f.settle).wait = f.wait := by
  obtain ⟨_, _, _, h⟩ := Fibre.settle_eq f; rw [h]
@[simp] theorem Fibre.settle_waited (f : Fibre) : (f.settle).waited = f.waited := by
  obtain ⟨_, _, _, h⟩ := Fibre.settle_eq f; rw [h]
@[simp] theorem Fibre.settle_inst (f : Fibre) : (f.settle).inst = f.inst := by
  obtain ⟨_, _, _, h⟩ := Fibre.settle_eq f; rw [h]
@[simp] theorem Fibre.settle_tickDue (f : Fibre) : (f.settle).tickDue = f.tickDue := by
  obtain ⟨_, _, _, h⟩ := Fibre.settle_eq f; rw [h]
@[simp] theorem Fibre.settle_rebody (f : Fibre) : (f.settle).rebody = f.rebody := by
  obtain ⟨_, _, _, h⟩ := Fibre.settle_eq f; rw [h]
@[simp] theorem Fibre.settle_fuse (f : Fibre) : (f.settle).fuse = f.fuse := by
  obtain ⟨_, _, _, h⟩ := Fibre.settle_eq f; rw [h]
@[simp] theorem Fibre.settle_rejoin (f : Fibre) : (f.settle).rejoin = f.rejoin := by
  obtain ⟨_, _, _, h⟩ := Fibre.settle_eq f; rw [h]
@[simp] theorem Fibre.settle_mxSeq (f : Fibre) : (f.settle).mxSeq = f.mxSeq := by
  obtain ⟨_, _, _, h⟩ := Fibre.settle_eq f; rw [h]
@[simp] theorem Fibre.settle_preempt (f : Fibre) : (f.settle).preempt = f.preempt := by
  obtain ⟨_, _, _, h⟩ := Fibre.settle_eq f; rw [h]
@[simp] theorem Fibre.settle_stopped (f : Fibre) : (f.settle).stopped = f.stopped := by
  obtain ⟨_, _, _, h⟩ := Fibre.settle_eq f; rw [h]
@[simp] theorem Fibre.settle_result (f : Fibre) : (f.settle).result = f.result := by
  obtain ⟨_, _, _, h⟩ := Fibre.settle_eq f; rw [h]
@[simp] theorem Fibre.settle_closing (f : Fibre) : (f.settle).closing = f.closing := by
  obtain ⟨_, _, _, h⟩ := Fibre.settle_eq f; rw [h]
@[simp] theorem Fibre.settle_after (f : Fibre) : (f.settle).after = f.after := by
  obtain ⟨_, _, _, h⟩ := Fibre.settle_eq f; rw [h]
@[simp] theorem Fibre.settle_before (f : Fibre) : (f.settle).before = f.before := by
  obtain ⟨_, _, _, h⟩ := Fibre.settle_eq f; rw [h]
@[simp] theorem Fibre.settle_parent (f : Fibre) : (f.settle).parent = f.parent := by
  obtain ⟨_, _, _, h⟩ := Fibre.settle_eq f; rw [h]

/-! The fields that Fibre.flush keeps. -/

@[simp] theorem Fibre.flush_uid (f : Fibre) : (f.flush).uid = f.uid := by
  obtain ⟨_, _, h⟩ := Fibre.flush_eq f; rw [h]
@[simp] theorem Fibre.flush_launch (f : Fibre) : (f.flush).launch = f.launch := by
  obtain ⟨_, _, h⟩ := Fibre.flush_eq f; rw [h]
@[simp] theorem Fibre.flush_block (f : Fibre) : (f.flush).block = f.block := by
  obtain ⟨_, _, h⟩ := Fibre.flush_eq f; rw [h]
@[simp] theorem Fibre.flush_core (f : Fibre) : (f.flush).core = f.core := by
  obtain ⟨_, _, h⟩ := Fibre.flush_eq f; rw [h]
@[simp] theorem Fibre.flush_fid (f : Fibre) : (f.flush).fid = f.fid := by
  obtain ⟨_, _, h⟩ := Fibre.flush_eq f; rw [h]
@[simp] theorem Fibre.flush_origin (f : Fibre) : (f.flush).origin = f.origin := by
  obtain ⟨_, _, h⟩ := Fibre.flush_eq f; rw [h]
@[simp] theorem Fibre.flush_status (f : Fibre) : (f.flush).status = f.status := by
  obtain ⟨_, _, h⟩ := Fibre.flush_eq f; rw [h]
@[simp] theorem Fibre.flush_pc (f : Fibre) : (f.flush).pc = f.pc := by
  obtain ⟨_, _, h⟩ := Fibre.flush_eq f; rw [h]
@[simp] theorem Fibre.flush_window (f : Fibre) : (f.flush).window = f.window := by
  obtain ⟨_, _, h⟩ := Fibre.flush_eq f; rw [h]
@[simp] theorem Fibre.flush_wseq (f : Fibre) : (f.flush).wseq = f.wseq := by
  obtain ⟨_, _, h⟩ := Fibre.flush_eq f; rw [h]
@[simp] theorem Fibre.flush_frames (f : Fibre) : (f.flush).frames = f.frames := by
  obtain ⟨_, _, h⟩ := Fibre.flush_eq f; rw [h]
@[simp] theorem Fibre.flush_inline (f : Fibre) : (f.flush).inline = f.inline := by
  obtain ⟨_, _, h⟩ := Fibre.flush_eq f; rw [h]
@[simp] theorem Fibre.flush_root (f : Fibre) : (f.flush).root = f.root := by
  obtain ⟨_, _, h⟩ := Fibre.flush_eq f; rw [h]
@[simp] theorem Fibre.flush_lc0 (f : Fibre) : (f.flush).lc0 = f.lc0 := by
  obtain ⟨_, _, h⟩ := Fibre.flush_eq f; rw [h]
@[simp] theorem Fibre.flush_lc1 (f : Fibre) : (f.flush).lc1 = f.lc1 := by
  obtain ⟨_, _, h⟩ := Fibre.flush_eq f; rw [h]
@[simp] theorem Fibre.flush_lc2 (f : Fibre) : (f.flush).lc2 = f.lc2 := by
  obtain ⟨_, _, h⟩ := Fibre.flush_eq f; rw [h]
@[simp] theorem Fibre.flush_loopSeq (f : Fibre) : (f.flush).loopSeq = f.loopSeq := by
  obtain ⟨_, _, h⟩ := Fibre.flush_eq f; rw [h]
@[simp] theorem Fibre.flush_prio (f : Fibre) : (f.flush).prio = f.prio := by
  obtain ⟨_, _, h⟩ := Fibre.flush_eq f; rw [h]
@[simp] theorem Fibre.flush_mode (f : Fibre) : (f.flush).mode = f.mode := by
  obtain ⟨_, _, h⟩ := Fibre.flush_eq f; rw [h]
@[simp] theorem Fibre.flush_sat (f : Fibre) : (f.flush).sat = f.sat := by
  obtain ⟨_, _, h⟩ := Fibre.flush_eq f; rw [h]
@[simp] theorem Fibre.flush_outs (f : Fibre) : (f.flush).outs = f.outs := by
  obtain ⟨_, _, h⟩ := Fibre.flush_eq f; rw [h]
@[simp] theorem Fibre.flush_set (f : Fibre) : (f.flush).set = f.set := by
  obtain ⟨_, _, h⟩ := Fibre.flush_eq f; rw [h]
@[simp] theorem Fibre.flush_arrived (f : Fibre) : (f.flush).arrived = f.arrived := by
  obtain ⟨_, _, h⟩ := Fibre.flush_eq f; rw [h]
@[simp] theorem Fibre.flush_votes (f : Fibre) : (f.flush).votes = f.votes := by
  obtain ⟨_, _, h⟩ := Fibre.flush_eq f; rw [h]
@[simp] theorem Fibre.flush_held (f : Fibre) : (f.flush).held = f.held := by
  obtain ⟨_, _, h⟩ := Fibre.flush_eq f; rw [h]
@[simp] theorem Fibre.flush_tag (f : Fibre) : (f.flush).tag = f.tag := by
  obtain ⟨_, _, h⟩ := Fibre.flush_eq f; rw [h]
@[simp] theorem Fibre.flush_plzSet (f : Fibre) : (f.flush).plzSet = f.plzSet := by
  obtain ⟨_, _, h⟩ := Fibre.flush_eq f; rw [h]
@[simp] theorem Fibre.flush_aborted (f : Fibre) : (f.flush).aborted = f.aborted := by
  obtain ⟨_, _, h⟩ := Fibre.flush_eq f; rw [h]
@[simp] theorem Fibre.flush_hbc (f : Fibre) : (f.flush).hbc = f.hbc := by
  obtain ⟨_, _, h⟩ := Fibre.flush_eq f; rw [h]
@[simp] theorem Fibre.flush_dist (f : Fibre) : (f.flush).dist = f.dist := by
  obtain ⟨_, _, h⟩ := Fibre.flush_eq f; rw [h]
@[simp] theorem Fibre.flush_passed (f : Fibre) : (f.flush).passed = f.passed := by
  obtain ⟨_, _, h⟩ := Fibre.flush_eq f; rw [h]
@[simp] theorem Fibre.flush_seg (f : Fibre) : (f.flush).seg = f.seg := by
  obtain ⟨_, _, h⟩ := Fibre.flush_eq f; rw [h]
@[simp] theorem Fibre.flush_tiles (f : Fibre) : (f.flush).tiles = f.tiles := by
  obtain ⟨_, _, h⟩ := Fibre.flush_eq f; rw [h]
@[simp] theorem Fibre.flush_live (f : Fibre) : (f.flush).live = f.live := by
  obtain ⟨_, _, h⟩ := Fibre.flush_eq f; rw [h]
@[simp] theorem Fibre.flush_craco (f : Fibre) : (f.flush).craco = f.craco := by
  obtain ⟨_, _, h⟩ := Fibre.flush_eq f; rw [h]
@[simp] theorem Fibre.flush_xlat (f : Fibre) : (f.flush).xlat = f.xlat := by
  obtain ⟨_, _, h⟩ := Fibre.flush_eq f; rw [h]
@[simp] theorem Fibre.flush_vector (f : Fibre) : (f.flush).vector = f.vector := by
  obtain ⟨_, _, h⟩ := Fibre.flush_eq f; rw [h]
@[simp] theorem Fibre.flush_trapMode (f : Fibre) : (f.flush).trapMode = f.trapMode := by
  obtain ⟨_, _, h⟩ := Fibre.flush_eq f; rw [h]
@[simp] theorem Fibre.flush_deferred (f : Fibre) : (f.flush).deferred = f.deferred := by
  obtain ⟨_, _, h⟩ := Fibre.flush_eq f; rw [h]
@[simp] theorem Fibre.flush_fresh (f : Fibre) : (f.flush).fresh = f.fresh := by
  obtain ⟨_, _, h⟩ := Fibre.flush_eq f; rw [h]
@[simp] theorem Fibre.flush_mxFaults (f : Fibre) : (f.flush).mxFaults = f.mxFaults := by
  obtain ⟨_, _, h⟩ := Fibre.flush_eq f; rw [h]
@[simp] theorem Fibre.flush_abort (f : Fibre) : (f.flush).abort = f.abort := by
  obtain ⟨_, _, h⟩ := Fibre.flush_eq f; rw [h]
@[simp] theorem Fibre.flush_wait (f : Fibre) : (f.flush).wait = f.wait := by
  obtain ⟨_, _, h⟩ := Fibre.flush_eq f; rw [h]
@[simp] theorem Fibre.flush_waited (f : Fibre) : (f.flush).waited = f.waited := by
  obtain ⟨_, _, h⟩ := Fibre.flush_eq f; rw [h]
@[simp] theorem Fibre.flush_inst (f : Fibre) : (f.flush).inst = f.inst := by
  obtain ⟨_, _, h⟩ := Fibre.flush_eq f; rw [h]
@[simp] theorem Fibre.flush_tickDue (f : Fibre) : (f.flush).tickDue = f.tickDue := by
  obtain ⟨_, _, h⟩ := Fibre.flush_eq f; rw [h]
@[simp] theorem Fibre.flush_rebody (f : Fibre) : (f.flush).rebody = f.rebody := by
  obtain ⟨_, _, h⟩ := Fibre.flush_eq f; rw [h]
@[simp] theorem Fibre.flush_fuse (f : Fibre) : (f.flush).fuse = f.fuse := by
  obtain ⟨_, _, h⟩ := Fibre.flush_eq f; rw [h]
@[simp] theorem Fibre.flush_rejoin (f : Fibre) : (f.flush).rejoin = f.rejoin := by
  obtain ⟨_, _, h⟩ := Fibre.flush_eq f; rw [h]
@[simp] theorem Fibre.flush_mxSeq (f : Fibre) : (f.flush).mxSeq = f.mxSeq := by
  obtain ⟨_, _, h⟩ := Fibre.flush_eq f; rw [h]
@[simp] theorem Fibre.flush_preempt (f : Fibre) : (f.flush).preempt = f.preempt := by
  obtain ⟨_, _, h⟩ := Fibre.flush_eq f; rw [h]
@[simp] theorem Fibre.flush_stopped (f : Fibre) : (f.flush).stopped = f.stopped := by
  obtain ⟨_, _, h⟩ := Fibre.flush_eq f; rw [h]
@[simp] theorem Fibre.flush_result (f : Fibre) : (f.flush).result = f.result := by
  obtain ⟨_, _, h⟩ := Fibre.flush_eq f; rw [h]
@[simp] theorem Fibre.flush_closing (f : Fibre) : (f.flush).closing = f.closing := by
  obtain ⟨_, _, h⟩ := Fibre.flush_eq f; rw [h]
@[simp] theorem Fibre.flush_after (f : Fibre) : (f.flush).after = f.after := by
  obtain ⟨_, _, h⟩ := Fibre.flush_eq f; rw [h]
@[simp] theorem Fibre.flush_before (f : Fibre) : (f.flush).before = f.before := by
  obtain ⟨_, _, h⟩ := Fibre.flush_eq f; rw [h]
@[simp] theorem Fibre.flush_parent (f : Fibre) : (f.flush).parent = f.parent := by
  obtain ⟨_, _, h⟩ := Fibre.flush_eq f; rw [h]

/-! The fields that Fibre.advance keeps. -/

@[simp] theorem Fibre.advance_uid (f : Fibre) (n : Nat) : (f.advance n).uid = f.uid := by
  obtain ⟨_, _, _, h⟩ := Fibre.advance_eq f n; rw [h]
@[simp] theorem Fibre.advance_launch (f : Fibre) (n : Nat) : (f.advance n).launch = f.launch := by
  obtain ⟨_, _, _, h⟩ := Fibre.advance_eq f n; rw [h]
@[simp] theorem Fibre.advance_block (f : Fibre) (n : Nat) : (f.advance n).block = f.block := by
  obtain ⟨_, _, _, h⟩ := Fibre.advance_eq f n; rw [h]
@[simp] theorem Fibre.advance_core (f : Fibre) (n : Nat) : (f.advance n).core = f.core := by
  obtain ⟨_, _, _, h⟩ := Fibre.advance_eq f n; rw [h]
@[simp] theorem Fibre.advance_fid (f : Fibre) (n : Nat) : (f.advance n).fid = f.fid := by
  obtain ⟨_, _, _, h⟩ := Fibre.advance_eq f n; rw [h]
@[simp] theorem Fibre.advance_origin (f : Fibre) (n : Nat) : (f.advance n).origin = f.origin := by
  obtain ⟨_, _, _, h⟩ := Fibre.advance_eq f n; rw [h]
@[simp] theorem Fibre.advance_status (f : Fibre) (n : Nat) : (f.advance n).status = f.status := by
  obtain ⟨_, _, _, h⟩ := Fibre.advance_eq f n; rw [h]
@[simp] theorem Fibre.advance_pc (f : Fibre) (n : Nat) : (f.advance n).pc = f.pc := by
  obtain ⟨_, _, _, h⟩ := Fibre.advance_eq f n; rw [h]
@[simp] theorem Fibre.advance_window (f : Fibre) (n : Nat) : (f.advance n).window = f.window := by
  obtain ⟨_, _, _, h⟩ := Fibre.advance_eq f n; rw [h]
@[simp] theorem Fibre.advance_landed (f : Fibre) (n : Nat) : (f.advance n).landed = f.landed := by
  obtain ⟨_, _, _, h⟩ := Fibre.advance_eq f n; rw [h]
@[simp] theorem Fibre.advance_wseq (f : Fibre) (n : Nat) : (f.advance n).wseq = f.wseq := by
  obtain ⟨_, _, _, h⟩ := Fibre.advance_eq f n; rw [h]
@[simp] theorem Fibre.advance_frames (f : Fibre) (n : Nat) : (f.advance n).frames = f.frames := by
  obtain ⟨_, _, _, h⟩ := Fibre.advance_eq f n; rw [h]
@[simp] theorem Fibre.advance_inline (f : Fibre) (n : Nat) : (f.advance n).inline = f.inline := by
  obtain ⟨_, _, _, h⟩ := Fibre.advance_eq f n; rw [h]
@[simp] theorem Fibre.advance_root (f : Fibre) (n : Nat) : (f.advance n).root = f.root := by
  obtain ⟨_, _, _, h⟩ := Fibre.advance_eq f n; rw [h]
@[simp] theorem Fibre.advance_lc0 (f : Fibre) (n : Nat) : (f.advance n).lc0 = f.lc0 := by
  obtain ⟨_, _, _, h⟩ := Fibre.advance_eq f n; rw [h]
@[simp] theorem Fibre.advance_lc1 (f : Fibre) (n : Nat) : (f.advance n).lc1 = f.lc1 := by
  obtain ⟨_, _, _, h⟩ := Fibre.advance_eq f n; rw [h]
@[simp] theorem Fibre.advance_lc2 (f : Fibre) (n : Nat) : (f.advance n).lc2 = f.lc2 := by
  obtain ⟨_, _, _, h⟩ := Fibre.advance_eq f n; rw [h]
@[simp] theorem Fibre.advance_loopSeq (f : Fibre) (n : Nat) : (f.advance n).loopSeq = f.loopSeq := by
  obtain ⟨_, _, _, h⟩ := Fibre.advance_eq f n; rw [h]
@[simp] theorem Fibre.advance_prio (f : Fibre) (n : Nat) : (f.advance n).prio = f.prio := by
  obtain ⟨_, _, _, h⟩ := Fibre.advance_eq f n; rw [h]
@[simp] theorem Fibre.advance_mode (f : Fibre) (n : Nat) : (f.advance n).mode = f.mode := by
  obtain ⟨_, _, _, h⟩ := Fibre.advance_eq f n; rw [h]
@[simp] theorem Fibre.advance_sat (f : Fibre) (n : Nat) : (f.advance n).sat = f.sat := by
  obtain ⟨_, _, _, h⟩ := Fibre.advance_eq f n; rw [h]
@[simp] theorem Fibre.advance_outs (f : Fibre) (n : Nat) : (f.advance n).outs = f.outs := by
  obtain ⟨_, _, _, h⟩ := Fibre.advance_eq f n; rw [h]
@[simp] theorem Fibre.advance_set (f : Fibre) (n : Nat) : (f.advance n).set = f.set := by
  obtain ⟨_, _, _, h⟩ := Fibre.advance_eq f n; rw [h]
@[simp] theorem Fibre.advance_arrived (f : Fibre) (n : Nat) : (f.advance n).arrived = f.arrived := by
  obtain ⟨_, _, _, h⟩ := Fibre.advance_eq f n; rw [h]
@[simp] theorem Fibre.advance_votes (f : Fibre) (n : Nat) : (f.advance n).votes = f.votes := by
  obtain ⟨_, _, _, h⟩ := Fibre.advance_eq f n; rw [h]
@[simp] theorem Fibre.advance_held (f : Fibre) (n : Nat) : (f.advance n).held = f.held := by
  obtain ⟨_, _, _, h⟩ := Fibre.advance_eq f n; rw [h]
@[simp] theorem Fibre.advance_tag (f : Fibre) (n : Nat) : (f.advance n).tag = f.tag := by
  obtain ⟨_, _, _, h⟩ := Fibre.advance_eq f n; rw [h]
@[simp] theorem Fibre.advance_plzSet (f : Fibre) (n : Nat) : (f.advance n).plzSet = f.plzSet := by
  obtain ⟨_, _, _, h⟩ := Fibre.advance_eq f n; rw [h]
@[simp] theorem Fibre.advance_aborted (f : Fibre) (n : Nat) : (f.advance n).aborted = f.aborted := by
  obtain ⟨_, _, _, h⟩ := Fibre.advance_eq f n; rw [h]
@[simp] theorem Fibre.advance_hbc (f : Fibre) (n : Nat) : (f.advance n).hbc = f.hbc := by
  obtain ⟨_, _, _, h⟩ := Fibre.advance_eq f n; rw [h]
@[simp] theorem Fibre.advance_dist (f : Fibre) (n : Nat) : (f.advance n).dist = f.dist := by
  obtain ⟨_, _, _, h⟩ := Fibre.advance_eq f n; rw [h]
@[simp] theorem Fibre.advance_passed (f : Fibre) (n : Nat) : (f.advance n).passed = f.passed := by
  obtain ⟨_, _, _, h⟩ := Fibre.advance_eq f n; rw [h]
@[simp] theorem Fibre.advance_seg (f : Fibre) (n : Nat) : (f.advance n).seg = f.seg := by
  obtain ⟨_, _, _, h⟩ := Fibre.advance_eq f n; rw [h]
@[simp] theorem Fibre.advance_tiles (f : Fibre) (n : Nat) : (f.advance n).tiles = f.tiles := by
  obtain ⟨_, _, _, h⟩ := Fibre.advance_eq f n; rw [h]
@[simp] theorem Fibre.advance_live (f : Fibre) (n : Nat) : (f.advance n).live = f.live := by
  obtain ⟨_, _, _, h⟩ := Fibre.advance_eq f n; rw [h]
@[simp] theorem Fibre.advance_craco (f : Fibre) (n : Nat) : (f.advance n).craco = f.craco := by
  obtain ⟨_, _, _, h⟩ := Fibre.advance_eq f n; rw [h]
@[simp] theorem Fibre.advance_xlat (f : Fibre) (n : Nat) : (f.advance n).xlat = f.xlat := by
  obtain ⟨_, _, _, h⟩ := Fibre.advance_eq f n; rw [h]
@[simp] theorem Fibre.advance_vector (f : Fibre) (n : Nat) : (f.advance n).vector = f.vector := by
  obtain ⟨_, _, _, h⟩ := Fibre.advance_eq f n; rw [h]
@[simp] theorem Fibre.advance_trapMode (f : Fibre) (n : Nat) : (f.advance n).trapMode = f.trapMode := by
  obtain ⟨_, _, _, h⟩ := Fibre.advance_eq f n; rw [h]
@[simp] theorem Fibre.advance_deferred (f : Fibre) (n : Nat) : (f.advance n).deferred = f.deferred := by
  obtain ⟨_, _, _, h⟩ := Fibre.advance_eq f n; rw [h]
@[simp] theorem Fibre.advance_fresh (f : Fibre) (n : Nat) : (f.advance n).fresh = f.fresh := by
  obtain ⟨_, _, _, h⟩ := Fibre.advance_eq f n; rw [h]
@[simp] theorem Fibre.advance_mxFaults (f : Fibre) (n : Nat) : (f.advance n).mxFaults = f.mxFaults := by
  obtain ⟨_, _, _, h⟩ := Fibre.advance_eq f n; rw [h]
@[simp] theorem Fibre.advance_abort (f : Fibre) (n : Nat) : (f.advance n).abort = f.abort := by
  obtain ⟨_, _, _, h⟩ := Fibre.advance_eq f n; rw [h]
@[simp] theorem Fibre.advance_wait (f : Fibre) (n : Nat) : (f.advance n).wait = f.wait := by
  obtain ⟨_, _, _, h⟩ := Fibre.advance_eq f n; rw [h]
@[simp] theorem Fibre.advance_waited (f : Fibre) (n : Nat) : (f.advance n).waited = f.waited := by
  obtain ⟨_, _, _, h⟩ := Fibre.advance_eq f n; rw [h]
@[simp] theorem Fibre.advance_inst (f : Fibre) (n : Nat) : (f.advance n).inst = f.inst := by
  obtain ⟨_, _, _, h⟩ := Fibre.advance_eq f n; rw [h]
@[simp] theorem Fibre.advance_tickDue (f : Fibre) (n : Nat) : (f.advance n).tickDue = f.tickDue := by
  obtain ⟨_, _, _, h⟩ := Fibre.advance_eq f n; rw [h]
@[simp] theorem Fibre.advance_rebody (f : Fibre) (n : Nat) : (f.advance n).rebody = f.rebody := by
  obtain ⟨_, _, _, h⟩ := Fibre.advance_eq f n; rw [h]
@[simp] theorem Fibre.advance_fuse (f : Fibre) (n : Nat) : (f.advance n).fuse = f.fuse := by
  obtain ⟨_, _, _, h⟩ := Fibre.advance_eq f n; rw [h]
@[simp] theorem Fibre.advance_rejoin (f : Fibre) (n : Nat) : (f.advance n).rejoin = f.rejoin := by
  obtain ⟨_, _, _, h⟩ := Fibre.advance_eq f n; rw [h]
@[simp] theorem Fibre.advance_mxSeq (f : Fibre) (n : Nat) : (f.advance n).mxSeq = f.mxSeq := by
  obtain ⟨_, _, _, h⟩ := Fibre.advance_eq f n; rw [h]
@[simp] theorem Fibre.advance_preempt (f : Fibre) (n : Nat) : (f.advance n).preempt = f.preempt := by
  obtain ⟨_, _, _, h⟩ := Fibre.advance_eq f n; rw [h]
@[simp] theorem Fibre.advance_stopped (f : Fibre) (n : Nat) : (f.advance n).stopped = f.stopped := by
  obtain ⟨_, _, _, h⟩ := Fibre.advance_eq f n; rw [h]
@[simp] theorem Fibre.advance_result (f : Fibre) (n : Nat) : (f.advance n).result = f.result := by
  obtain ⟨_, _, _, h⟩ := Fibre.advance_eq f n; rw [h]
@[simp] theorem Fibre.advance_closing (f : Fibre) (n : Nat) : (f.advance n).closing = f.closing := by
  obtain ⟨_, _, _, h⟩ := Fibre.advance_eq f n; rw [h]
@[simp] theorem Fibre.advance_after (f : Fibre) (n : Nat) : (f.advance n).after = f.after := by
  obtain ⟨_, _, _, h⟩ := Fibre.advance_eq f n; rw [h]
@[simp] theorem Fibre.advance_before (f : Fibre) (n : Nat) : (f.advance n).before = f.before := by
  obtain ⟨_, _, _, h⟩ := Fibre.advance_eq f n; rw [h]
@[simp] theorem Fibre.advance_parent (f : Fibre) (n : Nat) : (f.advance n).parent = f.parent := by
  obtain ⟨_, _, _, h⟩ := Fibre.advance_eq f n; rw [h]

/-! The fields that Fibre.later keeps. -/

@[simp] theorem Fibre.later_uid (f : Fibre) (l c : Nat) (v : Word) : (f.later l c v).uid = f.uid := by
  obtain ⟨_, _, h⟩ := Fibre.later_eq f l c v; rw [h]
@[simp] theorem Fibre.later_launch (f : Fibre) (l c : Nat) (v : Word) : (f.later l c v).launch = f.launch := by
  obtain ⟨_, _, h⟩ := Fibre.later_eq f l c v; rw [h]
@[simp] theorem Fibre.later_block (f : Fibre) (l c : Nat) (v : Word) : (f.later l c v).block = f.block := by
  obtain ⟨_, _, h⟩ := Fibre.later_eq f l c v; rw [h]
@[simp] theorem Fibre.later_core (f : Fibre) (l c : Nat) (v : Word) : (f.later l c v).core = f.core := by
  obtain ⟨_, _, h⟩ := Fibre.later_eq f l c v; rw [h]
@[simp] theorem Fibre.later_fid (f : Fibre) (l c : Nat) (v : Word) : (f.later l c v).fid = f.fid := by
  obtain ⟨_, _, h⟩ := Fibre.later_eq f l c v; rw [h]
@[simp] theorem Fibre.later_origin (f : Fibre) (l c : Nat) (v : Word) : (f.later l c v).origin = f.origin := by
  obtain ⟨_, _, h⟩ := Fibre.later_eq f l c v; rw [h]
@[simp] theorem Fibre.later_status (f : Fibre) (l c : Nat) (v : Word) : (f.later l c v).status = f.status := by
  obtain ⟨_, _, h⟩ := Fibre.later_eq f l c v; rw [h]
@[simp] theorem Fibre.later_pc (f : Fibre) (l c : Nat) (v : Word) : (f.later l c v).pc = f.pc := by
  obtain ⟨_, _, h⟩ := Fibre.later_eq f l c v; rw [h]
@[simp] theorem Fibre.later_window (f : Fibre) (l c : Nat) (v : Word) : (f.later l c v).window = f.window := by
  obtain ⟨_, _, h⟩ := Fibre.later_eq f l c v; rw [h]
@[simp] theorem Fibre.later_regs (f : Fibre) (l c : Nat) (v : Word) : (f.later l c v).regs = f.regs := by
  obtain ⟨_, _, h⟩ := Fibre.later_eq f l c v; rw [h]
@[simp] theorem Fibre.later_preds (f : Fibre) (l c : Nat) (v : Word) : (f.later l c v).preds = f.preds := by
  obtain ⟨_, _, h⟩ := Fibre.later_eq f l c v; rw [h]
@[simp] theorem Fibre.later_landed (f : Fibre) (l c : Nat) (v : Word) : (f.later l c v).landed = f.landed := by
  obtain ⟨_, _, h⟩ := Fibre.later_eq f l c v; rw [h]
@[simp] theorem Fibre.later_frames (f : Fibre) (l c : Nat) (v : Word) : (f.later l c v).frames = f.frames := by
  obtain ⟨_, _, h⟩ := Fibre.later_eq f l c v; rw [h]
@[simp] theorem Fibre.later_inline (f : Fibre) (l c : Nat) (v : Word) : (f.later l c v).inline = f.inline := by
  obtain ⟨_, _, h⟩ := Fibre.later_eq f l c v; rw [h]
@[simp] theorem Fibre.later_root (f : Fibre) (l c : Nat) (v : Word) : (f.later l c v).root = f.root := by
  obtain ⟨_, _, h⟩ := Fibre.later_eq f l c v; rw [h]
@[simp] theorem Fibre.later_lc0 (f : Fibre) (l c : Nat) (v : Word) : (f.later l c v).lc0 = f.lc0 := by
  obtain ⟨_, _, h⟩ := Fibre.later_eq f l c v; rw [h]
@[simp] theorem Fibre.later_lc1 (f : Fibre) (l c : Nat) (v : Word) : (f.later l c v).lc1 = f.lc1 := by
  obtain ⟨_, _, h⟩ := Fibre.later_eq f l c v; rw [h]
@[simp] theorem Fibre.later_lc2 (f : Fibre) (l c : Nat) (v : Word) : (f.later l c v).lc2 = f.lc2 := by
  obtain ⟨_, _, h⟩ := Fibre.later_eq f l c v; rw [h]
@[simp] theorem Fibre.later_loopSeq (f : Fibre) (l c : Nat) (v : Word) : (f.later l c v).loopSeq = f.loopSeq := by
  obtain ⟨_, _, h⟩ := Fibre.later_eq f l c v; rw [h]
@[simp] theorem Fibre.later_prio (f : Fibre) (l c : Nat) (v : Word) : (f.later l c v).prio = f.prio := by
  obtain ⟨_, _, h⟩ := Fibre.later_eq f l c v; rw [h]
@[simp] theorem Fibre.later_mode (f : Fibre) (l c : Nat) (v : Word) : (f.later l c v).mode = f.mode := by
  obtain ⟨_, _, h⟩ := Fibre.later_eq f l c v; rw [h]
@[simp] theorem Fibre.later_sat (f : Fibre) (l c : Nat) (v : Word) : (f.later l c v).sat = f.sat := by
  obtain ⟨_, _, h⟩ := Fibre.later_eq f l c v; rw [h]
@[simp] theorem Fibre.later_outs (f : Fibre) (l c : Nat) (v : Word) : (f.later l c v).outs = f.outs := by
  obtain ⟨_, _, h⟩ := Fibre.later_eq f l c v; rw [h]
@[simp] theorem Fibre.later_set (f : Fibre) (l c : Nat) (v : Word) : (f.later l c v).set = f.set := by
  obtain ⟨_, _, h⟩ := Fibre.later_eq f l c v; rw [h]
@[simp] theorem Fibre.later_arrived (f : Fibre) (l c : Nat) (v : Word) : (f.later l c v).arrived = f.arrived := by
  obtain ⟨_, _, h⟩ := Fibre.later_eq f l c v; rw [h]
@[simp] theorem Fibre.later_votes (f : Fibre) (l c : Nat) (v : Word) : (f.later l c v).votes = f.votes := by
  obtain ⟨_, _, h⟩ := Fibre.later_eq f l c v; rw [h]
@[simp] theorem Fibre.later_held (f : Fibre) (l c : Nat) (v : Word) : (f.later l c v).held = f.held := by
  obtain ⟨_, _, h⟩ := Fibre.later_eq f l c v; rw [h]
@[simp] theorem Fibre.later_tag (f : Fibre) (l c : Nat) (v : Word) : (f.later l c v).tag = f.tag := by
  obtain ⟨_, _, h⟩ := Fibre.later_eq f l c v; rw [h]
@[simp] theorem Fibre.later_plzSet (f : Fibre) (l c : Nat) (v : Word) : (f.later l c v).plzSet = f.plzSet := by
  obtain ⟨_, _, h⟩ := Fibre.later_eq f l c v; rw [h]
@[simp] theorem Fibre.later_aborted (f : Fibre) (l c : Nat) (v : Word) : (f.later l c v).aborted = f.aborted := by
  obtain ⟨_, _, h⟩ := Fibre.later_eq f l c v; rw [h]
@[simp] theorem Fibre.later_hbc (f : Fibre) (l c : Nat) (v : Word) : (f.later l c v).hbc = f.hbc := by
  obtain ⟨_, _, h⟩ := Fibre.later_eq f l c v; rw [h]
@[simp] theorem Fibre.later_dist (f : Fibre) (l c : Nat) (v : Word) : (f.later l c v).dist = f.dist := by
  obtain ⟨_, _, h⟩ := Fibre.later_eq f l c v; rw [h]
@[simp] theorem Fibre.later_passed (f : Fibre) (l c : Nat) (v : Word) : (f.later l c v).passed = f.passed := by
  obtain ⟨_, _, h⟩ := Fibre.later_eq f l c v; rw [h]
@[simp] theorem Fibre.later_seg (f : Fibre) (l c : Nat) (v : Word) : (f.later l c v).seg = f.seg := by
  obtain ⟨_, _, h⟩ := Fibre.later_eq f l c v; rw [h]
@[simp] theorem Fibre.later_tiles (f : Fibre) (l c : Nat) (v : Word) : (f.later l c v).tiles = f.tiles := by
  obtain ⟨_, _, h⟩ := Fibre.later_eq f l c v; rw [h]
@[simp] theorem Fibre.later_live (f : Fibre) (l c : Nat) (v : Word) : (f.later l c v).live = f.live := by
  obtain ⟨_, _, h⟩ := Fibre.later_eq f l c v; rw [h]
@[simp] theorem Fibre.later_craco (f : Fibre) (l c : Nat) (v : Word) : (f.later l c v).craco = f.craco := by
  obtain ⟨_, _, h⟩ := Fibre.later_eq f l c v; rw [h]
@[simp] theorem Fibre.later_xlat (f : Fibre) (l c : Nat) (v : Word) : (f.later l c v).xlat = f.xlat := by
  obtain ⟨_, _, h⟩ := Fibre.later_eq f l c v; rw [h]
@[simp] theorem Fibre.later_vector (f : Fibre) (l c : Nat) (v : Word) : (f.later l c v).vector = f.vector := by
  obtain ⟨_, _, h⟩ := Fibre.later_eq f l c v; rw [h]
@[simp] theorem Fibre.later_trapMode (f : Fibre) (l c : Nat) (v : Word) : (f.later l c v).trapMode = f.trapMode := by
  obtain ⟨_, _, h⟩ := Fibre.later_eq f l c v; rw [h]
@[simp] theorem Fibre.later_deferred (f : Fibre) (l c : Nat) (v : Word) : (f.later l c v).deferred = f.deferred := by
  obtain ⟨_, _, h⟩ := Fibre.later_eq f l c v; rw [h]
@[simp] theorem Fibre.later_fresh (f : Fibre) (l c : Nat) (v : Word) : (f.later l c v).fresh = f.fresh := by
  obtain ⟨_, _, h⟩ := Fibre.later_eq f l c v; rw [h]
@[simp] theorem Fibre.later_mxFaults (f : Fibre) (l c : Nat) (v : Word) : (f.later l c v).mxFaults = f.mxFaults := by
  obtain ⟨_, _, h⟩ := Fibre.later_eq f l c v; rw [h]
@[simp] theorem Fibre.later_abort (f : Fibre) (l c : Nat) (v : Word) : (f.later l c v).abort = f.abort := by
  obtain ⟨_, _, h⟩ := Fibre.later_eq f l c v; rw [h]
@[simp] theorem Fibre.later_wait (f : Fibre) (l c : Nat) (v : Word) : (f.later l c v).wait = f.wait := by
  obtain ⟨_, _, h⟩ := Fibre.later_eq f l c v; rw [h]
@[simp] theorem Fibre.later_waited (f : Fibre) (l c : Nat) (v : Word) : (f.later l c v).waited = f.waited := by
  obtain ⟨_, _, h⟩ := Fibre.later_eq f l c v; rw [h]
@[simp] theorem Fibre.later_inst (f : Fibre) (l c : Nat) (v : Word) : (f.later l c v).inst = f.inst := by
  obtain ⟨_, _, h⟩ := Fibre.later_eq f l c v; rw [h]
@[simp] theorem Fibre.later_tickDue (f : Fibre) (l c : Nat) (v : Word) : (f.later l c v).tickDue = f.tickDue := by
  obtain ⟨_, _, h⟩ := Fibre.later_eq f l c v; rw [h]
@[simp] theorem Fibre.later_rebody (f : Fibre) (l c : Nat) (v : Word) : (f.later l c v).rebody = f.rebody := by
  obtain ⟨_, _, h⟩ := Fibre.later_eq f l c v; rw [h]
@[simp] theorem Fibre.later_fuse (f : Fibre) (l c : Nat) (v : Word) : (f.later l c v).fuse = f.fuse := by
  obtain ⟨_, _, h⟩ := Fibre.later_eq f l c v; rw [h]
@[simp] theorem Fibre.later_rejoin (f : Fibre) (l c : Nat) (v : Word) : (f.later l c v).rejoin = f.rejoin := by
  obtain ⟨_, _, h⟩ := Fibre.later_eq f l c v; rw [h]
@[simp] theorem Fibre.later_mxSeq (f : Fibre) (l c : Nat) (v : Word) : (f.later l c v).mxSeq = f.mxSeq := by
  obtain ⟨_, _, h⟩ := Fibre.later_eq f l c v; rw [h]
@[simp] theorem Fibre.later_preempt (f : Fibre) (l c : Nat) (v : Word) : (f.later l c v).preempt = f.preempt := by
  obtain ⟨_, _, h⟩ := Fibre.later_eq f l c v; rw [h]
@[simp] theorem Fibre.later_stopped (f : Fibre) (l c : Nat) (v : Word) : (f.later l c v).stopped = f.stopped := by
  obtain ⟨_, _, h⟩ := Fibre.later_eq f l c v; rw [h]
@[simp] theorem Fibre.later_result (f : Fibre) (l c : Nat) (v : Word) : (f.later l c v).result = f.result := by
  obtain ⟨_, _, h⟩ := Fibre.later_eq f l c v; rw [h]
@[simp] theorem Fibre.later_closing (f : Fibre) (l c : Nat) (v : Word) : (f.later l c v).closing = f.closing := by
  obtain ⟨_, _, h⟩ := Fibre.later_eq f l c v; rw [h]
@[simp] theorem Fibre.later_after (f : Fibre) (l c : Nat) (v : Word) : (f.later l c v).after = f.after := by
  obtain ⟨_, _, h⟩ := Fibre.later_eq f l c v; rw [h]
@[simp] theorem Fibre.later_before (f : Fibre) (l c : Nat) (v : Word) : (f.later l c v).before = f.before := by
  obtain ⟨_, _, h⟩ := Fibre.later_eq f l c v; rw [h]
@[simp] theorem Fibre.later_parent (f : Fibre) (l c : Nat) (v : Word) : (f.later l c v).parent = f.parent := by
  obtain ⟨_, _, h⟩ := Fibre.later_eq f l c v; rw [h]

/-! The fields that Fibre.now keeps. -/

@[simp] theorem Fibre.now_uid (f : Fibre) (c : Nat) (v : Word) : (f.now c v).uid = f.uid := by
  obtain ⟨_, _, _, _, h⟩ := Fibre.now_eq f c v; rw [h]
@[simp] theorem Fibre.now_launch (f : Fibre) (c : Nat) (v : Word) : (f.now c v).launch = f.launch := by
  obtain ⟨_, _, _, _, h⟩ := Fibre.now_eq f c v; rw [h]
@[simp] theorem Fibre.now_block (f : Fibre) (c : Nat) (v : Word) : (f.now c v).block = f.block := by
  obtain ⟨_, _, _, _, h⟩ := Fibre.now_eq f c v; rw [h]
@[simp] theorem Fibre.now_core (f : Fibre) (c : Nat) (v : Word) : (f.now c v).core = f.core := by
  obtain ⟨_, _, _, _, h⟩ := Fibre.now_eq f c v; rw [h]
@[simp] theorem Fibre.now_fid (f : Fibre) (c : Nat) (v : Word) : (f.now c v).fid = f.fid := by
  obtain ⟨_, _, _, _, h⟩ := Fibre.now_eq f c v; rw [h]
@[simp] theorem Fibre.now_origin (f : Fibre) (c : Nat) (v : Word) : (f.now c v).origin = f.origin := by
  obtain ⟨_, _, _, _, h⟩ := Fibre.now_eq f c v; rw [h]
@[simp] theorem Fibre.now_status (f : Fibre) (c : Nat) (v : Word) : (f.now c v).status = f.status := by
  obtain ⟨_, _, _, _, h⟩ := Fibre.now_eq f c v; rw [h]
@[simp] theorem Fibre.now_pc (f : Fibre) (c : Nat) (v : Word) : (f.now c v).pc = f.pc := by
  obtain ⟨_, _, _, _, h⟩ := Fibre.now_eq f c v; rw [h]
@[simp] theorem Fibre.now_window (f : Fibre) (c : Nat) (v : Word) : (f.now c v).window = f.window := by
  obtain ⟨_, _, _, _, h⟩ := Fibre.now_eq f c v; rw [h]
@[simp] theorem Fibre.now_wseq (f : Fibre) (c : Nat) (v : Word) : (f.now c v).wseq = f.wseq := by
  obtain ⟨_, _, _, _, h⟩ := Fibre.now_eq f c v; rw [h]
@[simp] theorem Fibre.now_frames (f : Fibre) (c : Nat) (v : Word) : (f.now c v).frames = f.frames := by
  obtain ⟨_, _, _, _, h⟩ := Fibre.now_eq f c v; rw [h]
@[simp] theorem Fibre.now_inline (f : Fibre) (c : Nat) (v : Word) : (f.now c v).inline = f.inline := by
  obtain ⟨_, _, _, _, h⟩ := Fibre.now_eq f c v; rw [h]
@[simp] theorem Fibre.now_root (f : Fibre) (c : Nat) (v : Word) : (f.now c v).root = f.root := by
  obtain ⟨_, _, _, _, h⟩ := Fibre.now_eq f c v; rw [h]
@[simp] theorem Fibre.now_lc0 (f : Fibre) (c : Nat) (v : Word) : (f.now c v).lc0 = f.lc0 := by
  obtain ⟨_, _, _, _, h⟩ := Fibre.now_eq f c v; rw [h]
@[simp] theorem Fibre.now_lc1 (f : Fibre) (c : Nat) (v : Word) : (f.now c v).lc1 = f.lc1 := by
  obtain ⟨_, _, _, _, h⟩ := Fibre.now_eq f c v; rw [h]
@[simp] theorem Fibre.now_lc2 (f : Fibre) (c : Nat) (v : Word) : (f.now c v).lc2 = f.lc2 := by
  obtain ⟨_, _, _, _, h⟩ := Fibre.now_eq f c v; rw [h]
@[simp] theorem Fibre.now_loopSeq (f : Fibre) (c : Nat) (v : Word) : (f.now c v).loopSeq = f.loopSeq := by
  obtain ⟨_, _, _, _, h⟩ := Fibre.now_eq f c v; rw [h]
@[simp] theorem Fibre.now_prio (f : Fibre) (c : Nat) (v : Word) : (f.now c v).prio = f.prio := by
  obtain ⟨_, _, _, _, h⟩ := Fibre.now_eq f c v; rw [h]
@[simp] theorem Fibre.now_mode (f : Fibre) (c : Nat) (v : Word) : (f.now c v).mode = f.mode := by
  obtain ⟨_, _, _, _, h⟩ := Fibre.now_eq f c v; rw [h]
@[simp] theorem Fibre.now_sat (f : Fibre) (c : Nat) (v : Word) : (f.now c v).sat = f.sat := by
  obtain ⟨_, _, _, _, h⟩ := Fibre.now_eq f c v; rw [h]
@[simp] theorem Fibre.now_outs (f : Fibre) (c : Nat) (v : Word) : (f.now c v).outs = f.outs := by
  obtain ⟨_, _, _, _, h⟩ := Fibre.now_eq f c v; rw [h]
@[simp] theorem Fibre.now_set (f : Fibre) (c : Nat) (v : Word) : (f.now c v).set = f.set := by
  obtain ⟨_, _, _, _, h⟩ := Fibre.now_eq f c v; rw [h]
@[simp] theorem Fibre.now_arrived (f : Fibre) (c : Nat) (v : Word) : (f.now c v).arrived = f.arrived := by
  obtain ⟨_, _, _, _, h⟩ := Fibre.now_eq f c v; rw [h]
@[simp] theorem Fibre.now_votes (f : Fibre) (c : Nat) (v : Word) : (f.now c v).votes = f.votes := by
  obtain ⟨_, _, _, _, h⟩ := Fibre.now_eq f c v; rw [h]
@[simp] theorem Fibre.now_held (f : Fibre) (c : Nat) (v : Word) : (f.now c v).held = f.held := by
  obtain ⟨_, _, _, _, h⟩ := Fibre.now_eq f c v; rw [h]
@[simp] theorem Fibre.now_tag (f : Fibre) (c : Nat) (v : Word) : (f.now c v).tag = f.tag := by
  obtain ⟨_, _, _, _, h⟩ := Fibre.now_eq f c v; rw [h]
@[simp] theorem Fibre.now_plzSet (f : Fibre) (c : Nat) (v : Word) : (f.now c v).plzSet = f.plzSet := by
  obtain ⟨_, _, _, _, h⟩ := Fibre.now_eq f c v; rw [h]
@[simp] theorem Fibre.now_aborted (f : Fibre) (c : Nat) (v : Word) : (f.now c v).aborted = f.aborted := by
  obtain ⟨_, _, _, _, h⟩ := Fibre.now_eq f c v; rw [h]
@[simp] theorem Fibre.now_hbc (f : Fibre) (c : Nat) (v : Word) : (f.now c v).hbc = f.hbc := by
  obtain ⟨_, _, _, _, h⟩ := Fibre.now_eq f c v; rw [h]
@[simp] theorem Fibre.now_dist (f : Fibre) (c : Nat) (v : Word) : (f.now c v).dist = f.dist := by
  obtain ⟨_, _, _, _, h⟩ := Fibre.now_eq f c v; rw [h]
@[simp] theorem Fibre.now_passed (f : Fibre) (c : Nat) (v : Word) : (f.now c v).passed = f.passed := by
  obtain ⟨_, _, _, _, h⟩ := Fibre.now_eq f c v; rw [h]
@[simp] theorem Fibre.now_seg (f : Fibre) (c : Nat) (v : Word) : (f.now c v).seg = f.seg := by
  obtain ⟨_, _, _, _, h⟩ := Fibre.now_eq f c v; rw [h]
@[simp] theorem Fibre.now_tiles (f : Fibre) (c : Nat) (v : Word) : (f.now c v).tiles = f.tiles := by
  obtain ⟨_, _, _, _, h⟩ := Fibre.now_eq f c v; rw [h]
@[simp] theorem Fibre.now_live (f : Fibre) (c : Nat) (v : Word) : (f.now c v).live = f.live := by
  obtain ⟨_, _, _, _, h⟩ := Fibre.now_eq f c v; rw [h]
@[simp] theorem Fibre.now_craco (f : Fibre) (c : Nat) (v : Word) : (f.now c v).craco = f.craco := by
  obtain ⟨_, _, _, _, h⟩ := Fibre.now_eq f c v; rw [h]
@[simp] theorem Fibre.now_xlat (f : Fibre) (c : Nat) (v : Word) : (f.now c v).xlat = f.xlat := by
  obtain ⟨_, _, _, _, h⟩ := Fibre.now_eq f c v; rw [h]
@[simp] theorem Fibre.now_vector (f : Fibre) (c : Nat) (v : Word) : (f.now c v).vector = f.vector := by
  obtain ⟨_, _, _, _, h⟩ := Fibre.now_eq f c v; rw [h]
@[simp] theorem Fibre.now_trapMode (f : Fibre) (c : Nat) (v : Word) : (f.now c v).trapMode = f.trapMode := by
  obtain ⟨_, _, _, _, h⟩ := Fibre.now_eq f c v; rw [h]
@[simp] theorem Fibre.now_deferred (f : Fibre) (c : Nat) (v : Word) : (f.now c v).deferred = f.deferred := by
  obtain ⟨_, _, _, _, h⟩ := Fibre.now_eq f c v; rw [h]
@[simp] theorem Fibre.now_fresh (f : Fibre) (c : Nat) (v : Word) : (f.now c v).fresh = f.fresh := by
  obtain ⟨_, _, _, _, h⟩ := Fibre.now_eq f c v; rw [h]
@[simp] theorem Fibre.now_mxFaults (f : Fibre) (c : Nat) (v : Word) : (f.now c v).mxFaults = f.mxFaults := by
  obtain ⟨_, _, _, _, h⟩ := Fibre.now_eq f c v; rw [h]
@[simp] theorem Fibre.now_abort (f : Fibre) (c : Nat) (v : Word) : (f.now c v).abort = f.abort := by
  obtain ⟨_, _, _, _, h⟩ := Fibre.now_eq f c v; rw [h]
@[simp] theorem Fibre.now_wait (f : Fibre) (c : Nat) (v : Word) : (f.now c v).wait = f.wait := by
  obtain ⟨_, _, _, _, h⟩ := Fibre.now_eq f c v; rw [h]
@[simp] theorem Fibre.now_waited (f : Fibre) (c : Nat) (v : Word) : (f.now c v).waited = f.waited := by
  obtain ⟨_, _, _, _, h⟩ := Fibre.now_eq f c v; rw [h]
@[simp] theorem Fibre.now_inst (f : Fibre) (c : Nat) (v : Word) : (f.now c v).inst = f.inst := by
  obtain ⟨_, _, _, _, h⟩ := Fibre.now_eq f c v; rw [h]
@[simp] theorem Fibre.now_tickDue (f : Fibre) (c : Nat) (v : Word) : (f.now c v).tickDue = f.tickDue := by
  obtain ⟨_, _, _, _, h⟩ := Fibre.now_eq f c v; rw [h]
@[simp] theorem Fibre.now_rebody (f : Fibre) (c : Nat) (v : Word) : (f.now c v).rebody = f.rebody := by
  obtain ⟨_, _, _, _, h⟩ := Fibre.now_eq f c v; rw [h]
@[simp] theorem Fibre.now_fuse (f : Fibre) (c : Nat) (v : Word) : (f.now c v).fuse = f.fuse := by
  obtain ⟨_, _, _, _, h⟩ := Fibre.now_eq f c v; rw [h]
@[simp] theorem Fibre.now_rejoin (f : Fibre) (c : Nat) (v : Word) : (f.now c v).rejoin = f.rejoin := by
  obtain ⟨_, _, _, _, h⟩ := Fibre.now_eq f c v; rw [h]
@[simp] theorem Fibre.now_mxSeq (f : Fibre) (c : Nat) (v : Word) : (f.now c v).mxSeq = f.mxSeq := by
  obtain ⟨_, _, _, _, h⟩ := Fibre.now_eq f c v; rw [h]
@[simp] theorem Fibre.now_preempt (f : Fibre) (c : Nat) (v : Word) : (f.now c v).preempt = f.preempt := by
  obtain ⟨_, _, _, _, h⟩ := Fibre.now_eq f c v; rw [h]
@[simp] theorem Fibre.now_stopped (f : Fibre) (c : Nat) (v : Word) : (f.now c v).stopped = f.stopped := by
  obtain ⟨_, _, _, _, h⟩ := Fibre.now_eq f c v; rw [h]
@[simp] theorem Fibre.now_result (f : Fibre) (c : Nat) (v : Word) : (f.now c v).result = f.result := by
  obtain ⟨_, _, _, _, h⟩ := Fibre.now_eq f c v; rw [h]
@[simp] theorem Fibre.now_closing (f : Fibre) (c : Nat) (v : Word) : (f.now c v).closing = f.closing := by
  obtain ⟨_, _, _, _, h⟩ := Fibre.now_eq f c v; rw [h]
@[simp] theorem Fibre.now_after (f : Fibre) (c : Nat) (v : Word) : (f.now c v).after = f.after := by
  obtain ⟨_, _, _, _, h⟩ := Fibre.now_eq f c v; rw [h]
@[simp] theorem Fibre.now_before (f : Fibre) (c : Nat) (v : Word) : (f.now c v).before = f.before := by
  obtain ⟨_, _, _, _, h⟩ := Fibre.now_eq f c v; rw [h]
@[simp] theorem Fibre.now_parent (f : Fibre) (c : Nat) (v : Word) : (f.now c v).parent = f.parent := by
  obtain ⟨_, _, _, _, h⟩ := Fibre.now_eq f c v; rw [h]

/-! What registers and predicates read. -/

@[simp] theorem Fibre.flush_landed (f : Fibre) : f.flush.landed = [] := by
  obtain ⟨_, _, h⟩ := Fibre.flush_eq f; rw [h]
@[simp] theorem Fibre.flush_pend (f : Fibre) : f.flush.pend = [] := rfl
/-- Where nothing has landed in the middle of an instruction, the pending writes are all that a flush applies. -/
theorem Fibre.flush_of_landed (f : Fibre) (h : f.landed = []) : f.flush = { f.applyAll f.pend with pend := [] } := by
  have hs : f.settle = f := by
    unfold Fibre.settle
    rw [h, List.foldl_nil, ← h]
  rw [Fibre.flush, hs]
@[simp] theorem Fibre.reg_zero (f : Fibre) : f.reg 0 = 0 := rfl
@[simp] theorem Fibre.pred_zero (f : Fibre) : f.pred 0 = true := rfl
@[simp] theorem Fibre.later_reg (f : Fibre) (l c : Nat) (v : Word) (r : Reg) : (f.later l c v).reg r = f.reg r := by
  simp [Fibre.reg]
@[simp] theorem Fibre.later_pred (f : Fibre) (l c : Nat) (v : Word) (p : Pred) : (f.later l c v).pred p = f.pred p := by
  simp [Fibre.pred]
@[simp] theorem Fibre.later_g0 (f : Fibre) (l : Nat) (v : Word) : f.later l 0 v = f := by simp [Fibre.later]
@[simp] theorem Fibre.later_p0 (f : Fibre) (l : Nat) (v : Word) : f.later l 64 v = f := by simp [Fibre.later]

/-- A register reads the raw write of itself, unless it is g0. -/
theorem Fibre.setRegRaw_reg (f : Fibre) (r q : Reg) (v : Word) :
    (f.setRegRaw r v).reg q = if q = r ∧ q ≠ 0 then v else f.reg q := by
  by_cases hr : r = 0
  · have hn : ¬(q = r ∧ q ≠ 0) := fun h => h.2 (h.1.trans hr)
    rw [Fibre.setRegRaw, if_pos hr, if_neg hn]
  · rw [Fibre.setRegRaw, if_neg hr]
    unfold Fibre.reg
    by_cases hq : q = 0
    · have hn : ¬(q = r ∧ q ≠ 0) := fun h => h.2 hq
      rw [if_pos hq, if_neg hn, if_pos hq]
    · rw [if_neg hq, if_neg hq]
      by_cases he : q = r
      · subst he
        rw [if_pos ⟨rfl, hq⟩]
        exact Vector.getElem_set_self _
      · have hn : r.toNat ≠ q.toNat := fun h => he (BitVec.eq_of_toNat_eq h.symm)
        rw [if_neg fun h => he h.1]
        exact Vector.getElem_set_ne r.isLt q.isLt hn

theorem Fibre.setPredRaw_reg (f : Fibre) (p : Pred) (v : Bool) (q : Reg) : (f.setPredRaw p v).reg q = f.reg q := by
  rw [Fibre.setPredRaw]
  split <;> rfl

/-- A value put where a register's code says is what that register reads, unless it is g0; no other register changes. -/
theorem Fibre.put_reg (f : Fibre) (r q : Reg) (v : Word) :
    (f.put (rc r) v).reg q = if q = r ∧ q ≠ 0 then v else f.reg q := by
  have hr : rc r < 64 := r.isLt
  have he : BitVec.ofNat 6 (rc r) = r := BitVec.eq_of_toNat_eq (by simp [rc])
  rw [Fibre.put, if_pos hr, he]
  exact Fibre.setRegRaw_reg f r q v

theorem Fibre.now_reg (f : Fibre) (r q : Reg) (v : Word) :
    (f.setRegNow r v).reg q = if q = r ∧ q ≠ 0 then v else f.reg q := by
  rw [← Fibre.put_reg f r q v]
  rfl

end Sys2Proof.Machine
end

