-- ==== Sys2Proof/Laws/Issue.lean ====
section
/-! SUPPORT. What issuing an instruction can do (R26, R27, R44, R49): one lemma for each outcome, and one inversion. -/

namespace Sys2Proof.Machine

/-- The early reads of an instruction are empty when none of its codes is early. -/
theorem Fibre.earlyReads_eq_nil {f : Fibre} {g l : List Nat} (h : ∀ c ∈ g ++ l, f.early c = false) :
    f.earlyReads g l = [] := by
  simp only [Fibre.earlyReads, List.filter_eq_nil_iff]
  intro c hc
  simp [h c hc]

/-- The window check passes. -/
theorem window_check {f : Fibre} {uses : List Reg} (h : ∀ r ∈ uses, r.toNat < f.window) :
    uses.any (fun r => decide (f.window ≤ r.toNat)) = false := by
  simp only [List.any_eq_false, decide_eq_true_eq, Nat.not_le]
  exact h

/-- An instruction that issues has its own effect. -/
theorem issue_next {s : State} {f : Fibre} {i : Instr} {g : BitVec 4} {st : Nat} {uses : List Reg} {srcs : List Nat}
    {body : Fibre → State} (h : s.Issues f i g uses srcs) : issue s i g st uses srcs body = .next (body f) := by
  obtain ⟨hc, hw, hs, hg, he⟩ := h
  have hsize : (f.craco && i.size == 2) = false := by
    cases hcr : f.craco
    · rfl
    · simpa [hcr] using hs
  have hearly : (f.chk && !(f.earlyReads [pc8 (g.setWidth 3)] srcs).isEmpty) = false := by
    cases hk : f.chk
    · rfl
    · rw [Fibre.earlyReads_eq_nil (he hk)]; rfl
  simp only [issue, hc, window_check hw, hsize, hg, hearly, Bool.false_or, Bool.false_eq_true, if_false, if_true]

/-- A lane instruction that issues writes its effect and retires. -/
theorem lane_next {s : State} {f : Fibre} {i : Instr} {h : Hdr} {uses : List Reg} {srcs : List Nat}
    {eff : Fibre → Fibre} (hi : s.Issues f i h.g uses srcs) :
    lane s i h uses srcs eff = .next (s.retire (eff f) i { stall := h.s.toNat }) := issue_next hi

/-- The same for one that may raise sticky bits. -/
theorem laneSticky_next {s : State} {f : Fibre} {i : Instr} {h : Hdr} {uses : List Reg} {srcs : List Nat}
    {eff : Fibre → Fibre × Bool × Bool} (hi : s.Issues f i h.g uses srcs) :
    laneSticky s i h uses srcs eff =
      .next (s.retireSticky (eff f).1 i h.s.toNat (eff f).2.1 (eff f).2.2) := issue_next hi

/-- What an issue answers: no fibre, UNDEF, STALL_SHORT, a guard that does not hold, or the instruction's effect. -/
theorem issue_cases (s : State) (i : Instr) (g : BitVec 4) (st : Nat) (uses : List Reg) (srcs : List Nat)
    (body : Fibre → State) :
    (s.cur? = none ∧ issue s i g st uses srcs body = .fault .noFibre) ∨
    ∃ f, s.cur? = some f ∧
      (issue s i g st uses srcs body = .next (s.trapAt f i .undef) ∨
       (∃ d, f.chk = true ∧ issue s i g st uses srcs body = .next (s.trapAt f i .stallShort d)) ∨
       (f.guard g = false ∧ issue s i g st uses srcs body = .next (s.retire f i { stall := st })) ∨
       (f.guard g = true ∧ issue s i g st uses srcs body = .next (body f))) := by
  cases hc : s.cur? with
  | none => exact .inl ⟨rfl, by simp only [issue, hc]⟩
  | some f =>
    refine .inr ⟨f, rfl, ?_⟩
    simp only [issue, hc]
    split
    · exact .inl rfl
    · split
      · rename_i hg
        split
        · rename_i hk
          exact .inr (.inl ⟨_, (Bool.and_eq_true_iff.mp hk).1, rfl⟩)
        · exact .inr (.inr (.inr ⟨hg, rfl⟩))
      · rename_i hg
        split
        · rename_i hk
          exact .inr (.inl ⟨_, (Bool.and_eq_true_iff.mp hk).1, rfl⟩)
        · exact .inr (.inr (.inl ⟨by simpa using hg, rfl⟩))

/-- A guard that does not hold: the instruction retires and does nothing else (R26). -/
theorem issue_guard_false {s : State} {f : Fibre} {i : Instr} {g : BitVec 4} {st : Nat} {uses : List Reg}
    {srcs : List Nat} {body : Fibre → State} (hc : s.cur? = some f) (hw : ∀ r ∈ uses, r.toNat < f.window)
    (hs : ¬(f.craco = true ∧ i.size = 2)) (hg : f.guard g = false)
    (he : f.chk = true → f.early (pc8 (g.setWidth 3)) = false) :
    issue s i g st uses srcs body = .next (s.retire f i { stall := st }) := by
  have hsize : (f.craco && i.size == 2) = false := by
    cases hcr : f.craco
    · rfl
    · simpa [hcr] using hs
  have hearly : (f.chk && !(f.earlyReads [pc8 (g.setWidth 3)] []).isEmpty) = false := by
    cases hk : f.chk
    · rfl
    · rw [Fibre.earlyReads_eq_nil (by simpa using he hk)]; rfl
  simp only [issue, hc, window_check hw, hsize, hg, hearly, Bool.false_or, Bool.false_eq_true, if_false]

end Sys2Proof.Machine
end

