-- ==== Sys2Proof/Tests/Slice0.lean ====
section
/-! SUPPORT. Tests. Expected results are the manual's own words, tables and worked examples, or hand calculation from
them. The witnesses show that the hypotheses of the statements can be met. -/

namespace Sys2Proof.Tests

set_option Elab.async false

open Sys2Proof Sys2Proof.Machine

/-! A small state: one launch of one fibre on core 0, whose first GiB is mapped to itself by an entry of the core's L1 TLB and of the quad's. -/

def tb.f : Fibre := bench.fibre 2 1
def tb.entry : TlbEntry := ⟨0, 1, 0, 2 ^ 30, .dram 0, true, true, true, false, 0⟩
def tb.s : State := { State.reset with
  bar := { Regs.reset with status := 5 }
  tlb := [tb.entry]
  l1tlb := [(0, tb.entry)]
  launches := [bench.launch 1]
  blocks := [bench.block 1]
  fibres := [tb.f]
  nextId := 3
  cur := 2 }
/-- The state with another fibre of the same name in the place of the one it has. -/
def tb.with (f : Fibre) : State := { tb.s with fibres := [f] }
/-- The fibre with values in its registers. -/
def tb.regs (l : List (Reg × Word)) : Fibre := l.foldl (fun f p => f.setRegRaw p.1 p.2) tb.f
def tb.h : Hdr := ⟨0, 3⟩

/-- A fibre of that name, resident, in a whole window, with no check and no Craco body, issues any instruction. -/
theorem tb.issuesWith {s : State} {f : Fibre} {i : Instr} {uses : List Reg} {srcs : List Nat} (hc : s.cur? = some f)
    (hw : f.window = 64) (hk : f.craco = false) (hm : f.chk = false) : s.Issues f i 0 uses srcs :=
  ⟨hc, fun r _ => by rw [hw]; exact r.isLt, fun h => by simp [hk] at h, rfl, fun h => by simp [hm] at h⟩

theorem tb.issues {i : Instr} {uses : List Reg} {srcs : List Nat} : tb.s.Issues tb.f i 0 uses srcs :=
  tb.issuesWith rfl rfl rfl rfl

/-- A field of the fibre after an instruction. -/
def tb.after {α : Type} (s : State) (i : Instr) (k : State → Fibre → α) : Option α :=
  match exec i s with
  | .next t => (t.fib? 2).map (k t)
  | .fault _ => none
  | .refused _ => none
/-- The value written and still pending, or in place, of a register. -/
def tb.value (f : Fibre) (r : Reg) : Word := f.flush.reg r
/-! Decoding. Each word is composed by hand from its row of the encoding tables (02 R25 to R45): the row's fixed bits,
G = 0011 and S = 10, b = 12, a = 8, d = 10, and 5, 2 or 1 in the other fields. -/

def tb.hw : Hdr := ⟨3, 2⟩

/-- Every word of the list, of n bits, decodes to the instruction beside it. -/
def tb.decodes (n : Nat) (l : List (Nat × Instr)) : Bool := l.all fun p => decodeTableWord n p.1 == some p.2

theorem test_decode_words_1 : tb.decodes 32
    [(0x1841409D, .addI32 tb.hw 12 8 10),
     (0x9841409D, .subI32 tb.hw 12 8 10),
     (0x1841411D, .mulLoI32 tb.hw 12 8 10),
     (0x9841411D, .madLoI32 tb.hw 12 8 10),
     (0x1841419D, .mulHiI32 tb.hw 12 8 10),
     (0x9841419D, .mulHiN32 tb.hw 12 8 10),
     (0x1841421D, .andB32 tb.hw 12 8 10),
     (0x9841421D, .orB32 tb.hw 12 8 10),
     (0x1841429D, .xorB32 tb.hw 12 8 10),
     (0x9841429D, .andnB32 tb.hw 12 8 10),
     (0x1841431D, .shlB32 tb.hw 12 8 10),
     (0x9841431D, .shrN32 tb.hw 12 8 10),
     (0x1841439D, .shrI32 tb.hw 12 8 10),
     (0x9841439D, .rotB32 tb.hw 12 8 10),
     (0x1841441D, .minI32 tb.hw 12 8 10)] = true := by decide +kernel

theorem test_decode_words_2 : tb.decodes 32
    [(0x9841441D, .maxI32 tb.hw 12 8 10),
     (0x1841449D, .minN32 tb.hw 12 8 10),
     (0x9841449D, .maxN32 tb.hw 12 8 10),
     (0x1841451D, .addI64 tb.hw 12 8 10),
     (0x9841451D, .subI64 tb.hw 12 8 10),
     (0x0289459D, .addI32Imm tb.hw 5 10),
     (0x0291459D, .subI32Imm tb.hw 5 10),
     (0x0299459D, .mulLoI32Imm tb.hw 5 10),
     (0x02A1459D, .andB32Imm tb.hw 5 10),
     (0x02A9459D, .orB32Imm tb.hw 5 10),
     (0x02B1459D, .xorB32Imm tb.hw 5 10),
     (0x02B9459D, .shlB32Imm tb.hw 5 10),
     (0x02C1459D, .shrN32Imm tb.hw 5 10),
     (0x02C9459D, .shrI32Imm tb.hw 5 10),
     (0x02D1459D, .minI32Imm tb.hw 5 10)] = true := by decide +kernel

theorem test_decode_words_3 : tb.decodes 32
    [(0x02D9459D, .maxI32Imm tb.hw 5 10),
     (0x02E1459D, .faddF32Imm tb.hw 5 10),
     (0x02E9459D, .fmulF32Imm tb.hw 5 10),
     (0x02F1459D, .fmaxF32Imm tb.hw 5 10),
     (0x02F9459D, .haddH2Imm tb.hw 5 10),
     (0x0029461D, .movImm tb.hw 5 10),
     (0x1841469D, .mulWideI32 tb.hw 12 8 10),
     (0x9841469D, .mulWideN32 tb.hw 12 8 10),
     (0x1849671D, .leaN32 tb.hw 12 8 10 3),
     (0x9849671D, .leaI32 tb.hw 12 8 10 3),
     (0x0041479D, .mov tb.hw 8 10),
     (0x0241479D, .movB64 tb.hw 8 10),
     (0x0441479D, .notB32 tb.hw 8 10),
     (0x0641479D, .negI32 tb.hw 8 10),
     (0x0841479D, .absI32 tb.hw 8 10)] = true := by decide +kernel

theorem test_decode_words_4 : tb.decodes 32
    [(0x0A41479D, .popcB32 tb.hw 8 10),
     (0x0C41479D, .clzB32 tb.hw 8 10),
     (0x0E41479D, .brevB32 tb.hw 8 10),
     (0x8A41479D, .addI64Imm tb.hw 5 8 10),
     (0x1841481D, .faddF32 tb.hw 12 8 10),
     (0x9841481D, .fsubF32 tb.hw 12 8 10),
     (0x1841489D, .fmulF32 tb.hw 12 8 10),
     (0x9841489D, .ffmaF32 tb.hw 12 8 10),
     (0x1841491D, .fminF32 tb.hw 12 8 10),
     (0x9841491D, .fmaxF32 tb.hw 12 8 10),
     (0x1841499D, .faddF64 tb.hw 12 8 10),
     (0x9841499D, .fsubF64 tb.hw 12 8 10),
     (0x18414A1D, .fmulF64 tb.hw 12 8 10),
     (0x98414A1D, .ffmaF64 tb.hw 12 8 10),
     (0x18414A9D, .haddH2 tb.hw 12 8 10)] = true := by decide +kernel

theorem test_decode_words_5 : tb.decodes 32
    [(0x98414A9D, .hmulH2 tb.hw 12 8 10),
     (0x18414B1D, .hfmaH2 tb.hw 12 8 10),
     (0x98414B1D, .hfmaBh2 tb.hw 12 8 10),
     (0x00414B9D, .fabsF32 tb.hw 8 10),
     (0x02414B9D, .fnegF32 tb.hw 8 10),
     (0x04414B9D, .fabsF64 tb.hw 8 10),
     (0x06414B9D, .fnegF64 tb.hw 8 10),
     (0x08414B9D, .haddBh2 tb.hw 8 10),
     (0x0A414B9D, .hmulBh2 tb.hw 8 10),
     (0x0C414B9D, .fminF64 tb.hw 8 10),
     (0x0E414B9D, .fmaxF64 tb.hw 8 10),
     (0x10414B9D, .hminH2 tb.hw 8 10),
     (0x12414B9D, .hmaxH2 tb.hw 8 10),
     (0x14414B9D, .hminBh2 tb.hw 8 10),
     (0x16414B9D, .hmaxBh2 tb.hw 8 10)] = true := by decide +kernel

theorem test_decode_words_6 : tb.decodes 32
    [(0x18414B9D, .frintF32 tb.hw 8 10),
     (0x28414C9D, .cvtToNarrow tb.hw .i8 8 10),
     (0xA8414C9D, .cvtFromNarrow tb.hw .i8 8 10),
     (0x00414D1D, .rcpF32 tb.hw 8 10),
     (0x02414D1D, .rsqrtF32 tb.hw 8 10),
     (0x04414D1D, .exp2F32 tb.hw 8 10),
     (0x06414D1D, .log2F32 tb.hw 8 10),
     (0x08414D1D, .sinF32 tb.hw 8 10),
     (0x0A414D1D, .cosF32 tb.hw 8 10),
     (0x18424E1D, .cmpI32 tb.hw .lt 2 12 8),
     (0x98424E1D, .cmpN32 tb.hw .lt 2 12 8),
     (0x18424E9D, .cmpF32 tb.hw .lt 2 12 8),
     (0x98424E9D, .cmpF64 tb.hw .lt 2 12 8),
     (0x8A424F1D, .cmpI32Imm tb.hw .lt 2 11 8),
     (0x8A42CF1D, .cmpN32Imm tb.hw .lt 2 11 8)] = true := by decide +kernel

theorem test_decode_words_7 : tb.decodes 32
    [(0x01004F9D, .pand tb.hw 0 4 2),
     (0x03004F9D, .por tb.hw 0 4 2),
     (0x05004F9D, .pxor tb.hw 0 4 2),
     (0x07004F9D, .pandn tb.hw 0 4 2),
     (0x08014F9D, .pget tb.hw 10),
     (0x0A400F9D, .pset tb.hw 8),
     (0x20004F9D, .xlElect tb.hw 2),
     (0x22414F9D, .xlBcastB32 tb.hw 8 10),
     (0x24014F9D, .xlCount tb.hw 0 10),
     (0x44414F9D, .xlBflyB32 tb.hw 2 8 10),
     (0x54414F9D, .xlUpB32 tb.hw 2 8 10),
     (0x64414F9D, .xlDownB32 tb.hw 2 8 10),
     (0x8A414F9D, .xlRed tb.hw .maxN32 8 10),
     (0x0000B01D, .bra tb.hw 5),
     (0x0000B09D, .call tb.hw 5)] = true := by decide +kernel

theorem test_decode_words_8 : tb.decodes 32
    [(0x0000119D, .ret tb.hw),
     (0x0200119D, .exit tb.hw),
     (0x0400119D, .yield tb.hw),
     (0x0600119D, .loose tb.hw),
     (0x0828119D, .prio tb.hw 5),
     (0x0A40119D, .prioR tb.hw 8),
     (0x0C40119D, .callR tb.hw 8),
     (0x0E40119D, .braR tb.hw 8),
     (0x1040119D, .rally tb.hw 8),
     (0x1240119D, .rallyH tb.hw 8),
     (0x0A28D21D, .loop tb.hw 2 5 133),
     (0x00B0B29D, .forkC tb.hw 5 2 5),
     (0x0000139D, .joinR tb.hw),
     (0x0240539D, .joinC tb.hw 2 8),
     (0x0440139D, .done tb.hw 8)] = true := by decide +kernel

theorem test_decode_words_9 : tb.decodes 32
    [(0x0600139D, .doneR tb.hw),
     (0x0841539D, .spawn tb.hw 10 8),
     (0x0A61541D, .ldB32Global tb.hw 5 12 10),
     (0x0A61549D, .ldB64Global tb.hw 5 12 10),
     (0x0A61551D, .stB32Global tb.hw 5 12 10),
     (0x0A61559D, .stB64Global tb.hw 5 12 10),
     (0x0A61561D, .ldB32Sp tb.hw 5 12 10),
     (0x0A61569D, .stB32Sp tb.hw 5 12 10),
     (0x0A41571D, .ldPlain tb.hw .n16 true 8 10),
     (0x8A41571D, .stPlain tb.hw .b16 true 8 10),
     (0x2A41571D, .ldSw tb.hw 5 8 10),
     (0xAA41571D, .stSw tb.hw 5 8 10),
     (0x4A41571D, .ldAcq tb.hw .die true 8 10),
     (0xCA41571D, .stRel tb.hw .die true 8 10),
     (0x0041589D, .plzOpen tb.hw 8 10)] = true := by decide +kernel

theorem test_decode_words_10 : tb.decodes 32
    [(0x0241589D, .plzEnter tb.hw 8 10),
     (0x0441589D, .plzLeave tb.hw 8 10),
     (0x0641589D, .plzVote tb.hw 8 10),
     (0x0840189D, .plzAbort tb.hw 8),
     (0x04415A1D, .barInit tb.hw .dev 8 10),
     (0x14415A1D, .barExpect tb.hw .dev 8 10),
     (0x24415A1D, .barArrive tb.hw .dev 8 10),
     (0x34415A1D, .barWait tb.hw .dev 8 10),
     (0x00401A9D, .setNew tb.hw 8),
     (0x02401A9D, .setEnrol tb.hw 8),
     (0x04401A9D, .setQuit tb.hw 8),
     (0x06415A9D, .grpEnter tb.hw 8 10),
     (0x08401A9D, .grpLeave tb.hw 8),
     (0x04281B1D, .cwait tb.hw .at 5),
     (0x80001B1D, .tokPass tb.hw)] = true := by decide +kernel

theorem test_decode_words_11 : tb.decodes 32
    [(0x00401C1D, .mxa tb.hw 8),
     (0x0A415C1D, .mxs tb.hw true 8 10),
     (0x18415C9D, .spkI8 tb.hw 12 8 10),
     (0x98415C9D, .spkF8 tb.hw 12 8 10),
     (0x18415D1D, .spkBf16 tb.hw 12 8 10),
     (0x00401D9D, .asel tb.hw 8),
     (0x02401D9D, .agat tb.hw 8),
     (0x04401D9D, .ksumRebuild tb.hw 8),
     (0x0A015E1D, .smov tb.hw 5 10),
     (0x4A401E1D, .sset tb.hw 5 8),
     (0x80281E1D, .trap tb.hw 5),
     (0x82001E1D, .tret tb.hw),
     (0x84401E1D, .launch tb.hw 8),
     (0x00281E9D, .safept tb.hw 5),
     (0x00283E9D, .nap tb.hw 5)] = true := by decide +kernel

theorem test_decode_words_12 : tb.decodes 32
    [(0x0000BF1D, .tretLabel tb.hw 5),
     (0x7241571D, .ldCb tb.hw .cbuf true 8 10),
     (0xF241571D, .stCb tb.hw .cbuf true 8 10),
     (0x4030AC07, .cvt ⟨0, 3⟩ .f32 .f16 6 5)] = true := by decide +kernel

theorem test_decode_halfwords : tb.decodes 16
    [(0xD540, .mov16 true 21 10),
     (0xD542, .addI3216 true 21 10),
     (0xD544, .subI3216 true 21 10),
     (0xD546, .mulLoI3216 true 21 10),
     (0xD548, .andB3216 true 21 10),
     (0xD54A, .orB3216 true 21 10),
     (0xD54C, .xorB3216 true 21 10),
     (0xD54E, .shlB3216 true 21 10),
     (0xD550, .shrN3216 true 21 10),
     (0xD552, .shrI3216 true 21 10),
     (0xD554, .minI3216 true 21 10),
     (0xD556, .maxI3216 true 21 10),
     (0xD558, .faddF3216 true 21 10),
     (0xD55A, .fmulF3216 true 21 10),
     (0xD55C, .fmaxF3216 true 21 10),
     (0xD55E, .haddH216 true 21 10)] = true := by decide +kernel

theorem test_decode_ext : decodeTableWord 64 0x8905870000A001 = some (.ext 5 (.addI32Imm ⟨0, 3⟩ 1 8)) := by decide +kernel

theorem test_decode_bsel : decodeTableWord 96 0xFFFFF8010000304900003107 = some (.bsel 3 [⟨12, 9⟩, ⟨-2, 0⟩]) := by decide +kernel

theorem test_decode_forkR : decodeTableWord 64 0x4001312419307 = some (.forkR ⟨0, 3⟩ 9 8 12 64 .f32 .add) := by decide +kernel

theorem test_decode_forkRL : decodeTableWord 64 0x800390019307 = some (.forkRL ⟨0, 3⟩ 8 0 12 8 .f16 .add) := by decide +kernel

theorem test_decode_cpy : decodeTableWord 64 0x228124227787 = some (.cpy ⟨0, 3⟩ 18 4 19 false 0 0 false .global .sp 0 true 16) := by decide +kernel

theorem test_decode_atom : decodeTableWord 64 0x50116215807 = some (.atom ⟨0, 3⟩ false 11 4 10 .n32 .die .rlx .add) := by decide +kernel

/-! The words the manual writes out itself (02, 04 "Encodings at work", 05, 06). -/

theorem test_spec_lane_words : tb.decodes 32
    [(0x00890587, .addI32Imm ⟨0, 3⟩ 1 8), (0x00018607, .movImm ⟨0, 3⟩ 0 12), (0x9240E107, .madLoI32 ⟨0, 3⟩ 9 8 7),
     (0x10294707, .leaN32 ⟨0, 3⟩ 8 4 10 2), (0x92422E07, .cmpN32 ⟨0, 3⟩ .lt 1 9 8),
     (0x00482F07, .cmpI32Imm ⟨0, 3⟩ .eq 1 0 9), (0x0030AC87, .cvtToNarrow ⟨0, 3⟩ .e4m3 6 5),
     (0x4261AF87, .xlBflyB32 ⟨0, 3⟩ 1 12 13), (0x82618F87, .xlRed ⟨0, 3⟩ .addF32 12 12),
     (0x9C698887, .ffmaF32 ⟨0, 3⟩ 14 13 12), (0x1C698B07, .hfmaH2 ⟨0, 3⟩ 14 13 12)] = true := by decide +kernel

theorem test_spec_control_words : tb.decodes 32
    [(0x00001187, .ret ⟨0, 3⟩), (0x02001187, .exit ⟨0, 3⟩), (0x04001187, .yield ⟨0, 3⟩), (0x06001187, .loose ⟨0, 3⟩),
     (0x08601187, .prio ⟨0, 3⟩ 12), (0x0A281187, .prioR ⟨0, 3⟩ 5), (0x0C301187, .callR ⟨0, 3⟩ 6),
     (0x0E301187, .braR ⟨0, 3⟩ 6), (0x10A01187, .rally ⟨0, 3⟩ 20), (0x12A01187, .rallyH ⟨0, 3⟩ 20),
     (0x00029087, .call ⟨0, 3⟩ 20), (0x08481207, .loop ⟨0, 3⟩ 0 9 4), (0x00483207, .loop ⟨0, 3⟩ 1 9 0),
     (0x0001904F, .bra ⟨9, 3⟩ 12), (0x06015287, .forkC ⟨0, 3⟩ 48 0 10)] = true := by decide +kernel

theorem test_spec_other_words : tb.decodes 32
    [(0x00001387, .joinR ⟨0, 3⟩), (0x02605387, .joinC ⟨0, 3⟩ 2 12), (0x04081387, .done ⟨0, 3⟩ 1),
     (0x06001387, .doneR ⟨0, 3⟩), (0x08315387, .spawn ⟨0, 3⟩ 10 6), (0x00003E87, .nap ⟨0, 3⟩ 0),
     (0x0851B707, .ldPlain ⟨0, 3⟩ .n16 false 10 13)] = true := by decide +kernel

theorem test_spec_halfword : decodeTableWord 16 0x8502 = some (.addI3216 true 1 8) := by decide +kernel
/-- `ext` with v = 100b before `ffma.rn.f32` (02, Worked encodings). -/
theorem test_spec_ext : decodeTableWord 64 0x9C69888700008001 = some (.ext 4 (.ffmaF32 ⟨0, 3⟩ 14 13 12)) := by
  decide +kernel

/-! Reserved encodings (R26, R29, R31, R34 to R44): no neighbour is read instead. -/

/-- G = 1000; major 0x0A with an odd pair; compare condition 111; a `cvt` between integers; a shuffle by 2^0; loop
counter 3; a plain load of type 110; a store of type 001; scope 110. -/
theorem test_reserved_words : ([0x008905C7, 0x10294507, 0x92472E07, 0x9430AC07, 0x4061AF87, 0x08487207,
    0x1851B707, 0x8451B707, 0x5851B707] : List Nat).all
    (fun w => decodeTableWord 32 w == none) = true := by decide +kernel

/-- An operand word, or a case word, whose bit 0 is 0 (R29). -/
theorem test_operand_word_bit : decodeTableWord 64 0x0004001212419307 = none ∧
    decodeTableWord 64 0x0000304800001107 = none := by decide +kernel

/-! Well-formedness: a term each check refuses. -/

theorem test_wf_guard : (Instr.addI32 ⟨8, 3⟩ 1 2 3).wf = false ∧ (Instr.addI32 ⟨9, 3⟩ 1 2 3).wf = true ∧
    (Instr.bsel 3 [⟨1, 8⟩]).wf = false := by decide
theorem test_wf_pairs : (Instr.addI64 ⟨0, 3⟩ 1 2 4).wf = false ∧ (Instr.addI64 ⟨0, 3⟩ 2 1 4).wf = false ∧
    (Instr.addI64 ⟨0, 3⟩ 2 4 1).wf = false ∧ (Instr.mulWideI32 ⟨0, 3⟩ 1 1 3).wf = false ∧
    (Instr.callR ⟨0, 3⟩ 7).wf = false ∧ (Instr.spawn ⟨0, 3⟩ 1 7).wf = false := by decide
theorem test_wf_convert : (Instr.cvt ⟨0, 3⟩ .f32 .f32 1 2).wf = false ∧ (Instr.cvt ⟨0, 3⟩ .i64 .i32 2 4).wf = false ∧
    (Instr.cvt ⟨0, 3⟩ .f64 .i32 2 5).wf = false ∧ (Instr.cvt ⟨0, 3⟩ .f32 .n64 3 5).wf = false := by decide
theorem test_wf_shuffle : (Instr.xlUpB32 ⟨0, 3⟩ 0 1 2).wf = false ∧ (Instr.xlDownB32 ⟨0, 3⟩ 7 1 2).wf = false ∧
    (Instr.xlBflyB32 ⟨0, 3⟩ 6 1 2).wf = true := by decide
theorem test_wf_bsel : (Instr.bsel 3 []).wf = false ∧ (Instr.bsel 3 (List.replicate 5 ⟨1, 0⟩)).wf = false ∧
    (Instr.bsel 3 (List.replicate 4 ⟨1, 0⟩)).wf = true := by decide
theorem test_wf_loop : (Instr.loop ⟨0, 3⟩ 3 1 1).wf = false ∧ (Instr.forkRL ⟨0, 3⟩ 8 3 12 8 .f16 .add).wf = false := by
  decide
theorem test_wf_fork_operands : (Instr.forkR ⟨0, 3⟩ 8 8 12 64 .f32 .add).wf = false ∧
    (Instr.forkR ⟨0, 3⟩ 9 0 12 64 .f32 .add).wf = false ∧ (Instr.forkR ⟨0, 3⟩ 0 8 12 64 .f32 .add).wf = false ∧
    (Instr.forkR ⟨0, 3⟩ 9 8 12 0 .f32 .add).wf = false ∧ (Instr.forkRL ⟨0, 3⟩ 0 0 12 8 .f16 .add).wf = false := by decide
theorem test_wf_fork_reduction : (Instr.forkR ⟨0, 3⟩ 9 8 0 64 .f32 .none).wf = false ∧
    (Instr.forkR ⟨0, 3⟩ 9 8 12 64 .f16 .none).wf = false ∧ (Instr.forkR ⟨0, 3⟩ 9 8 0 64 .f32 .add).wf = false ∧
    (Instr.forkR ⟨0, 3⟩ 9 8 13 64 .i64 .add).wf = false ∧ (Instr.forkR ⟨0, 3⟩ 9 8 8 64 .f32 .add).wf = false ∧
    (Instr.forkR ⟨0, 3⟩ 9 5 8 64 .i64 .add).wf = false := by decide
theorem test_wf_memory : (Instr.ldPlain ⟨0, 3⟩ .b32 false 1 2).wf = false ∧ (Instr.ldPlain ⟨0, 3⟩ .b64 true 1 3).wf = false ∧
    (Instr.ldPlain ⟨0, 3⟩ .b32 true 1 2).wf = true ∧ (Instr.ldAcq ⟨0, 3⟩ .die true 2 3).wf = false ∧
    (Instr.stCb ⟨0, 3⟩ .abuf true 2 3).wf = false := by decide
theorem test_wf_copy_pairs : (Instr.cpy ⟨0, 3⟩ 1 3 2 false 0 0 false .global .sp 0 false 0).wf = false ∧
    (Instr.cpy ⟨0, 3⟩ 1 2 3 false 0 0 false .sp .global 0 false 0).wf = false ∧
    (Instr.cpy ⟨0, 3⟩ 1 2 3 false 0 0 true .sp .sp 0 true 5).wf = false := by decide
theorem test_wf_copy_window : (Instr.cpy ⟨0, 3⟩ 1 2 3 false 1 0 false .sp .sp 0 false 0).wf = false ∧
    (Instr.cpy ⟨0, 3⟩ 1 2 3 false 0 1 false .sp .sp 0 false 0).wf = false ∧
    (Instr.cpy ⟨0, 3⟩ 1 2 3 true 0 0 false .sp .sp 0 true 5).wf = false := by decide
theorem test_wf_atom : (Instr.atom ⟨0, 3⟩ false 1 2 3 .b32 .die .rlx .add).wf = false ∧
    (Instr.atom ⟨0, 3⟩ false 1 2 3 .i32 .die .rlx .cas).wf = false ∧
    (Instr.atom ⟨0, 3⟩ true 1 2 3 .i32 .die .rlx .add).wf = false ∧
    (Instr.atom ⟨0, 3⟩ false 1 2 4 .n64 .die .rlx .add).wf = false ∧
    (Instr.atom ⟨0, 3⟩ true 1 3 3 .i32 .core .rlx .add).wf = true := by decide
theorem test_wf_sync : (Instr.barInit ⟨0, 3⟩ .die 3 1).wf = false ∧ (Instr.barInit ⟨0, 3⟩ .sp 3 1).wf = true ∧
    (Instr.plzOpen ⟨0, 3⟩ 3 2).wf = false ∧ (Instr.grpEnter ⟨0, 3⟩ 3 2).wf = false := by decide
theorem test_wf_selection : (Instr.spkI8 ⟨0, 3⟩ 4 2 4).wf = false ∧ (Instr.spkF8 ⟨0, 3⟩ 4 3 5).wf = false ∧
    (Instr.spkBf16 ⟨0, 3⟩ 4 2 6).wf = false ∧ (Instr.spkBf16 ⟨0, 3⟩ 7 4 6).wf = false := by decide
theorem test_wf_special : (Instr.smov ⟨0, 3⟩ 11 3).wf = false ∧ (Instr.sset ⟨0, 3⟩ 11 3).wf = false ∧
    (Instr.safept ⟨0, 3⟩ 1024).wf = false ∧ (Instr.safept ⟨0, 3⟩ 1023).wf = true := by decide
theorem test_wf_ext : (Instr.ext 8 (.faddF32 ⟨0, 3⟩ 1 2 3)).wf = false ∧ (Instr.ext 7 (.faddF32 ⟨0, 3⟩ 1 2 3)).wf = true ∧
    (Instr.ext 1 (.safept ⟨0, 3⟩ 0)).wf = false ∧ (Instr.ext 0 (.ext 0 (.movImm ⟨0, 3⟩ 0 1))).wf = false := by decide

/-! One step of an instruction. The expected results are worked in the manual at the rule named, or by hand. -/

/-- The value of a register after an instruction on two register values. -/
def tb.result (i : Instr) (x y : Word) (r : Reg) : Option Word :=
  tb.after (tb.with (tb.regs [(1, x), (2, y)])) i fun _ g => tb.value g r

/-- R71: arithmetic modulo 2^32, the high halves of the two signs, shifts by b<4:0>, signed and natural order. -/
theorem test_integer_results :
    [tb.result (.addI32 tb.h 2 1 5) 0xFFFFFFFF 3 5, tb.result (.mulHiI32 tb.h 2 1 5) 0xFFFFFFFF 0xFFFFFFFF 5,
     tb.result (.mulHiN32 tb.h 2 1 5) 0xFFFFFFFF 0xFFFFFFFF 5, tb.result (.shrI32 tb.h 2 1 5) 0x80000000 33 5,
     tb.result (.minI32 tb.h 2 1 5) 0xFFFFFFFF 1 5, tb.result (.minN32 tb.h 2 1 5) 0xFFFFFFFF 1 5] =
    [some 2, some 0, some 0xFFFFFFFE, some 0xC0000000, some 0xFFFFFFFF, some 1] := by decide +kernel
/-- The source is also the destination of `mad` (R71): 3 · 5 + 3. -/
theorem test_mad_source_is_destination : tb.result (.madLoI32 tb.h 2 1 1) 3 5 1 = some 18 := by decide +kernel
/-- R72: the corner of `neg` and `abs`, the counts, the reversal. -/
theorem test_unary_results :
    [tb.result (.negI32 tb.h 1 5) 0x80000000 0 5, tb.result (.absI32 tb.h 1 5) 0x80000000 0 5,
     tb.result (.clzB32 tb.h 1 5) 0 0 5, tb.result (.popcB32 tb.h 1 5) 0xF0F0F0F1 0 5,
     tb.result (.brevB32 tb.h 1 5) 0x00000003 0 5] =
    [some 0x80000000, some 0x80000000, some 32, some 17, some 0xC0000000] := by decide +kernel
/-- R75, R76, R78: 1.0 + 2.0; the smaller of the zeros is −0; −0.3 and 2.5 rounded to nearest-even. -/
theorem test_float_results :
    [tb.result (.faddF32 tb.h 2 1 5) 0x3F800000 0x40000000 5, tb.result (.fminF32 tb.h 2 1 5) 0 0x80000000 5,
     tb.result (.frintF32 tb.h 1 5) 0xBE99999A 0 5, tb.result (.frintF32 tb.h 1 5) 0x40200000 0 5] =
    [some 0x40400000, some 0x80000000, some 0x80000000, some 0x40000000] := by decide +kernel
/-- R76: the 16-bit rectifier `fmax.f32 g5, 0` gives +0 for −0 and the canonical NaN for a NaN. -/
theorem test_rectifier :
    [tb.after (tb.with (tb.regs [(5, 0x80000000)])) (.fmaxF3216 true 0 5) fun _ g => tb.value g 5,
     tb.after (tb.with (tb.regs [(5, 0xFFC01234)])) (.fmaxF3216 true 0 5) fun _ g => tb.value g 5] =
    [some 0, some 0x7FC00000] := by decide +kernel
/-- R79: `cvt.f16.i32` of 70,000 is +∞. -/
theorem test_cvt_overflow : tb.result (.cvt tb.h .f16 .i32 1 5) 70000 0 5 = some 0x7C00 := by decide +kernel
/-- R80: `cvt.i4.f32` of −9.4 gives 0xFFFFFFF8 with CONV; `cvt.n8.f32` of −0.4 gives 0 with no sticky bit. -/
theorem test_cvt_narrow :
    [tb.after (tb.with (tb.regs [(1, 0xC1166666)])) (.cvtToNarrow tb.h .i4 1 5) fun _ g => (tb.value g 5, g.sat != 0),
     tb.after (tb.with (tb.regs [(1, 0xBECCCCCD)])) (.cvtToNarrow tb.h .n8 1 5) fun _ g => (tb.value g 5, g.sat != 0)] =
    [some (0xFFFFFFF8, true), some (0, false)] := by decide +kernel
/-- R81: `rcp` of 2.0 and of −0, `log2` of 8.0, `exp2` of −∞, `sin` of −0. -/
theorem test_special_functions :
    [tb.result (.rcpF32 tb.h 1 5) 0x40000000 0 5, tb.result (.rcpF32 tb.h 1 5) 0x80000000 0 5,
     tb.result (.log2F32 tb.h 1 5) 0x41000000 0 5, tb.result (.exp2F32 tb.h 1 5) 0xFF800000 0 5,
     tb.result (.sinF32 tb.h 1 5) 0x80000000 0 5] =
    [some 0x3F000000, some 0xFF800000, some 0x40400000, some 0, some 0x80000000] := by decide +kernel
/-- R83: `cmp.lt.n32 p1, g8, -1` holds for 0xFFFFFFFE and not for 0xFFFFFFFF. -/
theorem test_compare_constant :
    [tb.after (tb.with (tb.regs [(8, 0xFFFFFFFE)])) (.cmpN32Imm tb.h .lt 1 (-1) 8) fun _ g => g.flush.guard 1,
     tb.after (tb.with (tb.regs [(8, 0xFFFFFFFF)])) (.cmpN32Imm tb.h .lt 1 (-1) 8) fun _ g => g.flush.guard 1] =
    [some true, some false] := by decide +kernel
/-- R74: `lea.i32` takes a negative index, scaled. -/
theorem test_lea_negative :
    (tb.after (tb.with (tb.regs [(2, 0x100), (1, 0xFFFFFFFF)])) (.leaI32 tb.h 1 2 4 2) fun _ g =>
      (g.flush.pair 4)) = some 0xFC := by decide +kernel
/-- R91, R92: the target counts from the instruction's first word; `call` writes the link pair. -/
theorem test_call :
    tb.after tb.s (.call tb.h 20) (fun _ g => (g.pc, g.pair g.link)) =
      some (tb.f.pc + 40, .ofNat 64 (tb.f.pc + 4)) := by decide +kernel
/-- R92: a `ret` at the top level traps FRAME; without a vector the fibre parks (R162). -/
theorem test_ret_top_level : tb.after tb.s (.ret tb.h) (fun _ g => g.pc) = some tb.f.pc := by decide +kernel
/-- R26: a false guard has no effect but the PC's. -/
theorem test_false_guard : tb.after tb.s (.movImm ⟨1, 3⟩ 5 5) (fun _ g => (g.pc, tb.value g 5)) =
    some (tb.f.pc + 4, tb.value tb.f 5) := by decide +kernel
/-- R44: a 64-register window reads every number; with 16 registers g16 takes UNDEF, and nothing is written. -/
theorem test_window : tb.after (tb.with { tb.f with window := 16 }) (.movImm tb.h 5 16) (fun _ g => (g.pc, tb.value g 16)) =
    some (tb.f.pc, tb.value tb.f 16) := by decide +kernel

/-- R125, R127, R51: what lands while an access waits for its page reaches the register as that goes on; in a nap at once. -/
def tb.waits (i : Instr) (w : Wait) : Fibre := { tb.f with wait := w, waited := true, inst := some i }
theorem test_landing_in_a_wait :
    ((tb.waits (.exit tb.h) (.fault 0 3)).land 0 5 7).reg 5 = 0 ∧ ((tb.waits (.exit tb.h) (.fault 0 3)).land 0 5 7).flush.reg 5 = 7 ∧
    ((tb.waits (.nap tb.h 5) .nap).land 0 5 7).reg 5 = 7 ∧ ((tb.waits (.done tb.h 5) .drain).land 0 5 7).reg 5 = 7 := by
  decide +kernel

/-! Witnesses: states and operands that meet the hypotheses of the statements. -/

theorem test_meets_IntegerResults : tb.s.Issues tb.f (.addI32 tb.h 3 2 1) tb.h.g [3, 2, 1] [rc 2, rc 3] ∧
    tb.s.Issues tb.f (.addI64 tb.h 4 2 6) tb.h.g [4, odd 4, 2, odd 2, 6, odd 6] [rc 2, rc (odd 2), rc 4, rc (odd 4)] :=
  ⟨tb.issues, tb.issues⟩
theorem test_meets_ImmediateResults :
    tb.s.Issues tb.f (withExt (some 1) (.addI32Imm tb.h 5 1)) tb.h.g [1] [rc 1] := tb.issues
theorem test_meets_ShortIntegerResults :
    tb.s.Issues tb.f (.addI3216 true 31 1) 0 (uses16 true 31 1) (srcs16 true 31 1 true) := tb.issues
theorem test_meets_BitCountsAreExact : (0 : Word) = 0 ∧ 31 < 32 := ⟨rfl, by decide⟩
theorem test_meets_FloatResults : tb.s.Issues tb.f (withExt (some 2) (.faddF32 tb.h 3 2 1)) tb.h.g [3, 2, 1] [rc 2, rc 3] :=
  tb.issues
theorem test_meets_FloatSignOperations : (fF32.val 0x7FC00001).isNan = true ∧ (fF32.val 0x80000001).isNan = false ∧
    0x80000001 < 2 ^ (fF32.width + 1) ∧ (fF64.val (2 ^ 63)).isNan = false := by decide +kernel
theorem test_meets_FloatImmediateResults :
    tb.s.Issues tb.f (withExt none (.faddF32Imm tb.h 511 1)) tb.h.g [1] [rc 1] ∧
    tb.s.Issues tb.f (.haddH216 false 3 1) 0 (uses16 false 3 1) (srcs16 false 3 1 true) := ⟨tb.issues, tb.issues⟩
theorem test_meets_ConversionResults : tb.s.Issues tb.f (withExt none (.cvt tb.h .f64 .f32 2 4)) tb.h.g [2, 4, odd 4] [rc 2] ∧
    tb.s.Issues tb.f (.rcpF32 tb.h 2 4) tb.h.g [2, 4] [rc 2] := ⟨tb.issues, tb.issues⟩
theorem test_meets_PredicateResults : tb.s.Issues tb.f (.cmpI32 tb.h .lt 1 3 2) tb.h.g [3, 2] [rc 2, rc 3] ∧
    tb.s.Issues tb.f (.pget tb.h 2) tb.h.g [2] [65, 66, 67, 68, 69, 70, 71] := ⟨tb.issues, tb.issues⟩
theorem test_meets_CompressResults : tb.s.Issues tb.f (.spkI8 tb.h 6 2 4) tb.h.g [6, 4, 2, odd 2] [rc 2, rc (odd 2)] :=
  tb.issues
theorem test_meets_CompressKeepsTheFourLargest : [3, 3, 3, 3, 3, 3, 3, 3].length = 8 ∧ 0 ∈ spkKept [3, 3, 3, 3, 3, 3, 3, 3] ∧
    7 ∉ spkKept [3, 3, 3, 3, 3, 3, 3, 3] := by decide +kernel

theorem test_meets_RetireFrame : (tb.s.fib? tb.f.uid).isSome = true ∧ (∀ u, u = 9 → u ≠ tb.f.uid) ∧
    tb.f.early (rc 5) = false ∧ tb.f.early (pc8 3) = false ∧ tb.f.landed = [] ∧ tb.f.trapMode = false ∧
    ({ tb.f with trapMode := true } : Fibre).trapMode = true ∧ ({ tb.f with craco := true } : Fibre).craco = true ∧
    ({ tb.f with xlat := true } : Fibre).xlat = true :=
  ⟨by decide +kernel, fun u h => by rw [h]; decide, by decide +kernel, by decide +kernel, rfl, rfl, rfl, rfl, rfl⟩
theorem test_meets_WriteBecomesVisibleAtItsLatency : (5 : Reg) ≠ 0 ∧ tb.f.early (rc 5) = false ∧ 0 < 2 ∧ 1 < 2 ∧ 2 ≤ 2 ∧
    ∀ p ∈ (tb.f.setReg 2 5 7).landed, p.2.1 ≠ rc 5 := by
  decide +kernel
theorem test_meets_YoungestVisibleWriteStands : (5 : Reg) ≠ 0 ∧ tb.f.early (rc 5) = false ∧ 0 < 12 ∧ 0 < 2 := by
  decide +kernel
theorem test_meets_FalseGuardHasNoEffect :
    (let i := Instr.addI32 ⟨1, 3⟩ 3 2 1;
      i.isStep = false ∧ tb.s.cur? = some tb.f ∧ tb.f.held = none ∧ tb.f.guard (guardOf i) = false ∧
      ¬tb.s.EncodingUndef tb.f i ∧ ¬(tb.f.chk = true ∧ tb.f.early (pc8 ((guardOf i).setWidth 3)) = true)) ∧
    (let g := ({ tb.f with mode := 0x80 } : Fibre).setPred 2 1 true; let i := Instr.addI32 ⟨1, 3⟩ 3 2 1;
      (tb.with g).cur? = some g ∧ g.guard (guardOf i) = false ∧ g.chk = true ∧ g.early (pc8 ((guardOf i).setWidth 3)) = true) ∧
    (let g := { tb.f with window := 16 }; let i := Instr.addI32 ⟨1, 3⟩ 3 2 16;
      (tb.with g).cur? = some g ∧ g.guard (guardOf i) = false ∧ i.wf = true ∧ (tb.with g).EncodingUndef g i) ∧
    (let i := Instr.ext 1 (.addI32 ⟨1, 3⟩ 3 2 1);
      tb.f.guard (guardOf i) = false ∧ i.isStep = false ∧ i.wf = true ∧ tb.s.EncodingUndef tb.f i) := by
  refine ⟨⟨rfl, rfl, rfl, by decide +kernel, ?_, by decide +kernel⟩, by decide +kernel,
    ⟨rfl, by decide +kernel, by decide +kernel, .inr (.inr (.inl ⟨16, by decide +kernel, by decide +kernel⟩))⟩,
    by decide +kernel, rfl, by decide +kernel, .inr (.inr (.inr (.inr (.inr (by decide +kernel)))))⟩
  rintro (h | h | ⟨r, hr, h⟩ | h | ⟨n, h, _⟩ | h)
  · revert h; decide +kernel
  · revert h; decide +kernel
  · exact absurd h (Nat.not_le.mpr r.isLt)
  · exact absurd h.1 (by decide)
  · cases h
  · cases h
theorem test_meets_OperandTraps :
    (tb.with { tb.f with window := 16 }).cur? = some { tb.f with window := 16 } ∧ 16 ≤ (16 : Reg).toNat ∧
    (let g := ({ tb.f with mode := 0x80 } : Fibre).setReg 2 5 1;
      (tb.with g).cur? = some g ∧ g.chk = true ∧ g.early (rc 5) = true ∧ g.guard 0 = true) ∧
    (tb.with { tb.f with craco := true }).cur? = some { tb.f with craco := true } :=
  ⟨rfl, by decide, ⟨rfl, by decide +kernel⟩, rfl⟩
/-- A tool of the tests: where a trap's record lies, none of it where it has no translation, and nothing while its access waits. -/
def tb.place (s : State) (f : Fibre) (writes : Bool) : Option (Option Loc) :=
  match s.recordAt f writes with
  | .ok l _ => some (some l)
  | .gone _ => some none
  | .wait _ => none
/-- The state with the record's sector in the host's cache, and one whose trap area has no translation. -/
def tb.hosted (f : Fibre) : State := { tb.with f with hostBias := [0x300], hostLines := [(0xC000, .e)] }
def tb.lost (f : Fibre) : State := { tb.with f with launches := [{ bench.launch 1 with traps := 2 ^ 40 }] }
theorem test_meets_TrapEntry :
    (let g := { tb.f with vector := 0x2000 };
      (tb.with g).fib? g.uid = some g ∧ g.trapMode = false ∧ g.vector ≠ 0 ∧ tb.place (tb.with g) g true = some (some (.dram 0x300000)) ∧
      tb.place (tb.hosted g) g true = none ∧ tb.place (tb.lost g) g true = some none) ∧
    (tb.s.fib? tb.f.uid = some tb.f ∧ tb.f.tag = 0 ∧ tb.f.vector = 0 ∧ tb.place tb.s tb.f true ≠ none) ∧
    (let g := { tb.f with trapMode := true }; (tb.with g).fib? g.uid = some g ∧ g.trapMode = true) := by
  decide +kernel
theorem test_meets_TrapReturn :
    (let g := { tb.f with trapMode := true };
      (tb.with g).Issues g (.tret tb.h) tb.h.g [] [] ∧
      tb.place (tb.with g) g false = some (some (.dram 0x300000)) ∧ tb.place (tb.hosted g) g false = none ∧
      tb.place (tb.lost g) g false = some none ∧
      Dec.leNat ((((tb.with g).bytes (.dram 0x300000) 64).drop 8).take 8) = 0 ∧
      badRecord ((tb.with g).bytes (.dram 0x300000) 64) = false) ∧
    tb.s.Issues tb.f (withExt (some 1) (.tretLabel tb.h 4)) tb.h.g [] [] ∧ tb.f.trapMode = false :=
  ⟨⟨tb.issuesWith rfl rfl rfl rfl, by decide +kernel⟩, tb.issues, rfl⟩
/-- A record in memory that is read whole, one with a reserved field not zero, one that is poisoned; and a lane. -/
def tb.recorded (m : Memory) (bad : List Nat) : State :=
  { tb.with { tb.f with trapMode := true } with mem := m, poison := bad }
def tb.readBack (s : State) : List Byte × List Nat :=
  let r := checkRead (s.peekAll (.dram 0x300000) 64) (.dram 0x300000) 64 0
  (r.1.bytes (.dram 0x300000) 64, r.2)
theorem test_meets_TrapReturn_record :
    ((tb.readBack (tb.recorded [] [])).2 = [] ∧ badRecord (tb.readBack (tb.recorded [] [])).1 = false) ∧
    ((tb.readBack (tb.recorded (memWrite [] 0x30003C [1]) [])).2 = [] ∧
      badRecord (tb.readBack (tb.recorded (memWrite [] 0x30003C [1]) [])).1 = true) ∧
    (tb.readBack (tb.recorded [] [0xC000])).2 ≠ [] ∧
    ({ tb.f with held := some (7, 0), trapMode := true } : Fibre).held ≠ none := by
  refine ⟨?_, ?_, ?_, by decide⟩ <;> decide +kernel

theorem test_meets_BranchResults :
    (∀ v, tb.s.Issues tb.f (withExt v (.bra tb.h 0x7FFFF)) tb.h.g [] []) ∧ (tb.f.pair 2).toNat % 2 = 0 ∧ tb.f.pair tb.f.link = 0 ∧
    (let g := tb.regs [(62, 0x1000), (2, 0x2001), (5, 0x2000000)];
      (tb.with g).Issues g (.ret tb.h) tb.h.g [] [rc g.link, rc (odd g.link)] ∧ (g.pair g.link).toNat = 0x1000 ∧
      (g.pair 2).toNat % 2 = 1 ∧ (g.pair 4).toNat = 2 ^ 57) ∧
    (let g := tb.regs [(62, 0x1001)]; (g.pair g.link).toNat % 2 = 1) ∧
    (let g := tb.regs [(63, 0x2000000)]; (g.pair g.link).toNat = 2 ^ 57) :=
  ⟨fun _ => tb.issues, by decide +kernel, by decide +kernel,
    ⟨tb.issuesWith rfl rfl rfl (by decide +kernel), by decide +kernel⟩, by decide +kernel, by decide +kernel⟩
theorem test_meets_IssueControlResults : tb.s.Issues tb.f (.yield tb.h) tb.h.g [] [] ∧ (tb.s.fibres.map (·.uid)).Nodup ∧
    tb.s.Issues tb.f (.prioR tb.h 3) tb.h.g [3] [rc 3] ∧
    (let g := { tb.f with held := some (7, 0) };
      (tb.with g).Issues g (.loose tb.h) tb.h.g [] [] ∧ g.held = some (7, 0)) :=
  ⟨tb.issues, by decide +kernel, tb.issues, tb.issuesWith rfl rfl rfl rfl, rfl⟩
theorem test_meets_LoopResults :
    (tb.s.Issues tb.f (.loop tb.h 2 3 1) tb.h.g [3] [rc 3] ∧ tb.f.reg 3 = 0 ∧ (tb.regs [(3, 5)]).reg 3 ≠ 0 ∧
      ∃ t, skipGroups tb.s tb.f (tb.f.pc + 4) 2 = .ok 0x100008 t) ∧
    (let g : Fibre := { tb.f with lc1 := ⟨2, 0x0FFFF0, 0x100004, true, 1, 0⟩, lc2 := ⟨1, 0x0FFFF8, 0x100004, true, 2, 0⟩ };
      let ends (m : Nat) : Prop := (g.loop m).active = true ∧ (g.loop m).left = 0 ∧ (g.loop m).stop = g.pc + 4;
      ends 1 ∧ ends 2 ∧ (g.loop 1).order < (g.loop 2).order ∧ (g.loop 2).count = 1 ∧
      (let k := { g with lc2 := noLoop }; (k.loop 1).count ≠ 1 ∧ (k.loop 0).active = false ∧ (k.loop 2).active = false)) ∧
    (∀ m, m < 3 → (tb.f.loop m).active = false) :=
  ⟨⟨tb.issues, by decide +kernel, by decide +kernel, ⟨_, rfl⟩⟩, by decide +kernel, by decide +kernel⟩
theorem test_meets_ForkResults :
    (∀ v, tb.s.Issues tb.f (withExt v (.forkC tb.h 0x7FF 3 1)) tb.h.g (argRegs 1 3) ((argRegs 1 3).map rc)) ∧
    tb.f.frames.length < tb.s.depth tb.f ∧
    (let g : Fibre := { tb.f with frames := List.replicate 64 (.call 0 [] none) };
      (tb.with g).depth g ≤ g.frames.length ∧ g.inline.length < 64) ∧
    (let g : Fibre := { tb.f with frames := List.replicate 64 (.call 0 [] none), inline := List.replicate 64 true };
      (tb.with g).depth g ≤ g.frames.length ∧ 64 ≤ g.inline.length) :=
  ⟨fun _ => tb.issues, by decide +kernel, by decide +kernel, by decide +kernel⟩

/-- A range of form R without children, and one with the child of name 9. -/
def tb.range (kids : List Nat) : Range := ⟨false, 4, 5, 0, 1, .i32, .add, 6, kids, false, false⟩
/-- A fibre created from the one under test. -/
def tb.kid (st : Status) : Fibre := { tb.f with uid := 9, origin := .call, status := st, result := 7 }
def tb.two (f g : Fibre) : State := { tb.s with fibres := [f, g] }
theorem test_meets_JoinResults :
    (let g := { tb.f with frames := [.range (tb.range [9])] };
      (tb.two g (tb.kid .ended)).Issues g (.joinR tb.h) tb.h.g [] [] ∧ g.inline = [] ∧
      (tb.two g (tb.kid .ended)).ended 9 = true ∧ (tb.two g (tb.kid .queued)).ended 9 = false ∧
      (tb.two g (tb.kid .queued)).Issues g (.joinR tb.h) tb.h.g [] []) ∧
    (let g := { tb.f with frames := [.call 0x2000 [1] (some 9)] };
      (tb.two g (tb.kid .ended)).Issues g (.joinC tb.h 1 3) tb.h.g [3] [] ∧
      (tb.two g (tb.kid .ended)).fib? 9 = some (tb.kid .ended)) ∧
    (let g := { tb.f with frames := [.call 0x2000 [1] none] }; (tb.with g).Issues g (.joinC tb.h 1 3) tb.h.g [3] []) ∧
    (tb.s.Issues tb.f (.joinR tb.h) tb.h.g [] [] ∧ tb.f.inline = [] ∧ tb.f.frames = [] ∧ tb.f.origin ≠ .range) :=
  ⟨⟨tb.issuesWith rfl rfl rfl rfl, rfl, by decide +kernel, by decide +kernel, tb.issuesWith rfl rfl rfl rfl⟩,
    ⟨tb.issuesWith rfl rfl rfl rfl, by decide +kernel⟩, tb.issuesWith rfl rfl rfl rfl, tb.issues, rfl, rfl, by decide⟩
theorem test_meets_JoinResults_inline :
    (let g := { tb.f with inline := [false] };
      (tb.with g).Issues g (.joinR tb.h) tb.h.g [] [] ∧ (tb.with g).Issues g (.joinC tb.h 1 3) tb.h.g [3] [] ∧ g.inline = [false]) ∧
    (let g := { tb.f with inline := [true] };
      (tb.with g).Issues g (.joinR tb.h) tb.h.g [] [] ∧ (tb.with g).Issues g (.joinC tb.h 1 3) tb.h.g [3] [] ∧ g.inline = [true]) ∧
    (let g := { tb.f with origin := .range, root := some (tb.range [9]) };
      (tb.two g (tb.kid .queued)).Issues g (.joinR tb.h) tb.h.g [] [] ∧ (tb.with g).Issues g (.joinC tb.h 1 3) tb.h.g [3] [] ∧
      g.inline = [] ∧ g.frames = [] ∧ g.outs = [] ∧ g.mxFaults = [] ∧ (tb.two g (tb.kid .queued)).ended 9 = false) :=
  ⟨⟨tb.issuesWith rfl rfl rfl rfl, tb.issuesWith rfl rfl rfl rfl, rfl⟩,
    ⟨tb.issuesWith rfl rfl rfl rfl, tb.issuesWith rfl rfl rfl rfl, rfl⟩,
    ⟨tb.issuesWith rfl rfl rfl rfl, tb.issuesWith rfl rfl rfl rfl, rfl, rfl, rfl, rfl, by decide +kernel⟩⟩
/-- A fibre with a promoted range whose accumulator has a write that is not yet visible, under CHK and without it. -/
def tb.lateAcc (mode : Word) : Fibre := { tb.f with frames := [.range (tb.range [9])], mode := mode }.setReg 4 6 1
theorem test_meets_JoinResults_early :
    (let g := tb.lateAcc 0x80; let s := tb.two g (tb.kid .ended);
      s.Issues g (.joinR tb.h) tb.h.g [] [] ∧ g.frames = [.range (tb.range [9])] ∧ g.inline = [] ∧ (tb.range [9]).op ≠ .none ∧
      g.chk = true ∧ ∃ c ∈ accRegs (tb.range [9]).acc (tb.range [9]).ty, g.early (rc c) = true) ∧
    (let g := tb.lateAcc 0; g.chk = false) ∧
    (let g := { tb.f with origin := .range, root := some (tb.range []), mode := 0x80 };
      g.chk = true ∧ ∀ c ∈ accRegs (tb.range []).acc (tb.range []).ty, g.early (rc c) = false) :=
  ⟨⟨⟨rfl, fun _ h => absurd h List.not_mem_nil, fun h => absurd h (by decide +kernel), by decide +kernel,
      fun _ c h => by rw [List.mem_singleton] at h; subst h; decide +kernel⟩, by decide +kernel⟩, by decide +kernel, by decide +kernel⟩
/-- The fibre as a member of the set at offset 64. -/
theorem test_meets_EndAndSpawnResults_member :
    (let g := { tb.f with set := some (.sp (spKey 0 1 64)) };
      (tb.with g).Issues g (.exit tb.h) tb.h.g [] [] ∧ g.set = some (.sp (spKey 0 1 64)) ∧
      (tb.with g).ownAhead g (.sp (spKey 0 1 64)) 32 = false ∧
      ∃ v, (tb.with g).register ((tb.with g).departAcc g (.sp (spKey 0 1 64))) = .ok v) :=
  ⟨tb.issuesWith rfl rfl rfl rfl, rfl, by decide +kernel, _, rfl⟩
theorem test_meets_EndAndSpawnResults :
    (tb.s.Issues tb.f (.exit tb.h) tb.h.g [] [] ∧ tb.f.outs = [] ∧ tb.f.mxFaults = [] ∧ tb.f.frames = [] ∧
      tb.f.inline = [] ∧ tb.f.set = none ∧ tb.f.origin ≠ .range) ∧
    (let g := { tb.f with origin := .call }; (tb.with g).Issues g (.done tb.h 3) tb.h.g [3] [rc 3] ∧ g.origin = .call) ∧
    (let g := { tb.f with origin := .range, root := some (tb.range []) };
      (tb.with g).Issues g (.doneR tb.h) tb.h.g [] [] ∧ g.origin = .range ∧ g.root = some (tb.range []) ∧ (tb.range []).kids = []) ∧
    (let g := { tb.f with frames := [.range (tb.range [])] };
      (tb.with g).Issues g (.done tb.h 3) tb.h.g [3] [rc 3] ∧ g.frames ≠ []) ∧
    (tb.s.Issues tb.f (.spawn tb.h 3 4) tb.h.g [3, 4, odd 4] [rc 3, rc 4, rc (odd 4)] ∧ (tb.f.pair 4).toNat % 2 = 0 ∧
      (tb.f.pair 4).toNat < 2 ^ 57 ∧ tb.f.uid ≠ tb.s.nextId) :=
  ⟨⟨tb.issues, rfl, rfl, rfl, rfl, rfl, by decide⟩, ⟨tb.issuesWith rfl rfl rfl rfl, rfl⟩,
    ⟨tb.issuesWith rfl rfl rfl rfl, rfl, rfl, rfl⟩, ⟨tb.issuesWith rfl rfl rfl rfl, by decide⟩, tb.issues, by decide +kernel⟩
theorem test_meets_SpecialRegisterResults : tb.s.Issues tb.f (.smov tb.h 0x0B 2) tb.h.g [2, odd 2] [] ∧
    tb.s.Issues tb.f (.sset tb.h 0x08 2) tb.h.g [2] [rc 2] ∧ tb.f.held = none ∧
    ({ tb.f with held := some (7, 63) } : Fibre).held = some (7, 63) ∧ ({ tb.f with origin := .call } : Fibre).origin ≠ .launch :=
  ⟨tb.issues, tb.issues, rfl, rfl, by decide⟩
/-- A launch whose kernel has two safe points, the second at 0x5010; in memory its entry is good, or has a reserved bit, or its
depth is 0 where the fibre has a frame. -/
def tb.safeLaunch : Launch := { bench.launch 1 with kern := { bench.kernel with nsafe := 2, safetab := 0x5000 } }
def tb.safe (f : Fibre) (m : Memory) : State := { tb.with f with launches := [tb.safeLaunch], mem := m }
def tb.entryRead (s : State) (f : Fibre) : Option (List Byte × State) :=
  match vread s (some f.core) (coreQuad f.core) tb.safeLaunch.asid 0 (tb.safeLaunch.kern.safetab + 16 * 1) 8 2 with
  | .ok e t => some (e, t)
  | _ => none
/-- The kernel's body has been published for the fibre's Craco body. -/
def tb.xbody : XBody := ⟨0, 1, State.reset.sig, 0x9000, 0, [(1, 0x9100)], [], [], 64⟩
theorem test_meets_SafePointAndWaitResults :
    (let s := tb.safe tb.f [];
      s.Issues tb.f (withExt none (.safept tb.h 1)) tb.h.g [] [] ∧ s.launch? tb.f.launch = some tb.safeLaunch ∧
      1 < tb.safeLaunch.kern.nsafe ∧ tb.f.rebody = false ∧ tb.safeLaunch.kern.nsafe ≤ 2 ∧
      (match tb.entryRead s tb.f with
        | some (e, t) => !badEntry e && decide (tb.f.frames.length ≤ (e.getD 9 0).toNat) &&
          decide (t.published tb.safeLaunch tb.f 1 = none)
        | none => false) = true) ∧
    (tb.s.Issues tb.f (withExt none (.nap tb.h 5)) tb.h.g [] [] ∧ tb.f.wait = .none ∧
      (let g := { tb.f with wait := .napOver }; (tb.with g).Issues g (withExt none (.nap tb.h 5)) tb.h.g [] []) ∧
      tb.s.Issues tb.f (withExt none (.nap ⟨0, 0⟩ 0)) 0 [] [] ∧ tb.f.craco = false) ∧
    (tb.s.Issues tb.f (.cwait tb.h .ld 0) tb.h.g [] [] ∧ tb.f.counter .ld ≤ 0 ∧ tb.f.mxFaults = [] ∧
      0 < (tb.f.raise 5 .ld).counter .ld) :=
  ⟨⟨tb.issuesWith rfl rfl rfl rfl, rfl, by decide +kernel, rfl, by decide +kernel, by decide +kernel⟩,
    ⟨tb.issues, rfl, tb.issuesWith rfl rfl rfl rfl, tb.issues, rfl⟩, tb.issues, by decide +kernel⟩
theorem test_meets_SafePointAndWaitResults_bodies : tb.f.xlat = false ∧ ({ tb.f with xlat := true } : Fibre).xlat = true ∧
    tb.f.rebody = false := ⟨rfl, rfl, rfl⟩
theorem test_meets_SafePointAndWaitResults_entry :
    (let g := { tb.f with craco := true }; let s := { tb.safe g [] with xcache := [tb.xbody] };
      (match tb.entryRead s g with
        | some (e, t) => !badEntry e && decide (t.published tb.safeLaunch g 1 = some (tb.xbody, 0x9100))
        | none => false) = true) ∧
    (let s := tb.safe tb.f (memWrite [] 0x501A [1]);
      (match tb.entryRead s tb.f with
        | some (e, _) => badEntry e
        | none => false) = true) ∧
    (let g := { tb.f with frames := [.call 0x2000 [] none] };
      (match tb.entryRead (tb.safe g []) g with
        | some (e, _) => decide ((e.getD 9 0).toNat < g.frames.length)
        | none => false) = true) := by
  decide +kernel
/-- The launch under DET. -/
def tb.det : State := { tb.s with launches := [{ bench.launch 1 with flags := 1 }] }
theorem test_meets_TokenPass : tb.s.Issues tb.f (.tokPass tb.h) tb.h.g [] [] ∧ tb.s.det tb.f = false ∧
    tb.det.Issues tb.f (.tokPass tb.h) tb.h.g [] [] ∧ tb.det.det tb.f = true ∧ tb.f.passed = false ∧
    (let g := { tb.f with passed := true }; (tb.with g).Issues g (.tokPass tb.h) tb.h.g [] [] ∧ g.passed = true) :=
  ⟨tb.issues, rfl, tb.issuesWith rfl rfl rfl rfl, rfl, rfl, tb.issuesWith rfl rfl rfl rfl, rfl⟩

/-! A held batch of the fibre and one other lane. -/

def tb.lane (n : Nat) : Fibre := { tb.f with uid := 2 + n, held := some (7, n) }
def tb.batch : State := { tb.s with
  fibres := [tb.lane 0, tb.lane 1]
  batches := [⟨7, [.held 2, .held 3] ++ List.replicate 62 .empty, [2, 3], []⟩] }
theorem test_meets_CrossLaneResults : tb.batch.cur? = some (tb.lane 0) ∧ (tb.lane 0).held.isSome = true ∧
    (tb.batch.instanceLanes (tb.lane 0)).Nodup ∧ tb.batch.shortLanes (tb.lane 0) = [] ∧
    (∀ r ∈ ([5, 6] : List Reg), r.toNat < (tb.lane 0).window) ∧
    (∀ g ∈ (tb.batch.instanceLanes (tb.lane 0)).filterMap tb.batch.fib?, laneEarly tb.h [rc 5] g = []) ∧
    (List.replicate 64 (2 ^ 32 - 1)).length = 64 := by decide +kernel
/-- The state with nothing in its TLBs, and context table and page tables that map the first 2 MiB, and one with a flip. -/
def tb.walks : State := { tb.s with
  tlb := [], l1tlb := [], bar := { tb.s.bar with ctxbase := 0x10000 }, mem := bench.memory [] [] }
/-- A tool of the tests: the outcome of a translation in the quad of the fibre. -/
def tb.looks (s : State) (va : Nat) (k : AccKind) : Xlat := (s.lookup (some 0) 0 1 va k).2
theorem test_meets_GlobalOperandChecks : 2 ^ 57 ≤ 2 ^ 57 ∧ 2 ^ 57 - 1 < 2 ^ 57 ∧ (2 ^ 57 - 1) % 4 ≠ 0 ∧
    tb.s.inFrames (tb.s.asidOf tb.f) 0x40FFFC 4 = true ∧ tb.s.inFrames (tb.s.asidOf tb.f) 0x410000 4 = false ∧
    tb.f.wait ≠ .faultFailed (0x410000 / 4096) ∧ ({ tb.f with wait := .faultFailed 16 } : Fibre).wait = .faultFailed (0x10000 / 4096) ∧
    tb.s.l1Find 0 1 0x410000 = some tb.entry ∧ tb.entry.allows .read = true ∧ tb.s.flipping (.dram 0x410000) = false ∧
    tb.f.tag = 0 ∧ ({ tb.entry with w := false } : TlbEntry).allows .write = false ∧
    (match tb.looks tb.walks 0x1000 .read with
      | .ok l _ => decide (l = .dram 0x1000)
      | _ => false) = true ∧
    tb.looks { tb.walks with mem := [] } 0x1000 .read = .fault 0 4 0x10040 ∧
    tb.looks { tb.s with tlb := [{ tb.entry with w := false }], l1tlb := [] } 0x1000 .write = .prot ∧
    tb.looks { tb.s with biasCmd := some 0x8000000000001000 } 0x1000 .read = .flip := by
  decide +kernel
theorem test_meets_LoadResults :
    tb.s.Issues tb.f (withExt none (.ldB32Global tb.h 4 8 5)) tb.h.g (baseRegs true 8 ++ dataRegs 4 5)
      ((baseRegs true 8).map rc) ∧
    resolveGlobal tb.s tb.f (tb.f.addrOf true 8 (offM none 4 4)) 4 4 .read = .ok (.dram 16) tb.s ∧
    resolveSp tb.s tb.f (tb.f.addrOf false 8 (offD (some 8))) 4 4 false = .ok (.sp (spKey 0 1 8)) tb.s ∧
    tb.s.CanPost tb.f (tb.s.newAccess tb.f (.ldB32Global tb.h 4 8 5) (.dram 16) 16 4 (.load .b32 5)) :=
  ⟨tb.issues, rfl, rfl, by decide +kernel⟩
/-- A block that holds its quad's buffers, and whose fibre is in a set that maps a window of itself. -/
def tb.set : Loc := .sp (spKey 0 1 64)
def tb.wf : Fibre := { tb.f with set := some tb.set }
def tb.quad : State := { tb.with tb.wf with
  launches := [{ bench.launch 1 with kern := { bench.kernel with rmask := 255 } }]
  windows := [⟨.dram 0x9000, 3, tb.set, 0, 1, false⟩] }
theorem test_meets_StoreResults :
    tb.s.Issues tb.f (withExt none (.stB64Global tb.h 127 8 6)) tb.h.g (baseRegs true 8 ++ dataRegs 8 6)
      ((baseRegs true 8 ++ dataRegs 8 6).map rc) ∧
    resolveGlobal tb.s tb.f ((tb.regs [(8, 0x1008)]).addrOf true 8 (offM none 127 8)) 8 8 .write = .ok (.dram 0x1000) tb.s ∧
    resolveSw tb.quad tb.wf 3 16 4 = .ok (.sp (spKey 0 1 16)) tb.quad ∧
    resolveCb tb.quad tb.wf .cbuf 524280 8 = .ok (.cb (cbKey 0 2 524280)) tb.quad ∧
    tb.s.CanPost tb.f (tb.s.newAccess tb.f (.stB32Sp tb.h 0 8 5) (.sp (spKey 0 1 0)) 0 4 (.store 7)) :=
  ⟨tb.issues, rfl, rfl, rfl, by decide +kernel⟩
theorem test_meets_AtomicAndCopyResults :
    (let i := Instr.atom tb.h false 10 8 5 .n32 .dev .rlx .add;
      tb.s.Issues tb.f i tb.h.g (baseRegs true 8 ++ dataRegs 4 10 ++ dataRegs 4 5)
        ((dataRegs 4 5 ++ baseRegs true 8 ++ dataRegs 4 10).map rc) ∧
      resolveGlobal tb.s tb.f (tb.f.addrOf true 8 0) 4 4 .atomic = .ok (.dram 0) tb.s) ∧
    (let i := Instr.cpy tb.h 3 2 1 false 0 0 false .sp .sp 0 false 0;
      let g := tb.regs [(1, 64), (2, 128), (3, 64)];
      (tb.with g).Issues g i tb.h.g (spaceRegs .sp 1 ++ spaceRegs .sp 2 ++ [3] ++ [])
        ((spaceRegs .sp 1 ++ spaceRegs .sp 2 ++ [3] ++ []).map rc) ∧ g.tag = 0 ∧ (g.reg 3).toNat % 4 = 0 ∧
      copyEnd (tb.with g) g .sp 1 0 64 = .ok (.here (.sp (spKey 0 1 64))) [] ∧
      (tb.with g).copyOverlap g 0 (.here (.sp (spKey 0 1 64))) 64 1 = none ∧ (tb.with g).copyCount 0 < Config.copySlots ∧
      g.counter .cp < 63 ∧ copyBar (tb.with g) g true false 2 = .inl (.ok (.sp (spKey 0 1 128)) (tb.with g))) ∧
    ({ tb.f with tag := 1 } : Fibre).tag ≠ 0 ∧ ((tb.regs [(1, 2)]).reg 1).toNat % 4 ≠ 0 ∧
    (let g := tb.regs [(1, 262144), (3, 4)]; ∃ base size, (tb.with g).spBase g false = some (base, size) ∧
      size < (g.reg 1).toNat + (g.reg 3).toNat) :=
  ⟨⟨tb.issues, rfl⟩, ⟨tb.issuesWith rfl rfl rfl (by decide +kernel), by decide +kernel, by decide +kernel, rfl,
    by decide +kernel, by decide +kernel, by decide +kernel, rfl⟩, by decide, by decide +kernel, _, _, rfl, by decide +kernel⟩
/-- An outstanding load of scratchpad. -/
def tb.acc (op : AccOp) : Access := { tb.s.newAccess tb.f (.ldB32Sp tb.h 0 8 5) (.sp (spKey 0 1 0)) 0 4 op with id := 5 }
def tb.withAcc (op : AccOp) : State := { tb.s with accs := [tb.acc op] }
theorem test_meets_AccessEvents : ∀ op ∈ ([.load .b32 5, .store 7, .atom .add .i32 1 0 5] : List AccOp),
    ∃ u, (tb.withAcc op).Serves (tb.acc op) tb.f u ∧ (∃ k, (tb.acc op).loc = .sp k) := by
  simp only [List.mem_cons, List.not_mem_nil, or_false, forall_eq_or_imp, forall_eq]
  exact ⟨⟨_, ⟨by decide +kernel, by decide +kernel, by decide +kernel, rfl, rfl, by decide +kernel, by decide +kernel,
      by decide +kernel, rfl⟩, _, rfl⟩,
    ⟨_, ⟨by decide +kernel, by decide +kernel, by decide +kernel, rfl, rfl, by decide +kernel, by decide +kernel,
      by decide +kernel, rfl⟩, _, rfl⟩,
    ⟨_, ⟨by decide +kernel, by decide +kernel, by decide +kernel, rfl, rfl, by decide +kernel, by decide +kernel,
      by decide +kernel, rfl⟩, _, rfl⟩⟩
theorem test_meets_AccessEvents_sent :
    (let s : State := { tb.withAcc (.load .b32 5) with roundabout := [⟨0, 0, false, false, [5], true⟩, ⟨0, 0, false, false, [6], false⟩] };
      s.fills = [] ∧ s.byFill 5 = false ∧ s.ownEarlier (tb.acc (.load .b32 5)) = [] ∧ ∀ e ∈ s.mx, e.run = []) := by
  decide +kernel
theorem test_meets_WriteThenRead : Memory.wf [(3, 1), (4, 0xFF)] = true ∧ 2 < 3 ∧ 3 + [(0 : Byte)].length ≤ 4 := by decide

/-! Objects, sets, groups and plazas. -/

/-- The state with an object at offset 64 of the scratchpad, and a fibre in its place. -/
def tb.obj (f : Fibre) (o : Obj) : State := (tb.with f).setObj tb.set o
def tb.bar : Obj := ⟨0, 2, 0, 0, 0, 0⟩
def tb.setO : Obj := ⟨0, 2, 0, 0, 0, 8⟩
/-- Register 3 names the object. -/
def tb.of : Fibre := tb.regs [(3, 64)]
def tb.sf : Fibre := { tb.of with set := some tb.set }
theorem tb.noPhase : ∀ g ∈ (tb.obj tb.of tb.bar).fibres, ∀ p k, g.wait ≠ .phase tb.set p k := by
  have h : ∀ g ∈ (tb.obj tb.of tb.bar).fibres, g.wait = .none := by decide +kernel
  intro g hg p k hw
  rw [h g hg] at hw
  cases hw
theorem test_meets_BarrierResults :
    (let s := tb.obj tb.of tb.bar;
      resolveObj s tb.of .sp 3 = .ok tb.set s ∧ s.ObjectOpen tb.of tb.set ∧
      (∃ r, s.register (objAcc s tb.of tb.set 32 (objScope .sp)) = .ok r) ∧ (s.obj tb.set).isSet = false ∧
      (s.obj tb.set).arrived ≠ (s.obj tb.set).expected ∧ (s.obj tb.set).failed = false ∧ tb.of.wait = .none ∧
      tb.of.satt = false ∧ (∀ g ∈ s.fibres, ∀ p k, g.wait ≠ .phase tb.set p k) ∧ (s.obj tb.set).passed 0xFFFFFFFF = true ∧ (s.obj tb.set).passed 0 = false ∧
      s.Issues tb.of (.barInit tb.h .sp 3 5) tb.h.g (barUses .sp 3 5) (rc 5 :: barSrcs .sp 3)) ∧
    (let g := { tb.of with wait := .released true };
      (tb.obj g tb.bar).Issues g (.barWait tb.h .sp 3 5) tb.h.g (barUses .sp 3 5) (rc 5 :: barSrcs .sp 3) ∧
      (true && g.satt) = false) ∧
    (let g := { tb.of with wait := .released true, mode := 0x100 }; g.satt = true ∧ g.trapMode = false) ∧
    (tb.obj tb.of tb.bar).awaited tb.set = false :=
  ⟨⟨by rfl, by decide +kernel, ⟨_, rfl⟩, by decide +kernel, by decide +kernel, by decide +kernel, rfl, by decide +kernel,
    tb.noPhase, by decide +kernel, by decide +kernel, tb.issuesWith (by decide +kernel) rfl rfl (by decide +kernel)⟩,
    ⟨tb.issuesWith (by decide +kernel) rfl rfl (by decide +kernel), by decide +kernel⟩, by decide +kernel, by decide +kernel⟩
theorem test_meets_BarrierPhases :
    (let s := tb.obj tb.of tb.bar;
      s.memsOk ∧ tb.set.isPeer = false ∧ s.bindings = [] ∧ (∀ x ∈ s.fibres, x.set ≠ some tb.set) ∧ tb.of.set ≠ some tb.set ∧
      (∀ x ∈ s.heldArrivals, x.loc ≠ tb.set) ∧ tb.set ∉ s.satNext ∧ (s.obj tb.set).arrived < (s.obj tb.set).expected ∧
      (s.obj tb.set).arrived + 1 < (s.obj tb.set).expected) ∧
    (let g := { tb.of with wait := .phase tb.set 0 .bar };
      let s := tb.obj g ⟨0, 1, 4, 5, 0, 1⟩;
      s.fib? g.uid = some g ∧ (s.obj tb.set).arrived + 1 = (s.obj tb.set).expected ∧
      (s.obj tb.set).bytesExp ≤ (s.obj tb.set).landed) :=
  ⟨⟨setObj_memsOk _ _ reset_memsOk, by decide +kernel⟩, by decide +kernel⟩
theorem test_meets_RallyResults :
    (let s := tb.obj tb.sf tb.setO;
      s.Issues tb.sf (.rallyH tb.h 3) tb.h.g [3] [rc 3] ∧ tb.sf.wait = .none ∧ tb.sf.held = none ∧
      resolveObj s tb.sf .sp 3 = .ok tb.set s ∧ s.ObjectOpen tb.sf tb.set ∧
      (∃ r, s.register (objAcc s tb.sf tb.set 32 .dev) = .ok r) ∧ tb.sf.set = some tb.set ∧
      (s.obj tb.set).isSet = true ∧ (s.obj tb.set).failed = false ∧ (s.obj tb.set).arrived ≠ (s.obj tb.set).expected) ∧
    (let g := { tb.sf with held := some (7, 0) };
      (tb.obj g tb.setO).Issues g (.rallyH tb.h 3) tb.h.g [3] [rc 3] ∧ g.held ≠ none ∧ g.set ≠ none) ∧
    ((tb.obj tb.of tb.setO).Issues tb.of (.rally tb.h 3) tb.h.g [3] [rc 3] ∧ tb.of.wait = .none ∧ tb.of.set = none) :=
  ⟨⟨tb.issuesWith (by decide +kernel) rfl rfl (by decide +kernel), rfl, rfl, by rfl, by decide +kernel, ⟨_, rfl⟩, rfl,
    by decide +kernel⟩, ⟨tb.issuesWith (by decide +kernel) rfl rfl (by decide +kernel), by decide, by decide⟩,
    tb.issuesWith (by decide +kernel) rfl rfl (by decide +kernel), rfl, rfl⟩
/-- A member of the set at offset 96. -/
def tb.other : Fibre := { tb.of with set := some (.sp (spKey 0 1 96)) }
theorem test_meets_SetResults :
    (let s := tb.obj tb.of tb.setO;
      tb.of.held = none ∧ resolveObj s tb.of .sp 3 = .ok tb.set s ∧ s.ownAhead tb.of tb.set 32 = false ∧
      s.hostInWay tb.set 32 true = [] ∧ s.mayServe tb.set 32 true = true ∧
      (∃ r, s.register (objAcc s tb.of tb.set 32 .dev) = .ok r) ∧
      s.Issues tb.of (.setEnrol tb.h 3) tb.h.g [3] [rc 3] ∧ tb.of.tag = 0 ∧ (s.obj tb.set).damaged = false ∧
      (s.obj tb.set).isSet = true ∧ s.memberOf tb.set = none ∧ tb.of.set = none) ∧
    ((tb.obj tb.sf tb.setO).Issues tb.sf (.setQuit tb.h 3) tb.h.g [3] [rc 3] ∧ tb.sf.set = some tb.set) ∧
    (let g := { tb.of with tag := 1 }; (tb.obj g tb.setO).Issues g (.setQuit tb.h 3) tb.h.g [3] [rc 3] ∧ g.tag ≠ 0) ∧
    (let g := { tb.of with held := some (7, 0) }; (tb.obj g tb.setO).Issues g (.setNew tb.h 3) tb.h.g [3] [rc 3] ∧ g.held ≠ none) :=
  ⟨⟨rfl, by rfl, by decide +kernel, by decide +kernel, by decide +kernel, ⟨_, rfl⟩,
    tb.issuesWith (by decide +kernel) rfl rfl (by decide +kernel), rfl, by decide +kernel,
    by decide +kernel, by decide +kernel, rfl⟩, ⟨tb.issuesWith (by decide +kernel) rfl rfl (by decide +kernel), rfl⟩,
    ⟨tb.issuesWith (by decide +kernel) rfl rfl (by decide +kernel), by decide⟩,
    tb.issuesWith (by decide +kernel) rfl rfl (by decide +kernel), by decide⟩
/-- The departure from another set; and a set that is a member of a plaza. -/
theorem test_meets_SetResults_departs :
    (let s := tb.obj tb.other tb.setO; let l := Loc.sp (spKey 0 1 96);
      s.Issues tb.other (.setNew tb.h 3) tb.h.g [3] [rc 3] ∧ tb.other.set = some l ∧ l ≠ tb.set ∧
      s.ownAhead tb.other l 32 = false ∧ s.hostInWay l 32 true = [] ∧ s.mayServe l 32 true = true ∧
      ∃ r, s.register (objAcc s tb.other tb.set 32 .dev) = .ok r ∧
        ∃ q, (r.gained tb.set 32).register ((r.gained tb.set 32).departAcc tb.other l) = .ok q) ∧
    (let s := { tb.obj tb.of tb.setO with away := [(tb.set, 7)] }; s.memberOf tb.set = some 7) :=
  ⟨⟨tb.issuesWith (by decide +kernel) rfl rfl (by decide +kernel), rfl, by decide, by decide +kernel, by decide +kernel,
    by decide +kernel, _, rfl, _, rfl⟩, by decide +kernel⟩
/-- A group object at 0x9000, whose slot 0 the set of the fibre holds. -/
def tb.gf : Fibre := { tb.regs [(4, 0x9000)] with set := some tb.set }
def tb.group : State := { tb.with tb.gf with
  mem := memWrite [] 0x9000 (Dec.leBytes 4 (2 ^ 31 + 1)), windows := [⟨.dram 0x9000, 0, tb.set, 0, 1, false⟩] }
def tb.full : State := { tb.with tb.gf with
  mem := memWrite [] 0x9000 ((List.range 16).flatMap fun n => Dec.leBytes 4 (2 ^ 31 + 65536 * n)) }
theorem test_meets_GroupResults :
    (tb.gf.set = some tb.set ∧ (tb.gf.pair 4).toNat % 64 = 0 ∧
      resolveGlobal tb.group tb.gf (tb.gf.pair 4).toNat 64 64 .atomic = .ok (.dram 0x9000) tb.group ∧
      homeDie 0x9000 = coreDie tb.gf.core ∧ tb.group.meet (.dram 0x9000) 64 tb.gf.tag true = (tb.group, .go) ∧
      tb.group.ownAhead tb.gf (.dram 0x9000) 64 = false ∧
      checkRead tb.group (.dram 0x9000) 64 0 = (tb.group, []) ∧ tb.group.hostInWay (.dram 0x9000) 64 true = [] ∧
      tb.group.mayServe (.dram 0x9000) 64 true = true ∧
      (∀ k, k < 16 → slotBad (slotAt tb.group (.dram 0x9000) k) = false) ∧
      (∃ r, tb.group.register (objAcc tb.group tb.gf (.dram 0x9000) 64 .die) = .ok r) ∧
      tb.group.Issues tb.gf (.grpLeave tb.h 4) tb.h.g (pairRegs 4) (pairCodes 4) ∧ tb.gf.wait = .none ∧
      tb.group.windows.find? (fun x => x.group == .dram 0x9000 && x.set == tb.set) = some ⟨.dram 0x9000, 0, tb.set, 0, 1, false⟩ ∧
      tb.group.windowUses (.dram 0x9000) 0 tb.set = []) ∧
    (let a := { tb.acc (.load .b32 5) with win := some (.dram 0x9000, 0) };
      ({ tb.group with accs := [a] } : State).windowUses (.dram 0x9000) 0 tb.set ≠ [] ∧
      (let g := { tb.gf with wait := .window 0 [5] };
        ({ tb.group with fibres := [g] } : State).Issues g (.grpLeave tb.h 4) tb.h.g (pairRegs 4) (pairCodes 4) ∧
        g.wait = .window 0 [5])) ∧
    (let s : State := { tb.group with windows := [] };
      s.Issues tb.gf (.grpEnter tb.h 4 5) tb.h.g (pairRegs 4 ++ [5]) (pairCodes 4) ∧
      (tb.group.Issues tb.gf (.grpLeave tb.h 4) tb.h.g (pairRegs 4) (pairCodes 4) ∧ s.windows = []) ∧
      Dec.fld (slotAt s (.dram 0x9000) 1) 31 1 = 0 ∧ (∀ k, k < 1 → Dec.fld (slotAt s (.dram 0x9000) k) 31 1 = 1)) ∧
    (∀ k, k < 16 → Dec.fld (slotAt tb.full (.dram 0x9000) k) 31 1 = 1) :=
  ⟨⟨rfl, by decide +kernel, rfl, by decide +kernel, by decide +kernel, by decide +kernel, by decide +kernel, by decide +kernel,
    by decide +kernel, by decide +kernel, ⟨_, rfl⟩, tb.issuesWith (by decide +kernel) rfl rfl (by decide +kernel), rfl, by decide +kernel⟩,
    ⟨by decide +kernel, tb.issuesWith (by decide +kernel) rfl rfl (by decide +kernel), rfl⟩,
    ⟨tb.issuesWith (by decide +kernel) rfl rfl (by decide +kernel),
      ⟨tb.issuesWith (by decide +kernel) rfl rfl (by decide +kernel), rfl⟩, by decide +kernel⟩, by decide +kernel⟩
/-- An open plaza of one member, with its handle in g4 and g5. -/
def tb.plaza : Plaza := ⟨0, 5, 1, .opened, 1, 1, true, 0, 0, [⟨tb.set, false, false⟩], 0, 0, 0, [], [], [], [], []⟩
def tb.handle : DWord := tb.plaza.handle 0
def tb.pf : Fibre := { tb.regs [(3, 64), (4, 1), (5, 5)] with set := some tb.set, tag := tb.handle, plzSet := some tb.set }
def tb.plz (f : Fibre) : State := { tb.obj f tb.setO with plazas := [tb.plaza] }
theorem test_meets_PlazaResults :
    (let g := { tb.pf with tag := 0, plzSet := none };
      (tb.plz g).Issues g (.plzEnter tb.h 4 3) tb.h.g (pairRegs 4 ++ [3]) (pairCodes 4 ++ [rc 3]) ∧ g.wait = .none ∧
      (tb.plz g).badHandle (g.pair 4) = false ∧ g.tag = 0 ∧ resolveObj (tb.plz g) g .sp 3 = .ok tb.set (tb.plz g) ∧
      (tb.plz g).ObjectOpen g tb.set ∧ (∃ r, (tb.plz g).register (objAcc (tb.plz g) g tb.set 32 .dev) = .ok r) ∧
      ((tb.plz g).obj tb.set).isSet = true ∧ ((tb.plz g).obj tb.set).arrived ≠ ((tb.plz g).obj tb.set).expected) ∧
    (tb.pf.pair 4 = tb.handle ∧ tb.pf.tag = tb.handle ∧ tb.handle ≠ 0 ∧
      (tb.plz tb.pf).settled tb.handle tb.set = false ∧ tb.pf.counter .st = 0 ∧ tb.pf.counter .at = 0 ∧
      tb.pf.counter .rm = 0 ∧ (tb.pf.raise 9 .st).counter .st ≠ 0 ∧ (tb.plz tb.pf).isLocal tb.handle = true ∧
      (tb.plz tb.pf).current? tb.handle = some tb.plaza ∧ tb.plaza.state = .opened ∧
      tb.plaza.members.any (fun m => m.set == tb.set && !m.voted && !m.left) = true) ∧
    (let g := { tb.pf with wait := .collective none 0 true };
      (tb.plz g).Issues g (.plzVote tb.h 4 3) tb.h.g (pairRegs 4 ++ [3]) (pairCodes 4 ++ [rc 3]) ∧ (true && g.satt) = false) ∧
    (let g := { tb.pf with wait := .ballot false };
      (tb.plz g).Issues g (.plzLeave tb.h 4 3) tb.h.g (pairRegs 4 ++ [3]) (pairCodes 4 ++ [rc 3]) ∧ g.plzSet = some tb.set) ∧
    ({ tb.plz tb.pf with dev := 3 } : State).isLocal tb.handle = false ∧
    ({ tb.pf with wait := .replied 0 false true } : Fibre).wait = .replied 0 false true ∧
    ({ tb.pf with wait := .committed true } : Fibre).wait = .committed true :=
  ⟨⟨tb.issuesWith (by decide +kernel) rfl rfl (by decide +kernel), rfl, by decide +kernel, rfl, by rfl, by decide +kernel,
    ⟨_, rfl⟩, by decide +kernel, by decide +kernel⟩, by decide +kernel,
    ⟨tb.issuesWith (by decide +kernel) rfl rfl (by decide +kernel), by decide +kernel⟩,
    ⟨tb.issuesWith (by decide +kernel) rfl rfl (by decide +kernel), rfl⟩, by decide +kernel, rfl, rfl⟩
theorem test_meets_PlazaAbort : (tb.plz tb.pf).Issues tb.pf (.plzAbort tb.h 4) tb.h.g (pairRegs 4) (pairCodes 4) ∧
    (tb.plz tb.pf).badHandle (tb.pf.pair 4) = false ∧ (tb.plz tb.pf).isLocal (tb.pf.pair 4) = true ∧
    (let s : State := { tb.plz tb.pf with dev := 3, routes := [(0, 0)] }; s.badHandle (tb.pf.pair 4) = false ∧ s.isLocal (tb.pf.pair 4) = false) ∧
    tb.s.badHandle (0x1000 <<< 32) = true ∧ (1 : Reg) ≠ 0 :=
  ⟨tb.issuesWith (by decide +kernel) rfl rfl (by decide +kernel), by decide +kernel, by decide +kernel, by decide⟩

/-! The units. -/

/-- Blocks of a dense product of one e4m3 row by one column over K = 32, of a selection and of a gather of one page. -/
def tb.mxBlk : List Byte := Dec.leBytes 4 0x43300 ++ Dec.leBytes 4 0 ++ Dec.leBytes 4 31 ++ Dec.leBytes 4 32 ++
  Dec.leBytes 4 32 ++ Dec.leBytes 44 0
def tb.spBlk : List Byte := Dec.leBytes 4 0x43300 ++ Dec.leBytes 4 0 ++ Dec.leBytes 4 31 ++ Dec.leBytes 4 0 ++
  Dec.leBytes 4 32 ++ Dec.leBytes 44 0
def tb.selBlk : List Byte := Dec.leBytes 4 0 ++ Dec.leBytes 4 1 ++ Dec.leBytes 12 0 ++ Dec.leBytes 4 64 ++ Dec.leBytes 40 0
def tb.gatBlk : List Byte := Dec.leBytes 24 0 ++ Dec.leBytes 4 1 ++ Dec.leBytes 36 0
def tb.mq : State := { tb.s with launches := [{ bench.launch 1 with kern := { bench.kernel with rmask := 255 } }] }
/-- A summarised page at 0x10000, with its descriptor, binding and signpost. -/
def tb.summ : TlbEntry := { tb.entry with summ := true }
def tb.bind : Binding := ⟨4, 0, false, 0x20000⟩
def tb.sel : State := { tb.mq with
  mem := memWrite (memWrite (memWrite [] 72 (Dec.leBytes 8 0xA000)) 80 (Dec.leBytes 4 1)) 0xA000
    (Dec.leBytes 8 0x10000 ++ Dec.leBytes 8 0x20000 ++ Dec.leBytes 4 1)
  tlb := [tb.summ]
  l1tlb := [(0, tb.summ)]
  bindings := [tb.bind] }
/-- A launch record at 0x8000 and its kernel at 0x8400. -/
def tb.record : List Byte := Dec.leBytes 8 1 ++ Dec.leBytes 8 0x8400 ++ Dec.leBytes 4 1 ++ Dec.leBytes 4 1 ++
  Dec.leBytes 8 1 ++ Dec.leBytes 2 1 ++ Dec.leBytes 2 1 ++ Dec.leBytes 4 1 ++ Dec.leBytes 6 0 ++ Dec.leBytes 3 64 ++
  Dec.leBytes 19 1 ++ Dec.leBytes 4 1 ++ Dec.leBytes 8 0x400000 ++ Dec.leBytes 8 0x10000 ++ Dec.leBytes 8 0x300000 ++
  Dec.leBytes 160 0
def tb.kernel : List Byte := Dec.leBytes 4 0x40000001 ++ Dec.leBytes 20 256 ++ Dec.leBytes 40 0x2000
def tb.launching : State := { tb.s with
  mem := memWrite (memWrite (memWrite [] 64 (Dec.leBytes 8 1)) 0x8000 tb.record) 0x8400 tb.kernel
  tlb := [tb.entry, { tb.entry with quad := 256 }] }
def tb.entryOf (k : MxKind) (blk mask : List Byte) : MxEntry where
  id := 5
  fib := 2
  launch := 1
  block := 0
  quad := 0
  core := 0
  asid := 1
  iaddr := 0x100000
  insn := 0
  kind := k
  ord := 1
  off := 0
  spBase := spKey 0 1 0
  barBase := spKey 0 1 0
  blk := blk
  mask := mask
  cls := 0
  pass := 0
  ovf := false
  hold := .none
  heldVa := 0
  failed := false
  starved := false
  tabled := true
  released := true
  waitAt := none
  refused := none
  stage := .idle
  rows := []
  bsize := 0
  run := []
  pins := []
  page := none
/-- Tools of the tests: the read of a block in scratchpad, and what holds of a block at offset 0 and of the state after it. -/
def tb.reads (s : State) (l : Loc) (k : State → List Byte → Bool) : Bool :=
  !s.ownAhead tb.f l 64 && match s.register { objAcc s tb.f l 64 .dev with writes := false, sync := false } with
    | .ok q => k ({ q with nextId := q.nextId + 1 }.recDone s.nextId) (q.bytes l 64)
    | _ => false
def tb.posts (blk : List Byte) (k : State → List Byte → Bool) : Bool :=
  match resolveSp (tb.mq.setBytes (.sp (spKey 0 1 0)) blk) tb.f 0 64 64 false with
  | .ok l t => tb.reads t l fun y b => decide (b = blk) && k y b
  | _ => false
theorem test_meets_MatrixAndLaunchResults_blocks :
    tb.posts tb.mxBlk (fun y b => (mxCheck y tb.f b 0 none).isNone) = true ∧
    tb.posts tb.spBlk (fun y b => (mxCheck y tb.f b 0 (some 128)).isNone) = true ∧
    tb.posts tb.selBlk (fun y b => selFields b (SelBlk.read b) (y.spadOf tb.f) &&
      decide (((y.spBase tb.f false).map (·.1)).getD 0 = spKey 0 1 0) &&
      tb.reads y (.sp (spKey 0 1 0 + 64)) fun _ m => maskFields m) = true ∧
    tb.posts tb.gatBlk (fun y b => gatFields b (GatBlk.read b) (y.spadOf tb.f) && y.holdsQuad tb.f) = true := by
  decide +kernel
theorem test_meets_MatrixAndLaunchResults :
    (tb.mq.Issues tb.f (.mxa tb.h 1) tb.h.g [1] [rc 1] ∧ tb.mq.tableCount 0 < Config.tableEntries ∧ tb.f.counter .mx < 63) ∧
    (tb.sel.Issues tb.f (.ksumRebuild tb.h 4) tb.h.g (pairRegs 4) (pairCodes 4) ∧
      resolveGlobal tb.sel tb.f 0x10000 1 1 .read = .ok (.dram 0x10000) tb.sel ∧
      tb.sel.l1Find 0 1 0x10000 = some tb.summ ∧
      (match checkPage tb.sel 1 0x10000 (.dram 0x10000) tb.summ none with
        | .ok _ a b => a == 0x20000 && b == tb.bind
        | _ => false) = true ∧
      translateFor tb.sel tb.f 0x20000 .read = .ok (.dram 0x20000) tb.sel) ∧
    (let g := tb.regs [(4, 0x8000)]; let s : State := { tb.launching with fibres := [g] };
      s.Issues g (.launch tb.h 4) tb.h.g (pairRegs 4) (pairCodes 4) ∧ (g.pair 4).toNat % 64 = 0 ∧ s.graphStop g = none ∧
      g.counter .st = 0 ∧ (match readRecord s g 0x8000 4 with
        | .ok r t => r == tb.record && fb r 49 1 == t.asidOf g && (match t.checkLaunch r none [] with
          | .ok _ _ => true
          | _ => false)
        | _ => false) = true) ∧
    (let g := tb.regs [(4, 0x8000)]; let s : State := { tb.launching with fibres := [g], mem := memWrite tb.launching.mem 0x8400 [2] };
      (match readRecord s g 0x8000 4 with
        | .ok r t => (match t.checkLaunch r none [] with
          | .refuse _ _ => true
          | _ => false)
        | _ => false) = true) ∧
    (let g := (tb.regs [(4, 0x8000)]).raise 9 .st; g.counter .st ≠ 0) ∧
    (let e : MxEntry := { tb.entryOf .dense tb.mxBlk [] with tabled := false };
      let g := { tb.f with wait := .table 5 }; let s : State := { tb.mq with fibres := [g], mx := [e] };
      g.wait = .table 5 ∧ (s.mx.find? fun x => x.id == 5) = some e ∧ s.Issues g (.mxa tb.h 1) tb.h.g [1] [rc 1]) ∧
    ({ tb.f with tag := 1 } : Fibre).tag ≠ 0 :=
  ⟨⟨tb.issuesWith rfl rfl rfl rfl, by decide +kernel⟩,
    ⟨tb.issuesWith rfl rfl rfl rfl, by rfl, by decide +kernel, by decide +kernel, by rfl⟩,
    ⟨tb.issuesWith (f := tb.regs [(4, 0x8000)]) rfl rfl rfl rfl, by decide +kernel, by decide +kernel, by decide +kernel,
      by decide +kernel⟩, by decide +kernel, by decide +kernel,
    ⟨rfl, by decide +kernel, tb.issuesWith (f := { tb.f with wait := .table 5 }) rfl rfl rfl rfl⟩, by decide⟩

def tb.formL : Range := ⟨true, 4, 0, 0, 1, .i32, .none, 0, [], true, true⟩
def tb.one : Launch := { bench.launch 1 with framesize := 2048 }
theorem test_meets_FibreEvents :
    (tb.s.fib? tb.f.uid = some tb.f ∧ tb.s.detLaunch 1 = false ∧
      (tb.s.fibres.filter fun g => g.launch == 1 && g.core == 0 && g.status == .resident && g.wait == .none &&
        !g.trapMode && !g.stopped) = [tb.f] ∧ tb.det.detLaunch 1 = true ∧ tb.f.inGroup = false ∧
      ({ tb.f with fuse := some (0xFFFFC, 0x100004) } : Fibre).inGroup = true ∧ tb.s.mayRun tb.f = true) ∧
    (let g := { tb.f with hbc := 4096 }; let l := { bench.launch 1 with flags := 1 };
      g.status = .resident ∧ l.flags % 2 = 1 ∧ l.h ≤ g.hbc ∧ g.trapMode = false ∧ g.wait = .none) ∧
    (let g := { tb.f with frames := [.range tb.formL] };
      ∃ u, (tb.with g).dueRange g = some (tb.formL, u) ∧ (tb.with g).rangeLanding g tb.formL = false) ∧
    (let g := { tb.kid .queued with seg := none }; let s := tb.two tb.f g;
      s.launch? 1 = some (bench.launch 1) ∧ s.slotFree (bench.launch 1) g.block 3 = true ∧ s.freeSeg (bench.launch 1) = some 1 ∧
      coreDie 3 = coreDie g.core ∧ g.preempt = false ∧ 3 ∉ s.gated ∧
      (∀ x ∈ s.fibres, x.uid ≠ g.uid → x.fid ≠ .ofNat 32 (2 ^ 31 + 5)) ∧ ∀ x ∈ s.fibres, s.restorable x = false) ∧
    (let g := { tb.kid .joinSaved with seg := none, wait := .join [] 3 }; (tb.two tb.f g).waitOver g = true ∧
      (tb.two tb.f g).restorable g = true ∧
      (tb.two tb.f g).slotFree (bench.launch 1) g.block 3 = true ∧ 3 ∉ (tb.two tb.f g).gated) ∧
    (let g := { tb.f with wait := .join [9] 3 };
      let k := { tb.kid .queued with seg := none };
      let s : State := { tb.two g k with launches := [tb.one] };
      k ∈ s.fibres ∧ k.status = .queued ∧ coreDie k.core = coreDie g.core ∧ s.launch? 1 = some tb.one ∧
      s.crowdedBy tb.one k.block (coreDie g.core) = [g] ∧ g.outs = []) ∧
    (let d : Deferred := ⟨4, .ld, 0, .page, 2, 0x100000, 0, 0x1000⟩; let g := { tb.f with deferred := [d] };
      g.status = .resident ∧ g.stopped = false ∧ g.trapMode = false ∧ g.wait = .none ∧ g.abort = none ∧
      g.deferred = [d] ∧ d.cause ≠ .held ∧ tb.place (tb.with g) g true ≠ none ∧ tb.place (tb.hosted g) g true = none) ∧
    (let g := { tb.f with preempt := true, dist := 4097 }; g.preempt = true ∧ 4096 < g.distNow ∧
      tb.place (tb.with g) g true ≠ none ∧ tb.place (tb.hosted g) g true = none) ∧
    ({ tb.f with wait := .nap } : Fibre).wait = .nap :=
  ⟨by decide +kernel, by decide +kernel, ⟨_, rfl, by decide +kernel⟩, by decide +kernel, by decide +kernel,
    by decide +kernel, by decide +kernel, by decide +kernel, rfl⟩
/-- Two fibres that a core's timer ticks, the second within a fused group. -/
theorem test_meets_FibreEvents_ticks :
    (let g := { tb.f with uid := 9, fuse := some (0xFFFFC, 0x100004) }; let s : State := { tb.two tb.f g with nextId := 10 };
      (s.fibres.map (·.uid)).Nodup ∧ (∀ x ∈ s.fibres, x.uid < s.nextId) ∧ g.inGroup = true ∧ tb.f.inGroup = false ∧
      (s.fibres.filter fun x => x.launch == 1 && x.core == 0 && x.status == .resident && x.wait == .none && !x.trapMode &&
        !x.stopped) = [tb.f, g]) ∧
    (let g := { tb.f with stopped := true }; ((tb.with g).fibres.filter fun x => x.launch == 1 && x.core == 0 &&
      x.status == .resident && x.wait == .none && !x.trapMode && !x.stopped) = []) := by
  decide +kernel
/-- A range of form L on the stack, with a reduction over pairs. -/
def tb.wideL : Range := ⟨true, 4, 0, 1, 1, .i64, .add, 6, [], true, true⟩
theorem test_meets_TicksAndSplits_loop :
    (let g := { tb.regs [(4, 3)] with frames := [.call 0x2000 [7] none, .range tb.wideL], lc1 := ⟨4, 0x100000, 0x100008, true, 1, 0⟩ };
      (tb.with g).fib? g.uid = some g ∧ g.uid ≠ (tb.with g).nextId ∧ tb.wideL.loopN < 3 ∧ g.qualifies tb.wideL = true ∧
      g.frames.reverse[0]? = some (.range tb.wideL) ∧
      splitMid (g.flush.reg tb.wideL.idx).toInt ((g.flush.reg tb.wideL.idx).toInt + (g.loop 1).count.toNat) tb.wideL.grain = some 5) := by
  decide +kernel
theorem test_meets_TicksAndSplits : 1 ≤ 1 ∧ (0 : Int) - 0 < 2 * 1 ∧ 2 * (1 : Int) ≤ 2 - 0 ∧
    (let g := { tb.f with frames := [.range (tb.range []), .call 0x2000 [7] none] };
      (tb.with g).fib? g.uid = some g ∧ g.uid ≠ (tb.with g).nextId ∧ g.root = none ∧
      (∀ r ∈ g.ranges, (tb.with g).rangeLanding g r = false) ∧ [(7 : Word)].length ≤ 63) ∧
    (let r := { tb.range [] with op := .none }; let g := { tb.regs [(4, 0), (5, 9)] with root := some r };
      (tb.with g).fib? g.uid = some g ∧ g.root = some r ∧ r.formL = false ∧ g.qualifies r = true ∧
      splitMid (g.flush.reg r.idx).toInt (g.flush.reg r.lim).toInt r.grain = some 5) := by decide +kernel

/-- A copy of 300 bytes within scratchpad. -/
def tb.copy : Copy where
  id := 5
  fib := 2
  launch := 1
  block := 0
  set := none
  core := 0
  queue := 0
  asid := 1
  iaddr := 0
  insn := 0
  src := .here (.sp (spKey 0 1 0))
  dst := .here (.sp (spKey 0 1 1000))
  len := 300
  landed := 24
  sent := 24
  buf := []
  bar := none
  barAddr := 0
  barGlobal := false
  barScope := .dev
  wins := []
  hold := .none
  failed := false
  race := none
  node := none
  before := []
def tb.copying : State := { tb.s with copies := [tb.copy] }
theorem test_meets_MemoryEvents :
    ((tb.copying.copies.find? fun x => x.id == tb.copy.id) = some tb.copy ∧ tb.copy.failed = false ∧ tb.copy.hold = .none ∧
      tb.copy.bar = none ∧ tb.copy.pieceEnd 24 = 280 ∧ tb.copy.pieceStart 24 = true ∧ (∀ x ∈ tb.copying.copies,
        ¬(x.core = tb.copy.core ∧ x.queue = tb.copy.queue ∧ x.node.isSome = tb.copy.node.isSome ∧ x.id < tb.copy.id))) ∧
    tb.s.tlbFind 0 1 0x1000 = some tb.entry ∧ tb.s.tlbFind 1 1 0x1000 = none ∧
    (let r := tb.walks.uncachedAll 4 (tb.walks.walkAddrs 1 0x1000);
      r.2 = true ∧ (match walk (r.1.ctxSee 1) 1 1 0x1000 with
        | .ok l _ => decide (l = .dram 0x1000)
        | _ => false) = true) ∧
    (let r := tb.s.uncachedAll 4 (tb.s.walkAddrs 1 0x1000); r.2 = true ∧ walk (r.1.ctxSee 1) 1 1 0x1000 = .fault 0 4 64) ∧
    (let s : State := { tb.walks with hostBias := [16], hostLines := [(1025, .e)] };
      (s.uncachedAll 4 (s.walkAddrs 1 0x1000)).2 = false) ∧
    (let g := { tb.f with wait := .fault 0 3 }; (tb.with g).fib? g.uid = some g ∧ g.wait = .fault 0 3) ∧ 3 < 4 ∧
    3 ∉ tb.s.detectorFull ∧ tb.s.tableFull 3 = false := by
  decide +kernel
/-- A full table of die 0. -/
theorem test_meets_MemoryEvents_full :
    ({ tb.s with records := List.replicate Config.detectorRecords ⟨2, 1, 0, 2, 0, .write, .dev, 0, 5, true, false, 0⟩ } : State).tableFull 0 =
      true := by
  simp [State.tableFull, State.recordCount, RegionRec.die]
theorem test_meets_MemoryEvents_pieces :
    (∃ r, tb.copying.register (pieceAcc tb.copy false tb.copy.id (.sp (spKey 0 1 24)) 256) = .ok r) ∧
    (let c : Copy := { tb.copy with sent := 280, buf := List.replicate 256 1 }; c.pieceEnd c.landed ≤ c.sent ∧
      ∃ r, tb.copying.register (pieceAcc c true 6 (.sp (spKey 0 1 1024)) 256) = .ok r) ∧
    ({ tb.copy with len := 0 } : Copy).len = 0 :=
  ⟨⟨_, rfl⟩, ⟨by decide +kernel, _, rfl⟩, rfl⟩
def tb.coh (c : L1) (d : DirEntry) : State := { tb.s with l1 := [(3, 9, c)], dir := [d] }
theorem test_meets_CoherenceEvents :
    (tb.s.serves 3 9 false = true ∧ tb.s.l1At 3 9 = .i ∧ tb.s.fills = [] ∧ tb.s.hostInWay (sectorLoc 9) 64 false = [] ∧
      servedBy 3 9 = none ∧ (tb.s.dirAt none 9).state = .i ∧ tb.s.keySector 9 = false) ∧
    (servedBy 259 9 = some 1 ∧ tb.s.l1At (proxyOf 1) 9 = .i ∧ (tb.s.dirAt (some 1) 9).state = .i) ∧
    ((tb.coh .i ⟨9, .s, [4]⟩).serves 3 9 true = true ∧ ((tb.coh .i ⟨9, .s, [4]⟩).dirAt none 9).state = .s ∧
      (tb.coh .i ⟨9, .s, [4]⟩).l1At 3 9 = .i ∧ tb.s.pinned (sectorLoc 9) 64 = false) ∧
    ((tb.coh .o ⟨9, .o 3, [4]⟩).l1At 3 9 = .o ∧ 4 ∈ ((tb.coh .o ⟨9, .o 3, [4]⟩).dirAt none 9).holders) ∧
    (inDram 600 4 = true ∧ (600 + 4 - 1) / 64 = 600 / 64 ∧ tb.s.meet (.dram 600) 4 0 true = (tb.s, .go) ∧
      tb.s.hostInWay (.dram 576) 64 true = [] ∧ tb.s.pinned (.dram 576) 64 = false) ∧
    (inDram (64 * 9) 64 = true ∧ tb.s.meet (.dram (64 * 9)) 64 0 false = (tb.s, .go) ∧ tb.s.hostInWay (.dram (64 * 9)) 64 false = []) ∧
    (((tb.coh .m ⟨9, .em 3, []⟩).dirAt (servedBy 3 9) 9).state = .em 3 ∧ (tb.coh .m ⟨9, .em 3, []⟩).l1At 3 9 = .m ∧
      (tb.coh .e ⟨9, .em 3, []⟩).l1At 3 9 = .e) ∧
    (let a := { tb.acc (.load .b32 5) with loc := .dram 580 }; let e : FillEntry := ⟨3, 9, Dec.leBytes 64 0, true, [5], false⟩;
      let s : State := { tb.s with fills := [e], accs := [a] };
      (s.fills.find? fun g => g.core == 3 && g.sector == 9) = some e ∧ e.killed = false ∧ 3 ∉ s.gated ∧ s.acc? 5 = some a) ∧
    (tb.s.roundCount 3 = 0 ∧ 3 ∉ tb.s.gated ∧ ∀ f ∈ tb.s.fibres, f.core = 3 → f.status ≠ .resident ∧ f.status ≠ .parked) := by
  decide +kernel
/-- A tool of the tests: an outcome of the engines that is good, and what holds of it. -/
def tb.walked {α : Type} (w : Walked α) (k : α → State → Bool) : Bool :=
  match w with
  | .ok x s => k x s
  | _ => false
def tb.mxS (e : MxEntry) : State := { tb.sel with mx := [e] }
/-- A pass that waits, one that fetches its second source, one that has fetched both, and one at its only block. -/
def tb.dense : MxEntry := tb.entryOf .dense tb.mxBlk []
theorem test_meets_MatrixEvents :
    (let e := tb.dense; let s := tb.mxS e; let x := MxBlk.read e.blk;
      (s.mx.find? fun g => g.id == e.id && g.quad == e.quad && g.kind.array && g.tabled) = some e ∧ e.barFails = false ∧
      granted s e.quad = some e ∧ e.stage = .idle ∧ x.reload = true ∧
      tb.walked (admitSrcs s e 2 (e.srcs.1 ++ e.srcs.2.1 ++ e.srcs.2.2.1 ++ e.srcs.2.2.2)) (fun ps _ => ps.length == 2) = true) ∧
    (let e := { tb.dense with refused := some (2, 0) }; e.barFails = true ∧ e.stage = .idle) ∧
    (let e := { tb.dense with blk := Dec.leBytes 4 0x3300 ++ tb.mxBlk.drop 4 }; let x := MxBlk.read e.blk;
      granted (tb.mxS e) e.quad = some e ∧ x.reload = false ∧ (tb.mxS e).latchedFmt e.quad (x.plane % 2) ≠ some x.wfmt) ∧
    (let ps : List Piece := [(0, .sp (spKey 0 1 0), 32)]; let e := { tb.dense with stage := .fetching [(1, ps)] }; let s := tb.mxS e;
      granted s e.quad = some e ∧ e.refused = none ∧ (meetLocs s false (ps.map fun p => p.2)).2 = true ∧
      (checkPieces (meetLocs s false (ps.map fun p => p.2)).1 e 2 ps).2 = none) ∧
    (let e := { tb.dense with stage := .fetching [], rows := [Dec.leBytes 32 0, Dec.leBytes 32 0] };
      granted (tb.mxS e) e.quad = some e ∧ (e.kind.stream.bind fun p => lineFault (MxBlk.read e.blk) p.1 e.k0 e.kn
        (passRows e.srcs e.rows).w) = none) ∧
    (let e := { tb.dense with stage := .applying 0, bsize := 32, rows := [Dec.leBytes 32 0, Dec.leBytes 32 0] };
      granted (tb.mxS e) e.quad = some e ∧ 0 < e.blocks ∧ e.blocks ≤ 1 ∧
      (let n := { e with stage := .applying 1, run := [(0, 0)] };
        granted (tb.mxS n) n.quad = some n ∧ n.blocks ≤ 1)) ∧
    (1 ≤ 1 ∧ (0x7FFFFFFF : Int) + [1].sum = (2 ^ 31 : Int) ∧ (-(2 ^ 31) : Int) + [-1].sum = -(2 ^ 31 : Int) - 1) := by
  decide +kernel
/-- The source and the word that a free value picks, where one is left: whatever its value. -/
theorem test_meets_MatrixEvents_pick : (∀ (n : Nat) (ps : List Piece), [(1, ps)][n % [(1, ps)].length]? = some (1, ps)) ∧
    ∀ n : Nat, [((0 : Nat), (0 : Nat))][n % [((0 : Nat), (0 : Nat))].length]? = some (0, 0) :=
  ⟨fun n _ => by simp [Nat.mod_one], fun n => by simp [Nat.mod_one]⟩
theorem test_meets_MatrixEvents_select :
    (let e := tb.entryOf .asel tb.selBlk (Dec.leBytes 64 0); let x := SelBlk.read e.blk; let s := tb.mxS e;
      (s.mx.find? fun g => g.id == e.id && g.kind == .asel && g.tabled && g.stage == .idle) = some e ∧ e.hold = .none ∧
      tb.walked (fetchSrcs s e 3 [⟨false, x.qoff, .sp (e.spBase + x.qoff), x.qlen⟩,
          ⟨true, x.pladdr, .dram 0, 8 * x.npages⟩]) (fun _ t => tb.walked (readPages t e x [0x10000]) fun _ t =>
            tb.walked (registerPieces t (selAcc t e) [(x.listoff, .sp (e.spBase + x.listoff), 4)]) fun _ _ => true) = true) ∧
    (let e := tb.entryOf .agat tb.gatBlk (Dec.leBytes 4 1 ++ Dec.leBytes 2 0); let s := tb.mxS e;
      (s.mx.find? fun g => g.id == e.id && g.kind == .agat && g.tabled) = some e ∧ e.barFails = false ∧ e.hold = .none ∧
      e.released = true ∧ e.mask ≠ [] ∧ e.page = none ∧
      tb.walked (fetchSrcs s e 2 [⟨true, 0, .dram 0, 8⟩]) (fun r _ => Dec.leNat (r.headD []) % 16384 == 0) = true ∧
      tb.walked (fetchSrcs s { e with page := some 0x10000 } 2 [⟨true, 0x10000, .dram 0, 256⟩]) (fun _ _ => true) = true) := by
  decide +kernel
/-- A gather whose COUNT and list are still to be read: 0x1FFFF pages, page 1 of one, page 0 of one, and one past the buffer. -/
theorem test_meets_MatrixEvents_list :
    (let e := tb.entryOf .agat tb.gatBlk []; let x := GatBlk.read e.blk;
      let with' (bs : List Byte) : State := (tb.mxS e).setBytes (.sp (e.spBase + x.listoff)) bs;
      let count (s : State) (k : State → Nat → Bool) : Bool :=
        tb.walked (fetchSrcs s e 2 [⟨false, x.listoff, .sp (e.spBase + x.listoff), 4⟩]) fun r t => k t (Dec.leNat (r.headD []))
      let list (s : State) (k : List Byte → Bool) : Bool := count s fun t n => n == 1 &&
        tb.walked (fetchSrcs t e 2 [⟨false, x.listoff + 4, .sp (e.spBase + x.listoff + 4), 2⟩]) fun r _ => k (r.headD []);
      ((tb.mxS e).mx.find? fun g => g.id == e.id && g.kind == .agat && g.tabled) = some e ∧ e.barFails = false ∧
      e.hold = .none ∧ e.released = true ∧ e.mask = [] ∧ x.npages = 1 ∧
      count (with' (Dec.leBytes 4 0x1FFFF)) (fun _ n => decide (4096 < n)) = true ∧
      list (with' (Dec.leBytes 4 1 ++ Dec.leBytes 2 1)) (fun l => decide (x.npages ≤ fb l 0 2)) = true ∧
      list (with' (Dec.leBytes 4 1 ++ Dec.leBytes 2 0)) (fun l => decide (fb l 0 2 < x.npages)) = true ∧
      x.doff + 16384 ≤ Config.bufBytes) ∧
    (let x := GatBlk.read (tb.gatBlk.take 8 ++ Dec.leBytes 4 (2 ^ 20) ++ tb.gatBlk.drop 12); Config.bufBytes < x.doff + 16384) := by
  refine ⟨?_, ?_⟩ <;> decide +kernel
/-- The entry that rebuilds the page's signpost: at its start, at a sector, and at its end. -/
theorem test_meets_MatrixEvents_rebuild :
    (let e := tb.entryOf (.ksum 0x10000 tb.bind) [] []; let s := tb.mxS e;
      (s.mx.find? fun g => g.id == e.id && g.tabled) = some e ∧ e.hold = .none ∧ e.stage = .idle ∧ e.failed = false ∧
      tb.walked (walkRange s e 3 6 0x10000 16384) (fun ps _ => ps.length == 4) = true ∧
      (∀ k, ([(0, [(0x10040, Loc.dram 0x10040, 64)])] : List (Nat × List Piece))[k % (0 + 1)]? =
        some (0, [(0x10040, .dram 0x10040, 64)])) ∧
      (meetLocs s false [(.dram 0x10040, 64)]).2 = true ∧
      (checkPieces (meetLocs s false [(.dram 0x10040, 64)]).1 e 3 [(0x10040, .dram 0x10040, 64)]).2 = none ∧
      (meetLocs s true [(.dram tb.bind.spa, 4 * dCount tb.bind.dcode)]).2 = true) := by
  refine ⟨?_, ?_, ?_, ?_, ?_, fun k => ?_, ?_, ?_, ?_⟩
  case refine_6 => rw [Nat.mod_one]; rfl
  all_goals decide +kernel


/-! Boot, host, Square, fabric and the whole machine. -/

def tb.boot (n : Nat) : State := { State.reset with bar := { Regs.reset with status := n } }
/-- What self-test and training decide is open (log 13): of each pair one premise holds. -/
theorem test_meets_BootEvents : (tb.boot 1).bar.status = 1 ∧ (tb.boot 2).bar.status = 2 ∧
    ((tb.boot 3).bar.status = 3 ∧
      (let cs := [0, 1, 2, 3].map fun d => placementClass d 0; (∃ c ∈ cs, c = none) ∨ ∀ c ∈ cs, c ≠ none)) ∧
    ((tb.boot 4).bar.status = 4 ∧
      ((∃ d, d < 4 ∧ Config.dramTrains d = false) ∨ ∀ d, d < 4 → Config.dramTrains d = true) ∧
      (Config.linkFaults (tb.boot 4).freeCount = true ∨ Config.linkFaults (tb.boot 4).freeCount = false)) ∧
    (tb.boot 5).bar.status = 5 ∧ 0x81 ≤ (tb.boot 0x88).bar.status ∧
    (900 ≤ State.reset.bar.clock.toNat ∧ State.reset.bar.clock.toNat ≤ 1500) ∧
    (let s : State := { State.reset with bar := { Regs.reset with clock := 1400 } }; s.bar.clock.toNat ≤ 1400) := by
  refine ⟨rfl, rfl, ⟨rfl, ?_⟩, ⟨rfl, ?_, ?_⟩, rfl, by decide, by decide, by decide⟩
  · by_cases h : ∃ c ∈ [0, 1, 2, 3].map fun d => placementClass d 0, c = none
    · exact .inl h
    · exact .inr fun c hc hn => h ⟨c, hc, hn⟩
  · by_cases h : ∃ d, d < 4 ∧ Config.dramTrains d = false
    · exact .inl h
    · exact .inr fun d hd => by
        cases hc : Config.dramTrains d
        · exact absurd ⟨d, hd, hc⟩ h
        · rfl
  · cases Config.linkFaults (tb.boot 4).freeCount
    · exact .inr rfl
    · exact .inl rfl
/-- A bias command for page 3, to the host and to the device. -/
def tb.toHost : DWord := 0x8000000000003000
def tb.toDevice : DWord := 0x3000
/-- A graph of one launch node at 0x8000, registered, and its replay with the node running. -/
def tb.graph : Graph := ⟨1, 0x8000, false⟩
def tb.replay : Replay := ⟨9, 1, 0x8000, [.running], none⟩
def tb.graphs : State := { tb.s with graphs := [tb.graph], replays := [tb.replay] }
theorem test_meets_HostEvents :
    (tb.toHost.toNat ≥ 2 ^ 63 ∧ tb.s.biasRefused tb.toHost = false ∧ tb.s.biasWaits tb.toHost = false ∧
      tb.toDevice.toNat < 2 ^ 63 ∧ tb.s.biasRefused tb.toDevice = false ∧ tb.s.hostLines = [] ∧
      tb.s.biasRefused 0x800000FFFFFFF000 = true) ∧
    (let s : State := { tb.s with bar := { tb.s.bar with keypa := 0x10000, signpa := 0x20000 }, bindings := [tb.bind] };
      Dec.fld (0 : Word).toNat 31 1 = 0 ∧ bindRefused s 0 = false ∧ Dec.fld (0x80000000 : Word).toNat 31 1 = 1 ∧
      bindRefused s 0x80000000 = false) ∧
    (inDram 0x1000 8 = true ∧ tb.s.flippingAny 0x1000 8 = false ∧ tb.s.meet (.dram 0x1000) 8 0 false = (tb.s, .go) ∧
      tb.s.meet (.dram 0x1000) 8 0 true = (tb.s, .go) ∧ tb.s.pinned (.dram 0x1000) 8 = false ∧
      tb.s.hostHas (tb.s.signSectors (.dram 0x1000) 8) true = [] ∧
      ∀ k ∈ sectorsOf 0x1000 8, tb.s.mismatch k = false ∧ k ∉ tb.s.poison) ∧
    (let s : State := { tb.s with snoops := [(9, true)], hostLines := [(9, .e)] };
      (s.snoops.find? fun q => q.1 == 9) = some (9, true) ∧ (∃ h ∈ s.hostLines, h.1 = 9 ∧ h.2 = .e) ∧
      s.meet (.dram (64 * 9)) 64 0 true = (s, .go) ∧ s.pinned (.dram (64 * 9)) 64 = false ∧
      s.hostHas (s.signSectors (.dram (64 * 9)) 64) true = [] ∧
      (let t : State := { s with hostLines := [(9, .s)] }; ∀ h ∈ t.hostLines, h.1 = 9 → h.2 ≠ .e)) ∧
    (tb.s.cxlLines = [] ∧ (Dec.leBytes 64 0).length = 64) ∧
    (tb.s.bar.status = 5 ∧ (0x0010000000008000 : DWord).toNat % 2 ^ 52 ≠ 0 ∧ inDram 0x8000 64 = true ∧
      (meetLocs tb.s false ((tb.s.graphSpans 0x8000).filter fun q => q.2 ≠ 0)).2 = true) ∧
    (tb.graphs.graph? 1 = some tb.graph ∧ tb.graph.bad = false ∧ (tb.graphs.replay? 1).isSome = true ∧
      (tb.graphs.kicks.filter fun x => kickGraph x == 1).length < 16 ∧ ({ tb.graph with bad := true } : Graph).bad = true ∧
      16 ≤ ((List.replicate 16 (0x0010000000000000 : DWord)).filter fun x => kickGraph x == 1).length) ∧
    (tb.graphs.kickEnds = [] ∧ tb.graphs.replay? 1 = some tb.replay ∧
      meetLocs tb.graphs false ((tb.graphs.graphSpans 0x8000).filter fun q => q.2 ≠ 0) = (tb.graphs, true) ∧ tb.replay.node 0 = .running ∧ (tb.graphs.gnode 0x8000 0).kind < 2 ∧
      tb.graphs.nodeOver tb.replay (tb.graphs.gnode 0x8000 0).kind 0 = true) := by
  decide +kernel
/-- A graph object that is read whole, one that is poisoned, and a registration that waits for the host's copy. -/
theorem test_meets_HostEvents_object :
    (let w : DWord := 0x0010000000008000;
      tb.s.readSpans (tb.s.graphSpans 0x8000) = (tb.s, true) ∧ w ∉ tb.s.graphRegs ∧
      w ∈ ({ tb.s with graphRegs := [w] } : State).graphRegs ∧
      ({ tb.s with graphRegs := [w] } : State).regWaits (w.toNat / 2 ^ 52) = some w ∧ tb.graphs.regWaits 1 = none ∧
      (let s : State := { tb.s with hostBias := [8], hostLines := [(512, .e)], graphRegs := [w] };
        (meetLocs s false ((s.graphSpans 0x8000).filter fun q => q.2 ≠ 0)).2 = false) ∧
      tb.graphs.readSpans (tb.graphs.tableSpans 0x8000) = (tb.graphs, true) ∧
      (({ tb.graphs with poison := [512] } : State).readSpans (tb.graphs.tableSpans 0x8000)).2 = false ∧
      meetLocs tb.graphs false ((tb.graphs.tableSpans 0x8000).filter fun q => q.2 ≠ 0) = (tb.graphs, true)) := by
  refine ⟨?_, ?_, ?_, ?_, ?_, ?_, ?_, ?_, ?_⟩ <;> decide +kernel
/-- A launch that has a block to place, and its block under way. -/
def tb.fresh : Launch := { bench.launch 1 with placed := 0, kern := { bench.kernel with spad := 1024 } }
def tb.placing : State := { tb.s with launches := [tb.fresh], blocks := [], fibres := [] }
def tb.done : State := { tb.s with fibres := [{ tb.f with status := .ended }] }
theorem test_meets_SquareEvents :
    (let s := tb.placing; let l := { tb.fresh with reserved := [0] };
      s.reserve.launch? l.id = some l ∧ s.bar.status = 5 ∧ l.waits = true ∧ [7].length = l.gang * l.clusterBlocks ∧
      s.reserve.behind l 0 = false ∧ (s.reserve.placeAll l.id 0 (gangs l.gang l.clusterBlocks [7])).isSome = true) ∧
    (let s := tb.placing; let l := tb.fresh;
      s.launch? l.id = some l ∧ [7].length = l.gang ∧ s.gangOk l l.placed 0 [7] = true ∧
      (∀ k, k < 1 → s.coreTakes l (([7] : List Nat).getD k 0) (l.fibresOn k) = true) ∧
      0 + l.blockFibres ≤ l.slotcap ∧ s.freeSegs l l.blockFibres = [0] ∧ [0].length = l.blockFibres ∧
      freeIndex ((s.blocks.filter fun b => !b.retired).map (·.alloc)) 65535 1 = some 1) ∧
    (let b := bench.block 1; let l := bench.launch 1;
      tb.done.launch? l.id = some l ∧ tb.done.block? l.id b.id = some b ∧ b.retired = false ∧ b.saved = false ∧
      l.flags % 2 = 0 ∧ (∀ f ∈ tb.done.fibres, f.launch = l.id → f.block = b.id → f.status = .ended) ∧
      tb.done.windows = [] ∧ tb.done.reaching b = false) ∧
    (let s : State := { tb.done with fibres := [], blocks := [{ bench.block 1 with retired := true }] };
      let l := bench.launch 1;
      s.launch? l.id = some l ∧ l.status = .running ∧ l.placed = l.blocks ∧
      (∀ c ∈ s.blocks, c.launch = l.id → c.retired = true) ∧ l.doneaddr = 0) ∧
    (tb.done.commanded 1 false ≠ [] ∧ (∀ c ∈ tb.done.commanded 1 false, tb.done.drainedBlock c = true) ∧
      (∃ c ∈ tb.s.commanded 1 false, tb.s.drainedBlock c = false)) ∧
    (let s : State := { tb.done with blocks := [{ bench.block 1 with saved := true, ctxSp := [[]] }] };
      s.commanded 1 true ≠ [] ∧ (s.commanded 1 true).length = [[9]].length ∧
      (match s.restoreAll ((s.commanded 1 true).zip [[9]]) with
        | .error 0x44 => true
        | _ => false) = true) ∧
    (let s := tb.done.saveBlock (bench.block 1);
      s.commanded 1 true ≠ [] ∧ (s.commanded 1 true).length = [[9]].length ∧
      (match s.restoreAll ((s.commanded 1 true).zip [[9]]) with
        | .ok _ => true
        | .error _ => false) = true) := by
  refine ⟨?_, ?_, ?_, ?_, ?_, ?_, ?_⟩ <;> decide +kernel
/-- A fibre on the Craco body at 0x200000, whose native body, an exit of another stall, is at 0x210000. -/
def tb.cracoLaunch : Launch := { bench.launch 1 with craco := true, kern := { (bench.launch 1).kern with craco := 0x200000, cvec := 0 } }
def tb.cracoFibre : Fibre := { tb.f with craco := true }
def tb.bodies : State := { tb.with tb.cracoFibre with
  launches := [tb.cracoLaunch]
  mem := memWrite (memWrite (memWrite (memWrite [] 88 (Dec.leBytes 8 0x7000)) 96 (Dec.leBytes 8 (2 ^ 64 - 1))) 0x200000
    (encode (.exit ⟨0, 3⟩))) 0x210000 (encode (.exit ⟨0, 2⟩)) }
theorem test_meets_SquareEvents_translation :
    (tb.bodies.ctxXcache 1 ≠ 0 ∧ tb.bodies.xcache = [] ∧ tb.bodies.fibres = [tb.cracoFibre] ∧ tb.cracoFibre.craco = true ∧
      tb.cracoFibre.status = .resident ∧ tb.bodies.launches = [tb.cracoLaunch] ∧ tb.cracoLaunch.id = tb.cracoFibre.launch ∧
      tb.cracoLaunch.craco = true ∧ tb.cracoLaunch.kdesc = 0 ∧ tb.cracoLaunch.asid = 1 ∧ tb.cracoLaunch.status = .running) ∧
    tb.bodies.translation tb.cracoFibre tb.cracoLaunch.kern 0x210000 0 [] = some [(0x200000, 0x210000)] ∧
    tb.bodies.translation tb.cracoFibre tb.cracoLaunch.kern 0x220000 0 [] = none ∧
    (match tb.bodies.ctxRead 10 1 with
      | .ok _ t => !t.ctxBad 1 && decide (t.ctxXcache 1 ≠ 0) && t.xcache.isEmpty && decide (t.ctxXsize 1 = 2 ^ 64 - 1) &&
        decide (t.translation tb.cracoFibre tb.cracoLaunch.kern 0x210000 0 [] = some [(0x200000, 0x210000)])
      | _ => false) = true ∧
    (match ({ tb.bodies with poison := [1] } : State).ctxRead 10 1 with
      | .fail _ => true
      | _ => false) = true := by
  refine ⟨?_, ?_, ?_, ?_, ?_⟩ <;> decide +kernel
/-- The cache has room for the body, whatever its size. -/
theorem test_meets_SquareEvents_room : ∃ bs t, tb.bodies.ctxRead 10 1 = .ok bs t ∧
    t.xcacheUsed 1 + (Config.bodyBytes 0).toNat ≤ t.ctxXsize 1 := by
  refine ⟨_, _, rfl, ?_⟩
  have used : (State.ctxSee tb.bodies 1).xcacheUsed 1 = 0 := by decide +kernel
  have size : (State.ctxSee tb.bodies 1).ctxXsize 1 = 2 ^ 64 - 1 := by decide +kernel
  show (State.ctxSee tb.bodies 1).xcacheUsed 1 + _ ≤ (State.ctxSee tb.bodies 1).ctxXsize 1
  rw [used, size]
  have := (Config.bodyBytes 0).isLt
  omega
def tb.far : Access := { tb.acc (.load .b32 5) with loc := .peer 3 0x1000 }
/-- The plaza with a line written on die 1 and one read on die 2, in a state of its own. -/
def tb.plazaIn (st : PlzState) (sealed published : List Nat) : Plaza :=
  { tb.plaza with state := st, sealed := sealed, published := published }
def tb.lines (p : Plaza) : State := { tb.s with
  plazas := [p]
  wsLines := [⟨tb.handle, 2 ^ 29, false, true, false, [(2 ^ 37, 7)], [], false, false⟩, ⟨tb.handle, 2 ^ 30, true, false, false, [], [], false, false⟩] }
theorem test_meets_FabricEvents :
    (let s : State := { tb.s with ports := 1, failedReplays := 16 :: List.replicate 15 15 };
      s.ports.getLsbD 0 = true ∧ s.failedReplays.length = 16 ∧ 16 ≤ s.failedReplays.getD 0 0 ∧ s.failedReplays.getD 1 0 < 16) ∧
    (inDram 0x1000 4 = true ∧ tb.s.meet (.dram 0x1000) 4 0 true = (tb.s, .go) ∧ tb.s.hostInWay (.dram 0x1000) 4 true = [] ∧
      tb.s.meet (.dram 0x1000) 4 0 false = (tb.s, .go) ∧ tb.s.hostInWay (.dram 0x1000) 4 false = [] ∧ tb.s.pinned (.dram 0x1000) 4 = false ∧
      ∀ k ∈ sectorsOf 0x1000 4, tb.s.mismatch k = false ∧ k ∉ tb.s.poison) ∧
    (let s : State := { tb.s with accs := [tb.far], routes := [(3, 0)] };
      s.acc? tb.far.id = some tb.far ∧ s.fib? tb.far.fib = some tb.f ∧ tb.far.loc.isPeer = true ∧ s.accReady tb.far = true ∧
      tb.far.op = .load .b32 5) ∧
    (let g := { tb.f with wait := .remote 3 9 true false (.enter 7) };
      (tb.with g).acc? 9 = none ∧ (tb.with g).fib? g.uid = some g ∧ g.wait = .remote 3 9 true false (.enter 7) ∧
      g.rejoin = none) ∧
    (let g := { tb.f with wait := .remote 3 9 true false (.leave 7) };
      (tb.with g).acc? 9 = none ∧ (tb.with g).fib? g.uid = some g ∧ g.wait = .remote 3 9 true false (.leave 7) ∧
      g.rejoin = none) := by
  decide +kernel
theorem test_meets_FabricEvents_seal :
    (let p := tb.plazaIn .sealing [1] []; let s := tb.lines p;
      s.plazaAt p.die p.index = some p ∧ p.state = .sealing ∧ 2 ∉ p.sealed ∧ s.participants p = [1, 2]) ∧
    (let p := tb.plazaIn .publishing [2, 1] []; let s := { tb.lines p with wsLines := [⟨tb.handle, 2 ^ 29, false, true, true, [], [], false, false⟩] };
      s.plazaAt p.die p.index = some p ∧ p.state = .publishing ∧ 2 ∉ p.published ∧ s.dirLines (p.handle s.dev) 2 = [] ∧
      (∃ x ∈ p.sealed, x ∈ s.participants p ∧ x ≠ 2 ∧ x ∉ p.published) ∧
      (let q := tb.plazaIn .publishing [2, 1] [1]; ∀ x ∈ q.sealed, x ∈ (tb.lines q).participants q → x = 2 ∨ x ∈ q.published)) := by
  decide +kernel
theorem test_meets_FabricEvents_timeout :
    (let p := { tb.plaza with timeout := 5 }; let s := tb.lines p;
      s.plazaAt p.die p.index = some p ∧ p.state = .opened ∧ p.timeout ≠ 0 ∧ p.die < 4 ∧ p.index < 2 ^ 18 ∧ p.gen < 2 ^ 32) ∧
    (let p := tb.plazaIn .aborting [] []; let s := tb.lines p;
      s.plazaAt p.die p.index = some p ∧ p.state = .aborting ∧ 0 ∉ p.discarded ∧ (∀ g ∈ s.fibres, g.tag ≠ p.handle s.dev) ∧
      (∀ g ∈ s.fibres, g.abort = none) ∧ 7 ∈ ({ p with peers := [3] } : Plaza).discards) := by
  decide +kernel
/-- The state in which the next step fetches `add.i32 g8, g8, 1`. -/
def tb.fetching : State := { tb.s with
  mem := memWrite [] 0x100000 (Dec.leBytes 4 0x00890587), agenda := [.fibre 2] }
theorem test_meets_StepRunsTheInstruction :
    (let z : State := { tb.fetching with agenda := [] };
      tb.fetching.agenda = [.fibre 2] ∧ z.fib? 2 = some tb.f ∧ z.canAct tb.f = true ∧ z.boundary tb.f = false ∧
      tb.f.rejoins = none ∧ tb.f.waited = false ∧
      (match fetchGroup (z.openIssue tb.f) tb.f tb.f.pc with
        | .ok bs t => decide (t = z) && decide (decode bs = .ok (.addI32Imm ⟨0, 3⟩ 1 8)) &&
          (match exec (.addI32Imm ⟨0, 3⟩ 1 8) (t.issueAt tb.f (.addI32Imm ⟨0, 3⟩ 1 8)) with
            | .next v => decide (v ≠ z)
            | _ => false)
        | _ => false) = true) ∧
    ({ tb.s with agenda := [.event .thermalTrip] } : State).agenda = [.event .thermalTrip] ∧
    Instr.thermalTrip.isStep = true ∧ Instr.outlivesTrip .cmdReset = true ∧ Instr.outlivesTrip .thermalTrip = false ∧
    ({ tb.s with bar := { tb.s.bar with status := 0x88 } } : State).bar.status = 0x88 ∧
    (let z : State := { tb.fetching with agenda := [] };
      z.bar.status = 5 ∧ z.biasGo = z ∧ z.byAge.issueOrder = [] ++ tb.f :: [] ∧ z.byAge.boundary tb.f = false ∧
      (match firstChange z z.pending with
        | .next u => decide (u = z)
        | _ => false) = true) := by
  decide +kernel
/-- A fibre that goes on with an instruction that has waited, and one whose wait stood under a trap. -/
theorem test_meets_StepRunsTheInstruction_waited :
    (let g := { tb.f with waited := true, inst := some (.exit tb.h) };
      (tb.with g).canAct g = true ∧ (tb.with g).boundary g = false ∧ g.rejoins = none ∧
      (match exec (.exit tb.h) (((tb.with g).openIssue g).issueAt g (.exit tb.h)) with
        | .next _ => true
        | _ => false) = true) ∧
    (let g := { tb.f with rejoin := some (0x100000, .phase tb.set 0 .rally) };
      (tb.with g).canAct g = true ∧ (tb.with g).boundary g = false ∧ g.rejoins.isSome = true) := by
  decide +kernel
theorem test_meets_EncodeDecodeRoundTrip : (Instr.ext 3 (.addI32Imm ⟨0, 3⟩ 1 8)).wf = true ∧
    (Instr.bsel 3 [⟨5, 1⟩, ⟨9, 0⟩]).wf = true ∧ (Instr.addI3216 true 3 4).wf = true := by decide
theorem test_meets_EveryStepKeepsMemories : tb.fetching.memsOk ∧ ∃ t, step tb.fetching = .next t := by
  refine ⟨⟨by decide +kernel, rfl, rfl, rfl, rfl⟩, ?_⟩
  have h : (match step tb.fetching with
    | .next _ => true
    | _ => false) = true := by decide +kernel
  cases hs : step tb.fetching with
  | next t => exact ⟨t, rfl⟩
  | fault r => rw [hs] at h; cases h
  | refused r => rw [hs] at h; cases h
/-- The record is free of the fibre's own accesses, or one of them comes first. -/
theorem test_meets_TrapReturn_ahead : (tb.recorded [] []).ownAhead tb.f (.dram 0x300000) 64 = false ∧
    ({ tb.recorded [] [] with accs := [{ tb.acc (.store 7) with loc := .dram 0x300020 }] } : State).ownAhead tb.f
      (.dram 0x300000) 64 = true := by
  decide +kernel
/-- A launch fibre without DET and one with it. -/
theorem test_meets_SpecialRegisterResults_launch : tb.f.origin = .launch ∧
    (∃ l, tb.s.launch? tb.f.launch = some l ∧ l.flags % 2 = 0) ∧
    ∃ l, ({ tb.s with launches := tb.s.launches.map fun l => { l with flags := 1 } } : State).launch? tb.f.launch = some l ∧
      l.flags % 2 = 1 :=
  ⟨rfl, ⟨_, rfl, by decide +kernel⟩, _, rfl, by decide +kernel⟩
/-- A copy that waits for its slot, and one that has not begun to. -/
theorem test_meets_AtomicAndCopyResults_waits :
    (let g := tb.regs [(1, 64), (2, 128), (3, 64)]; ∀ c, g.wait ≠ .copySlot c) ∧
    (let c : Copy := { tb.copy with id := 3 }; let g := { tb.regs [(1, 64), (2, 128), (3, 64)] with wait := .copySlot c };
      (tb.with g).Issues g (.cpy tb.h 3 2 1 false 0 0 false .sp .sp 0 false 0) tb.h.g (spaceRegs .sp 1 ++ spaceRegs .sp 2 ++ [3] ++ [])
        ((spaceRegs .sp 1 ++ spaceRegs .sp 2 ++ [3] ++ []).map rc) ∧ g.wait = .copySlot c ∧
      (tb.with g).copyCount g.core < Config.copySlots ∧ g.counter .cp < 63) :=
  ⟨(fun c h => by cases h), tb.issuesWith rfl rfl rfl (by decide +kernel), rfl, by decide +kernel, by decide +kernel⟩
/-- Another fibre's store to the old set's object is open: the departure is a race. -/
theorem test_meets_SetResults_race :
    let l := Loc.sp (spKey 0 1 96)
    let s : State := { tb.obj tb.other tb.setO with records := [⟨9, 1, 0, 1, spKey 0 1 96 / 4, .write, .dev, 0, 5, true, false, 0⟩] }
    tb.other.set = some l ∧ l ≠ tb.set ∧
      (match s.register (objAcc s tb.other tb.set 32 .dev) with
        | .ok r => (match (r.gained tb.set 32).register ((r.gained tb.set 32).departAcc tb.other l) with
          | .race _ => true
          | _ => false)
        | _ => false) = true := by
  decide +kernel
/-- The set of the fibre is in the group already. -/
theorem test_meets_GroupResults_again :
    tb.group.Issues tb.gf (.grpEnter tb.h 4 5) tb.h.g (pairRegs 4 ++ [5]) (pairCodes 4) ∧
    ∃ x ∈ tb.group.windows, x.group = .dram 0x9000 ∧ x.set = tb.set :=
  ⟨tb.issuesWith (by decide +kernel) rfl rfl (by decide +kernel), _, .head _, rfl, rfl⟩
/-- A ballot at a peer's plaza, and a plaza that is no longer OPEN. -/
theorem test_meets_PlazaResults_away :
    (let g := { tb.pf with wait := .ballot false }; let s : State := { tb.plz g with dev := 3 };
      s.fib? g.uid = some g ∧ s.isLocal tb.handle = false ∧ g.tag = tb.handle ∧ g.plzSet = some tb.set ∧
      g.wait = .ballot false ∧ g.rejoin = none) ∧
    (let p := { tb.plaza with state := .aborting };
      ({ tb.plz tb.pf with plazas := [p] } : State).current? tb.handle = some p ∧ p.state ≠ .opened) := by
  decide +kernel
/-- A launch with nothing outstanding. -/
theorem test_meets_MatrixAndLaunchResults_drained :
    let g := tb.regs [(4, 0x8000)]; let s : State := { tb.launching with fibres := [g] }
    g.outs = [] ∧ (match readRecord s g 0x8000 4 with
      | .ok r t => (match t.checkLaunch r none [] with
        | .ok _ y => (y.fib? g.uid).isSome
        | _ => false)
      | _ => false) = true := by
  decide +kernel
/-- A lane that waits for the fibre that leaves the batch. -/
theorem test_meets_IssueControlResults_loose :
    let g := { tb.f with held := some (7, 0) }; let w := { tb.f with uid := 9, wait := .lanes [g.uid] }
    ({ tb.with g with fibres := [g, w] } : State).fib? 9 = some w ∧ w.wait = .lanes [g.uid] ∧ g.held ≠ none := by
  decide +kernel

end Sys2Proof.Tests
end

/-! O15 (R48): what a register reads depends on the writes pending to its own code alone, and two advances in a row let a
register read what their sum does, as long as its writes stand in the order of issue. -/

namespace Sys2Proof.Machine

/-! The writes pending to one code. -/

/-- The writes pending to one code, oldest first. -/
def Fibre.pendOf (f : Fibre) (code : Nat) : List Pend := f.pend.filter fun p => p.code == code
/-- What a place that holds w reads once this write has become visible. -/
def Pend.over (w : Word) (p : Pend) : Word := if p.passed then w else p.val
/-- What a place that holds w reads after an advance by n, with these writes pending to it. -/
def Pend.readAfter (n : Nat) (w : Word) (l : List Pend) : Word :=
  (l.filter fun p => p.left ≤ n).foldl Pend.over w
/-- An advance by n leaves this write pending with the rest of its distance, overtaken by the younger writes of l that it makes
visible. -/
def Pend.aged (n : Nat) (l : List Pend) (p : Pend) : Pend :=
  { p with left := p.left - n, passed := p.passed || l.any fun q => decide (q.left ≤ n) && decide (p.seq < q.seq) }
/-- What an advance by n leaves of the writes pending to one code. -/
def Pend.rest (n : Nat) (l : List Pend) : List Pend := (l.filter fun p => n < p.left).map (Pend.aged n l)

theorem Fibre.pendOf_eq_nil {f : Fibre} {code : Nat} (h : f.early code = false) : f.pendOf code = [] := by
  unfold Fibre.early at h
  unfold Fibre.pendOf
  rw [List.any_eq_false] at h
  exact List.filter_eq_nil_iff.mpr h

/-- A fixed-latency write of a register other than g0 is the youngest of the pending writes. -/
theorem Fibre.setReg_eq (f : Fibre) {c : Reg} (hc : c ≠ 0) (l : Nat) (v : Word) :
    f.setReg l c v = { f with pend := f.pend ++ [⟨rc c, v, l, f.wseq, false⟩], wseq := f.wseq + 1 } := by
  have hg0 : rc c ≠ 0 := fun h => hc (BitVec.eq_of_toNat_eq h)
  have hp0 : rc c ≠ 64 := Nat.ne_of_lt c.isLt
  exact if_neg (not_or.mpr ⟨hg0, hp0⟩)

theorem Fibre.setReg_pendOf (f : Fibre) {c : Reg} (hc : c ≠ 0) (l : Nat) (v : Word) :
    (f.setReg l c v).pendOf (rc c) = f.pendOf (rc c) ++ [⟨rc c, v, l, f.wseq, false⟩] := by
  simp [Fibre.setReg_eq f hc, Fibre.pendOf]

theorem Fibre.setReg_wseq (f : Fibre) {c : Reg} (hc : c ≠ 0) (l : Nat) (v : Word) :
    (f.setReg l c v).wseq = f.wseq + 1 := by
  rw [Fibre.setReg_eq f hc]

@[simp] theorem Fibre.setReg_reg (f : Fibre) (l : Nat) (c q : Reg) (v : Word) : (f.setReg l c v).reg q = f.reg q :=
  Fibre.later_reg f l (rc c) v q

/-! What a register reads as writes become visible. -/

/-- A value put at another code leaves a register as it was. -/
theorem Fibre.put_reg_of_ne (f : Fibre) {code : Nat} {q : Reg} (h : code ≠ rc q) (v : Word) :
    (f.put code v).reg q = f.reg q := by
  by_cases h64 : code < 64
  · have hr : rc (.ofNat 6 code) = code := Nat.mod_eq_of_lt h64
    have hq : q ≠ .ofNat 6 code := fun e => h (by rw [e, hr])
    rw [← hr, Fibre.put_reg, if_neg fun e => hq e.1]
  · rw [Fibre.put, if_neg h64]
    split
    · exact Fibre.setPredRaw_reg f _ _ q
    · rfl

theorem Fibre.apply_reg (f : Fibre) (p : Pend) {q : Reg} (hq : q ≠ 0) :
    (f.apply p).reg q = if p.code = rc q then Pend.over (f.reg q) p else f.reg q := by
  unfold Fibre.apply Pend.over
  by_cases hp : p.passed
  · simp [hp]
  · by_cases hc : p.code = rc q
    · rw [if_neg hp, hc, Fibre.put_reg, if_pos ⟨rfl, hq⟩, if_pos rfl, if_neg hp]
    · simp [hp, hc, Fibre.put_reg_of_ne f hc]

/-- Of the writes applied, those to a register's own code alone say what it reads. -/
theorem Fibre.applyAll_reg (f : Fibre) (l : List Pend) {q : Reg} (hq : q ≠ 0) :
    (f.applyAll l).reg q = (l.filter fun p => p.code == rc q).foldl Pend.over (f.reg q) := by
  unfold Fibre.applyAll
  induction l generalizing f with
  | nil => rfl
  | cons p l ih =>
    rw [List.foldl_cons, ih, Fibre.apply_reg f p hq]
    by_cases hc : p.code = rc q <;> simp [hc]

theorem Fibre.advance_reg (f : Fibre) (n : Nat) {q : Reg} (hq : q ≠ 0) :
    (f.advance n).reg q = Pend.readAfter n (f.reg q) (f.pendOf (rc q)) := by
  calc (f.advance n).reg q
      = (f.applyAll ((f.pend.map fun p => { p with left := p.left - n }).filter fun p => p.left = 0)).reg q := rfl
    _ = Pend.readAfter n (f.reg q) (f.pendOf (rc q)) := by
      rw [Fibre.applyAll_reg f _ hq, Pend.readAfter, Fibre.pendOf, List.filter_map, List.filter_map, List.foldl_map]
      simp only [List.filter_filter, Function.comp_def, Nat.sub_eq_zero_iff_le, Bool.and_comm]
      rfl

/-- What is left of the pending writes: those whose distance lies beyond n, overtaken by the younger ones of their code that
the advance makes visible. -/
theorem Fibre.advance_pend (f : Fibre) (n : Nat) :
    (f.advance n).pend = (f.pend.filter fun p => n < p.left).map fun p =>
      { p with left := p.left - n, passed := p.passed || f.pend.any fun q =>
        q.code == p.code && (decide (q.left ≤ n) && decide (p.seq < q.seq)) } := by
  unfold Fibre.advance
  simp only [List.filter_map, List.map_map, List.any_filter, List.any_map, Function.comp_def, ne_eq,
    Nat.sub_eq_zero_iff_le, Nat.not_le, Bool.and_left_comm]

theorem Fibre.advance_pendOf (f : Fibre) (n code : Nat) :
    (f.advance n).pendOf code = Pend.rest n (f.pendOf code) := by
  unfold Fibre.pendOf Pend.rest
  rw [Fibre.advance_pend, List.filter_map, List.filter_comm]
  refine List.map_congr_left fun p hp => ?_
  obtain ⟨-, hcode⟩ := List.mem_filter.mp (List.mem_of_mem_filter hp)
  have hc : p.code = code := beq_iff_eq.mp hcode
  rw [Pend.aged, List.any_filter, hc]

/-! Writes in the order of issue. -/

/-- The list stands in the order of issue, and no write of it has been overtaken. -/
def Pend.InOrder (l : List Pend) : Prop := l.Pairwise (·.seq < ·.seq) ∧ ∀ p ∈ l, p.passed = false

theorem Pend.over_of_passed {p : Pend} (h : p.passed = true) (w : Word) : Pend.over w p = w := if_pos h
theorem Pend.over_of_not_passed {p : Pend} (h : p.passed = false) (w : Word) : Pend.over w p = p.val := by
  simp [Pend.over, h]
@[simp] theorem Pend.readAfter_nil (n : Nat) (w : Word) : Pend.readAfter n w [] = w := rfl
theorem Pend.readAfter_cons (n : Nat) (w : Word) (p : Pend) (l : List Pend) :
    Pend.readAfter n w (p :: l) = Pend.readAfter n (if p.left ≤ n then Pend.over w p else w) l := by
  by_cases h : p.left ≤ n <;> simp [Pend.readAfter, h]

/-- Where no write becomes visible, the old value stands. -/
theorem Pend.readAfter_of_none {n : Nat} {l : List Pend} (h : ∀ p ∈ l, ¬p.left ≤ n) (w : Word) :
    Pend.readAfter n w l = w := by
  have hl : (l.filter fun p => p.left ≤ n) = [] := List.filter_eq_nil_iff.mpr (by simpa using h)
  rw [Pend.readAfter, hl, List.foldl_nil]

/-- Where a write that none has overtaken becomes visible, the old value counts no more. -/
theorem Pend.readAfter_of_some {n : Nat} {l : List Pend} (hn : ∀ p ∈ l, p.passed = false)
    (h : ∃ p ∈ l, p.left ≤ n) (w w' : Word) : Pend.readAfter n w l = Pend.readAfter n w' l := by
  induction l generalizing w w' with
  | nil => obtain ⟨p, hp, _⟩ := h; cases hp
  | cons p l ih =>
    obtain ⟨hp, hl⟩ := List.forall_mem_cons.mp hn
    rw [Pend.readAfter_cons, Pend.readAfter_cons]
    by_cases hd : p.left ≤ n
    · rw [if_pos hd, if_pos hd, Pend.over_of_not_passed hp, Pend.over_of_not_passed hp]
    · exact ih hl (by simpa [hd] using h) _ _

/-- The oldest of the writes overtakes none: an advance leaves the others as it would without it. -/
theorem Pend.rest_cons {p : Pend} {l : List Pend} (h : ∀ q ∈ l, p.seq < q.seq) (n : Nat) :
    Pend.rest n (p :: l) = (if n < p.left then [Pend.aged n l p] else []) ++ Pend.rest n l := by
  have own : Pend.aged n (p :: l) p = Pend.aged n l p := by simp [Pend.aged]
  have others : ∀ q ∈ l, Pend.aged n (p :: l) q = Pend.aged n l q := fun q hq => by
    simp [Pend.aged, Nat.not_lt_of_lt (h q hq)]
  by_cases hp : n < p.left
  · simpa [Pend.rest, hp, own] using fun q hq _ => others q hq
  · simpa [Pend.rest, hp] using fun q hq _ => others q hq

/-- Two advances read as their sum does: a write that the first makes visible is what stands against the older ones that the
second would. -/
theorem Pend.readAfter_rest {l : List Pend} (h : Pend.InOrder l) (m k : Nat) (w : Word) :
    Pend.readAfter k (Pend.readAfter m w l) (Pend.rest m l) = Pend.readAfter (m + k) w l := by
  induction l generalizing w with
  | nil => rfl
  | cons p l ih =>
    obtain ⟨hseq, hnot⟩ := h
    obtain ⟨hp, hl⟩ := List.forall_mem_cons.mp hnot
    obtain ⟨hlt, hord⟩ := List.pairwise_cons.mp hseq
    have ih := ih ⟨hord, hl⟩
    rw [Pend.rest_cons hlt, Pend.readAfter_cons, Pend.readAfter_cons]
    by_cases hm : p.left ≤ m
    · have hmk : p.left ≤ m + k := Nat.le_add_right_of_le hm
      rw [if_pos hm, if_pos hmk, if_neg (Nat.not_lt.mpr hm), List.nil_append, ih]
    · rw [if_neg hm, if_pos (Nat.lt_of_not_le hm), List.singleton_append, Pend.readAfter_cons]
      by_cases hd : ∃ q ∈ l, q.left ≤ m
      · -- a younger write is visible after the first advance: p is overtaken
        have hpass : (Pend.aged m l p).passed = true := by
          obtain ⟨q, hq, hqm⟩ := hd
          simpa [Pend.aged, hp] using ⟨q, hq, hqm, hlt q hq⟩
        have hd' : ∃ q ∈ l, q.left ≤ m + k := hd.imp fun q hq => ⟨hq.1, Nat.le_add_right_of_le hq.2⟩
        rw [Pend.over_of_passed hpass, ite_self, ih, Pend.readAfter_of_some hl hd']
      · -- none is: the first advance changes nothing, and p becomes visible at what is left of its distance
        have hnone : ∀ q ∈ l, ¬q.left ≤ m := fun q hq hqm => hd ⟨q, hq, hqm⟩
        have hage : Pend.aged m l p = { p with left := p.left - m } := by
          have hany : (l.any fun q => decide (q.left ≤ m) && decide (p.seq < q.seq)) = false :=
            List.any_eq_false.mpr fun q hq => by simp [hnone q hq]
          rw [Pend.aged, hany, Bool.or_false]
        have hk : p.left - m ≤ k ↔ p.left ≤ m + k := by omega
        rw [hage, ← ih]
        simp only [Pend.readAfter_of_none hnone, hk]
        rfl

theorem Fibre.advance_advance_reg (f : Fibre) {q : Reg} (hq : q ≠ 0) (h : Pend.InOrder (f.pendOf (rc q))) (m k : Nat) :
    ((f.advance m).advance k).reg q = (f.advance (m + k)).reg q := by
  rw [Fibre.advance_reg _ k hq, Fibre.advance_reg f m hq, Fibre.advance_pendOf, Pend.readAfter_rest h,
    Fibre.advance_reg f (m + k) hq]

/-! Two writes of one register. -/

/-- The writes pending to a register after a write of it, an advance and a second write. -/
theorem Fibre.two_writes_pendOf {f : Fibre} {c : Reg} (hc : c ≠ 0) (he : f.early (rc c) = false) (v1 v2 : Word)
    (l1 l2 n : Nat) :
    (((f.setReg l1 c v1).advance n).setReg l2 c v2).pendOf (rc c) =
      (if l1 ≤ n then [] else [⟨rc c, v1, l1 - n, f.wseq, false⟩]) ++ [⟨rc c, v2, l2, f.wseq + 1, false⟩] := by
  rw [Fibre.setReg_pendOf _ hc, Fibre.advance_pendOf, Fibre.setReg_pendOf f hc, Fibre.pendOf_eq_nil he,
    Fibre.advance_wseq, Fibre.setReg_wseq f hc]
  by_cases h : l1 ≤ n
  · simp [Pend.rest, h]
  · simp [Pend.rest, Pend.aged, h, Nat.lt_of_not_le h]

theorem Fibre.two_writes_inOrder {f : Fibre} {c : Reg} (hc : c ≠ 0) (he : f.early (rc c) = false) (v1 v2 : Word)
    (l1 l2 n : Nat) : Pend.InOrder ((((f.setReg l1 c v1).advance n).setReg l2 c v2).pendOf (rc c)) := by
  rw [Fibre.two_writes_pendOf hc he]
  by_cases h : l1 ≤ n <;> simp [Pend.InOrder, h]

/-- The register's value in each advance after the second write: the second's where that is visible, else the first's. -/
theorem Fibre.two_writes_reg {f : Fibre} {c : Reg} (hc : c ≠ 0) (he : f.early (rc c) = false) (v1 v2 : Word)
    (l1 l2 n m : Nat) :
    ((((f.setReg l1 c v1).advance n).setReg l2 c v2).advance m).reg c =
      if l2 ≤ m then v2 else if l1 ≤ n + m then v1 else f.reg c := by
  have hfirst : ((f.setReg l1 c v1).advance n).reg c = if l1 ≤ n then v1 else f.reg c := by
    rw [Fibre.advance_reg _ n hc, Fibre.setReg_reg, Fibre.setReg_pendOf f hc, Fibre.pendOf_eq_nil he, List.nil_append,
      Pend.readAfter_cons, Pend.readAfter_nil, Pend.over_of_not_passed rfl]
  rw [Fibre.advance_reg _ m hc, Fibre.two_writes_pendOf hc he, Fibre.setReg_reg, hfirst]
  by_cases h : l1 ≤ n
  · have hnm : l1 ≤ n + m := Nat.le_add_right_of_le h
    rw [if_pos h, if_pos h, if_pos hnm, List.nil_append, Pend.readAfter_cons, Pend.readAfter_nil,
      Pend.over_of_not_passed rfl]
  · have hnm : l1 - n ≤ m ↔ l1 ≤ n + m := by omega
    rw [if_neg h, if_neg h, List.singleton_append, Pend.readAfter_cons, Pend.readAfter_cons, Pend.readAfter_nil,
      Pend.over_of_not_passed rfl, Pend.over_of_not_passed rfl]
    simp only [hnm]

/-- Settles O15: after the second write an advance by m gives the value by the two distances, and a further advance by k
reads as one by m + k does. -/
theorem youngestVisibleWriteStands : Obligations.YoungestVisibleWriteStands := by
  intro f c v1 v2 l1 l2 n m hc he _ _
  refine ⟨Fibre.two_writes_reg hc he v1 v2 l1 l2 n m, fun k => ?_⟩
  rw [Fibre.advance_advance_reg _ hc (Fibre.two_writes_inOrder hc he v1 v2 l1 l2 n),
    Fibre.two_writes_reg hc he v1 v2 l1 l2 n (m + k), Nat.add_assoc]

end Sys2Proof.Machine

/-! O45 (R292, R301): `plz.abort` at its coordinator, at a peer's coordinator, with a handle that is refused, and with d not
0. -/

namespace Sys2Proof.Machine

open Sys2Proof.Dec (fld)

/-! The plaza that a handle names. -/

/-- The fields of a handle are these (R290) exactly where they fit their widths and make up the handle. -/
theorem handle_fields_iff {hd dev die index gen : Nat} (hhd : hd < 2 ^ 64) (hdev : dev < 2 ^ 12) :
    (die = fld hd 50 2 ∧ index = fld hd 32 18 ∧ gen = hd % 2 ^ 32 ∧ dev = fld hd 52 12) ↔
      hd = dev * 2 ^ 52 + die * 2 ^ 50 + index * 2 ^ 32 + gen ∧ die < 4 ∧ index < 2 ^ 18 ∧ gen < 2 ^ 32 := by
  unfold fld
  omega

/-- An abort of a handle reaches the OPEN plazas whose fields make up the handle. -/
theorem State.abortPlaza_eq (s : State) (hd : DWord) (cause : Nat) :
    s.abortPlaza hd cause = { s with plazas := s.plazas.map fun p =>
      if hd.toNat = s.dev.toNat * 2 ^ 52 + p.die * 2 ^ 50 + p.index * 2 ^ 32 + p.gen ∧ p.die < 4 ∧ p.index < 2 ^ 18 ∧
          p.gen < 2 ^ 32 ∧ p.state = .opened
      then { p with state := .aborting, cause := cause } else p } := by
  unfold State.abortPlaza
  congr 2 with p
  have hfields := handle_fields_iff (die := p.die) (index := p.index) (gen := p.gen) hd.isLt s.dev.isLt
  refine if_congr ?_ rfl rfl
  simpa only [and_assoc] using and_congr_left fun _ : p.state = .opened => hfields

/-! An abort cause that arises here (R302; log 17). -/

/-- At this device's coordinator it aborts the plaza. -/
theorem State.causeAbort_of_isLocal {s : State} {hd : DWord} (h : s.isLocal hd = true) (cause : Nat) :
    s.causeAbort hd cause = s.abortPlaza hd cause := if_pos h

/-- Of a peer's plaza it changes what is known of the peer, and its messages, alone. -/
theorem State.causeAbort_of_away {s : State} {hd : DWord} (h : s.isLocal hd = false) (cause : Nat) :
    ∃ ps rs, s.causeAbort hd cause = { s with awayPlazas := ps, replies := rs } := by
  unfold State.causeAbort
  rw [if_neg (ne_true_of_eq_false h)]
  split
  · split <;> exact ⟨_, _, rfl⟩
  · exact ⟨_, _, rfl⟩

/-- Where `plz.abort` issues, a handle that R292 refuses traps, and any other is a cause of abort (R301). -/
theorem exec_plzAbort {s : State} {f : Fibre} {h : Hdr} {a : Reg}
    (hi : s.Issues f (.plzAbort h a) h.g (pairRegs a) (pairCodes a)) :
    exec (.plzAbort h a) s = .next
      (if s.badHandle (f.pair a) then s.trapAt f (.plzAbort h a) .plazaMisuse 0x03 (f.pair a).toNat
      else (s.causeAbort (f.pair a) 0x05).retire f (.plzAbort h a) { stall := h.s.toNat }) := issue_next hi

/-! Decoding a word of format D (R28, R34). -/

theorem leNat_leBytes (n w : Nat) : Dec.leNat (Dec.leBytes n w) = w % 256 ^ n := by
  induction n generalizing w with
  | zero => simp [Dec.leNat, Dec.leBytes, Nat.mod_one]
  | succ n ih =>
    rw [Dec.leBytes, Dec.leNat, ih, BitVec.toNat_ofNat, Nat.pow_succ' (m := 256)]
    exact Nat.mod_mul.symm

/-- The majors of the groups that are longer than their first word: `ext`, `bsel` and the two-word instructions (R29, R31). -/
def longMajors : List Nat := [0x00, 0x22, 0x26, 0x2F, 0x30]

/-- A 32-bit word that is a group of its own is no instruction where its major's table has none for it. -/
theorem decodeTableWord_of_one_eq_none {w : Nat} (hw : w < 2 ^ 32) (hodd : w % 2 = 1)
    (hmajor : fld w 7 6 ∉ longMajors) (hone : Dec.one w = none) : decodeTableWord 32 w = none := by
  simp only [longMajors, List.mem_cons, List.not_mem_nil, or_false, not_or] at hmajor
  obtain ⟨h00, h22, h26, h2F, h30⟩ := hmajor
  have hword : Dec.leNat [.ofNat 8 w, .ofNat 8 (w / 256), .ofNat 8 (w / 256 / 256), .ofNat 8 (w / 256 / 256 / 256)] = w :=
    (leNat_leBytes 4 w).trans (Nat.mod_eq_of_lt hw)
  have hlong (bs : List Byte) : Dec.long w bs = .error .unassigned := by
    simp [Dec.long, Dec.twoWord, h22, h26, h2F, h30, hone, Dec.orUnassigned]
  have hraw : Dec.raw (Dec.leBytes 24 w) = .error .unassigned := by
    simp [Dec.leBytes, Dec.raw, Dec.plain, hword, hodd, h00, hlong]
  rw [decodeTableWord, Nat.mod_eq_of_lt hw, decode, hraw]

section FormatD
variable {major k : Nat} (h : Hdr) (a d : Reg) (hmajor : major < 2 ^ 6) (hk : k < 2 ^ 7)

theorem encD_eq : Enc.encD major k h a.toNat d.toNat =
    1 + 2 * h.s.toNat + 8 * h.g.toNat + 128 * major + 8192 * (4096 * k + 64 * a.toNat + d.toNat) := rfl

theorem encD_odd : Enc.encD major k h a.toNat d.toNat % 2 = 1 := by
  rw [encD_eq]
  omega

include hmajor

theorem encD_major : fld (Enc.encD major k h a.toNat d.toNat) 7 6 = major := by
  rw [encD_eq, fld]
  omega

theorem encD_regD : Dec.regD (Enc.encD major k h a.toNat d.toNat) = d := by
  refine BitVec.eq_of_toNat_eq ?_
  rw [Dec.regD, BitVec.toNat_ofNat, encD_eq, fld]
  omega

include hk

theorem encD_lt : Enc.encD major k h a.toNat d.toNat < 2 ^ 32 := by
  rw [encD_eq]
  omega

theorem encD_fnF : Dec.fnF (Enc.encD major k h a.toNat d.toNat) = k := by
  rw [Dec.fnF, encD_eq, fld]
  omega

end FormatD

theorem one_of_plazaMajor {w : Nat} (hm : fld w 7 6 = 0x31) : Dec.one w = Dec.plaza w := by
  simp [Dec.one, hm]

theorem plaza_of_abortCode {w : Nat} (hf : Dec.fnF w = 0x04) :
    Dec.plaza w = Dec.keepIf (Dec.regD w = 0) (.plzAbort (Dec.hdr w) (Dec.regA w)) := by
  simp [Dec.plaza, hf]

/-- A `plz.abort` whose field d is not 0 is no instruction (R27, R41). -/
theorem decode_plzAbort_of_regD_ne_zero (h : Hdr) (a : Reg) {d : Reg} (hd : d ≠ 0) :
    decodeTableWord 32 (Enc.encD 0x31 0x04 h a.toNat d.toNat) = none := by
  have hmajor : fld (Enc.encD 0x31 0x04 h a.toNat d.toNat) 7 6 = 0x31 := encD_major h a d (by decide)
  refine decodeTableWord_of_one_eq_none (encD_lt h a d (by decide) (by decide)) (encD_odd h a d)
    (by rw [hmajor]; decide) ?_
  rw [one_of_plazaMajor hmajor, plaza_of_abortCode (encD_fnF h a d (by decide) (by decide)),
    encD_regD h a d (by decide), Dec.keepIf, if_neg hd]

/-- Settles O45: with a good handle the abort cause 0x05 arises, at the coordinator here or as a message to the peer's. -/
theorem plazaAbort : Obligations.PlazaAbort := by
  refine ⟨fun s f h a hi => ⟨fun hgood hlocal => ?_, fun hgood haway => ?_, fun hbad => ?_⟩,
    fun h a d hd => decode_plzAbort_of_regD_ne_zero h a hd⟩
  · rw [exec_plzAbort hi, if_neg (ne_true_of_eq_false hgood), State.causeAbort_of_isLocal hlocal, State.abortPlaza_eq]
  · obtain ⟨ps, rs, hv⟩ := State.causeAbort_of_away haway 0x05
    refine ⟨s.causeAbort (f.pair a) 0x05, ?_, by rw [hv], by rw [hv], by rw [hv]⟩
    rw [exec_plzAbort hi, if_neg (ne_true_of_eq_false hgood)]
  · rw [exec_plzAbort hi, if_pos hbad]

end Sys2Proof.Machine

/-! O59 (R24 to R43): decoding the encoding of a well-formed instruction. A word made of fields gives each field back, and from
its fields the table of its major gives the instruction back; a group is read whatever bytes follow. -/

namespace Sys2Proof.Machine

open Sys2Proof.Dec (fld)

/-! The fields of a word (R25, R28). -/

section Fields
variable {w m p k x y : Nat} (h : Hdr) (b a d : Reg)

theorem encW_odd : Enc.encW m h p % 2 = 1 := by
  unfold Enc.encW
  omega
theorem encW_lt (hm : m < 64) (hp : p < 2 ^ 19) : Enc.encW m h p < 2 ^ 32 := by
  unfold Enc.encW
  omega
theorem hdr_encW : Dec.hdr (Enc.encW m h p) = h := by
  obtain ⟨g, s⟩ := h
  simp only [Dec.hdr, Enc.encW, fld, Hdr.mk.injEq]
  constructor <;> bv_omega
theorem major_encW (hm : m < 64) : fld (Enc.encW m h p) 7 6 = m := by
  unfold Enc.encW fld
  omega
/-- Above the header and the major stand the operand bits. -/
theorem operands_encW (hm : m < 64) : Enc.encW m h p / 2 ^ 13 = p := by
  unfold Enc.encW
  omega

/-- A field above the major, by the operand bits. -/
theorem fld_operands (n len : Nat) : fld w (n + 13) len = w / 2 ^ 13 / 2 ^ n % 2 ^ len := by
  rw [fld, Nat.div_div_eq_div_mul, Nat.pow_add, Nat.mul_comm]

theorem field_of_operands {n len v : Nat} (hw : w / 2 ^ 13 = p) (hp : p / 2 ^ n % 2 ^ len = v) : fld w (n + 13) len = v := by
  rw [fld_operands, hw, hp]
theorem regB_of_operands (hw : w / 2 ^ 13 = p) (hp : p / 2 ^ 12 % 2 ^ 6 = b.toNat) : Dec.regB w = b := by
  rw [Dec.regB, fld_operands, hw, hp, BitVec.ofNat_toNat, BitVec.setWidth_eq]
theorem regA_of_operands (hw : w / 2 ^ 13 = p) (hp : p / 2 ^ 6 % 2 ^ 6 = a.toNat) : Dec.regA w = a := by
  rw [Dec.regA, fld_operands, hw, hp, BitVec.ofNat_toNat, BitVec.setWidth_eq]
theorem regD_of_operands (hw : w / 2 ^ 13 = p) (hp : p / 2 ^ 0 % 2 ^ 6 = d.toNat) : Dec.regD w = d := by
  rw [Dec.regD, fld_operands, hw, hp, BitVec.ofNat_toNat, BitVec.setWidth_eq]

/-! Parts of the fields of formats A and D. -/

theorem fld_fnF : fld w 25 6 = Dec.fnF w % 64 ∧ fld w 25 4 = Dec.fnF w % 16 ∧ fld w 25 3 = Dec.fnF w % 8 ∧
    fld w 25 2 = Dec.fnF w % 4 ∧ fld w 25 1 = Dec.fnF w % 2 ∧ fld w 26 1 = Dec.fnF w / 2 % 2 ∧
    fld w 26 3 = Dec.fnF w / 2 % 8 ∧ fld w 27 2 = Dec.fnF w / 4 % 4 ∧ fld w 27 4 = Dec.fnF w / 4 % 16 ∧
    fld w 28 4 = Dec.fnF w / 8 ∧ fld w 29 2 = Dec.fnF w / 16 % 4 ∧ fld w 29 3 = Dec.fnF w / 16 ∧
    fld w 31 1 = Dec.fnF w / 64 := by
  unfold Dec.fnF fld
  omega
theorem fld_regA : fld w 19 3 = (Dec.regA w).toNat % 8 ∧ fld w 22 3 = (Dec.regA w).toNat / 8 ∧
    fld w 19 4 = (Dec.regA w).toNat % 16 ∧ fld w 23 2 = (Dec.regA w).toNat / 16 := by
  rw [Dec.regA, BitVec.toNat_ofNat]
  unfold fld
  omega
theorem fld_regD : fld w 13 3 = (Dec.regD w).toNat % 8 ∧ fld w 16 3 = (Dec.regD w).toNat / 8 := by
  rw [Dec.regD, BitVec.toNat_ofNat]
  unfold fld
  omega

end Fields

end Sys2Proof.Machine

/-! The codes of the types and operations (R36 to R41). -/

namespace Sys2Proof

@[simp] theorem WideTy.ofCode_code (t : WideTy) : WideTy.ofCode t.code = some t := by cases t <;> rfl
@[simp] theorem NarrowTy.ofCode_code (t : NarrowTy) : NarrowTy.ofCode t.code = some t := by cases t <;> rfl
@[simp] theorem Cc.ofCode_code (c : Cc) : Cc.ofCode c.code = some c := by cases c <;> rfl
@[simp] theorem XlOp.ofCode_code (o : XlOp) : XlOp.ofCode o.code = some o := by cases o <;> rfl
@[simp] theorem RedOp.ofCode_code (o : RedOp) : RedOp.ofCode o.code = some o := by cases o <;> rfl
@[simp] theorem RedTy.ofCode_code (t : RedTy) : RedTy.ofCode t.code = some t := by cases t <;> rfl
@[simp] theorem Scope.ofCode_code (c : Scope) : Scope.ofCode c.code = some c := by cases c <;> rfl
@[simp] theorem LdTy.ofCode_code (t : LdTy) : LdTy.ofCode t.code = some t := by cases t <;> rfl
@[simp] theorem StTy.ofCode_code (t : StTy) : StTy.ofCode t.code = some t := by cases t <;> rfl
@[simp] theorem Buf.ofCode_code (b : Buf) : Buf.ofCode b.code = some b := by cases b <;> rfl
@[simp] theorem Space.ofCode_code (s : Space) : Space.ofCode s.code = some s := by cases s <;> rfl
@[simp] theorem BarSpace.ofCode_code (s : BarSpace) : BarSpace.ofCode s.code = some s := by cases s <;> rfl
@[simp] theorem Cls.ofCode_code (c : Cls) : Cls.ofCode c.code = some c := by cases c <;> rfl
@[simp] theorem AtomOp.ofCode_code (o : AtomOp) : AtomOp.ofCode o.code = some o := by cases o <;> rfl
@[simp] theorem AtomTy.ofCode_code (t : AtomTy) : AtomTy.ofCode t.code = some t := by cases t <;> rfl
@[simp] theorem Sem.ofCode_code (x : Sem) : Sem.ofCode x.code = some x := by cases x <;> rfl

theorem WideTy.code_lt (t : WideTy) : t.code < 8 := by cases t <;> decide
theorem NarrowTy.code_lt (t : NarrowTy) : t.code < 10 := by cases t <;> decide
theorem Cc.code_lt (c : Cc) : c.code < 7 := by cases c <;> decide
theorem XlOp.code_lt (o : XlOp) : o.code < 11 := by cases o <;> decide
theorem RedOp.code_lt (o : RedOp) : o.code < 4 := by cases o <;> decide
theorem RedTy.code_lt (t : RedTy) : t.code < 5 := by cases t <;> decide
theorem Scope.code_lt (c : Scope) : c.code < 6 := by cases c <;> decide
theorem LdTy.code_lt (t : LdTy) : t.code < 6 := by cases t <;> decide
theorem StTy.code_lt (t : StTy) : t.code < 6 := by cases t <;> decide
theorem Buf.code_lt (b : Buf) : b.code < 3 := by cases b <;> decide
theorem Space.code_lt (s : Space) : s.code < 6 := by cases s <;> decide
theorem BarSpace.code_lt (s : BarSpace) : s.code < 3 := by cases s <;> decide
theorem Cls.code_lt (c : Cls) : c.code < 6 := by cases c <;> decide
theorem AtomOp.code_lt (o : AtomOp) : o.code < 8 := by cases o <;> decide
theorem AtomTy.code_lt (t : AtomTy) : t.code < 7 := by cases t <;> decide
theorem Sem.code_lt (x : Sem) : x.code < 4 := by cases x <;> decide

end Sys2Proof

namespace Sys2Proof.Machine

open Sys2Proof.Dec (fld)

theorem ofNat_of_eq_toNat {n x : Nat} {v : BitVec n} (hx : x = v.toNat) : BitVec.ofNat n x = v := by
  rw [hx, BitVec.ofNat_toNat, BitVec.setWidth_eq]

/-! Words and groups (R24, R29). -/

theorem leNat_word {w : Nat} (hw : w < 2 ^ 32) : Dec.leNat (Enc.word w) = w :=
  (leNat_leBytes 4 w).trans (Nat.mod_eq_of_lt hw)

/-- A group whose first word is odd and no `ext` is read as one of 32-bit words. -/
theorem plain_word {w : Nat} (hw : w < 2 ^ 32) (hodd : w % 2 = 1) (hmajor : fld w 7 6 ≠ 0) (bs : List Byte) :
    Dec.plain (Enc.word w ++ bs) = Dec.long w bs := by
  have hb : ¬(BitVec.ofNat 8 w).toNat % 2 = 0 := by
    rw [BitVec.toNat_ofNat]
    omega
  have h4 := leNat_word hw
  change Dec.leNat [.ofNat 8 w, .ofNat 8 (w / 256), .ofNat 8 (w / 256 / 256), .ofNat 8 (w / 256 / 256 / 256)] = w at h4
  change Dec.plain (.ofNat 8 w :: .ofNat 8 (w / 256) :: .ofNat 8 (w / 256 / 256) :: .ofNat 8 (w / 256 / 256 / 256) :: bs) = _
  rw [Dec.plain, if_neg hb]
  simp only [h4, if_neg hmajor]

section OneWord
variable {m p k x y : Nat} {h : Hdr} {b a d : Reg} {i : Instr}

/-- A one-word instruction is read back where its major's table has it for every word with its fields. -/
theorem plain_of_encW (hm : m < 64 ∧ m ∉ longMajors) (hp : p < 2 ^ 19)
    (hone : ∀ w, fld w 7 6 = m → Dec.hdr w = h → w / 2 ^ 13 = p → Dec.one w = some i) (bs : List Byte) :
    Dec.plain (Enc.word (Enc.encW m h p) ++ bs) = .ok i := by
  obtain ⟨hm, hlong⟩ := hm
  simp only [longMajors, List.mem_cons, List.not_mem_nil, or_false, not_or] at hlong
  obtain ⟨h00, h22, h26, h2F, h30⟩ := hlong
  have hmajor : fld (Enc.encW m h p) 7 6 = m := major_encW h hm
  have hi := hone _ hmajor (hdr_encW h) (operands_encW h hm)
  rw [plain_word (encW_lt h hm hp) (encW_odd h) (by rwa [hmajor])]
  simp [Dec.long, Dec.twoWord, hmajor, h22, h26, h2F, h30, hi, Dec.orUnassigned]

theorem plain_of_encA (hm : m < 64 ∧ m ∉ longMajors) (hk : k < 2)
    (hone : ∀ w, fld w 7 6 = m → Dec.hdr w = h → fld w 31 1 = k → Dec.regB w = b → Dec.regA w = a → Dec.regD w = d →
      Dec.one w = some i) (bs : List Byte) :
    Dec.plain (Enc.word (Enc.encA m k h b a d) ++ bs) = .ok i :=
  plain_of_encW hm (by omega) (fun w hmajor hhdr hw => hone w hmajor hhdr ((fld_operands 18 1).trans (by omega))
    (regB_of_operands b hw (by omega)) (regA_of_operands a hw (by omega)) (regD_of_operands d hw (by omega))) bs

theorem plain_of_encD (hm : m < 64 ∧ m ∉ longMajors) (hk : k < 128 ∧ x < 64 ∧ y < 64)
    (hone : ∀ w, fld w 7 6 = m → Dec.hdr w = h → Dec.fnF w = k → Dec.regA w = .ofNat 6 x → Dec.regD w = .ofNat 6 y →
      Dec.one w = some i) (bs : List Byte) :
    Dec.plain (Enc.word (Enc.encD m k h x y) ++ bs) = .ok i :=
  plain_of_encW hm (by omega) (fun w hmajor hhdr hw => hone w hmajor hhdr ((fld_operands 12 7).trans (by omega))
    (regA_of_operands _ hw (by rw [BitVec.toNat_ofNat]; omega)) (regD_of_operands _ hw (by rw [BitVec.toNat_ofNat]; omega))) bs

end OneWord

/-- Whatever bytes follow, the encoding of the instruction is read back (before the checks of its fields). -/
def Decodes (i : Instr) : Prop := ∀ bs, Dec.plain (encode i ++ bs) = .ok i

/-! The tables of the majors (R34 to R43). -/

section Majors
variable (h : Hdr) (b a d : Reg) (p q : Pred)

/-- Format A: two operations to a major. -/
theorem decodes_formatA :
    ∀ i ∈ ([.addI32 h b a d, .subI32 h b a d, .mulLoI32 h b a d, .madLoI32 h b a d, .mulHiI32 h b a d, .mulHiN32 h b a d,
      .andB32 h b a d, .orB32 h b a d, .xorB32 h b a d, .andnB32 h b a d, .shlB32 h b a d, .shrN32 h b a d,
      .shrI32 h b a d, .rotB32 h b a d, .minI32 h b a d, .maxI32 h b a d, .minN32 h b a d, .maxN32 h b a d,
      .addI64 h b a d, .subI64 h b a d, .mulWideI32 h b a d, .mulWideN32 h b a d, .faddF32 h b a d, .fsubF32 h b a d,
      .fmulF32 h b a d, .ffmaF32 h b a d, .fminF32 h b a d, .fmaxF32 h b a d, .faddF64 h b a d, .fsubF64 h b a d,
      .fmulF64 h b a d, .ffmaF64 h b a d, .haddH2 h b a d, .hmulH2 h b a d, .hfmaH2 h b a d, .hfmaBh2 h b a d,
      .spkI8 h b a d, .spkF8 h b a d, .spkBf16 h b a d] : List Instr),
      Decodes i := by
  intro i hi
  fin_cases hi
  all_goals
    refine plain_of_encA (by decide) (by decide) fun w hm hh hk hb ha hd => ?_
    simp [Dec.one, Dec.pickA, Dec.keepIf, hm, hh, hk, hb, ha, hd]

/-- Major 0x0F. -/
theorem decodes_intMisc  :
    ∀ i ∈ ([.mov h a d, .movB64 h a d, .notB32 h a d, .negI32 h a d, .absI32 h a d,
      .popcB32 h a d, .clzB32 h a d, .brevB32 h a d] : List Instr), Decodes i := by
  intro i hi
  fin_cases hi
  all_goals
    refine plain_of_encD (by decide) (by omega) fun w hm hh hf ha hd => ?_
    simp [Dec.one, Dec.intMisc, hm, hh, hf, ha, hd]

/-- Major 0x17. -/
theorem decodes_floatMisc  :
    ∀ i ∈ ([.fabsF32 h a d, .fnegF32 h a d, .fabsF64 h a d, .fnegF64 h a d, .haddBh2 h a d,
      .hmulBh2 h a d, .fminF64 h a d, .fmaxF64 h a d, .hminH2 h a d, .hmaxH2 h a d,
      .hminBh2 h a d, .hmaxBh2 h a d, .frintF32 h a d] : List Instr), Decodes i := by
  intro i hi
  fin_cases hi
  all_goals
    refine plain_of_encD (by decide) (by omega) fun w hm hh hf ha hd => ?_
    simp [Dec.one, Dec.floatMisc, hm, hh, hf, ha, hd]

/-- Major 0x1A. -/
theorem decodes_special  :
    ∀ i ∈ ([.rcpF32 h a d, .rsqrtF32 h a d, .exp2F32 h a d, .log2F32 h a d, .sinF32 h a d,
      .cosF32 h a d] : List Instr), Decodes i := by
  intro i hi
  fin_cases hi
  all_goals
    refine plain_of_encD (by decide) (by omega) fun w hm hh hf ha hd => ?_
    simp [Dec.one, Dec.special, hm, hh, hf, ha, hd]

/-- Of major 0x1F, what has no field but registers. -/
theorem decodes_predCross  :
    ∀ i ∈ ([.pget h d, .pset h a, .xlBcastB32 h a d] : List Instr), Decodes i := by
  intro i hi
  fin_cases hi
  all_goals
    refine plain_of_encD (by decide) (by omega) fun w hm hh hf ha hd => ?_
    simp [Dec.one, Dec.predCross, Dec.keepIf, hm, hh, hf, ha, hd]

/-- Of major 0x23, what has no field but registers. -/
theorem decodes_controlMisc  :
    ∀ i ∈ ([.ret h, .exit h, .yield h, .loose h, .prioR h a,
      .callR h a, .braR h a, .rally h a, .rallyH h a] : List Instr), Decodes i := by
  intro i hi
  fin_cases hi
  all_goals
    refine plain_of_encD (by decide) (by omega) fun w hm hh hf ha hd => ?_
    simp [Dec.one, Dec.controlMisc, Dec.keepIf, hm, hh, hf, ha, hd]

/-- Of major 0x27, what has no field but registers. -/
theorem decodes_joinMisc  :
    ∀ i ∈ ([.joinR h, .doneR h, .done h a, .spawn h d a] : List Instr), Decodes i := by
  intro i hi
  fin_cases hi
  all_goals
    refine plain_of_encD (by decide) (by omega) fun w hm hh hf ha hd => ?_
    simp [Dec.one, Dec.joinMisc, Dec.keepIf, hm, hh, hf, ha, hd]

/-- Format M. -/
theorem decodes_offset (off : BitVec 7) :
    ∀ i ∈ ([.ldB32Global h off a d, .ldB64Global h off a d, .stB32Global h off a d, .stB64Global h off a d, .ldB32Sp h off a d,
      .stB32Sp h off a d] : List Instr), Decodes i := by
  intro i hi
  fin_cases hi
  all_goals
    refine plain_of_encD (by decide) (by omega) fun w hm hh hf ha hd => ?_
    simp [Dec.one, Dec.one, hm, hh, hf, ha, hd]

/-- Major 0x31. -/
theorem decodes_plaza  :
    ∀ i ∈ ([.plzOpen h a d, .plzEnter h a d, .plzLeave h a d, .plzVote h a d, .plzAbort h a] : List Instr), Decodes i := by
  intro i hi
  fin_cases hi
  all_goals
    refine plain_of_encD (by decide) (by omega) fun w hm hh hf ha hd => ?_
    simp [Dec.one, Dec.plaza, Dec.keepIf, hm, hh, hf, ha, hd]

/-- Major 0x35. -/
theorem decodes_sets  :
    ∀ i ∈ ([.setNew h a, .setEnrol h a, .setQuit h a, .grpEnter h a d, .grpLeave h a] : List Instr), Decodes i := by
  intro i hi
  fin_cases hi
  all_goals
    refine plain_of_encD (by decide) (by omega) fun w hm hh hf ha hd => ?_
    simp [Dec.one, Dec.sets, Dec.keepIf, hm, hh, hf, ha, hd]

/-- Majors 0x36, 0x38, 0x3B and 0x3C, what has no field but registers. -/
theorem decodes_units  :
    ∀ i ∈ ([.tokPass h, .mxa h a, .asel h a,
      .agat h a, .ksumRebuild h a, .trap h a, .tret h, .launch h a] : List Instr), Decodes i := by
  intro i hi
  fin_cases hi
  all_goals
    refine plain_of_encD (by decide) (by omega) fun w hm hh hf ha hd => ?_
    simp [Dec.one, Dec.waits, Dec.matrix, Dec.selection, Dec.system, Dec.keepIf, hm, hh, hf, ha, hd]

/-! Function codes that hold a type or an index as well. -/

/-- A function code from 64 on in major 0x0F is an `add.i64` (R36). -/
theorem intMisc_of_le {w : Nat} (hf : 64 ≤ Dec.fnF w) :
    Dec.intMisc w = some (.addI64Imm (Dec.hdr w) (.ofNat 6 (fld w 25 6)) (Dec.regA w) (Dec.regD w)) := by
  unfold Dec.intMisc
  split
  case h_9 => exact if_pos hf
  all_goals omega

/-- A function code from 0x20 on in major 0x1F is a shuffle or a reduction (R37). -/
theorem predCross_of_le {w : Nat} (hf : 32 ≤ Dec.fnF w) :
    Dec.predCross w = match Dec.fnF w / 8 with
      | 4 => some (.xlBflyB32 (Dec.hdr w) (.ofNat 3 (fld w 25 3)) (Dec.regA w) (Dec.regD w))
      | 5 => some (.xlUpB32 (Dec.hdr w) (.ofNat 3 (fld w 25 3)) (Dec.regA w) (Dec.regD w))
      | 6 => some (.xlDownB32 (Dec.hdr w) (.ofNat 3 (fld w 25 3)) (Dec.regA w) (Dec.regD w))
      | _ => if 64 ≤ Dec.fnF w
        then (XlOp.ofCode (Dec.fnF w - 64)).map (fun op => .xlRed (Dec.hdr w) op (Dec.regA w) (Dec.regD w)) else none := by
  unfold Dec.predCross
  split
  case h_10 => rfl
  all_goals omega

/-- A function code below 64 in major 0x3C is an `smov` or an `sset` (R43). -/
theorem system_of_lt {w : Nat} (hf : Dec.fnF w < 64) :
    Dec.system w = match Dec.fnF w / 16 with
      | 0 => Dec.keepIf (Dec.regA w = 0) (.smov (Dec.hdr w) (.ofNat 4 (fld w 25 4)) (Dec.regD w))
      | 2 => Dec.keepIf (Dec.regD w = 0) (.sset (Dec.hdr w) (.ofNat 4 (fld w 25 4)) (Dec.regA w))
      | _ => none := by
  unfold Dec.system
  split
  case h_4 => rfl
  all_goals omega

theorem decodes_addI64Imm (k : BitVec 6) : Decodes (.addI64Imm h k a d) := by
  refine plain_of_encD (by decide) (by omega) fun w hm hh hf ha hd => ?_
  have hk : (64 + k.toNat) % 64 = k.toNat := by omega
  simp [Dec.one, hm, intMisc_of_le (w := w) (by omega), fld_fnF, hh, hf, ha, hd, hk]

theorem decodes_cvt (x y : WideTy) : Decodes (.cvt h x y a d) := by
  have hx := x.code_lt
  have hy := y.code_lt
  refine plain_of_encD (by decide) (by omega) fun w hm hh hf ha hd => ?_
  have h0 : (16 * x.code + 2 * y.code) % 2 = 0 := by omega
  have h1 : (16 * x.code + 2 * y.code) / 2 % 8 = y.code := by omega
  have h2 : (16 * x.code + 2 * y.code) / 16 = x.code := by omega
  simp [Dec.one, Dec.cvtWide, fld_fnF, hm, hh, hf, ha, hd, h0, h1, h2]

theorem cvtNarrow_eq {w k : Nat} {n : NarrowTy} (hh : Dec.hdr w = h) (hf : Dec.fnF w = 64 * k + 4 * n.code)
    (ha : Dec.regA w = a) (hd : Dec.regD w = d) :
    Dec.cvtNarrow w = some ((if k = 0 then Instr.cvtToNarrow else Instr.cvtFromNarrow) h n a d) := by
  have hn := n.code_lt
  have h0 : (64 * k + 4 * n.code) % 4 = 0 := by omega
  have h1 : (64 * k + 4 * n.code) / 4 % 16 = n.code := by omega
  have h2 : (64 * k + 4 * n.code) / 64 = k := by omega
  simp [Dec.cvtNarrow, fld_fnF, hh, hf, ha, hd, h0, h1, h2]

theorem decodes_cvtNarrow (n : NarrowTy) :
    ∀ i ∈ ([.cvtToNarrow h n a d, .cvtFromNarrow h n a d] : List Instr), Decodes i := by
  have hn := n.code_lt
  intro i hi
  fin_cases hi
  · refine plain_of_encD (by decide) (by omega) fun w hm hh hf ha hd => ?_
    simp [Dec.one, hm, cvtNarrow_eq h a d (k := 0) (n := n) hh (by omega) (by simpa using ha) (by simpa using hd)]
  · refine plain_of_encD (by decide) (by omega) fun w hm hh hf ha hd => ?_
    simp [Dec.one, hm, cvtNarrow_eq h a d (k := 1) (n := n) hh (by omega) (by simpa using ha) (by simpa using hd)]

theorem predLogic_eq {w : Nat} {pa pb pd : Pred} (hh : Dec.hdr w = h)
    (ha : Dec.regA w = .ofNat 6 (8 * pb.toNat + pa.toNat)) (hd : Dec.regD w = .ofNat 6 pd.toNat)
    (f : Hdr → Pred → Pred → Pred → Instr) : Dec.predLogic w f = some (f h pa pb pd) := by
  have hpa : (8 * pb.toNat + pa.toNat) % 64 % 8 = pa.toNat := by omega
  have hpb : (8 * pb.toNat + pa.toNat) % 64 / 8 = pb.toNat := by omega
  have hpd : pd.toNat % 64 / 8 = 0 ∧ pd.toNat % 64 % 8 = pd.toNat := by omega
  simp [Dec.predLogic, Dec.keepIf, Dec.predD, fld_regA, fld_regD, hh, ha, hd, hpa, hpb, hpd]

theorem decodes_predLogic (pa pb pd : Pred) :
    ∀ i ∈ ([.pand h pa pb pd, .por h pa pb pd, .pxor h pa pb pd, .pandn h pa pb pd] : List Instr), Decodes i := by
  intro i hi
  fin_cases hi
  all_goals
    refine plain_of_encD (by decide) (by omega) fun w hm hh hf ha hd => ?_
    simp [Dec.one, Dec.predCross, hm, hf, predLogic_eq h hh ha hd]

theorem decodes_predFields : ∀ i ∈ ([.xlElect h p, .xlCount h p d, .joinC h p a] : List Instr), Decodes i := by
  have hp : p.toNat % 64 / 8 = 0 ∧ p.toNat % 64 % 8 = p.toNat := by omega
  intro i hi
  fin_cases hi
  all_goals
    refine plain_of_encD (by decide) (by omega) fun w hm hh hf ha hd => ?_
    simp [Dec.one, Dec.predCross, Dec.joinMisc, Dec.keepIf, Dec.predD, fld_regA, fld_regD, hm, hh, hf, ha, hd, hp]

theorem decodes_shuffle (k : BitVec 3) :
    ∀ i ∈ ([.xlBflyB32 h k a d, .xlUpB32 h k a d, .xlDownB32 h k a d] : List Instr), Decodes i := by
  have hk (n : Nat) : (8 * n + k.toNat) % 8 = k.toNat ∧ (8 * n + k.toNat) / 8 = n := by omega
  intro i hi
  fin_cases hi
  all_goals
    refine plain_of_encD (by decide) (by omega) fun w hm hh hf ha hd => ?_
  · simp [Dec.one, hm, predCross_of_le (w := w) (by omega), fld_fnF, hh, hf, ha, hd, hk 4]
  · simp [Dec.one, hm, predCross_of_le (w := w) (by omega), fld_fnF, hh, hf, ha, hd, hk 5]
  · simp [Dec.one, hm, predCross_of_le (w := w) (by omega), fld_fnF, hh, hf, ha, hd, hk 6]

theorem decodes_xlRed (o : XlOp) : Decodes (.xlRed h o a d) := by
  have ho := o.code_lt
  refine plain_of_encD (by decide) (by omega) fun w hm hh hf ha hd => ?_
  rw [Dec.one, hm]
  refine (predCross_of_le (by omega)).trans ?_
  split
  case h_4 => simp [hh, hf, ha, hd]
  all_goals omega

theorem decodes_prio (n : BitVec 4) : Decodes (.prio h n) := by
  refine plain_of_encD (by decide) (by omega) fun w hm hh hf ha hd => ?_
  have hn : n.toNat % 64 / 16 = 0 ∧ n.toNat % 64 % 16 = n.toNat := by omega
  simp [Dec.one, Dec.controlMisc, Dec.keepIf, fld_regA, hm, hh, hf, ha, hd, hn]

theorem decodes_mxs (two : Bool) : Decodes (.mxs h two a d) := by
  refine plain_of_encD (by decide) ⟨by cases two <;> decide, by omega⟩ fun w hm hh hf ha hd => ?_
  cases two <;> simp [Dec.one, Dec.matrix, hm, hh, hf, ha, hd]

theorem decodes_cwait (c : Cls) (n : BitVec 6) : Decodes (.cwait h c n) := by
  have hc := c.code_lt
  refine plain_of_encD (by decide) (by omega) fun w hm hh hf ha hd => ?_
  have h40 : c.code ≠ 0x40 := by omega
  simp [Dec.one, Dec.waits, hm, hh, hf, ha, hd, h40]

theorem decodes_special_registers (idx : BitVec 4) :
    ∀ i ∈ ([.smov h idx d, .sset h idx a] : List Instr), Decodes i := by
  have h0 : idx.toNat / 16 = 0 ∧ idx.toNat % 16 = idx.toNat := by omega
  have h2 : (32 + idx.toNat) / 16 = 2 ∧ (32 + idx.toNat) % 16 = idx.toNat := by omega
  intro i hi
  fin_cases hi
  all_goals
    refine plain_of_encD (by decide) (by omega) fun w hm hh hf ha hd => ?_
    simp [Dec.one, hm, system_of_lt (w := w) (by omega), Dec.keepIf, fld_fnF, hh, hf, ha, hd, h0, h2]

theorem decodes_barrier (x : BarSpace) :
    ∀ i ∈ ([.barInit h x a d, .barExpect h x a d, .barArrive h x a d, .barWait h x a d] : List Instr), Decodes i := by
  have hs := x.code_lt
  have hk (n : Nat) : (8 * n + x.code) % 8 = x.code ∧ (8 * n + x.code) / 8 = n := by omega
  intro i hi
  fin_cases hi
  all_goals
    refine plain_of_encD (by decide) (by omega) fun w hm hh hf ha hd => ?_
  · have hk := hk 0
    rw [Nat.mul_zero] at hk
    simp only [Dec.one, Dec.barrier, fld_fnF, hm, hh, hf, ha, hd, hk]
    simp
  · simp [Dec.one, Dec.barrier, fld_fnF, hm, hh, hf, ha, hd, hk 1]
  · simp [Dec.one, Dec.barrier, fld_fnF, hm, hh, hf, ha, hd, hk 2]
  · simp [Dec.one, Dec.barrier, fld_fnF, hm, hh, hf, ha, hd, hk 3]

/-! Loads and stores of major 0x2E (R39). -/

theorem decodes_plainAccess (t : LdTy) (u : StTy) (x : Bool) :
    ∀ i ∈ ([.ldPlain h t x a d, .stPlain h u x a d] : List Instr), Decodes i := by
  have ht := t.code_lt
  have hu := u.code_lt
  have hx := x.toNat_le
  have fields (k c : Nat) (hc : c < 8) : (64 * k + 2 * c + x.toNat) / 64 = k ∧ (64 * k + 2 * c + x.toNat) / 16 % 4 = 0 ∧
      (64 * k + 2 * c + x.toNat) / 2 % 8 = c ∧ (64 * k + 2 * c + x.toNat) % 2 = x.toNat := by omega
  intro i hi
  fin_cases hi
  all_goals
    refine plain_of_encD (by decide) (by omega) fun w hm hh hf ha hd => ?_
  · have hf := hf.trans (show _ = 64 * 0 + 2 * t.code + x.toNat by omega)
    simp only [Dec.one, Dec.memMisc, hm, fld_fnF, hf, fields 0 t.code (by omega), hh, ha, hd]
    simp
  · have hf := hf.trans (show _ = 64 * 1 + 2 * u.code + x.toNat by omega)
    simp only [Dec.one, Dec.memMisc, hm, fld_fnF, hf, fields 1 u.code (by omega), hh, ha, hd]
    simp

theorem decodes_windowAccess (x : BitVec 4) : ∀ i ∈ ([.ldSw h x a d, .stSw h x a d] : List Instr), Decodes i := by
  have fields (k : Nat) : (64 * k + 16 + x.toNat) / 64 = k ∧ (64 * k + 16 + x.toNat) / 16 % 4 = 1 ∧
      (64 * k + 16 + x.toNat) % 16 = x.toNat := by omega
  intro i hi
  fin_cases hi
  all_goals
    refine plain_of_encD (by decide) (by omega) fun w hm hh hf ha hd => ?_
  · have hf := hf.trans (show _ = 64 * 0 + 16 + x.toNat by omega)
    simp only [Dec.one, Dec.memMisc, hm, fld_fnF, hf, fields 0, hh, ha, hd]
    simp
  · have hf := hf.trans (show _ = 64 * 1 + 16 + x.toNat by omega)
    simp only [Dec.one, Dec.memMisc, hm, fld_fnF, hf, fields 1, hh, ha, hd]
    simp

theorem decodes_orderedAccess (c : Scope) (x : Bool) :
    ∀ i ∈ ([.ldAcq h c x a d, .stRel h c x a d] : List Instr), Decodes i := by
  have hc := c.code_lt
  have hx := x.toNat_le
  have fields (k : Nat) : (64 * k + 32 + 2 * c.code + x.toNat) / 64 = k ∧
      (64 * k + 32 + 2 * c.code + x.toNat) / 16 % 4 = 2 ∧ (64 * k + 32 + 2 * c.code + x.toNat) / 2 % 8 = c.code ∧
      (64 * k + 32 + 2 * c.code + x.toNat) % 2 = x.toNat := by omega
  intro i hi
  fin_cases hi
  all_goals
    refine plain_of_encD (by decide) (by omega) fun w hm hh hf ha hd => ?_
  · have hf := hf.trans (show _ = 64 * 0 + 32 + 2 * c.code + x.toNat by omega)
    simp only [Dec.one, Dec.memMisc, hm, fld_fnF, hf, fields 0, hh, ha, hd]
    simp
  · have hf := hf.trans (show _ = 64 * 1 + 32 + 2 * c.code + x.toNat by omega)
    simp only [Dec.one, Dec.memMisc, hm, fld_fnF, hf, fields 1, hh, ha, hd]
    simp

theorem decodes_bufferAccess (c : Buf) (x : Bool) :
    ∀ i ∈ ([.ldCb h c x a d, .stCb h c x a d] : List Instr), Decodes i := by
  have hc := c.code_lt
  have hx := x.toNat_le
  have fields (k : Nat) : (64 * k + 48 + 4 * c.code + x.toNat) / 64 = k ∧
      (64 * k + 48 + 4 * c.code + x.toNat) / 16 % 4 = 3 ∧ (64 * k + 48 + 4 * c.code + x.toNat) / 4 % 4 = c.code ∧
      (64 * k + 48 + 4 * c.code + x.toNat) / 2 % 2 = 0 ∧
      (64 * k + 48 + 4 * c.code + x.toNat) % 2 = x.toNat := by omega
  intro i hi
  fin_cases hi
  all_goals
    refine plain_of_encD (by decide) (by omega) fun w hm hh hf ha hd => ?_
  · have hf := hf.trans (show _ = 64 * 0 + 48 + 4 * c.code + x.toNat by omega)
    simp only [Dec.one, Dec.memMisc, hm, fld_fnF, hf, fields 0, hh, ha, hd]
    simp
  · have hf := hf.trans (show _ = 64 * 1 + 48 + 4 * c.code + x.toNat by omega)
    simp only [Dec.one, Dec.memMisc, hm, fld_fnF, hf, fields 1, hh, ha, hd]
    simp

/-! Operands other than registers (R28, R33, R35, R43). -/

/-- Even registers a and d leave each a bit for the shift. -/
theorem lea_eq {w k : Nat} {x : BitVec 2} (ha : even a = true) (hd : even d = true) (hh : Dec.hdr w = h)
    (hw : w / 2 ^ 13 = 2 ^ 18 * k + 4096 * b.toNat + 64 * (a.toNat / 2 * 2 + x.toNat / 2) + (d.toNat / 2 * 2 + x.toNat % 2))
    (hk : k < 2) : Dec.lea w = some ((if k = 0 then Instr.leaN32 else Instr.leaI32) h b a d x) := by
  obtain ⟨m, hm, ha⟩ : ∃ m < 32, 2 * m = a.toNat := ⟨a.toNat / 2, by omega, by have := beq_iff_eq.mp ha; omega⟩
  obtain ⟨n, hn, hd⟩ : ∃ n < 32, 2 * n = d.toNat := ⟨d.toNat / 2, by omega, by have := beq_iff_eq.mp hd; omega⟩
  obtain ⟨y, z, hy, hz, hx⟩ : ∃ y z, y < 2 ∧ z < 2 ∧ 2 * y + z = x.toNat := ⟨x.toNat / 2, x.toNat % 2, by omega⟩
  have hp : w / 2 ^ 13 = 262144 * k + 4096 * b.toNat + 128 * m + 64 * y + 2 * n + z := by omega
  have fields : (262144 * k + 4096 * b.toNat + 128 * m + 64 * y + 2 * n + z) / 2 ^ 18 % 2 ^ 1 = k ∧
      (262144 * k + 4096 * b.toNat + 128 * m + 64 * y + 2 * n + z) / 2 ^ 12 % 2 ^ 6 = b.toNat ∧
      (262144 * k + 4096 * b.toNat + 128 * m + 64 * y + 2 * n + z) / 2 ^ 7 % 2 ^ 5 = m ∧
      (262144 * k + 4096 * b.toNat + 128 * m + 64 * y + 2 * n + z) / 2 ^ 1 % 2 ^ 5 = n ∧
      (262144 * k + 4096 * b.toNat + 128 * m + 64 * y + 2 * n + z) / 2 ^ 6 % 2 ^ 1 = y ∧
      (262144 * k + 4096 * b.toNat + 128 * m + 64 * y + 2 * n + z) / 2 ^ 0 % 2 ^ 1 = z := by
    clear hw hp hx ha hd
    omega
  obtain ⟨hkf, hbf, hmf, hnf, hyf, hzf⟩ := fields
  rw [Dec.lea, hh, field_of_operands (n := 18) hp hkf, regB_of_operands b hp hbf, field_of_operands (n := 7) hp hmf,
    field_of_operands (n := 1) hp hnf, field_of_operands (n := 6) hp hyf, field_of_operands (n := 0) hp hzf,
    ofNat_of_eq_toNat ha, ofNat_of_eq_toNat hd, ofNat_of_eq_toNat hx]

theorem decodes_lea (x : BitVec 2) (ha : even a = true) (hd : even d = true) :
    ∀ i ∈ ([.leaN32 h b a d x, .leaI32 h b a d x] : List Instr), Decodes i := by
  intro i hi
  fin_cases hi
  all_goals
    refine plain_of_encW (by decide) (by omega) fun w hm hh hw => ?_
  · simp [Dec.one, hm, lea_eq h b a d ha hd hh hw (by decide)]
  · simp [Dec.one, hm, lea_eq h b a d ha hd hh hw (by decide)]

/-- The operation of an immediate form. -/
theorem immOp_of_operands {w c : Nat} {x : BitVec 9} (hc : c < 16) (hw : w / 2 ^ 13 = 1024 * x.toNat + 64 * c + d.toNat) :
    fld w 19 4 = c := field_of_operands (n := 6) hw (by omega)

theorem decodes_laneImm (x : BitVec 9) :
    ∀ i ∈ ([.addI32Imm h x d, .subI32Imm h x d, .mulLoI32Imm h x d, .andB32Imm h x d, .orB32Imm h x d, .xorB32Imm h x d,
      .shlB32Imm h x d, .shrN32Imm h x d, .shrI32Imm h x d, .minI32Imm h x d, .maxI32Imm h x d, .faddF32Imm h x d,
      .fmulF32Imm h x d, .fmaxF32Imm h x d, .haddH2Imm h x d] : List Instr), Decodes i := by
  intro i hi
  fin_cases hi
  all_goals
    refine plain_of_encW (by decide) (by omega) fun w hm hh hw => ?_
    have hk : fld w 23 9 = x.toNat := field_of_operands (n := 10) hw (by omega)
    have hd := regD_of_operands d hw (by omega)
    simp [Dec.one, Dec.laneImm, hm, hh, hk, hd, immOp_of_operands d (by decide) hw]

theorem decodes_movImm (x : BitVec 13) : Decodes (.movImm h x d) := by
  refine plain_of_encW (by decide) (by omega) fun w hm hh hw => ?_
  have hk : fld w 19 13 = x.toNat := field_of_operands (n := 6) hw (by omega)
  simp [Dec.one, hm, hh, hk, regD_of_operands d hw (by omega)]

theorem compare_eq {w k : Nat} {c : Cc} (hh : Dec.hdr w = h)
    (hw : w / 2 ^ 13 = 2 ^ 18 * k + 4096 * b.toNat + 64 * a.toNat + 8 * c.code + p.toNat) (hk : k < 2)
    (f0 f1 : Hdr → Cc → Pred → Reg → Reg → Instr) :
    Dec.compare w f0 f1 = some ((if k = 0 then f0 else f1) h c p b a) := by
  have hc := c.code_lt
  have hkf : fld w 31 1 = k := field_of_operands (n := 18) hw (by omega)
  have hcf : fld w 16 3 = c.code := field_of_operands (n := 3) hw (by omega)
  have hpf : fld w 13 3 = p.toNat := field_of_operands (n := 0) hw (by omega)
  simp [Dec.compare, Dec.predD, hh, hkf, hcf, hpf, regB_of_operands b hw (by omega), regA_of_operands a hw (by omega)]

theorem decodes_compare (c : Cc) :
    ∀ i ∈ ([.cmpI32 h c p b a, .cmpN32 h c p b a, .cmpF32 h c p b a, .cmpF64 h c p b a] : List Instr), Decodes i := by
  have hc := c.code_lt
  intro i hi
  fin_cases hi
  all_goals
    refine plain_of_encW (by decide) (by omega) fun w hm hh hw => ?_
    simp [Dec.one, hm, compare_eq h b a p hh hw (by decide)]

theorem compareImm_eq {w k : Nat} {c : Cc} {x : BitVec 2} {y : BitVec 7} (hh : Dec.hdr w = h)
    (hw : w / 2 ^ 13 = 2 ^ 18 * (y.toNat % 2) + 4096 * (y.toNat / 2) + 64 * a.toNat + 8 * c.code + 4 * k + x.toNat)
    (hk : k < 2) :
    Dec.compareImm w = some ((if k = 0 then Instr.cmpI32Imm else Instr.cmpN32Imm) h c x y a) := by
  have hc := c.code_lt
  obtain ⟨u, v, hu, hv, hy⟩ : ∃ u v, u < 64 ∧ v < 2 ∧ 2 * u + v = y.toNat := ⟨y.toNat / 2, y.toNat % 2, by omega⟩
  have hp : w / 2 ^ 13 = 262144 * v + 4096 * u + 64 * a.toNat + 8 * c.code + 4 * k + x.toNat := by omega
  have hy7 := ofNat_of_eq_toNat hy
  clear hw hy
  have hkf : fld w 15 1 = k := field_of_operands (n := 2) hp (by omega)
  have hcf : fld w 16 3 = c.code := field_of_operands (n := 3) hp (by omega)
  have hxf : fld w 13 2 = x.toNat := field_of_operands (n := 0) hp (by omega)
  have huf : fld w 25 6 = u := field_of_operands (n := 12) hp (by omega)
  have hvf : fld w 31 1 = v := field_of_operands (n := 18) hp (by omega)
  simp [Dec.compareImm, hh, hkf, hcf, hxf, huf, hvf, hy7, regA_of_operands a hp (by omega)]

theorem decodes_compareImm (c : Cc) (x : BitVec 2) (y : BitVec 7) :
    ∀ i ∈ ([.cmpI32Imm h c x y a, .cmpN32Imm h c x y a] : List Instr), Decodes i := by
  have hc := c.code_lt
  intro i hi
  fin_cases hi
  all_goals
    refine plain_of_encW (by decide) (by omega) fun w hm hh hw => ?_
    simp [Dec.one, hm, compareImm_eq h a hh hw (by decide)]

theorem decodes_label (x : BitVec 19) : ∀ i ∈ ([.bra h x, .call h x, .tretLabel h x] : List Instr), Decodes i := by
  intro i hi
  fin_cases hi
  all_goals
    refine plain_of_encW (by decide) (by omega) fun w hm hh hw => ?_
    have hx : fld w 13 19 = x.toNat := field_of_operands (n := 0) hw (by omega)
    simp [Dec.one, hm, hh, hx]

theorem decodes_loop (n : BitVec 2) (x : BitVec 8) : Decodes (.loop h n a x) := by
  obtain ⟨u, v, hu, hv, hx⟩ : ∃ u v, u < 128 ∧ v < 2 ∧ u + 128 * v = x.toNat := ⟨x.toNat % 128, x.toNat / 128, by omega⟩
  refine plain_of_encW (by decide) (by omega) fun w hm hh hw => ?_
  have hp : w / 2 ^ 13 = 4096 * u + 64 * a.toNat + 4 * v + n.toNat := by omega
  have hx8 := ofNat_of_eq_toNat hx
  clear hw hx
  have h0 : fld w 16 3 = 0 := field_of_operands (n := 3) hp (by omega)
  have hn : fld w 13 2 = n.toNat := field_of_operands (n := 0) hp (by omega)
  have huf : fld w 25 7 = u := field_of_operands (n := 12) hp (by omega)
  have hvf : fld w 15 1 = v := field_of_operands (n := 2) hp (by omega)
  simp [Dec.one, Dec.keepIf, hm, hh, h0, hn, huf, hvf, hx8, regA_of_operands a hp (by omega)]

theorem decodes_forkC (x : BitVec 11) (c : BitVec 2) : Decodes (.forkC h x c d) := by
  refine plain_of_encW (by decide) (by omega) fun w hm hh hw => ?_
  have hx : fld w 21 11 = x.toNat := field_of_operands (n := 8) hw (by omega)
  have hc : fld w 19 2 = c.toNat := field_of_operands (n := 6) hw (by omega)
  simp [Dec.one, hm, hh, hx, hc, regD_of_operands d hw (by omega)]

theorem decodes_pointNap (n : BitVec 13) : ∀ i ∈ ([.safept h n, .nap h n] : List Instr), Decodes i := by
  intro i hi
  fin_cases hi
  · refine plain_of_encW (by decide) (by omega) fun w hm hh hw => ?_
    have hn : fld w 19 13 = n.toNat := field_of_operands (n := 6) hw (by omega)
    have hk : fld w 13 6 = 0 := field_of_operands (n := 0) hw (by omega)
    simp [Dec.one, Dec.pointNap, hm, hh, hn, hk]
  · refine plain_of_encW (by decide) (by omega) fun w hm hh hw => ?_
    have hn : fld w 19 13 = n.toNat := field_of_operands (n := 6) hw (by omega)
    have hk : fld w 13 6 = 1 := field_of_operands (n := 0) hw (by omega)
    simp [Dec.one, Dec.pointNap, hm, hh, hn, hk]

end Majors

end Sys2Proof.Machine

namespace Sys2Proof.Machine

open Sys2Proof.Dec (fld)

/-! Groups of more words than one, and of half a word (R29 to R31). -/

section Groups
variable (h : Hdr) (b a d : Reg)

theorem operandWord_fields {w : Nat} (hw : w < 2 ^ 32) (bs : List Byte) :
    ∃ b0 b1 b2 b3, Enc.word w ++ bs = b0 :: b1 :: b2 :: b3 :: bs ∧ Dec.leNat [b0, b1, b2, b3] = w :=
  ⟨_, _, _, _, rfl, leNat_word hw⟩

/-- A two-word instruction is read back where its major's table has it for the two words. -/
theorem plain_of_twoWords {m p v : Nat} {i : Instr} (hp : p < 2 ^ 19) (hv : v < 2 ^ 32) (hodd : v % 2 = 1)
    (htable : ∀ w, Dec.hdr w = h → w / 2 ^ 13 = p → (m = 0x26 ∧ Dec.fork w v = some i) ∨
      (m = 0x2F ∧ Dec.copy w v = some i) ∨ (m = 0x30 ∧ Dec.atomic w v = some i)) (bs : List Byte) :
    Dec.plain (Enc.word (Enc.encW m h p) ++ Enc.word v ++ bs) = .ok i := by
  have hm : m = 0x26 ∨ m = 0x2F ∨ m = 0x30 :=
    (htable (Enc.encW 0 h p) (hdr_encW h) (operands_encW h (by decide))).imp And.left (Or.imp And.left And.left)
  have hm64 : m < 64 := by omega
  have hmajor : fld (Enc.encW m h p) 7 6 = m := major_encW h hm64
  obtain ⟨b0, b1, b2, b3, hbs, hval⟩ := operandWord_fields hv bs
  rw [List.append_assoc, plain_word (encW_lt h hm64 hp) (encW_odd h) (by omega), hbs, Dec.long, hmajor]
  rcases htable _ (hdr_encW h) (operands_encW h hm64) with ⟨rfl, ht⟩ | ⟨rfl, ht⟩ | ⟨rfl, ht⟩
  all_goals simp [Dec.twoWord, hval, hodd, ht, Dec.orUnassigned]

theorem redFields {grain : BitVec 20} {ty : RedTy} {op : RedOp} {v : Nat} (hv : v = 1 + 2 * op.code + 8 * ty.code + 4096 * grain.toNat) :
    v < 2 ^ 32 ∧ v % 2 = 1 ∧ fld v 6 6 = 0 ∧ fld v 3 3 = ty.code ∧ fld v 1 2 = op.code ∧ fld v 12 20 = grain.toNat := by
  have ht := ty.code_lt
  have ho := op.code_lt
  unfold fld
  omega

theorem decodes_forkR (lim idx acc : Reg) (grain : BitVec 20) (ty : RedTy) (op : RedOp) :
    Decodes (.forkR h lim idx acc grain ty op) := by
  obtain ⟨hv, hodd, h0, ht, ho, hg⟩ := redFields (grain := grain) (ty := ty) (op := op) rfl
  refine plain_of_twoWords h (by omega) hv hodd fun w hh hw => ?_
  have hk : fld w 31 1 = 0 := field_of_operands (n := 18) hw (by omega)
  refine .inl ⟨rfl, ?_⟩
  simp only [Dec.fork, h0, ht, ho, hg, hh, hk, regB_of_operands lim hw (by omega), regA_of_operands idx hw (by omega),
    regD_of_operands acc hw (by omega)]
  simp

theorem decodes_forkRL (idx acc : Reg) (n : BitVec 2) (grain : BitVec 20) (ty : RedTy) (op : RedOp) :
    Decodes (.forkRL h idx n acc grain ty op) := by
  obtain ⟨hv, hodd, h0, ht, ho, hg⟩ := redFields (grain := grain) (ty := ty) (op := op) rfl
  refine plain_of_twoWords h (by omega) hv hodd fun w hh hw => ?_
  have hk : fld w 31 1 = 1 := field_of_operands (n := 18) hw (by omega)
  have hr : fld w 21 4 = 0 := field_of_operands (n := 8) hw (by omega)
  have hn : fld w 19 2 = n.toNat := field_of_operands (n := 6) hw (by omega)
  refine .inl ⟨rfl, ?_⟩
  simp only [Dec.fork, h0, ht, ho, hg, hh, hk, hr, hn, regB_of_operands idx hw (by omega), regD_of_operands acc hw (by omega)]
  simp [Dec.keepIf]

theorem decodes_atom (sp : Bool) (ty : AtomTy) (sc : Scope) (sem : Sem) (op : AtomOp) :
    Decodes (.atom h sp b a d ty sc sem op) := by
  have ht := ty.code_lt
  have hc := sc.code_lt
  have hs := sem.code_lt
  have ho := op.code_lt
  have hb := sp.toNat_le
  refine plain_of_twoWords h (by omega) (by omega) (by omega) fun w hh hw => ?_
  have hk : fld w 31 1 = sp.toNat := field_of_operands (n := 18) hw (by omega)
  have fields : ∀ v, v = 1 + 2 * op.code + 32 * sem.code + 128 * sc.code + 1024 * ty.code →
      fld v 13 19 = 0 ∧ fld v 10 3 = ty.code ∧ fld v 7 3 = sc.code ∧ fld v 5 2 = sem.code ∧ fld v 1 4 = op.code := by
    clear hw hk
    unfold fld
    omega
  refine .inr (.inr ⟨rfl, ?_⟩)
  simp only [Dec.atomic, fields _ rfl, hh, hk, regB_of_operands b hw (by omega), regA_of_operands a hw (by omega),
    regD_of_operands d hw (by omega)]
  simp

theorem decodes_cpy (dev : Bool) (sw dw : BitVec 4) (glob : Bool) (src dst : Space) (q : BitVec 3) (present : Bool) (bar : Reg) :
    Decodes (.cpy h b a d dev sw dw glob src dst q present bar) := by
  have hs := src.code_lt
  have ht := dst.code_lt
  have h1 := dev.toNat_le
  have h2 := glob.toNat_le
  have h3 := present.toNat_le
  have fields : ∀ v, v = 1 + 8 * bar.toNat + 512 * present.toNat + 1024 * q.toNat + 8192 * dst.code + 65536 * src.code +
        2 ^ 19 * glob.toNat + 2 ^ 20 * dw.toNat + 2 ^ 24 * sw.toNat + 2 ^ 28 * dev.toNat →
      v < 2 ^ 32 ∧ v % 2 = 1 ∧ fld v 29 3 = 0 ∧ fld v 1 2 = 0 ∧ fld v 16 3 = src.code ∧ fld v 13 3 = dst.code ∧
      fld v 28 1 = dev.toNat ∧ fld v 24 4 = sw.toNat ∧ fld v 20 4 = dw.toNat ∧ fld v 19 1 = glob.toNat ∧
      fld v 10 3 = q.toNat ∧ fld v 9 1 = present.toNat ∧ fld v 3 6 = bar.toNat := by
    unfold fld
    omega
  obtain ⟨hv, hodd, hf⟩ := fields _ rfl
  refine plain_of_twoWords h (by omega) hv hodd fun w hh hw => ?_
  have hk : fld w 31 1 = 0 := field_of_operands (n := 18) hw (by omega)
  refine .inr (.inl ⟨rfl, ?_⟩)
  simp only [Dec.copy, hf, hh, hk, regB_of_operands b hw (by omega), regA_of_operands a hw (by omega),
    regD_of_operands d hw (by omega)]
  simp

/-- The case words of a `bsel` are read back one by one. -/
theorem caseWords_bytes (cs : List Case) (bs : List Byte) :
    Dec.caseWords cs.length (cs.flatMap Case.bytes ++ bs) = .ok cs := by
  induction cs with
  | nil => rfl
  | cons c cs ih =>
    have hw : 1 + 8 * c.g.toNat + 1024 * c.off.toNat < 2 ^ 32 := by omega
    obtain ⟨b0, b1, b2, b3, hbs, hval⟩ := operandWord_fields hw (cs.flatMap Case.bytes ++ bs)
    have fields : ∀ v, v = 1 + 8 * c.g.toNat + 1024 * c.off.toNat →
        v % 2 = 1 ∧ fld v 1 2 = 0 ∧ fld v 7 3 = 0 ∧ fld v 10 22 = c.off.toNat ∧ fld v 3 4 = c.g.toNat := by
      unfold fld
      omega
    obtain ⟨hodd, h1, h7, hoff, hg⟩ := fields _ rfl
    rw [List.flatMap_cons, List.append_assoc, Case.bytes, hbs, List.length_cons, Dec.caseWords]
    simp only [hval, hodd, h1, h7, ih, hoff, hg]
    simp

theorem decodes_bsel (st : BitVec 2) (cs : List Case) (h1 : 1 ≤ cs.length) (h4 : cs.length ≤ 4) : Decodes (.bsel st cs) := by
  intro bs
  have fields : ∀ w, w = 1 + 2 * st.toNat + 128 * 0x22 + 8192 * (cs.length - 1) →
      w < 2 ^ 32 ∧ w % 2 = 1 ∧ fld w 7 6 = 0x22 ∧ fld w 15 17 = 0 ∧ fld w 3 4 = 0 ∧ fld w 13 2 + 1 = cs.length ∧
      fld w 1 2 = st.toNat := by
    unfold fld
    omega
  obtain ⟨hw, hodd, hm, h15, h3, hn, hst⟩ := fields _ rfl
  rw [encode, List.append_assoc, plain_word hw hodd (by rw [hm]; decide)]
  unfold Dec.long
  simp [Dec.twoWord, hm, h15, h3, hn, caseWords_bytes, hst]

/-- A group whose first byte is even is a half word (R30). -/
theorem plain_of_half {w : Nat} {i : Instr} (hw : w < 2 ^ 16) (heven : w % 2 = 0) (hshort : Dec.short w = some i)
    (bs : List Byte) : Dec.plain (Enc.half w ++ bs) = .ok i := by
  have hb : (BitVec.ofNat 8 w).toNat % 2 = 0 := by
    rw [BitVec.toNat_ofNat]
    omega
  have h2 : Dec.leNat (Enc.half w) = w := (leNat_leBytes 2 w).trans (Nat.mod_eq_of_lt hw)
  change Dec.leNat [.ofNat 8 w, .ofNat 8 (w / 256)] = w at h2
  change Dec.plain (.ofNat 8 w :: .ofNat 8 (w / 256) :: bs) = _
  unfold Dec.plain
  simp only [hb, if_true, h2, hshort, Dec.orUnassigned]

theorem shortFields {w c : Nat} {x y : BitVec 5} {im : Bool} (hc : c < 16)
    (hw : w = 2 * c + 32 * y.toNat + 1024 * x.toNat + 32768 * im.toNat) :
    w < 2 ^ 16 ∧ w % 2 = 0 ∧ fld w 15 1 = im.toNat ∧ fld w 10 5 = x.toNat ∧ fld w 5 5 = y.toNat ∧ fld w 1 4 = c := by
  have hi := im.toNat_le
  unfold fld
  omega

theorem decodes_short (im : Bool) (x y : BitVec 5) :
    ∀ i ∈ ([.mov16 im x y, .addI3216 im x y, .subI3216 im x y, .mulLoI3216 im x y, .andB3216 im x y, .orB3216 im x y,
      .xorB3216 im x y, .shlB3216 im x y, .shrN3216 im x y, .shrI3216 im x y, .minI3216 im x y, .maxI3216 im x y,
      .faddF3216 im x y, .fmulF3216 im x y, .fmaxF3216 im x y, .haddH216 im x y] : List Instr), Decodes i := by
  have read {c : Nat} {i : Instr} (hc : c < 16)
      (hi : ∀ w, fld w 15 1 = im.toNat → fld w 10 5 = x.toNat → fld w 5 5 = y.toNat → fld w 1 4 = c → Dec.short w = some i)
      (bs : List Byte) :
      Dec.plain (Enc.half (2 * c + 32 * y.toNat + 1024 * x.toNat + 32768 * im.toNat) ++ bs) = .ok i := by
    obtain ⟨hw, heven, him, hx, hy, hk⟩ := shortFields (x := x) (y := y) (im := im) hc rfl
    exact plain_of_half hw heven (hi _ him hx hy hk) bs
  intro i hi
  fin_cases hi
  all_goals exact read (by decide) fun w him hx hy hk => by simp [Dec.short, him, hx, hy, hk]

end Groups

/-! Every instruction. -/

theorem decodes_of_wfPlain {i : Instr} (hwf : i.wfPlain = true) : Decodes i := by
  cases i with
  | addI32 h b a d | subI32 h b a d | mulLoI32 h b a d | madLoI32 h b a d | mulHiI32 h b a d | mulHiN32 h b a d
  | andB32 h b a d | orB32 h b a d | xorB32 h b a d | andnB32 h b a d | shlB32 h b a d | shrN32 h b a d | shrI32 h b a d
  | rotB32 h b a d | minI32 h b a d | maxI32 h b a d | minN32 h b a d | maxN32 h b a d | addI64 h b a d | subI64 h b a d
  | mulWideI32 h b a d | mulWideN32 h b a d | faddF32 h b a d | fsubF32 h b a d | fmulF32 h b a d | ffmaF32 h b a d
  | fminF32 h b a d | fmaxF32 h b a d | faddF64 h b a d | fsubF64 h b a d | fmulF64 h b a d | ffmaF64 h b a d
  | haddH2 h b a d | hmulH2 h b a d | hfmaH2 h b a d | hfmaBh2 h b a d | spkI8 h b a d | spkF8 h b a d
  | spkBf16 h b a d =>
    exact decodes_formatA h b a d _ (by simp only [List.mem_cons, true_or, or_true])
  | leaN32 h b a d x | leaI32 h b a d x =>
    simp only [Instr.wfPlain, Bool.and_eq_true] at hwf
    exact decodes_lea h b a d x hwf.2.1 hwf.2.2 _ (by simp only [List.mem_cons, true_or, or_true])
  | addI32Imm h x d | subI32Imm h x d | mulLoI32Imm h x d | andB32Imm h x d | orB32Imm h x d | xorB32Imm h x d
  | shlB32Imm h x d | shrN32Imm h x d | shrI32Imm h x d | minI32Imm h x d | maxI32Imm h x d | faddF32Imm h x d
  | fmulF32Imm h x d | fmaxF32Imm h x d | haddH2Imm h x d =>
    exact decodes_laneImm h d x _ (by simp only [List.mem_cons, true_or, or_true])
  | mov h a d | movB64 h a d | notB32 h a d | negI32 h a d | absI32 h a d | popcB32 h a d | clzB32 h a d | brevB32 h a d =>
    exact decodes_intMisc h a d _ (by simp only [List.mem_cons, true_or, or_true])
  | fabsF32 h a d | fnegF32 h a d | fabsF64 h a d | fnegF64 h a d | haddBh2 h a d | hmulBh2 h a d | fminF64 h a d
  | fmaxF64 h a d | hminH2 h a d | hmaxH2 h a d | hminBh2 h a d | hmaxBh2 h a d | frintF32 h a d =>
    exact decodes_floatMisc h a d _ (by simp only [List.mem_cons, true_or, or_true])
  | rcpF32 h a d | rsqrtF32 h a d | exp2F32 h a d | log2F32 h a d | sinF32 h a d | cosF32 h a d =>
    exact decodes_special h a d _ (by simp only [List.mem_cons, true_or, or_true])
  | pget h d => exact decodes_predCross h 0 d _ (by simp only [List.mem_cons, true_or])
  | pset h a => exact decodes_predCross h a 0 _ (by simp only [List.mem_cons, true_or, or_true])
  | xlBcastB32 h a d => exact decodes_predCross h a d _ (by simp only [List.mem_cons, true_or, or_true])
  | ret h | exit h | yield h | loose h =>
    exact decodes_controlMisc h 0 _ (by simp only [List.mem_cons, true_or, or_true])
  | prioR h a | callR h a | braR h a | rally h a | rallyH h a =>
    exact decodes_controlMisc h a _ (by simp only [List.mem_cons, true_or, or_true])
  | joinR h | doneR h => exact decodes_joinMisc h 0 0 _ (by simp only [List.mem_cons, true_or, or_true])
  | done h a => exact decodes_joinMisc h a 0 _ (by simp only [List.mem_cons, true_or, or_true])
  | spawn h d a => exact decodes_joinMisc h a d _ (by simp only [List.mem_cons, true_or, or_true])
  | ldB32Global h x a d | ldB64Global h x a d | stB32Global h x a d | stB64Global h x a d | ldB32Sp h x a d
  | stB32Sp h x a d => exact decodes_offset h a d x _ (by simp only [List.mem_cons, true_or, or_true])
  | plzOpen h a d | plzEnter h a d | plzLeave h a d | plzVote h a d =>
    exact decodes_plaza h a d _ (by simp only [List.mem_cons, true_or, or_true])
  | plzAbort h a => exact decodes_plaza h a 0 _ (by simp only [List.mem_cons, true_or, or_true])
  | grpEnter h a d => exact decodes_sets h a d _ (by simp only [List.mem_cons, true_or, or_true])
  | setNew h a | setEnrol h a | setQuit h a | grpLeave h a =>
    exact decodes_sets h a 0 _ (by simp only [List.mem_cons, true_or, or_true])
  | tokPass h | tret h => exact decodes_units h 0 _ (by simp only [List.mem_cons, true_or, or_true])
  | mxa h a | asel h a | agat h a | ksumRebuild h a | trap h a | launch h a =>
    exact decodes_units h a _ (by simp only [List.mem_cons, true_or, or_true])
  | cvtToNarrow h n a d | cvtFromNarrow h n a d =>
    exact decodes_cvtNarrow h a d n _ (by simp only [List.mem_cons, true_or, or_true])
  | pand h pa pb pd | por h pa pb pd | pxor h pa pb pd | pandn h pa pb pd =>
    exact decodes_predLogic h pa pb pd _ (by simp only [List.mem_cons, true_or, or_true])
  | xlElect h p => exact decodes_predFields h 0 0 p _ (by simp only [List.mem_cons, true_or])
  | xlCount h p d => exact decodes_predFields h 0 d p _ (by simp only [List.mem_cons, true_or, or_true])
  | joinC h p a => exact decodes_predFields h a 0 p _ (by simp only [List.mem_cons, true_or, or_true])
  | xlBflyB32 h k a d | xlUpB32 h k a d | xlDownB32 h k a d =>
    exact decodes_shuffle h a d k _ (by simp only [List.mem_cons, true_or, or_true])
  | smov h x d => exact decodes_special_registers h 0 d x _ (by simp only [List.mem_cons, true_or])
  | sset h x a => exact decodes_special_registers h a 0 x _ (by simp only [List.mem_cons, true_or, or_true])
  | barInit h x a d | barExpect h x a d | barArrive h x a d | barWait h x a d =>
    exact decodes_barrier h a d x _ (by simp only [List.mem_cons, true_or, or_true])
  | ldPlain h t x a d => exact decodes_plainAccess h a d t .b8 x _ (by simp only [List.mem_cons, true_or])
  | stPlain h t x a d => exact decodes_plainAccess h a d .n8 t x _ (by simp only [List.mem_cons, true_or, or_true])
  | ldSw h x a d | stSw h x a d => exact decodes_windowAccess h a d x _ (by simp only [List.mem_cons, true_or, or_true])
  | ldAcq h c x a d | stRel h c x a d =>
    exact decodes_orderedAccess h a d c x _ (by simp only [List.mem_cons, true_or, or_true])
  | ldCb h c x a d | stCb h c x a d =>
    exact decodes_bufferAccess h a d c x _ (by simp only [List.mem_cons, true_or, or_true])
  | cmpI32 h c p b a | cmpN32 h c p b a | cmpF32 h c p b a | cmpF64 h c p b a =>
    exact decodes_compare h b a p c _ (by simp only [List.mem_cons, true_or, or_true])
  | cmpI32Imm h c x y a | cmpN32Imm h c x y a =>
    exact decodes_compareImm h a c x y _ (by simp only [List.mem_cons, true_or, or_true])
  | bra h x | call h x | tretLabel h x => exact decodes_label h x _ (by simp only [List.mem_cons, true_or, or_true])
  | safept h n | nap h n => exact decodes_pointNap h n _ (by simp only [List.mem_cons, true_or, or_true])
  | mov16 m x y | addI3216 m x y | subI3216 m x y | mulLoI3216 m x y | andB3216 m x y | orB3216 m x y | xorB3216 m x y
  | shlB3216 m x y | shrN3216 m x y | shrI3216 m x y | minI3216 m x y | maxI3216 m x y | faddF3216 m x y
  | fmulF3216 m x y | fmaxF3216 m x y | haddH216 m x y =>
    exact decodes_short m x y _ (by simp only [List.mem_cons, true_or, or_true])
  | addI64Imm h k a d => exact decodes_addI64Imm h a d k
  | cvt h x y a d => exact decodes_cvt h a d x y
  | xlRed h o a d => exact decodes_xlRed h a d o
  | prio h n => exact decodes_prio h n
  | mxs h two a d => exact decodes_mxs h a d two
  | cwait h c n => exact decodes_cwait h c n
  | movImm h x d => exact decodes_movImm h d x
  | loop h n a x => exact decodes_loop h a n x
  | forkC h x c d => exact decodes_forkC h d x c
  | forkR h lim idx acc grain ty op => exact decodes_forkR h lim idx acc grain ty op
  | forkRL h idx n acc grain ty op => exact decodes_forkRL h idx acc n grain ty op
  | cpy h b a d dev sw dw glob src dst q present bar => exact decodes_cpy h b a d dev sw dw glob src dst q present bar
  | atom h sp b a d ty sc sem op => exact decodes_atom h b a d sp ty sc sem op
  | bsel st cs =>
    simp only [Instr.wfPlain, Bool.and_eq_true, decide_eq_true_eq] at hwf
    exact decodes_bsel st cs hwf.1.1 hwf.1.2
  | _ => cases hwf

/-- What is read as a group without `ext` is the whole group: its first word is no `ext`. -/
theorem raw_of_plain {bs : List Byte} {i : Instr} (hp : Dec.plain bs = .ok i) : Dec.raw bs = .ok i := by
  match bs, hp with
  | b0 :: b1 :: b2 :: b3 :: rest, hp =>
    by_cases hext : Dec.leNat [b0, b1, b2, b3] % 2 = 1 ∧ fld (Dec.leNat [b0, b1, b2, b3]) 7 6 = 0
    · -- as a plain group this word is rejected
      have hb0 : b0.toNat % 2 ≠ 0 := by
        have hodd := hext.1
        simp only [Dec.leNat] at hodd
        omega
      simp [Dec.plain, hb0, hext.2] at hp
    · simp only [Dec.raw, if_neg hext]
      exact hp
  | [], hp | [_], hp | [_, _], hp | [_, _, _], hp => exact hp

theorem wfPlain_of_wfExt {v : BitVec 19} {i : Instr} (hwf : i.wfExt v = true) : i.wfPlain = true := by
  unfold Instr.wfExt at hwf
  split at hwf
  · simp only [Bool.and_eq_true, decide_eq_true_eq] at hwf
    simp only [Instr.wfPlain, Bool.and_eq_true, decide_eq_true_eq]
    exact ⟨hwf.1, by omega⟩
  · exact (Bool.and_eq_true _ _ ▸ hwf).1

/-- An `ext` is read, and then the group that it widens. -/
theorem raw_ext (v : BitVec 19) {i : Instr} (hi : Decodes i) (bs : List Byte) :
    Dec.raw (encode (.ext v i) ++ bs) = .ok (.ext v i) := by
  have fields : ∀ w, w = 1 + 8192 * v.toNat →
      w < 2 ^ 32 ∧ w % 2 = 1 ∧ fld w 7 6 = 0 ∧ fld w 1 6 = 0 ∧ fld w 13 19 = v.toNat := by
    unfold fld
    omega
  obtain ⟨hw, hodd, h7, h1, h13⟩ := fields _ rfl
  obtain ⟨b0, b1, b2, b3, hbs, hval⟩ := operandWord_fields hw (encode i ++ bs)
  rw [encode, List.append_assoc, hbs, Dec.raw]
  simp [hval, hodd, h7, h1, h13, hi bs]

theorem raw_encode {i : Instr} (hwf : i.wf = true) (bs : List Byte) : Dec.raw (encode i ++ bs) = .ok i := by
  by_cases hext : ∃ v j, i = .ext v j
  · obtain ⟨v, j, rfl⟩ := hext
    exact raw_ext v (decodes_of_wfPlain (wfPlain_of_wfExt hwf)) bs
  · have hplain : i.wfPlain = true := by
      unfold Instr.wf at hwf
      split at hwf
      · exact absurd ⟨_, _, rfl⟩ hext
      · exact hwf
    exact raw_of_plain (decodes_of_wfPlain hplain bs)

theorem encode_length (i : Instr) : (encode i).length = i.size := by
  induction i with
  | ext v j ih => rw [encode, List.length_append, ih]; rfl
  | bsel st cs =>
    have hcases : (cs.flatMap Case.bytes).length = 4 * cs.length := by
      induction cs with
      | nil => rfl
      | cons c cs ih =>
        have hc : c.bytes.length = 4 := rfl
        rw [List.flatMap_cons, List.length_append, ih, hc, List.length_cons]
        omega
    rw [encode, List.length_append, hcases]
    rfl
  | _ => rfl

/-- Settles O59: a well-formed instruction is read back before the checks of its fields, and passes them. -/
theorem encodeDecodeRoundTrip : Obligations.EncodeDecodeRoundTrip := by
  intro i rest hwf
  refine ⟨?_, encode_length i⟩
  simp only [decode, raw_encode hwf rest, hwf, if_true]


end Sys2Proof.Machine

/-! O1, O2, O4, O5, O7, O8, O9, O11 (R30, R31, R47, R71 to R84, R205): the lane instructions. Each is a case of `lane` or of
`laneSticky`, whose answers where an instruction issues are `lane_next` and `laneSticky_next`. -/

namespace Sys2Proof.Machine

/-- Settles O1: each operation is a lane instruction with its own registers and sources. -/
theorem integerResults : Obligations.IntegerResults := by
  refine ⟨fun s f h b a d => ⟨?_, ?_, lane_next⟩, fun s f h b a d sh => ⟨?_, ?_, ?_⟩, fun s f h a d => ⟨?_, lane_next⟩⟩
  all_goals
    intro op hop
    fin_cases hop <;> exact lane_next

/-- Settles O2: an `ext` widens the immediate of the same lane instruction. -/
theorem immediateResults : Obligations.ImmediateResults := by
  intro s f h v imm k k6 a d
  cases v
  all_goals
    refine ⟨fun op hop => ?_, lane_next, lane_next⟩
    fin_cases hop <;> exact lane_next

/-- Settles O4: a 16-bit form is a lane instruction with no guard and no stall. -/
theorem shortIntegerResults : Obligations.ShortIntegerResults := by
  intro s f im a d
  refine ⟨fun op hop => ?_, lane_next (h := noGuard)⟩
  fin_cases hop <;> exact lane_next (h := noGuard)

/-- Settles O11. -/
theorem compressResults : Obligations.CompressResults := by
  intro s f h b a d
  refine ⟨fun op hop => ?_, lane_next⟩
  fin_cases hop <;> exact lane_next

/-- Settles O9: the compares and the operations on predicates are lane instructions. -/
theorem predicateResults : Obligations.PredicateResults := by
  intro s f h v cc p p2 imm pa pb b a d
  refine ⟨fun op hop => ?_, lane_next, fun op hop => ?_, fun op hop => ?_, lane_next, lane_next⟩
  · fin_cases hop <;> exact lane_next
  · cases v <;> fin_cases hop <;> exact lane_next
  · fin_cases hop <;> exact lane_next

/-- Settles O5: the `ext` gives the rounding, and each operation is a lane instruction that may raise OVF. -/
theorem floatResults : Obligations.FloatResults := by
  refine ⟨fun s f h v b a d => ?_, fun s f h v b a d => ?_, fun s f h v a d => ?_⟩
  · cases v
    all_goals
      refine ⟨fun op hop => ?_, fun op hop => ?_, laneSticky_next, laneSticky_next, fun op hop => ?_⟩
      · fin_cases hop <;> exact laneSticky_next
      · fin_cases hop <;> exact laneSticky_next
      · fin_cases hop <;> exact lane_next
  · cases v
    all_goals
      refine ⟨fun op hop => ?_, fun op hop => ?_, fun op hop => ?_⟩
      all_goals fin_cases hop <;> exact laneSticky_next
  · cases v
    all_goals
      refine ⟨fun op hop => ?_, fun op hop => ?_⟩
      all_goals fin_cases hop <;> exact lane_next

/-- Settles O7: the immediate is the float nearest to the integer, or the register named. -/
theorem floatImmediateResults : Obligations.FloatImmediateResults := by
  intro s f h v imm d im a5 d5
  refine ⟨fun op hop => ?_, ?_, fun op hop => ?_, laneSticky_next (h := noGuard)⟩
  · cases v <;> fin_cases hop <;> exact laneSticky_next
  · cases v <;> exact laneSticky_next
  · fin_cases hop <;> exact laneSticky_next (h := noGuard)

/-- Settles O8: a conversion may raise CONV or OVF, and a special function OVF. -/
theorem conversionResults : Obligations.ConversionResults := by
  intro s f h v dst src n a d
  refine ⟨?_, laneSticky_next, lane_next, fun op hop => ?_⟩
  · cases v <;> exact laneSticky_next
  · fin_cases hop <;> exact laneSticky_next

end Sys2Proof.Machine

/-! O3, O6, O10, O12, O38, O58: operations on words, codes and lists by themselves. -/

namespace Sys2Proof.Machine

/-! Bit counts (R72). -/

theorem popcount_eq_length (x : Word) (n : Nat) : popcount x n = ((List.range n).filter x.getLsbD).length := by
  induction n with
  | zero => rfl
  | succ n ih =>
    rw [popcount, ih, List.range_succ, List.filter_append, List.length_append]
    cases hx : x.getLsbD n <;> simp [hx, Nat.add_comm]

theorem popcount_le (x : Word) (n : Nat) : popcount x n ≤ n := by
  rw [popcount_eq_length]
  exact (List.length_filter_le _ _).trans_eq List.length_range

theorem leadingZeros_le (x : Word) (n : Nat) : leadingZeros x n ≤ n := by
  induction n with
  | zero => exact Nat.le_refl 0
  | succ n ih =>
    rw [leadingZeros]
    split <;> omega

/-- Among the n low bits there are at most m leading zeros exactly where one of the top m + 1 of them is 1. -/
theorem leadingZeros_le_iff (x : Word) {n m : Nat} (hm : m < n) :
    leadingZeros x n ≤ m ↔ ∃ j, n - 1 - m ≤ j ∧ j < n ∧ x.getLsbD j = true := by
  induction n generalizing m with
  | zero => omega
  | succ n ih =>
    rw [leadingZeros]
    cases htop : x.getLsbD n with
    | true => exact ⟨fun _ => ⟨n, by omega, by omega, htop⟩, fun _ => by simp⟩
    | false =>
      have hne {j : Nat} (hj : x.getLsbD j = true) : j ≠ n := fun h => by simp [h, htop] at hj
      cases m with
      | zero =>
        simp only [Bool.false_eq_true, if_false]
        exact ⟨fun h => by omega, fun ⟨j, h1, h2, hj⟩ => absurd (by omega) (hne hj)⟩
      | succ m =>
        simp only [Bool.false_eq_true, if_false, Nat.add_le_add_iff_right, ih (show m < n by omega)]
        exact ⟨fun ⟨j, h1, h2, hj⟩ => ⟨j, by omega, by omega, hj⟩,
          fun ⟨j, h1, h2, hj⟩ => ⟨j, by omega, by have := hne hj; omega, hj⟩⟩

theorem leadingZeros_zero (n : Nat) : leadingZeros 0#32 n = n := by
  induction n with
  | zero => rfl
  | succ n ih => simp [leadingZeros, ih]

/-- The n low bits reversed stand at the top of 32. -/
theorem reverseBits_eq (x : Word) {n : Nat} (hn : n ≤ 32) :
    ∃ q, reverseBits x n = 2 ^ (32 - n) * q ∧ ∀ j, q.testBit j = (decide (j < n) && x.getLsbD (n - 1 - j)) := by
  induction n with
  | zero => exact ⟨0, rfl, fun j => by simp⟩
  | succ n ih =>
    obtain ⟨q, hq, hbit⟩ := ih (by omega)
    refine ⟨2 * q + (x.getLsbD n).toNat, ?_, fun j => ?_⟩
    · rw [reverseBits, hq, show 32 - n = (31 - n) + 1 by omega, show 32 - (n + 1) = 31 - n by omega, Nat.pow_succ]
      ring
    · cases j with
      | zero => cases hx : x.getLsbD n <;> simp [hx, Nat.testBit_zero, Nat.add_mod]
      | succ j =>
        have hhalf : (2 * q + (x.getLsbD n).toNat) / 2 = q := by
          have := Bool.toNat_lt (x.getLsbD n)
          omega
        rw [Nat.testBit_add_one, hhalf, hbit, show n + 1 - 1 - (j + 1) = n - 1 - j by omega]
        simp

theorem opBrev_getLsbD (x : Word) {n : Nat} (hn : n < 32) : (opBrev x).getLsbD n = x.getLsbD (31 - n) := by
  obtain ⟨q, hq, hbit⟩ := reverseBits_eq x (Nat.le_refl 32)
  rw [opBrev, hq, BitVec.getLsbD_ofNat, Nat.sub_self, Nat.pow_zero, Nat.one_mul, hbit]
  simp [hn]

theorem opBrev_opBrev (x : Word) : opBrev (opBrev x) = x := by
  refine BitVec.eq_of_getLsbD_eq fun n hn => ?_
  rw [opBrev_getLsbD _ hn, opBrev_getLsbD _ (by omega), Nat.sub_sub_self (by omega)]

/-- Settles O3. -/
theorem bitCountsAreExact : Obligations.BitCountsAreExact := by
  intro x
  have hpop := popcount_le x 32
  have hclz := leadingZeros_le x 32
  refine ⟨?_, fun n hn => ?_, fun hx => ?_, fun n hn => opBrev_getLsbD x hn, opBrev_opBrev x⟩
  · rw [opPopc, BitVec.toNat_ofNat, Nat.mod_eq_of_lt (by omega), popcount_eq_length]
  · rw [opClz, BitVec.toNat_ofNat, Nat.mod_eq_of_lt (by omega)]
    exact leadingZeros_le_iff x hn
  · rw [hx, opClz, show (0 : Word) = 0#32 from rfl, leadingZeros_zero]
    rfl

/-! The sign of a float code (R78). -/

/-- InF keeps the sign of a code and its width. -/
theorem Fmt.inF_sign (fm : Fmt) (flush : Bool) {x : Nat} (hx : x < 2 ^ (fm.width + 1)) :
    fm.inF flush x / 2 ^ fm.width = x / 2 ^ fm.width ∧ fm.inF flush x < 2 ^ (fm.width + 1) := by
  have hpos : 0 < 2 ^ fm.width := Nat.two_pow_pos _
  rw [Fmt.inF]
  split
  · exact ⟨Nat.mul_div_cancel _ hpos, (Nat.div_mul_le_self _ _).trans_lt hx⟩
  · exact ⟨rfl, hx⟩

/-- A code with its sign bit turned: the magnitude stands and the sign does not. -/
theorem turn_sign {w y : Nat} (hw : 0 < w) (hy : y < 2 * w) :
    (y + w) % (2 * w) % w = y % w ∧ (y + w) % (2 * w) / w ≠ y / w := by
  rcases Nat.lt_or_ge y w with h | h
  · rw [Nat.mod_eq_of_lt (show y + w < 2 * w by omega), Nat.add_mod_right, Nat.add_div_right _ hw]
    exact ⟨rfl, by omega⟩
  · obtain ⟨z, rfl⟩ := Nat.exists_eq_add_of_le' h
    rw [show z + w + w = z + 2 * w by omega, Nat.add_mod_right, Nat.mod_eq_of_lt (show z < 2 * w by omega),
      Nat.add_mod_right, Nat.add_div_right _ hw]
    exact ⟨rfl, by omega⟩

/-- Settles O6: InF keeps the sign, so that clearing it and turning it act on the operand's own sign. -/
theorem floatSignOperations : Obligations.FloatSignOperations := by
  intro f x fm _ hx
  refine ⟨fun hnan => by simp [opFabs, opFneg, hnan], fun hnum => ?_⟩
  obtain ⟨hsign, hlt⟩ := fm.inF_sign (f.fz fm) hx
  have hpos : 0 < 2 ^ fm.width := Nat.two_pow_pos _
  have htwo : 2 ^ (fm.width + 1) = 2 * 2 ^ fm.width := by rw [Nat.pow_succ, Nat.mul_comm]
  rw [htwo] at hlt
  obtain ⟨hmag, hturn⟩ := turn_sign hpos hlt
  simp only [opFabs, opFneg, hnum, htwo, Bool.false_eq_true, if_false]
  exact ⟨Nat.mod_lt _ hpos, Nat.mod_lt _ (by omega), hmag, hsign ▸ hturn⟩

/-! Compares (R82). -/

theorem icmp_signed (x y : Word) :
    (icmp true .lt x y = true ↔ x.toInt < y.toInt) ∧ (icmp true .le x y = true ↔ x.toInt ≤ y.toInt) ∧
    (icmp true .gt x y = true ↔ y.toInt < x.toInt) ∧ (icmp true .ge x y = true ↔ y.toInt ≤ x.toInt) := by
  have hlt : x.slt y = true ↔ x.toInt < y.toInt := BitVec.slt_iff_toInt_lt
  have heq : x = y ↔ x.toInt = y.toInt := BitVec.toInt_inj.symm
  simp only [icmp, if_true, beq_iff_eq, bne_iff_ne, Bool.or_eq_true, Bool.and_eq_true, Bool.not_eq_true',
    Bool.eq_false_iff, ne_eq, hlt, heq]
  refine ⟨trivial, ?_, ?_, ?_⟩ <;> omega

theorem icmp_natural (x y : Word) :
    (icmp false .lt x y = true ↔ x.toNat < y.toNat) ∧ (icmp false .le x y = true ↔ x.toNat ≤ y.toNat) ∧
    (icmp false .gt x y = true ↔ y.toNat < x.toNat) ∧ (icmp false .ge x y = true ↔ y.toNat ≤ x.toNat) := by
  have hlt : x.ult y = true ↔ x.toNat < y.toNat := BitVec.ult_iff_lt
  have heq : x = y ↔ x.toNat = y.toNat := BitVec.toNat_inj.symm
  simp only [icmp, Bool.false_eq_true, if_false, beq_iff_eq, bne_iff_ne, Bool.or_eq_true, Bool.and_eq_true,
    Bool.not_eq_true', Bool.eq_false_iff, ne_eq, hlt, heq]
  refine ⟨trivial, ?_, ?_, ?_⟩ <;> omega

/-- Settles O10. -/
theorem integerCompareRelations : Obligations.IntegerCompareRelations := by
  intro x y
  obtain ⟨slt, sle, sgt, sge⟩ := icmp_signed x y
  obtain ⟨ult, ule, ugt, uge⟩ := icmp_natural x y
  exact ⟨beq_iff_eq, bne_iff_ne, slt, sle, sgt, sge, beq_iff_eq, bne_iff_ne, ult, ule, ugt, uge, fun _ => bne_iff_ne⟩

/-! Compress (R205). -/

/-- Element j comes before element i: it is larger, or as large at a lower place. -/
def spkBefore (mag : List Nat) (i j : Nat) : Bool :=
  decide (mag.getD i 0 < mag.getD j 0) || (decide (mag.getD i 0 = mag.getD j 0) && decide (j < i))

theorem spkBefore_iff {mag : List Nat} {i j : Nat} : spkBefore mag i j = true ↔
    mag.getD i 0 < mag.getD j 0 ∨ (mag.getD i 0 = mag.getD j 0 ∧ j < i) := by
  simp [spkBefore]

theorem spkRank_eq_card (mag : List Nat) (i : Nat) :
    spkRank mag i = ((Finset.range 8).filter fun j => spkBefore mag i j = true).card := by
  change _ = ((List.range 8).filter fun j => decide (spkBefore mag i j = true)).length
  simp only [Bool.decide_eq_true]
  rfl

/-- An element that comes before another has the lower rank. -/
theorem spkRank_lt_of_before {mag : List Nat} {i j : Nat} (hj : j < 8) (h : spkBefore mag i j = true) :
    spkRank mag j < spkRank mag i := by
  rw [spkBefore_iff] at h
  rw [spkRank_eq_card, spkRank_eq_card]
  refine Finset.card_lt_card (Finset.ssubset_iff_subset_ne.mpr ⟨fun k hk => ?_, fun heq => ?_⟩)
  · simp only [Finset.mem_filter, Finset.mem_range, spkBefore_iff] at hk ⊢
    omega
  · have hmem : j ∈ (Finset.range 8).filter fun k => spkBefore mag j k = true := by
      rw [heq]
      exact Finset.mem_filter.mpr ⟨Finset.mem_range.mpr hj, spkBefore_iff.mpr h⟩
    simp [spkBefore_iff] at hmem

theorem spkRank_injOn (mag : List Nat) : Set.InjOn (spkRank mag) (Finset.range 8) := by
  intro i hi j hj heq
  simp only [Finset.coe_range, Set.mem_Iio] at hi hj
  by_contra hne
  have hone : spkBefore mag i j = true ∨ spkBefore mag j i = true := by
    simp only [spkBefore_iff]
    omega
  rcases hone with h | h
  · exact absurd (spkRank_lt_of_before hj h) (by omega)
  · exact absurd (spkRank_lt_of_before hi h) (by omega)

/-- No element comes before itself, so that a rank is below 8. -/
theorem spkRank_lt {mag : List Nat} {i : Nat} (hi : i < 8) : spkRank mag i < 8 := by
  rw [spkRank_eq_card]
  calc _ < (Finset.range 8).card := Finset.card_lt_card (Finset.ssubset_iff_of_subset (Finset.filter_subset _ _) |>.mpr
        ⟨i, Finset.mem_range.mpr hi, by simp [spkBefore_iff]⟩)
    _ = 8 := Finset.card_range 8

/-- The ranks of the eight are 0 to 7. -/
theorem spkRank_image (mag : List Nat) : (Finset.range 8).image (spkRank mag) = Finset.range 8 := by
  refine Finset.eq_of_subset_of_card_le (fun r hr => ?_) (by rw [Finset.card_image_of_injOn (spkRank_injOn mag)])
  obtain ⟨i, hi, rfl⟩ := Finset.mem_image.mp hr
  exact Finset.mem_range.mpr (spkRank_lt (Finset.mem_range.mp hi))

theorem spkKept_length (mag : List Nat) : (spkKept mag).length = 4 := by
  have hcard : (spkKept mag).length = ((Finset.range 8).filter fun i => spkRank mag i < 4).card := rfl
  rw [hcard, ← Finset.card_image_of_injOn ((spkRank_injOn mag).mono (Finset.coe_subset.mpr (Finset.filter_subset _ _))),
    ← Finset.filter_image (f := spkRank mag) (p := fun r => r < 4), spkRank_image]
  rfl

theorem mem_spkKept {mag : List Nat} {i : Nat} : i ∈ spkKept mag ↔ i < 8 ∧ spkRank mag i < 4 := by
  simp [spkKept]

/-- Settles O12: the ranks of the eight are 0 to 7, and a larger element has the lower rank. -/
theorem compressKeepsTheFourLargest : Obligations.CompressKeepsTheFourLargest := by
  intro mag _
  refine ⟨spkKept_length mag, List.Pairwise.filter _ List.pairwise_lt_range, fun i j hi hj hdrop => ?_⟩
  rw [mem_spkKept] at hi hdrop
  by_contra hlt
  have := spkRank_lt_of_before (mag := mag) (i := i) hj (spkBefore_iff.mpr (Or.inl (Nat.not_le.mp hlt)))
  omega

/-- Settles O58. -/
theorem decodesTheSpecsWords : Obligations.DecodesTheSpecsWords := by
  unfold Obligations.DecodesTheSpecsWords
  decide

end Sys2Proof.Machine

/-! O37, O38 (R124, R127, R141): bytes written and read, and the values of atomic operations. -/

namespace Sys2Proof.Machine

theorem memBytes_memWrite {m : Memory} (a : Nat) (bs : List Byte) (h : m.wf = true) :
    memBytes (memWrite m a bs) a bs.length = bs := by
  induction bs generalizing m a with
  | nil => rfl
  | cons b bs ih =>
    have hm := memSet_wf a b h
    rw [List.length_cons, memBytes, memWrite, ih (a + 1) hm, memGet_memWrite_other (a + 1) bs hm (by omega),
      memGet_memSet a b h]

@[simp] theorem leBytes_length (n v : Nat) : (Dec.leBytes n v).length = n := by
  induction n generalizing v with
  | zero => rfl
  | succ n ih => rw [Dec.leBytes, List.length_cons, ih]

/-- Settles O37. -/
theorem writeThenRead : Obligations.WriteThenRead := by
  intro m a n v b bs h
  refine ⟨memWrite_wf a bs h, memBytes_memWrite a bs h, memGet_memWrite_other a bs h, ?_⟩
  have hread := memBytes_memWrite a (Dec.leBytes n v) h
  rw [leBytes_length] at hread
  rw [hread, leNat_leBytes]

/-! A word among the low half of a pair's bits. -/

theorem toNat_setWidth_word (y : Word) : (y.setWidth 64).toNat % 2 ^ 32 = y.toNat := by
  rw [BitVec.toNat_setWidth]
  omega

theorem setWidth_setWidth_word (y : Word) : (y.setWidth 64).setWidth 32 = y := by
  rw [BitVec.setWidth_setWidth_of_le _ (by decide), BitVec.setWidth_eq]

/-- Settles O38: the 64-bit values first, then those of the low words. -/
theorem atomicValues : Obligations.AtomicValues := by
  intro x b d y c e
  have hx : x.toNat % 2 ^ 64 = x.toNat := Nat.mod_eq_of_lt x.isLt
  have hb : b.toNat % 2 ^ 64 = b.toNat := Nat.mod_eq_of_lt b.isLt
  have hd : d.toNat % 2 ^ 64 = d.toNat := Nat.mod_eq_of_lt d.isLt
  have hle64 : ∀ v w : DWord, v.toInt ≤ w.toInt ↔ v.sle w = true := fun _ _ => BitVec.sle_iff_toInt_le.symm
  have hle32 : ∀ v w : Word, v.toInt ≤ w.toInt ↔ v.sle w = true := fun _ _ => BitVec.sle_iff_toInt_le.symm
  have hlow := toNat_setWidth_word
  have hself := setWidth_setWidth_word
  have hand : ((y.setWidth 64) &&& (c.setWidth 64)).toNat % 2 ^ 32 = (y &&& c).toNat := by
    rw [← BitVec.setWidth_and, hlow]
  have hor : ((y.setWidth 64) ||| (c.setWidth 64)).toNat % 2 ^ 32 = (y ||| c).toNat := by
    rw [← BitVec.setWidth_or, hlow]
  have hxor : ((y.setWidth 64) ^^^ (c.setWidth 64)).toNat % 2 ^ 32 = (y ^^^ c).toNat := by
    rw [← BitVec.setWidth_xor, hlow]
  have hadd : ((y.setWidth 64) + (c.setWidth 64)).toNat % 2 ^ 32 = (y + c).toNat := by
    simp only [BitVec.toNat_add, BitVec.toNat_setWidth]
    omega
  refine ⟨?_, ?_, ?_, ?_, ?_, ?_, ?_, ?_, ?_, ?_, ?_, ?_, ?_, ?_, ?_, ?_, ?_, ?_, ?_, ?_, ?_, ?_, ?_⟩
  all_goals simp only [List.forall_mem_cons, List.not_mem_nil, IsEmpty.forall_iff, implies_true, atomNew, AtomTy.wide,
    reduceCtorEq, if_true, if_false, Bool.false_eq_true, hx, hb, hd, hle64, hle32, hlow, hself, hand, hor, hxor, hadd,
    BitVec.toNat_inj, Nat.mod_eq_of_lt (BitVec.isLt _), and_self]

end Sys2Proof.Machine

/-! What a fibre reads once its writes have become visible (R46 to R50), and what retiring leaves as it was (R24, R101, R102).
O13, O14, O16. -/

namespace Sys2Proof.Machine

/-! Predicates. -/

/-- A predicate reads the raw write of itself, unless it is p0. -/
theorem Fibre.setPredRaw_pred_of_ne (f : Fibre) {p q : Pred} (h : q ≠ p) (v : Bool) :
    (f.setPredRaw p v).pred q = f.pred q := by
  have hn : p.toNat ≠ q.toNat := fun e => h (BitVec.eq_of_toNat_eq e.symm)
  have hq : q.toNat < 8 := q.isLt
  have hbit : (1#8 <<< p.toNat).getLsbD q.toNat = false := by
    rw [BitVec.getLsbD_shiftLeft, BitVec.getLsbD_one]
    simp only [Bool.and_eq_false_iff, Bool.not_eq_eq_eq_not, Bool.not_false, decide_eq_true_eq, decide_eq_false_iff_not]
    omega
  unfold Fibre.setPredRaw Fibre.pred
  split
  · rfl
  · cases v
    · simp only [Bool.false_eq_true, if_false, BitVec.getLsbD_and, BitVec.getLsbD_not, hbit]
      simp [hq]
    · simp only [if_true, BitVec.getLsbD_or, hbit, Bool.or_false]

theorem Fibre.setRegRaw_pred (f : Fibre) (r : Reg) (v : Word) (q : Pred) : (f.setRegRaw r v).pred q = f.pred q := by
  unfold Fibre.setRegRaw
  split <;> rfl

/-- A value put at another code leaves a predicate as it was. -/
theorem Fibre.put_pred_of_ne (f : Fibre) {code : Nat} {q : Pred} (h : code ≠ pc8 q) (v : Word) :
    (f.put code v).pred q = f.pred q := by
  unfold Fibre.put
  split
  · exact Fibre.setRegRaw_pred f _ v q
  · split
    · refine Fibre.setPredRaw_pred_of_ne f (fun e => h ?_) _
      rw [e, pc8, BitVec.toNat_ofNat, Nat.mod_eq_of_lt (by omega)]
      omega
    · rfl

/-! A place that no write is pending to and in which no value has landed. -/

/-- What the writes of a list leave of a place that none of them is to. -/
theorem Fibre.applyAll_of_ne {α : Type} {get : Fibre → α} {code : Nat}
    (hput : ∀ (f : Fibre) (c : Nat) (v : Word), c ≠ code → get (f.put c v) = get f) (f : Fibre) {l : List Pend}
    (h : ∀ p ∈ l, p.code ≠ code) : get (f.applyAll l) = get f := by
  unfold Fibre.applyAll
  induction l generalizing f with
  | nil => rfl
  | cons p l ih =>
    obtain ⟨hp, hl⟩ := List.forall_mem_cons.mp h
    rw [List.foldl_cons, ih _ hl, Fibre.apply]
    split
    · rfl
    · exact hput f _ _ hp

/-- What the values that have landed leave of a place in which none has. -/
theorem Fibre.landNows_of_ne {α : Type} {get : Fibre → α} {code : Nat}
    (hput : ∀ (f : Fibre) (c : Nat) (v : Word), c ≠ code → get (f.put c v) = get f)
    (hpend : ∀ (f : Fibre) (pd : List Pend), get { f with pend := pd } = get f) (f : Fibre) {l : List (Nat × Nat × Word)}
    (h : ∀ p ∈ l, p.2.1 ≠ code) : get (l.foldl Fibre.landNow f) = get f := by
  induction l generalizing f with
  | nil => rfl
  | cons p l ih =>
    obtain ⟨hp, hl⟩ := List.forall_mem_cons.mp h
    rw [List.foldl_cons, ih _ hl, Fibre.landNow, hpend, hput f _ _ hp]

theorem passBy_code (code : Nat) (older : Nat → Bool) (p : Pend) : (Pend.passBy code older p).code = p.code := by
  unfold Pend.passBy
  split <;> rfl

/-- Landing values change no code that a write is pending to. -/
theorem Fibre.landNows_codes (f : Fibre) (l : List (Nat × Nat × Word)) :
    (l.foldl Fibre.landNow f).pend.map (·.code) = f.pend.map (·.code) := by
  induction l generalizing f with
  | nil => rfl
  | cons p l ih =>
    rw [List.foldl_cons, ih, Fibre.landNow, List.map_map]
    exact List.map_congr_left fun q _ => passBy_code _ _ q

theorem Fibre.early_eq_false {f : Fibre} {code : Nat} : f.early code = false ↔ ∀ p ∈ f.pend, p.code ≠ code := by
  simp [Fibre.early, List.any_eq_false]

/-- Everything made visible, a place reads as before where no write is pending to it and no value has landed there. -/
theorem Fibre.flush_of_ne {α : Type} {get : Fibre → α} {code : Nat}
    (hput : ∀ (f : Fibre) (c : Nat) (v : Word), c ≠ code → get (f.put c v) = get f)
    (hpend : ∀ (f : Fibre) (pd : List Pend), get { f with pend := pd } = get f)
    (hland : ∀ (f : Fibre) (ld : List (Nat × Nat × Word)), get { f with landed := ld } = get f) {f : Fibre}
    (he : f.early code = false) (hl : ∀ p ∈ f.landed, p.2.1 ≠ code) : get f.flush = get f := by
  rw [Fibre.early_eq_false] at he
  have hcodes : ∀ p ∈ f.settle.pend, p.code ≠ code := fun p hp => by
    have hmem : p.code ∈ f.pend.map (·.code) := by
      rw [← Fibre.landNows_codes f f.landed]
      exact List.mem_map_of_mem hp
    obtain ⟨q, hq, heq⟩ := List.mem_map.mp hmem
    exact heq ▸ he q hq
  rw [Fibre.flush, hpend, Fibre.applyAll_of_ne hput _ hcodes, Fibre.settle, hland, Fibre.landNows_of_ne hput hpend f hl]

theorem Fibre.advance_of_ne {α : Type} {get : Fibre → α} {code : Nat}
    (hput : ∀ (f : Fibre) (c : Nat) (v : Word), c ≠ code → get (f.put c v) = get f)
    (hpend : ∀ (f : Fibre) (pd : List Pend), get { f with pend := pd } = get f) {f : Fibre}
    (he : f.early code = false) (n : Nat) : get (f.advance n) = get f := by
  rw [Fibre.early_eq_false] at he
  rw [Fibre.advance, hpend, Fibre.applyAll_of_ne hput]
  intro p hp
  obtain ⟨q, hq, rfl⟩ := List.mem_map.mp (List.mem_of_mem_filter hp)
  exact he q hq

/-! Retiring. -/

theorem Frame.mapRange_length (l : List Frame) (u : Range → Range) : (l.map (Frame.mapRange u)).length = l.length :=
  List.length_map _

/-- What a change of loops and of the ranges bound to them leaves of a fibre. -/
def Fibre.LoopsOnly (f g : Fibre) : Prop :=
  ∃ a b c fr rt, g = { f with lc0 := a, lc1 := b, lc2 := c, frames := fr, root := rt } ∧ fr.length = f.frames.length

theorem Fibre.LoopsOnly.refl (f : Fibre) : f.LoopsOnly f := ⟨_, _, _, _, _, rfl, rfl⟩
theorem Fibre.LoopsOnly.trans {f g h : Fibre} (hg : f.LoopsOnly g) (hh : g.LoopsOnly h) : f.LoopsOnly h := by
  obtain ⟨a, b, c, fr, rt, rfl, hl⟩ := hg
  obtain ⟨a', b', c', fr', rt', rfl, hl'⟩ := hh
  exact ⟨a', b', c', fr', rt', rfl, hl'.trans hl⟩

theorem Fibre.setLoop_loopsOnly (f : Fibre) (n : Nat) (l : Loop) : f.LoopsOnly (f.setLoop n l) := by
  unfold Fibre.setLoop
  split <;> exact ⟨_, _, _, _, _, rfl, rfl⟩

theorem Fibre.mapRanges_loopsOnly (f : Fibre) (u : Range → Range) : f.LoopsOnly (f.mapRanges u) :=
  ⟨_, _, _, _, _, rfl, Frame.mapRange_length _ _⟩

theorem Fibre.endLoop_loopsOnly (f : Fibre) (n : Nat) : f.LoopsOnly (f.endLoop n) :=
  (f.setLoop_loopsOnly n _).trans (Fibre.mapRanges_loopsOnly _ _)

theorem Fibre.leaveLoops_loopsOnly (f : Fibre) (src dst : Nat) : f.LoopsOnly (f.leaveLoops src dst) := by
  unfold Fibre.leaveLoops
  generalize [0, 1, 2] = l
  induction l generalizing f with
  | nil => exact .refl f
  | cons n l ih =>
    rw [List.foldl_cons]
    refine Fibre.LoopsOnly.trans ?_ (ih _)
    split
    · exact f.endLoop_loopsOnly n
    · exact .refl f

/-- The end of bodies changes loops and the PC alone. -/
theorem Fibre.loopBack_loopsOnly (f : Fibre) (l : List Nat) : ∃ g a, f.LoopsOnly g ∧ f.loopBack l = { g with pc := a } := by
  induction l generalizing f with
  | nil => exact ⟨f, f.pc, .refl f, rfl⟩
  | cons n l ih =>
    rw [Fibre.loopBack]
    have hg := f.setLoop_loopsOnly n { f.loop n with count := (f.loop n).count - 1 }
    split
    · exact ⟨_, _, hg.trans (Fibre.mapRanges_loopsOnly _ _), rfl⟩
    · obtain ⟨g, a, h, hb⟩ := ih (Fibre.endLoop (f.setLoop n { f.loop n with count := (f.loop n).count - 1 }) n)
      exact ⟨g, a, (hg.trans (Fibre.endLoop_loopsOnly _ n)).trans h, hb⟩

/-- The writes of a fibre as an instruction that retires makes them visible (R46, R50, R52). -/
def Fibre.shown (f : Fibre) (r : Retire) : Fibre :=
  if f.craco || f.xlat || r.stall = 3 || r.flush || f.waited then f.flush else f.advance (1 + r.stall + r.nap)

/-- What each retirement notes of its fibre, beside its loops and its PC. -/
def Fibre.noted (f : Fibre) (det : Bool) (size : Nat) (r : Retire) : Fibre :=
  { f.shown r with
    wait := .none, waited := false, inst := none, fresh := false, live := r.live
    hbc := if det && !f.trapMode then f.hbc + 1 else f.hbc
    dist := if f.trapMode then f.dist else if r.safe then 0 else if f.waited then 1 else f.dist + 1
    rejoin := if f.trapMode then f.rejoin else none
    fuse := if r.taken.isNone && (f.loopsAt (f.pc + size)).isEmpty then f.fuse.filter fun p => decide (f.pc < p.2) else none }

theorem Fibre.retire_of_taken (f : Fibre) (det : Bool) (size : Nat) {r : Retire} {t : Nat} (h : r.taken = some t) :
    f.retire det size r =
      { (if r.leaves then (f.noted det size r).leaveLoops f.pc t else f.noted det size r) with pc := t } := by
  obtain ⟨stall, taken, leaves, safe, live, nap, flush⟩ := r
  cases h
  rfl

theorem Fibre.retire_of_next (f : Fibre) (det : Bool) (size : Nat) {r : Retire} (h : r.taken = none) :
    f.retire det size r =
      { f.noted det size r with pc := f.pc + size }.loopBack (f.loopsAt (f.pc + size)) := by
  obtain ⟨stall, taken, leaves, safe, live, nap, flush⟩ := r
  cases h
  rfl

theorem Fibre.retire_noted (f : Fibre) (det : Bool) (size : Nat) (r : Retire) :
    ∃ g a, (f.noted det size r).LoopsOnly g ∧ f.retire det size r = { g with pc := a } := by
  cases ht : r.taken with
  | none =>
    obtain ⟨g, a, ⟨x, y, z, fr, rt, rfl, hlen⟩, hb⟩ :=
      Fibre.loopBack_loopsOnly { f.noted det size r with pc := f.pc + size } (f.loopsAt (f.pc + size))
    exact ⟨{ f.noted det size r with lc0 := x, lc1 := y, lc2 := z, frames := fr, root := rt }, a,
      ⟨_, _, _, _, _, rfl, hlen⟩, (f.retire_of_next det size ht).trans hb⟩
  | some t =>
    refine ⟨_, t, ?_, f.retire_of_taken det size ht⟩
    split
    · exact Fibre.leaveLoops_loopsOnly _ _ _
    · exact .refl _

theorem Fibre.shown_eq (f : Fibre) (r : Retire) :
    ∃ rs ps pd ld, f.shown r = { f with regs := rs, preds := ps, pend := pd, landed := ld } := by
  unfold Fibre.shown
  split
  · obtain ⟨rs, ps, h⟩ := f.flush_eq
    exact ⟨rs, ps, [], [], h⟩
  · obtain ⟨rs, ps, pd, h⟩ := f.advance_eq (1 + r.stall + r.nap)
    exact ⟨rs, ps, pd, f.landed, h⟩

/-- Everything that a retirement changes in its fibre. -/
theorem Fibre.retire_eq (f : Fibre) (det : Bool) (size : Nat) (r : Retire) :
    ∃ a b c fr rt p, fr.length = f.frames.length ∧ f.retire det size r =
      { f.noted det size r with lc0 := a, lc1 := b, lc2 := c, frames := fr, root := rt, pc := p } := by
  obtain ⟨g, p, ⟨a, b, c, fr, rt, rfl, hl⟩, h⟩ := f.retire_noted det size r
  obtain ⟨_, _, _, _, hs⟩ := f.shown_eq r
  refine ⟨a, b, c, fr, rt, p, ?_, h⟩
  rw [hl, Fibre.noted, hs]

@[simp] theorem Fibre.retire_reg (f : Fibre) (det : Bool) (size : Nat) (r : Retire) (c : Reg) :
    (f.retire det size r).reg c = (f.shown r).reg c := by
  obtain ⟨_, _, _, _, _, _, -, h⟩ := f.retire_eq det size r
  rw [h]
  rfl

@[simp] theorem Fibre.retire_pred (f : Fibre) (det : Bool) (size : Nat) (r : Retire) (p : Pred) :
    (f.retire det size r).pred p = (f.shown r).pred p := by
  obtain ⟨_, _, _, _, _, _, -, h⟩ := f.retire_eq det size r
  rw [h]
  rfl

/-- A place that nothing is pending to and in which nothing has landed reads the same after the retirement. -/
theorem Fibre.shown_of_ne {α : Type} {get : Fibre → α} {code : Nat}
    (hput : ∀ (f : Fibre) (c : Nat) (v : Word), c ≠ code → get (f.put c v) = get f)
    (hpend : ∀ (f : Fibre) (pd : List Pend), get { f with pend := pd } = get f)
    (hland : ∀ (f : Fibre) (ld : List (Nat × Nat × Word)), get { f with landed := ld } = get f) {f : Fibre} (r : Retire)
    (he : f.early code = false) (hl : ∀ p ∈ f.landed, p.2.1 ≠ code) : get (f.shown r) = get f := by
  unfold Fibre.shown
  split
  · exact Fibre.flush_of_ne hput hpend hland he hl
  · exact Fibre.advance_of_ne hput hpend he _

@[simp] theorem Fibre.flush_early (f : Fibre) (code : Nat) : f.flush.early code = false := rfl

/-! Retiring, seen from the machine. -/

@[simp] theorem Fibre.retire_uid (f : Fibre) (det : Bool) (size : Nat) (r : Retire) : (f.retire det size r).uid = f.uid := by
  obtain ⟨_, _, _, _, _, _, -, h⟩ := f.retire_eq det size r
  obtain ⟨_, _, _, _, hs⟩ := f.shown_eq r
  rw [h, Fibre.noted, hs]

@[simp] theorem Fibre.atSafePoint_uid (f : Fibre) : f.atSafePoint.uid = f.uid := by
  unfold Fibre.atSafePoint
  split <;> rfl

/-- The fibre that a retirement leaves in its place. -/
def State.retired (s : State) (f : Fibre) (i : Instr) (r : Retire) : Fibre :=
  if r.safe = true then (f.retire (s.det f) i.size r).atSafePoint else f.retire (s.det f) i.size r

@[simp] theorem State.retired_uid (s : State) (f : Fibre) (i : Instr) (r : Retire) : (s.retired f i r).uid = f.uid := by
  unfold State.retired
  split <;> simp

theorem State.retire_eq_setF (s : State) (f : Fibre) (i : Instr) (r : Retire) :
    s.retire f i r = (s.setF (s.retired f i r)).laneDone f := rfl

theorem State.retire_fib_other (s : State) (f : Fibre) (i : Instr) (r : Retire) {u : Nat} (h : u ≠ f.uid) :
    (s.retire f i r).fib? u = s.fib? u := by
  rw [State.retire_eq_setF, State.laneDone_fib, State.setF_fib_other]
  simpa using h

theorem State.retire_fib_self (s : State) (f : Fibre) (i : Instr) (r : Retire) (h : (s.fib? f.uid).isSome = true) :
    (s.retire f i r).fib? f.uid = some (s.retired f i r) := by
  have hset := State.setF_fib_self s (s.retired f i r)
  rw [State.retired_uid] at hset
  rw [State.retire_eq_setF, State.laneDone_fib, hset h]

theorem State.laneDone_lanes (s : State) (f : Fibre) :
    (s.laneDone f).batches.map (fun b => (b.id, b.lanes)) = s.batches.map fun b => (b.id, b.lanes) := by
  unfold State.laneDone
  split
  · rw [List.map_map]
    refine List.map_congr_left fun b _ => ?_
    rw [Function.comp_apply]
    split <;> rfl
  · rfl

/-- Settles O13: `retire_eq` lists what a retirement changes in its fibre. -/
theorem retireFrame : Obligations.RetireFrame := by
  refine ⟨fun s f i r => ⟨State.retire_eq s f i r, fun u hu => State.retire_fib_other s f i r hu,
    fun h => State.retire_fib_self s f i r h, State.laneDone_lanes _ f⟩, fun f det size r => ?_⟩
  have hreg (c : Reg) (he : f.early (rc c) = false) (hl : ∀ p ∈ f.landed, p.2.1 ≠ rc c) :
      (f.retire det size r).reg c = f.reg c := by
    rw [Fibre.retire_reg]
    exact Fibre.shown_of_ne (get := fun g => g.reg c) (fun f _ v h => f.put_reg_of_ne h v) (fun _ _ => rfl)
      (fun _ _ => rfl) r he hl
  have hpred (p : Pred) (he : f.early (pc8 p) = false) (hl : ∀ q ∈ f.landed, q.2.1 ≠ pc8 p) :
      (f.retire det size r).pred p = f.pred p := by
    rw [Fibre.retire_pred]
    exact Fibre.shown_of_ne (get := fun g => g.pred p) (fun f _ v h => f.put_pred_of_ne h v) (fun _ _ => rfl)
      (fun _ _ => rfl) r he hl
  have hpend (h : f.craco = true ∨ f.xlat = true) : (f.shown r).pend = [] := by
    have hall : (f.craco || f.xlat || decide (r.stall = 3) || r.flush || f.waited) = true := by
      rcases h with h | h <;> simp [h]
    rw [Fibre.shown, if_pos hall, Fibre.flush_pend]
  obtain ⟨_, _, _, _, _, _, hlen, hr⟩ := f.retire_eq det size r
  obtain ⟨_, _, _, _, hs⟩ := f.shown_eq r
  have hcount (h : f.trapMode = false) : (if (det && !f.trapMode) = true then f.hbc + 1 else f.hbc) =
      if det = true then f.hbc + 1 else f.hbc := by simp [h]
  rw [hs] at hpend
  simp only [hr, Fibre.noted, hs, true_and] at hreg hpred ⊢
  exact ⟨hlen, hreg, hpred, hpend, fun h => by simp [h], fun h => ⟨hcount h, by simp [h]⟩⟩

/-! One write and its latency (R46). -/

/-- Everything made visible, a register in which nothing has landed reads what its own pending writes leave. -/
theorem Fibre.settle_of_ne {f : Fibre} {c : Reg} (hl : ∀ p ∈ f.landed, p.2.1 ≠ rc c) :
    f.settle.reg c = f.reg c ∧ f.settle.pendOf (rc c) = f.pendOf (rc c) := by
  refine ⟨Fibre.landNows_of_ne (get := fun g => g.reg c) (fun f _ v h => f.put_reg_of_ne h v) (fun _ _ => rfl) f hl, ?_⟩
  change (f.landed.foldl Fibre.landNow f).pendOf (rc c) = _
  generalize f.landed = l at hl
  induction l generalizing f with
  | nil => rfl
  | cons p l ih =>
    obtain ⟨hp, hl⟩ := List.forall_mem_cons.mp hl
    rw [List.foldl_cons, ih hl]
    unfold Fibre.pendOf Fibre.landNow
    rw [List.filter_map]
    simp only [Function.comp_def, passBy_code]
    conv_rhs => rw [← List.map_id (f.pend.filter _)]
    refine List.map_congr_left fun q hq => ?_
    obtain ⟨-, hcode⟩ := List.mem_filter.mp hq
    have hne : q.code ≠ p.2.1 := fun e => hp (e.symm.trans (beq_iff_eq.mp hcode))
    simp [Pend.passBy, hne]

theorem Fibre.flush_reg {f : Fibre} {c : Reg} (hc : c ≠ 0) (hl : ∀ p ∈ f.landed, p.2.1 ≠ rc c) :
    f.flush.reg c = (f.pendOf (rc c)).foldl Pend.over (f.reg c) := by
  obtain ⟨hreg, hpend⟩ := Fibre.settle_of_ne hl
  rw [← hreg, ← hpend]
  exact Fibre.applyAll_reg f.settle f.settle.pend hc

theorem Fibre.early_eq_pendOf (f : Fibre) (code : Nat) : f.early code = !(f.pendOf code).isEmpty := by
  unfold Fibre.early Fibre.pendOf
  induction f.pend with
  | nil => rfl
  | cons p l ih => cases h : p.code == code <;> simp [h, ih]

/-- Settles O14: the write is the only one pending to its register. -/
theorem writeBecomesVisibleAtItsLatency : Obligations.WriteBecomesVisibleAtItsLatency := by
  intro f c v latency n hc hearly hpos
  have hpend : (f.setReg latency c v).pendOf (rc c) = [⟨rc c, v, latency, f.wseq, false⟩] := by
    rw [Fibre.setReg_pendOf f hc, Fibre.pendOf_eq_nil hearly, List.nil_append]
  have hlanded : (f.setReg latency c v).landed = f.landed := Fibre.later_landed f latency (rc c) v
  refine ⟨Fibre.setReg_reg f latency c c v, ?_, fun hn => ?_, fun hn => ?_, fun hl => ?_, rfl, Fibre.flush_landed _⟩
  · simp [Fibre.early_eq_pendOf, hpend]
  · rw [Fibre.advance_reg _ n hc, Fibre.early_eq_pendOf, Fibre.advance_pendOf, hpend, Fibre.setReg_reg]
    simp [Pend.readAfter, Pend.rest, Nat.not_le.mpr hn, hn]
  · rw [Fibre.advance_reg _ n hc, Fibre.early_eq_pendOf, Fibre.advance_pendOf, hpend]
    simp [Pend.readAfter, Pend.rest, Pend.over, hn, Nat.not_lt.mpr hn]
  · rw [Fibre.flush_reg hc (hlanded ▸ hl), hpend]
    rfl

/-- Settles O16. -/
theorem zeroRegisterAndTruePredicate : Obligations.ZeroRegisterAndTruePredicate := by
  intro f v b latency
  refine ⟨rfl, rfl, Fibre.later_g0 f latency v, Fibre.later_p0 f latency _, rfl, fun r => ?_, fun w => ?_⟩
  · rw [Fibre.now_reg, if_neg fun h => h.2 h.1]
  · exact congrArg (fun g : Fibre => g.later latency (rc (odd 0)) (w.extractLsb' 32 32)) (Fibre.later_g0 f latency _)

end Sys2Proof.Machine

/-! O18, O19 (R27, R31, R44, R49, R162, R163): the traps that issuing an instruction can raise, and the bytes of a trap record. -/

namespace Sys2Proof.Machine

/-- A register outside the window, or a 16-bit form in a Craco body, traps UNDEF whatever the guard. -/
theorem issue_undef {s : State} {f : Fibre} {i : Instr} {g : BitVec 4} {st : Nat} {uses : List Reg} {srcs : List Nat}
    {body : Fibre → State} (hc : s.cur? = some f)
    (h : (∃ r ∈ uses, f.window ≤ r.toNat) ∨ (f.craco = true ∧ i.size = 2)) :
    issue s i g st uses srcs body = .next (s.trapAt f i .undef) := by
  have hundef : (uses.any (fun r => decide (f.window ≤ r.toNat)) || (f.craco && i.size == 2)) = true := by
    rcases h with ⟨r, hr, hw⟩ | ⟨hcr, hs⟩
    · have : uses.any (fun r => decide (f.window ≤ r.toNat)) = true := List.any_eq_true.mpr ⟨r, hr, decide_eq_true hw⟩
      rw [this, Bool.true_or]
    · rw [hcr, hs]
      simp
  simp only [issue, hc, hundef, if_true]

/-- A code read early under CHK traps STALL_SHORT with the lowest such code. -/
theorem issue_stallShort {s : State} {f : Fibre} {i : Instr} {g : BitVec 4} {st : Nat} {uses : List Reg}
    {srcs : List Nat} {body : Fibre → State} (hc : s.cur? = some f) (hw : ∀ r ∈ uses, r.toNat < f.window)
    (hs : ¬(f.craco = true ∧ i.size = 2)) (hg : f.guard g = true) (hk : f.chk = true)
    (he : f.earlyReads [pc8 (g.setWidth 3)] srcs ≠ []) :
    issue s i g st uses srcs body =
      .next (s.trapAt f i .stallShort (minCode (f.earlyReads [pc8 (g.setWidth 3)] srcs))) := by
  have hsize : (f.craco && i.size == 2) = false := by
    cases hcr : f.craco
    · rfl
    · simpa [hcr] using hs
  have hsome : (!(f.earlyReads [pc8 (g.setWidth 3)] srcs).isEmpty) = true := by simpa using he
  simp only [issue, hc, window_check hw, hsize, hg, hk, hsome, Bool.false_or, Bool.true_and, Bool.false_eq_true,
    if_false, if_true]

/-- The lowest of the codes read early is one of them. -/
theorem minCode_spec {l : List Nat} (hne : l ≠ []) (hle : ∀ c ∈ l, c ≤ 255) :
    minCode l ∈ l ∧ ∀ e ∈ l, minCode l ≤ e := by
  have go (l : List Nat) (b : Nat) : (l.foldl min b = b ∨ l.foldl min b ∈ l) ∧ l.foldl min b ≤ b ∧
      ∀ e ∈ l, l.foldl min b ≤ e := by
    induction l generalizing b with
    | nil => simp
    | cons c l ih =>
      obtain ⟨hmem, hb, hall⟩ := ih (min b c)
      rw [List.foldl_cons]
      refine ⟨?_, hb.trans (Nat.min_le_left b c), List.forall_mem_cons.mpr ⟨hb.trans (Nat.min_le_right b c), hall⟩⟩
      rcases hmem with hmem | hmem
      · rcases Nat.le_total b c with h | h
        · exact .inl (hmem.trans (Nat.min_eq_left h))
        · exact .inr (by rw [hmem, Nat.min_eq_right h]; exact List.mem_cons_self)
      · exact .inr (List.mem_cons_of_mem c hmem)
  obtain ⟨hmem, -, hall⟩ := go l 255
  refine ⟨hmem.elim (fun h255 => ?_) id, hall⟩
  -- no code lies above 255, so that 255 itself is in the list
  obtain ⟨c, hc⟩ := List.exists_mem_of_ne_nil l hne
  have h1 := hall c hc
  have h2 := hle c hc
  have heq : l.foldl min 255 = c := by omega
  exact (show minCode l = c from heq) ▸ hc

theorem rc_lt (r : Reg) : rc r < 64 := r.isLt
theorem pc8_lt (p : Pred) : pc8 p < 72 := by
  have := p.isLt
  unfold pc8
  omega

/-- What a format-A operation answers where its registers lie in the window and its guard holds, with an early read. -/
theorem issue_early_formatA {s : State} {f : Fibre} {i : Instr} {g : BitVec 4} {st : Nat} {b a d : Reg}
    {body : Fibre → State} (hc : s.cur? = some f) (hsize : i.size = 4) (hw : ∀ r ∈ [b, a, d], r.toNat < f.window)
    (hg : f.guard g = true) (hk : f.chk = true)
    (he : f.early (pc8 (g.setWidth 3)) = true ∨ f.early (rc a) = true ∨ f.early (rc b) = true) :
    ∃ c, c ∈ [pc8 (g.setWidth 3), rc a, rc b] ∧ f.early c = true ∧
      (∀ e ∈ [pc8 (g.setWidth 3), rc a, rc b], f.early e = true → c ≤ e) ∧
      issue s i g st [b, a, d] [rc a, rc b] body = .next (s.trapAt f i .stallShort c) := by
  have hmem (c : Nat) : c ∈ f.earlyReads [pc8 (g.setWidth 3)] [rc a, rc b] ↔
      c ∈ [pc8 (g.setWidth 3), rc a, rc b] ∧ f.early c = true := List.mem_filter
  have hne : f.earlyReads [pc8 (g.setWidth 3)] [rc a, rc b] ≠ [] := by
    rcases he with h | h | h
    · exact List.ne_nil_of_mem ((hmem _).mpr ⟨by simp, h⟩)
    · exact List.ne_nil_of_mem ((hmem _).mpr ⟨by simp, h⟩)
    · exact List.ne_nil_of_mem ((hmem _).mpr ⟨by simp, h⟩)
  have hle : ∀ c ∈ f.earlyReads [pc8 (g.setWidth 3)] [rc a, rc b], c ≤ 255 := fun c h => by
    have hp := pc8_lt (g.setWidth 3)
    have ha := rc_lt a
    have hb := rc_lt b
    have hin := ((hmem c).mp h).1
    simp only [List.mem_cons, List.not_mem_nil, or_false] at hin
    omega
  obtain ⟨hin, hall⟩ := minCode_spec hne hle
  obtain ⟨hcode, hearly⟩ := (hmem _).mp hin
  exact ⟨_, hcode, hearly, fun e h1 h2 => hall e ((hmem e).mpr ⟨h1, h2⟩),
    issue_stallShort hc hw (by simp [hsize]) hg hk hne⟩

theorem undefined_next {s : State} {f : Fibre} {i : Instr} (hc : s.cur? = some f) :
    undefined s i = .next (s.trapAt f i .undef) := by
  simp only [undefined, hc]

/-- Settles O18. -/
theorem operandTraps : Obligations.OperandTraps := by
  intro s f h b a d hc
  refine ⟨fun op hop => ⟨fun hw => ?_, fun v => ?_, fun hw hg hk he => ?_⟩, fun op hop im x y hcr => ?_⟩
  · have hout : (∃ r ∈ [b, a, d], f.window ≤ r.toNat) := by simpa using hw
    fin_cases hop <;> exact issue_undef hc (.inl hout)
  · fin_cases hop <;> exact undefined_next hc
  · fin_cases hop <;> exact issue_early_formatA hc rfl hw hg hk he
  · fin_cases hop <;> exact issue_undef hc (.inr ⟨hcr, rfl⟩)

/-! The trap record. -/

theorem Cause.code_range (c : Cause) : 1 ≤ c.code ∧ c.code ≤ 0x1A := by
  cases c <;> decide

/-! Reading a field: the fields before it are passed over, and its own bytes are taken. -/

theorem drop_leBytes_append {m off v : Nat} (rest : List Byte) (h : m ≤ off) :
    (Dec.leBytes m v ++ rest).drop off = rest.drop (off - m) := by
  rw [List.drop_append, List.drop_of_length_le (by simpa using h), List.nil_append, leBytes_length]

theorem take_leBytes_append (n v : Nat) (rest : List Byte) : (Dec.leBytes n v ++ rest).take n = Dec.leBytes n v :=
  List.take_left' (leBytes_length n v)

theorem take_leBytes (n v : Nat) : (Dec.leBytes n v).take n = Dec.leBytes n v :=
  List.take_of_length_le (leBytes_length n v).le

/-- The FLAGS byte by its four bits (R162). -/
theorem flags_bits (a b c d : Bool) :
    let n := a.toNat + 2 * b.toNat + 4 * c.toNat + 8 * d.toNat
    n < 16 ∧ (n / 8 = 1 ↔ d = true) ∧ (n % 2 = 1 ↔ a = true) ∧ (n / 2 % 2 = 1 ↔ b = true) ∧ (n / 4 % 2 = 1 ↔ c = true) := by
  revert a b c d
  decide

/-- Settles O19. -/
theorem trapRecordFields : Obligations.TrapRecordFields := by
  intro f t nested
  obtain ⟨hone, hlast⟩ := t.cause.code_range
  have hcause : t.cause.code % 256 ^ 1 = t.cause.code := Nat.mod_eq_of_lt (by omega)
  obtain ⟨hflags, hnested, hdeferred, hheld, hcreated⟩ :=
    flags_bits t.deferred f.held.isSome (decide (f.origin ≠ .launch)) nested
  have hpair : (f.pair 14).toNat % 256 ^ 8 = (f.pair 14).toNat := Nat.mod_eq_of_lt (f.pair 14).isLt
  have hmode : f.mode.toNat % 256 ^ 4 = f.mode.toNat := Nat.mod_eq_of_lt f.mode.isLt
  have hsat : f.sat.toNat % 256 ^ 4 = f.sat.toNat := Nat.mod_eq_of_lt f.sat.isLt
  have hpreds : f.predWord.toNat % 256 ^ 4 = (f.preds &&& 0xFE).toNat := by
    have := (f.preds &&& 0xFE).isLt
    rw [Fibre.predWord, BitVec.toNat_setWidth]
    omega
  have hbyte := Nat.mod_eq_of_lt (show _ < 256 ^ 1 from lt_of_lt_of_le hflags (by decide))
  simp (disch := decide) only [trapBytes, List.append_assoc, drop_leBytes_append, take_leBytes_append, take_leBytes,
    Nat.reduceSub, List.drop_zero, leNat_leBytes, List.length_append, leBytes_length, Nat.reduceAdd]
  rw [hbyte]
  have hlane : (match f.held with
      | some (_, n) => n
      | none => 255) % 256 ^ 1 = (match f.held with
      | some (_, n) => n % 256
      | none => 255) := by
    cases f.held <;> rfl
  exact ⟨trivial, hcause, hone, hlast, hlane, rfl, rfl, rfl, rfl, rfl, hpair, hmode, hpreds, hsat, rfl, rfl, rfl, hnested,
    hdeferred, hheld, hcreated.trans decide_eq_true_iff⟩

end Sys2Proof.Machine

/-! O17 (R26, R27, R62, R92): `ret` names no register field, while the registers that `sources` lists for it are the top pair of the
fibre's window. In a window of no register (no launch gives one) that pair is g0:g1, which lies outside it, and the statement then
asks a `ret` with a false guard to trap, where the model's retires. -/

namespace Sys2Proof.Machine

/-- A fibre in a window of no register, in trap mode. -/
def noWindow : Fibre := { bench.fibre 2 1 with window := 0, trapMode := true }
/-- The machine with that fibre alone, current. -/
def noWindowState : State := { State.reset with fibres := [noWindow], cur := 2 }
/-- A `ret` whose guard is p1, which the fibre holds clear. -/
def neverRet : Instr := .ret ⟨1, 0⟩

theorem noWindow_encodingUndef : noWindowState.EncodingUndef noWindow neverRet :=
  .inr (.inr (.inl ⟨0, by decide, by decide⟩))

/-- The `ret` with a false guard retires. -/
theorem exec_neverRet : exec neverRet noWindowState = .next (noWindowState.retire noWindow neverRet { stall := 0 }) := by
  change execRet ⟨1, 0⟩ noWindowState = _
  unfold execRet
  exact issue_guard_false (f := noWindow) rfl (by simp) (by decide) (by decide) (by decide)

/-- A trap of that fibre parks it and sends its record to the host. -/
theorem noWindow_trap_hostFaults : (noWindowState.trapAt noWindow neverRet .undef).hostFaults.length = 1 := rfl

/-- Refutes O17: in a window of no register a `ret` with a false guard retires, where the statement asks for UNDEF. -/
theorem not_falseGuardHasNoEffect : ¬Obligations.FalseGuardHasNoEffect := by
  intro h
  obtain ⟨-, hundef⟩ := h neverRet noWindowState noWindow rfl rfl rfl (by decide)
  have heq := hundef (by decide) noWindow_encodingUndef
  rw [exec_neverRet] at heq
  injection heq with heq
  have hlen := noWindow_trap_hostFaults
  rw [← heq, State.retire_hostFaults] at hlen
  cases hlen

end Sys2Proof.Machine

/-! O56, O57 (R24, R44, R95, R258, R264): what a step runs, and the machine right after reset. -/

namespace Sys2Proof.Machine

/-- Settles O57: the device is not up, so that nothing acts on its own. -/
theorem resetState : Obligations.ResetState :=
  ⟨rfl, rfl, rfl, rfl, rfl, rfl, rfl, rfl, rfl, rfl, rfl, rfl, rfl, reset_memsOk, rfl⟩

/-! A step takes the agenda's first turn. -/

theorem step_of_agenda {s : State} {t : Turn} {ts : List Turn} (h : s.agenda = t :: ts) :
    step s = { s with agenda := ts }.take t := by
  rw [step, h]

theorem take_fibre {z : State} {u : Nat} {f : Fibre} {v : State} (hf : z.fib? u = some f) (hact : z.canAct f = true)
    (hv : z.turn f = .next v) : z.take (.fibre u) = .next (v.fed u) := by
  simp only [State.take, hf, hact, if_true, hv]

theorem take_fibre_of_not_next {z : State} {u : Nat} {f : Fibre} (hf : z.fib? u = some f) (hact : z.canAct f = true)
    (hv : ∀ w, z.turn f ≠ .next w) : z.take (.fibre u) = z.turn f := by
  simp only [State.take, hf, hact, if_true]
  cases h : z.turn f with
  | next w => exact absurd h (hv w)
  | fault r => rfl
  | refused r => rfl

/-! A fibre's turn at no boundary. -/

theorem turn_of_rejoins {z : State} {f g : Fibre} (hb : z.boundary f = false) (hg : f.rejoins = some g) :
    z.turn f = .next (z.setF g) := by
  simp only [State.turn, hb, Bool.false_eq_true, if_false, hg]

theorem turn_of_waited {z : State} {f : Fibre} {i : Instr} (hb : z.boundary f = false) (hg : f.rejoins = none)
    (hw : f.waited = true) (hi : f.inst = some i) : z.turn f = exec i ((z.openIssue f).issueAt f i) := by
  simp only [State.turn, hb, Bool.false_eq_true, if_false, hg, State.fetchTurn, hw, if_true, hi]

/-- An instruction that has not waited is fetched and decoded. -/
theorem turn_of_fetch {z t : State} {f : Fibre} {bs : List Byte} (hb : z.boundary f = false) (hg : f.rejoins = none)
    (hw : f.waited = false ∨ f.inst = none) (hfetch : fetchGroup (z.openIssue f) f f.pc = .ok bs t) :
    z.turn f = match decode bs with
      | .ok i => exec i (t.issueAt f i)
      | .error _ => .next (t.takeTrap f
          { cause := .undef, pc := f.pc, iaddr := f.pc, insn := Dec.leNat (bs.take 4) }) := by
  have hnone : (if f.waited then f.inst else none) = none := by
    rcases hw with h | h
    · rw [h]
      rfl
    · rw [h, ite_self]
  cases hd : decode bs <;>
    simp only [State.turn, hb, Bool.false_eq_true, if_false, hg, State.fetchTurn, hnone, hfetch, hd]

theorem turn_of_decode {z t : State} {f : Fibre} {bs : List Byte} {i : Instr} (hb : z.boundary f = false)
    (hg : f.rejoins = none) (hw : f.waited = false ∨ f.inst = none)
    (hfetch : fetchGroup (z.openIssue f) f f.pc = .ok bs t) (hd : decode bs = .ok i) :
    z.turn f = exec i (t.issueAt f i) := by
  rw [turn_of_fetch hb hg hw hfetch, hd]

/-! With an empty agenda. -/

/-- The fibres whose turn changes nothing are passed over. -/
theorem firstTurn_append {b : State} {pre : List Fibre} (rest : List Fibre) (h : ∀ g ∈ pre, b.turn g = .next b) :
    firstTurn b (pre ++ rest) = firstTurn b rest := by
  induction pre with
  | nil => rfl
  | cons g pre ih =>
    obtain ⟨hg, hpre⟩ := List.forall_mem_cons.mp h
    rw [List.cons_append, firstTurn, hg]
    simp only [if_true, ih hpre]

theorem step_of_empty {s : State} (h : s.agenda = []) (hup : s.bar.status = 5)
    (hrest : firstChange s s.pending = .next s) (hbias : s.biasGo = s) :
    step s = firstTurn s.byAge s.byAge.issueOrder := by
  rw [step, h]
  simp only [State.auto, hup, hrest, hbias, ne_eq, not_true, if_false]

/-- Settles O56. -/
theorem stepRunsTheInstruction : Obligations.StepRunsTheInstruction := by
  intro s t v f u ts bs i why pre post z
  refine ⟨fun hag hf hact hb => ⟨fun g hg => ?_, fun hg hw hi hv => ?_⟩, fun hag hf hact hb hg hw hfetch =>
    ⟨fun hd hv => ?_, fun hd hv => ?_, fun hd => ?_⟩, fun hag hi hup => ?_, fun hag hi hup hout => ?_, fun hag hup => ?_,
    fun hag hup hrest hbias horder hpre hb hg hw hfetch hd hv hne => ?_⟩
  · rw [step_of_agenda hag, take_fibre hf hact (turn_of_rejoins hb hg)]
  · rw [step_of_agenda hag, take_fibre hf hact ((turn_of_waited hb hg hw hi).trans hv)]
  · rw [step_of_agenda hag, take_fibre hf hact ((turn_of_decode hb hg hw hfetch hd).trans hv)]
  · have hturn := turn_of_decode hb hg hw hfetch hd
    rw [step_of_agenda hag, take_fibre_of_not_next hf hact (fun w => hturn ▸ hv w), hturn]
  · have hturn := turn_of_fetch hb hg hw hfetch
    rw [hd] at hturn
    rw [step_of_agenda hag, take_fibre hf hact hturn]
  · have hgo : (i.isStep && (s.bar.status != 0x88 || Instr.outlivesTrip i)) = true := by
      by_cases htrip : s.bar.status = 0x88 <;> simp [hi, htrip, hup]
    rw [step_of_agenda hag]
    exact if_pos hgo
  · rw [step_of_agenda hag]
    exact if_neg (by simp [hup, hout])
  · rw [step_of_agenda hag]
    exact congrArg _ (if_pos hup)
  · have hturn := turn_of_decode hb hg hw hfetch hd
    rw [step_of_empty hag hup hrest hbias, horder, firstTurn_append _ hpre, firstTurn, hturn, hv]
    exact if_neg hne

end Sys2Proof.Machine

/-! O22, O25 (R91 to R94, R102 to R105): branches, calls and forks. -/

namespace Sys2Proof.Machine

/-! Jumps to a register's address (R92, R93). -/

theorem getLsbD_zero_eq (t : DWord) : t.getLsbD 0 = decide (t.toNat % 2 = 1) := by
  rw [BitVec.getLsbD, Nat.testBit_zero]

theorem jumpTo_ok {s : State} {f : Fibre} {i : Instr} {t : DWord} {k : Nat → State} (heven : t.toNat % 2 = 0)
    (hlow : t.toNat < 2 ^ 57) : jumpTo s f i t k = k t.toNat := by
  rw [jumpTo, getLsbD_zero_eq, if_neg (by simp [heven]), if_neg (by omega)]

theorem jumpTo_odd {s : State} {f : Fibre} {i : Instr} {t : DWord} {k : Nat → State} (hodd : t.toNat % 2 = 1) :
    jumpTo s f i t k = s.trapAt f i .align 0 t.toNat := by
  rw [jumpTo, getLsbD_zero_eq, if_pos (by simp [hodd])]

theorem jumpTo_high {s : State} {f : Fibre} {i : Instr} {t : DWord} {k : Nat → State} (heven : t.toNat % 2 = 0)
    (hhigh : 2 ^ 57 ≤ t.toNat) : jumpTo s f i t k = s.trapAt f i .prot 0 t.toNat := by
  rw [jumpTo, getLsbD_zero_eq, if_neg (by simp [heven]), if_pos hhigh]

/-! Each branch where it issues. -/

section
variable {s : State} {f : Fibre} {h : Hdr} {a : Reg}

theorem exec_braR (hi : s.Issues f (.braR h a) h.g [a, odd a] [rc a, rc (odd a)]) :
    exec (.braR h a) s = .next (jumpTo s f (.braR h a) (f.pair a) fun t =>
      s.retire f (.braR h a) { stall := h.s.toNat, taken := some t }) := issue_next hi

theorem exec_callR (hi : s.Issues f (.callR h a) h.g [a, odd a] [rc a, rc (odd a)]) :
    exec (.callR h a) s = .next (jumpTo s f (.callR h a) (f.pair a) fun t =>
      s.retire (f.setPairNow f.link (.ofNat 64 (f.pc + 4))) (.callR h a)
        { stall := h.s.toNat, taken := some t, leaves := false }) := issue_next hi

theorem linkCodes_of_cur (hc : s.cur? = some f) : s.linkCodes = [rc f.link, rc (odd f.link)] := by
  rw [State.linkCodes, hc]
  rfl

theorem exec_ret (hi : s.Issues f (.ret h) h.g [] [rc f.link, rc (odd f.link)]) :
    exec (.ret h) s = .next (if f.pair f.link = 0 then s.trapAt f (.ret h) .frame
      else jumpTo s f (.ret h) (f.pair f.link) fun t => s.retire f (.ret h) { stall := h.s.toNat, taken := some t }) := by
  rw [← linkCodes_of_cur hi.1] at hi
  exact issue_next hi

end

theorem chooseCase_eq (f : Fibre) (cases : List Case) : f.chooseCase cases =
    (cases.find? fun c => f.guard c.g).map fun c => (((f.pc : Int) + 2 * c.off.toInt) % (2 ^ 57 : Int)).toNat := by
  induction cases with
  | nil => rfl
  | cons c cs ih =>
    rw [Fibre.chooseCase, List.find?_cons]
    cases f.guard c.g
    · exact ih
    · rfl

/-- Settles O22. -/
theorem branchResults : Obligations.BranchResults := by
  refine ⟨fun s f h v off st cases a => ⟨fun hi => ?_, fun hi => ?_, fun hi => ?_, fun hi heven hlow => ?_,
    fun hi heven hlow => ?_, fun hi hne heven hlow => ?_⟩, fun s f h a => ⟨fun op hop hi => ?_, fun hi => ⟨fun hz => ?_,
      fun hodd => ?_, fun heven hhigh => ?_⟩⟩⟩
  · cases v <;> exact issue_next hi
  · cases v <;> exact issue_next hi
  · rw [← chooseCase_eq]
    exact issue_next hi
  · rw [exec_braR hi, jumpTo_ok heven hlow]
  · rw [exec_callR hi, jumpTo_ok heven hlow]
  · have hnz : f.pair f.link ≠ 0 := fun e => hne (by rw [e]; rfl)
    rw [exec_ret hi, if_neg hnz, jumpTo_ok heven hlow]
  · rcases List.mem_pair.mp hop with rfl | rfl
    · exact ⟨fun hodd => by rw [exec_braR hi, jumpTo_odd hodd],
        fun heven hhigh => by rw [exec_braR hi, jumpTo_high heven hhigh]⟩
    · exact ⟨fun hodd => by rw [exec_callR hi, jumpTo_odd hodd],
        fun heven hhigh => by rw [exec_callR hi, jumpTo_high heven hhigh]⟩
  · rw [exec_ret hi, if_pos hz]
  · have hnz : f.pair f.link ≠ 0 := fun e => by simp [e] at hodd
    rw [exec_ret hi, if_neg hnz, jumpTo_odd hodd]
  · have hnz : f.pair f.link ≠ 0 := fun e => by simp [e] at hhigh
    rw [exec_ret hi, if_neg hnz, jumpTo_high heven hhigh]

/-! Frames (R103). -/

section
variable {s : State} {i : Instr} {h : Hdr} {f : Fibre} {call : Bool} {fr : Frame}

theorem pushFrame_room (hroom : f.frames.length < s.depth f) :
    pushFrame s i h f call fr = s.retire { f with frames := fr :: f.frames } i { stall := h.s.toNat } := if_pos hroom

theorem pushFrame_inline (hfull : s.depth f ≤ f.frames.length) (hroom : f.inline.length < 64) :
    pushFrame s i h f call fr = s.retire { f with inline := call :: f.inline } i { stall := h.s.toNat } := by
  rw [pushFrame, if_neg (by omega), if_neg (by omega)]

theorem pushFrame_trap (hfull : s.depth f ≤ f.frames.length) (hdeep : 64 ≤ f.inline.length) :
    pushFrame s i h f call fr = s.trapAt f i .frame := by
  rw [pushFrame, if_neg (by omega), if_pos hdeep]

end

/-- A fork whose argument registers lie in the file issues as any instruction. -/
theorem forkCAt_next {s : State} {f : Fibre} {i : Instr} {v : Option (BitVec 19)} {h : Hdr} {off : BitVec 11}
    {cntM1 : BitVec 2} {k : Reg} (hin : k.toNat + cntM1.toNat < 64)
    (hi : s.Issues f i h.g (argRegs k cntM1) ((argRegs k cntM1).map rc)) :
    forkCAt i v h off cntM1 k s =
      .next (pushFrame s i h f true (.call (targetF f.pc v off) ((argRegs k cntM1).map f.reg) none)) := by
  rw [forkCAt, if_neg (by omega)]
  exact issue_next hi

/-- Settles O25. -/
theorem forkResults : Obligations.ForkResults := by
  intro s f h v off cntM1 k lim idx acc n grain ty op pushes
  have hpushes {i : Instr} {call : Bool} {fr : Frame} (he : exec i s = .next (pushFrame s i h f call fr)) :
      pushes i call fr :=
    ⟨fun hroom => by rw [he, pushFrame_room hroom], fun hfull hroom => by rw [he, pushFrame_inline hfull hroom],
      fun hfull hdeep => by rw [he, pushFrame_trap hfull hdeep]⟩
  refine ⟨fun hin hi => hpushes ?_, fun hi => hpushes (issue_next hi), fun hi => hpushes (issue_next hi)⟩
  cases v <;> exact forkCAt_next hin hi

end Sys2Proof.Machine

/-! O23, O24 (R86, R95, R99 to R101): hardware loops, `yield`, `loose` and `prio`. -/

namespace Sys2Proof.Machine

/-! The three loops of a fibre. -/

theorem Fibre.setLoop_loop (f : Fibre) {n m : Nat} (l : Loop) (hn : n < 3) (hm : m < 3) :
    (f.setLoop n l).loop m = if m = n then l else f.loop m := by
  interval_cases n <;> interval_cases m <;> rfl

theorem Fibre.mapRanges_loop (f : Fibre) (u : Range → Range) (m : Nat) : (f.mapRanges u).loop m = f.loop m := by
  match m with
  | 0 | 1 | _ + 2 => rfl

theorem Fibre.endLoop_loop (f : Fibre) {n m : Nat} (hn : n < 3) (hm : m < 3) :
    (f.endLoop n).loop m = if m = n then { f.loop n with active := false } else f.loop m := by
  rw [Fibre.endLoop, Fibre.mapRanges_loop, Fibre.setLoop_loop f _ hn hm]

theorem Fibre.endLoop_pc (f : Fibre) (n : Nat) : (f.endLoop n).pc = f.pc := by
  obtain ⟨_, _, _, _, _, h, -⟩ := f.endLoop_loopsOnly n
  rw [h]

theorem Fibre.setLoop_pc (f : Fibre) (n : Nat) (l : Loop) : (f.setLoop n l).pc = f.pc := by
  obtain ⟨_, _, _, _, _, h, -⟩ := f.setLoop_loopsOnly n l
  rw [h]

/-- A retirement's notes leave the loops standing. -/
theorem Fibre.noted_loop (f : Fibre) (det : Bool) (size : Nat) (r : Retire) (a m : Nat) :
    ({ f.noted det size r with pc := a } : Fibre).loop m = f.loop m := by
  obtain ⟨_, _, _, _, hs⟩ := f.shown_eq r
  rw [Fibre.noted, hs]
  match m with
  | 0 | 1 | _ + 2 => rfl

/-! The loops that end at an address, newest first. -/

/-- Loop m ends at the address. -/
def Fibre.endsAt (f : Fibre) (a m : Nat) : Bool := (f.loop m).active && (f.loop m).left == 0 && (f.loop m).stop == a

theorem Fibre.endsAt_iff {f : Fibre} {a m : Nat} : f.endsAt a m = true ↔
    (f.loop m).active = true ∧ (f.loop m).left = 0 ∧ (f.loop m).stop = a := by
  simp [Fibre.endsAt, and_assoc]

theorem Fibre.loopsAt_eq (f : Fibre) (a : Nat) :
    f.loopsAt a = ([0, 1, 2].filter (f.endsAt a)).foldr f.insertNewest [] := rfl

theorem Fibre.mem_insertNewest {f : Fibre} {n m : Nat} {l : List Nat} : m ∈ f.insertNewest n l ↔ m = n ∨ m ∈ l := by
  induction l with
  | nil => simp [Fibre.insertNewest]
  | cons x l ih =>
    rw [Fibre.insertNewest]
    split
    · exact List.mem_cons
    · rw [List.mem_cons, ih, List.mem_cons]
      tauto

theorem Fibre.mem_foldr_insertNewest {f : Fibre} {m : Nat} {l : List Nat} :
    m ∈ l.foldr f.insertNewest [] ↔ m ∈ l := by
  induction l with
  | nil => rfl
  | cons x l ih => rw [List.foldr_cons, Fibre.mem_insertNewest, ih, List.mem_cons]

/-- A loop installed after those of the list stands before them. -/
theorem Fibre.insertNewest_newest {f : Fibre} {n : Nat} {l : List Nat} (h : ∀ m ∈ l, (f.loop m).order < (f.loop n).order) :
    f.insertNewest n l = n :: l := by
  cases l with
  | nil => rfl
  | cons m l => rw [Fibre.insertNewest, if_pos (Nat.le_of_lt (h m List.mem_cons_self))]

/-- Of a list that holds a loop installed after all the others, that one comes first. -/
theorem Fibre.foldr_insertNewest {f : Fibre} {n : Nat} {p q : List Nat}
    (h : ∀ m ∈ p ++ q, (f.loop m).order < (f.loop n).order) :
    (p ++ n :: q).foldr f.insertNewest [] = n :: (p ++ q).foldr f.insertNewest [] := by
  induction p with
  | nil =>
    rw [List.nil_append, List.foldr_cons]
    exact Fibre.insertNewest_newest fun m hm => h m (Fibre.mem_foldr_insertNewest.mp hm)
  | cons x p ih =>
    obtain ⟨hx, hp⟩ := List.forall_mem_cons.mp h
    rw [List.cons_append, List.foldr_cons, ih hp, Fibre.insertNewest, if_neg (Nat.not_le.mpr hx)]
    rfl

/-- The order depends on the loops of the list alone. -/
theorem Fibre.insertNewest_congr {f g : Fibre} {n : Nat} {l : List Nat} (hn : f.loop n = g.loop n)
    (hl : ∀ m ∈ l, f.loop m = g.loop m) : f.insertNewest n l = g.insertNewest n l := by
  induction l with
  | nil => rfl
  | cons x l ih =>
    obtain ⟨hx, hl⟩ := List.forall_mem_cons.mp hl
    rw [Fibre.insertNewest, Fibre.insertNewest, hn, hx, ih hl]

theorem Fibre.foldr_insertNewest_congr {f g : Fibre} {l : List Nat} (hl : ∀ m ∈ l, f.loop m = g.loop m) :
    l.foldr f.insertNewest [] = l.foldr g.insertNewest [] := by
  induction l with
  | nil => rfl
  | cons x l ih =>
    obtain ⟨hx, hl⟩ := List.forall_mem_cons.mp hl
    rw [List.foldr_cons, List.foldr_cons, ih hl]
    exact Fibre.insertNewest_congr hx fun m hm => hl m (Fibre.mem_foldr_insertNewest.mp hm)

theorem Fibre.mem_loopsAt {f : Fibre} {a m : Nat} : m ∈ f.loopsAt a ↔ m < 3 ∧ f.endsAt a m = true := by
  rw [Fibre.loopsAt_eq, Fibre.mem_foldr_insertNewest, List.mem_filter]
  refine and_congr_left fun _ => ?_
  simp only [List.mem_cons, List.not_mem_nil, or_false]
  omega

/-- The newest loop that ends at an address comes first, and the others are those that end there once it is over. -/
theorem Fibre.loopsAt_newest {f : Fibre} {a n : Nat} (hn : n < 3) (he : f.endsAt a n = true)
    (hnew : ∀ m, m < 3 → m ≠ n → f.endsAt a m = true → (f.loop m).order < (f.loop n).order) :
    f.loopsAt a = n :: (f.endLoop n).loopsAt a := by
  have hother {m : Nat} (hm : m < 3) (hne : m ≠ n) : (f.endLoop n).loop m = f.loop m := by
    rw [f.endLoop_loop hn hm, if_neg hne]
  have hends {m : Nat} (hm : m < 3) (hne : m ≠ n) : (f.endLoop n).endsAt a m = f.endsAt a m := by
    rw [Fibre.endsAt, Fibre.endsAt, hother hm hne]
  have hown : (f.endLoop n).endsAt a n = false := by
    rw [Fibre.endsAt, f.endLoop_loop hn hn, if_pos rfl]
    rfl
  obtain ⟨p, q, hpq⟩ : ∃ p q, [0, 1, 2] = p ++ n :: q := by
    interval_cases n
    · exact ⟨[], [1, 2], rfl⟩
    · exact ⟨[0], [2], rfl⟩
    · exact ⟨[0, 1], [], rfl⟩
  have hdup : (p ++ n :: q).Nodup := hpq ▸ (by decide : [0, 1, 2].Nodup)
  have hsmall {m : Nat} (hm : m ∈ p ++ q) : m < 3 ∧ m ≠ n := by
    have hin : m ∈ [0, 1, 2] := hpq ▸ (List.mem_append.mpr ((List.mem_append.mp hm).imp id (List.mem_cons_of_mem n)))
    have hne : m ≠ n := by
      rintro rfl
      exact (List.nodup_middle.mp hdup).notMem hm
    refine ⟨?_, hne⟩
    simp only [List.mem_cons, List.not_mem_nil, or_false] at hin
    omega
  have hf : [0, 1, 2].filter (f.endsAt a) = p.filter (f.endsAt a) ++ n :: q.filter (f.endsAt a) := by
    rw [hpq, List.filter_append, List.filter_cons_of_pos he]
  have hg : [0, 1, 2].filter ((f.endLoop n).endsAt a) = p.filter (f.endsAt a) ++ q.filter (f.endsAt a) := by
    rw [hpq, List.filter_append, List.filter_cons_of_neg (by simp [hown]),
      List.filter_congr fun m hm => hends (hsmall (List.mem_append_left q hm)).1 (hsmall (List.mem_append_left q hm)).2,
      List.filter_congr fun m hm => hends (hsmall (List.mem_append_right p hm)).1 (hsmall (List.mem_append_right p hm)).2]
  have hmem {m : Nat} (hm : m ∈ p.filter (f.endsAt a) ++ q.filter (f.endsAt a)) :
      (m < 3 ∧ m ≠ n) ∧ f.endsAt a m = true := by
    rw [← List.filter_append] at hm
    exact ⟨hsmall (List.mem_of_mem_filter hm), (List.mem_filter.mp hm).2⟩
  rw [Fibre.loopsAt_eq, Fibre.loopsAt_eq, hf, hg,
    Fibre.foldr_insertNewest fun m hm => hnew m (hmem hm).1.1 (hmem hm).1.2 (hmem hm).2]
  exact congrArg _ (Fibre.foldr_insertNewest_congr fun m hm => (hother (hmem hm).1.1 (hmem hm).1.2).symm)

/-! The end of bodies. -/

/-- The loop's counter is one less. -/
def Fibre.countDown (f : Fibre) (n : Nat) : Fibre := f.setLoop n { f.loop n with count := (f.loop n).count - 1 }

theorem Fibre.countDown_loop (f : Fibre) {n m : Nat} (hn : n < 3) (hm : m < 3) : (f.countDown n).loop m =
    if m = n then { f.loop n with count := (f.loop n).count - 1 } else f.loop m := f.setLoop_loop _ hn hm

theorem Fibre.countDown_pc (f : Fibre) (n : Nat) : (f.countDown n).pc = f.pc := f.setLoop_pc n _

/-- A loop with more to do goes back to its start. -/
theorem Fibre.loopBack_more {f : Fibre} {n : Nat} (l : List Nat) (hc : (f.loop n).count - 1 ≠ 0) :
    (f.loopBack (n :: l)).pc = (f.loop n).start ∧ ∀ m, (f.loopBack (n :: l)).loop m = (f.countDown n).loop m := by
  rw [Fibre.loopBack]
  dsimp only
  rw [if_pos hc]
  refine ⟨rfl, fun m => ?_⟩
  match m with
  | 0 | 1 | _ + 2 => rfl

/-- A loop with no more to do is over. -/
theorem Fibre.loopBack_over {f : Fibre} {n : Nat} (l : List Nat) (hc : (f.loop n).count - 1 = 0) :
    f.loopBack (n :: l) = ((f.countDown n).endLoop n).loopBack l := by
  rw [Fibre.loopBack]
  dsimp only
  rw [if_neg (not_not.mpr hc)]
  rfl

/-- A loop that is not listed stands. -/
theorem Fibre.loopBack_loop {f : Fibre} {l : List Nat} {m : Nat} (hl : ∀ n ∈ l, n < 3) (hm : m < 3) (hml : m ∉ l) :
    (f.loopBack l).loop m = f.loop m := by
  induction l generalizing f with
  | nil => rfl
  | cons n l ih =>
    obtain ⟨hn, hl⟩ := List.forall_mem_cons.mp hl
    rw [List.mem_cons, not_or] at hml
    obtain ⟨hne, hml⟩ := hml
    have hset : (f.countDown n).loop m = f.loop m := by rw [f.countDown_loop hn hm, if_neg hne]
    by_cases hc : (f.loop n).count - 1 = 0
    · rw [Fibre.loopBack_over l hc, ih hl hml, Fibre.endLoop_loop _ hn hm, if_neg hne, hset]
    · rw [(Fibre.loopBack_more l hc).2, hset]

/-- The fibres agree in their PC and in every loop but n. -/
def Fibre.AgreeBut (n : Nat) (f g : Fibre) : Prop := f.pc = g.pc ∧ ∀ m, m < 3 → m ≠ n → f.loop m = g.loop m

/-- What a loop that is not listed holds does not matter to the end of the others. -/
theorem Fibre.loopBack_agree {f g : Fibre} {n : Nat} {l : List Nat} (h : Fibre.AgreeBut n f g)
    (hl : ∀ m ∈ l, m < 3 ∧ m ≠ n) : Fibre.AgreeBut n (f.loopBack l) (g.loopBack l) := by
  induction l generalizing f g with
  | nil => exact h
  | cons x l ih =>
    obtain ⟨hpc, hloop⟩ := h
    obtain ⟨⟨hx, hxn⟩, hl⟩ := List.forall_mem_cons.mp hl
    have hsame := hloop x hx hxn
    have hset {m : Nat} (hm : m < 3) (hne : m ≠ n) : (f.countDown x).loop m = (g.countDown x).loop m := by
      rw [f.countDown_loop hx hm, g.countDown_loop hx hm, hloop m hm hne, hsame]
    by_cases hc : (g.loop x).count - 1 = 0
    · rw [Fibre.loopBack_over l hc, Fibre.loopBack_over l (hsame ▸ hc)]
      refine ih ⟨?_, fun m hm hne => ?_⟩ hl
      · rw [Fibre.endLoop_pc, Fibre.endLoop_pc, Fibre.countDown_pc, Fibre.countDown_pc, hpc]
      · rw [Fibre.endLoop_loop _ hx hm, Fibre.endLoop_loop _ hx hm, hset hm hne, hset hx hxn]
    · obtain ⟨hfpc, hfloop⟩ := Fibre.loopBack_more (f := f) l (hsame ▸ hc)
      obtain ⟨hgpc, hgloop⟩ := Fibre.loopBack_more l hc
      exact ⟨by rw [hfpc, hgpc, hsame], fun m hm hne => by rw [hfloop, hgloop, hset hm hne]⟩

section
variable {f : Fibre} {n size : Nat} {det : Bool} {r : Retire}

/-- Where no body ends the fibre goes on. -/
theorem Fibre.retire_noEnd (ht : r.taken = none) (h : ∀ m, m < 3 → f.endsAt (f.pc + size) m = false) :
    (f.retire det size r).pc = f.pc + size ∧ ∀ m, m < 3 → (f.retire det size r).loop m = f.loop m := by
  have hnone : f.loopsAt (f.pc + size) = [] := List.eq_nil_iff_forall_not_mem.mpr fun m hm => by
    obtain ⟨h3, he⟩ := Fibre.mem_loopsAt.mp hm
    exact absurd he (by simp [h m h3])
  rw [f.retire_of_next det size ht, hnone]
  exact ⟨rfl, fun m _ => Fibre.noted_loop f det size r _ m⟩

/-- The newest loop that ends goes back to its start with one less. -/
theorem Fibre.retire_goesBack (ht : r.taken = none) (hn : n < 3) {l : List Nat}
    (hl : f.loopsAt (f.pc + size) = n :: l) (hc : (f.loop n).count ≠ 1) :
    (f.retire det size r).pc = (f.loop n).start ∧
    (f.retire det size r).loop n = { f.loop n with count := (f.loop n).count - 1 } ∧
    ∀ m, m < 3 → m ≠ n → (f.retire det size r).loop m = f.loop m := by
  have hnoted (m : Nat) := f.noted_loop det size r (f.pc + size) m
  have hne : (f.loop n).count - 1 ≠ 0 := fun e => hc (sub_eq_zero.mp e)
  rw [← hnoted n] at hne
  obtain ⟨hpc, hloop⟩ := Fibre.loopBack_more l hne
  rw [f.retire_of_next det size ht, hl]
  refine ⟨by rw [hpc, hnoted], ?_, fun m hm hmn => ?_⟩
  · rw [hloop, Fibre.countDown_loop _ hn hn, if_pos rfl, hnoted]
  · rw [hloop, Fibre.countDown_loop _ hn hm, if_neg hmn, hnoted]

/-- The newest loop that ends is over, and the same holds of the others as if it had not been there. -/
theorem Fibre.retire_over (ht : r.taken = none) (hn : n < 3)
    (hl : f.loopsAt (f.pc + size) = n :: (f.endLoop n).loopsAt (f.pc + size)) (hc : (f.loop n).count = 1) :
    ((f.retire det size r).loop n).active = false ∧
    Fibre.AgreeBut n (f.retire det size r) ((f.endLoop n).retire det size r) := by
  have hin : ∀ m ∈ (f.endLoop n).loopsAt (f.pc + size), m < 3 ∧ m ≠ n := fun m hm => by
    obtain ⟨h3, he⟩ := Fibre.mem_loopsAt.mp hm
    refine ⟨h3, ?_⟩
    rintro rfl
    rw [Fibre.endsAt, f.endLoop_loop hn hn, if_pos rfl] at he
    cases he
  have hz : (({ f.noted det size r with pc := f.pc + size } : Fibre).loop n).count - 1 = 0 := by
    rw [Fibre.noted_loop, hc]
    rfl
  rw [f.retire_of_next det size ht, (f.endLoop n).retire_of_next det size ht, f.endLoop_pc, hl, Fibre.loopBack_over _ hz]
  refine ⟨?_, Fibre.loopBack_agree ⟨?_, fun m hm hne => ?_⟩ hin⟩
  · rw [Fibre.loopBack_loop (fun m hm => (hin m hm).1) hn fun h => (hin n h).2 rfl, Fibre.endLoop_loop _ hn hn, if_pos rfl]
  · rw [Fibre.endLoop_pc, Fibre.countDown_pc]
  · rw [Fibre.endLoop_loop _ hn hm, if_neg hne, Fibre.countDown_loop _ hn hm, if_neg hne, Fibre.noted_loop,
      Fibre.noted_loop, f.endLoop_loop hn hm, if_neg hne]

end

/-! `loop` where it issues. -/

section
variable {s t : State} {f : Fibre} {h : Hdr} {n : BitVec 2} {count : Reg} {lenM1 : BitVec 8} {stop : Nat}

/-- With a count of 0 it goes to the end of its body. -/
theorem exec_loop_skip (hi : s.Issues f (.loop h n count lenM1) h.g [count] [rc count]) (hz : f.reg count = 0)
    (hskip : skipGroups s f (f.pc + 4) (lenM1.toNat + 1) = .ok stop t) :
    exec (.loop h n count lenM1) s =
      .next (t.retire ((f.endLoops n.toNat).setLoop n.toNat ⟨0, f.pc + 4, stop, false, 0, 0⟩) (.loop h n count lenM1)
        { stall := h.s.toNat, taken := some stop, leaves := false }) := by
  change execLoop h n count lenM1 s = _
  unfold execLoop
  rw [issue_next hi]
  simp only [hz, if_true, Instr.size, hskip]

/-- Else it is installed. -/
theorem exec_loop_install (hi : s.Issues f (.loop h n count lenM1) h.g [count] [rc count]) (hnz : f.reg count ≠ 0) :
    exec (.loop h n count lenM1) s =
      .next (s.retire { (f.endLoops n.toNat).setLoop n.toNat
          ⟨f.reg count, f.pc + 4, (bodyEnd s f (f.pc + 4) (lenM1.toNat + 1)).1, true, f.loopSeq + 1,
            (bodyEnd s f (f.pc + 4) (lenM1.toNat + 1)).2⟩ with loopSeq := f.loopSeq + 1 } (.loop h n count lenM1)
        { stall := h.s.toNat }) := by
  change execLoop h n count lenM1 s = _
  unfold execLoop
  rw [issue_next hi]
  simp only [hnz, if_false, Instr.size]

end

/-- Settles O24. -/
theorem loopResults : Obligations.LoopResults := by
  refine ⟨fun s t f h n count lenM1 stop hi => ⟨exec_loop_skip hi, exec_loop_install hi⟩, fun f n size det r ht =>
    ⟨fun hn hends hnew => ?_, fun hno => Fibre.retire_noEnd ht fun m hm => ?_⟩⟩
  · have hl := Fibre.loopsAt_newest hn (Fibre.endsAt_iff.mpr hends)
      fun m hm hmn he => hnew m hm hmn (Fibre.endsAt_iff.mp he)
    refine ⟨fun hc => Fibre.retire_goesBack ht hn hl hc, fun hc => ?_⟩
    obtain ⟨hactive, hpc, hloop⟩ := Fibre.retire_over (det := det) ht hn hl hc
    exact ⟨hactive, hpc, hloop⟩
  · rw [Bool.eq_false_iff, ne_eq, Fibre.endsAt_iff]
    exact hno m hm

end Sys2Proof.Machine

/-! O23 (R86, R95, R99): `yield`, `loose` and `prio`. -/

namespace Sys2Proof.Machine

theorem State.fib_uid {s : State} {u : Nat} {f : Fibre} (h : s.fib? u = some f) : f.uid = u :=
  beq_iff_eq.mp (List.find?_some (p := fun g : Fibre => g.uid == u) h)

/-- The current fibre is a resident one of the machine. -/
theorem State.cur_fib {s : State} {f : Fibre} (h : s.cur? = some f) : s.fib? f.uid = some f ∧ f.status = .resident := by
  unfold State.cur? at h
  split at h
  · next g hg =>
    split at h
    · next hres =>
      cases h
      exact ⟨State.fib_uid hg ▸ hg, hres⟩
    · cases h
  · cases h

theorem State.fib_mem {s : State} {u : Nat} {f : Fibre} (h : s.fib? u = some f) : f ∈ s.fibres := List.mem_of_find?_eq_some h

/-! `yield`. -/

/-- With distinct names one fibre has the name. -/
theorem filter_uid_eq {l : List Fibre} {f : Fibre} (hd : (l.map (·.uid)).Nodup) (hf : f ∈ l) :
    (l.filter fun g => g.uid == f.uid) = [f] := by
  induction l with
  | nil => cases hf
  | cons g l ih =>
    obtain ⟨hg, hd⟩ := List.nodup_cons.mp hd
    rcases List.mem_cons.mp hf with rfl | hf
    · have hno : (l.filter fun g => g.uid == f.uid) = [] := List.filter_eq_nil_iff.mpr fun x hx he =>
        hg (List.mem_map.mpr ⟨x, hx, beq_iff_eq.mp he⟩)
      rw [List.filter_cons, if_pos (beq_self_eq_true f.uid), hno]
    · have hne : ¬(g.uid == f.uid) = true := fun he => hg (List.mem_map.mpr ⟨f, hf, (beq_iff_eq.mp he).symm⟩)
      rw [List.filter_cons, if_neg hne, ih hd hf]

theorem State.retired_of_unsafe (s : State) (f : Fibre) (i : Instr) {r : Retire} (h : r.safe = false) :
    s.retired f i r = f.retire (s.det f) i.size r := by
  rw [State.retired, h]
  exact if_neg Bool.false_ne_true

theorem State.retire_fibres (s : State) (f : Fibre) (i : Instr) (r : Retire) :
    (s.retire f i r).fibres = s.fibres.map fun g => if g.uid = f.uid then s.retired f i r else g := by
  have hset : (s.setF (s.retired f i r)).fibres = s.fibres.map fun g =>
      if g.uid = (s.retired f i r).uid then s.retired f i r else g := rfl
  rw [State.retire_eq_setF, State.laneDone_fibres, hset, State.retired_uid]

/-- The other fibres stand as a fibre retires, in their order. -/
theorem State.retire_fibres_others (s : State) (f : Fibre) (i : Instr) (r : Retire) :
    ((s.retire f i r).fibres.filter fun g => g.uid != f.uid) = s.fibres.filter fun g => g.uid != f.uid := by
  rw [State.retire_fibres]
  induction s.fibres with
  | nil => rfl
  | cons g l ih =>
    by_cases hg : g.uid = f.uid
    · simp only [List.map_cons, hg, if_true]
      rw [List.filter_cons_of_neg (by simp), List.filter_cons_of_neg (by simp [hg]), ih]
    · simp only [List.map_cons, hg, if_false]
      rw [List.filter_cons_of_pos (by simpa using hg), List.filter_cons_of_pos (by simpa using hg), ih]

theorem State.retire_fibres_self {s : State} {f : Fibre} (i : Instr) (r : Retire) (hd : (s.fibres.map (·.uid)).Nodup)
    (hf : f ∈ s.fibres) : ((s.retire f i r).fibres.filter fun g => g.uid == f.uid) = [s.retired f i r] := by
  have hfilter : (s.fibres.map fun g => if g.uid = f.uid then s.retired f i r else g).filter (fun g => g.uid == f.uid) =
      (s.fibres.filter fun g => g.uid == f.uid).map fun _ => s.retired f i r := by
    induction s.fibres with
    | nil => rfl
    | cons g l ih =>
      by_cases hg : g.uid = f.uid
      · simp [hg, ih]
      · simp [hg, ih]
  rw [State.retire_fibres, hfilter, filter_uid_eq hd hf]
  rfl

/-! `loose`. -/

/-- What `laneBack` leaves of a fibre: one that waits for lanes waits for this one no longer. -/
def Fibre.waitsNot (f g : Fibre) : Fibre := match f.held, g.wait with
  | some _, .lanes us => { g with wait := .lanes (us.filter (· ≠ f.uid)) }
  | _, _ => g

theorem State.laneBack_fibres (s : State) (f : Fibre) : (s.laneBack f).fibres = s.fibres.map f.waitsNot := by
  unfold State.laneBack
  cases hh : f.held with
  | none =>
    have hid : f.waitsNot = id := funext fun g => by simp [Fibre.waitsNot, hh]
    rw [hid, List.map_id]
    rfl
  | some p =>
    refine List.map_congr_left fun g _ => ?_
    simp only [Fibre.waitsNot, hh]
    cases g.wait <;> rfl

theorem Fibre.waitsNot_uid (f g : Fibre) : (f.waitsNot g).uid = g.uid := by
  unfold Fibre.waitsNot
  split <;> rfl

theorem State.laneBack_fib (s : State) (f : Fibre) (n : Nat) :
    (s.laneBack f).fib? n = (s.fib? n).map f.waitsNot := by
  unfold State.fib?
  rw [State.laneBack_fibres]
  exact find_map_uid _ _ _ f.waitsNot_uid

theorem State.laneBack_mem (s : State) (f : Fibre) : (s.laneBack f).mem = s.mem := by
  unfold State.laneBack
  split <;> rfl

/-- A lane that is back, or has left, is waited for by no cross-lane instruction of its batch. -/
theorem State.laneBack_back {s : State} {f : Fibre} (h : f.held ≠ none) :
    ∀ b ∈ (s.laneBack f).batches, ∀ p ∈ b.back, f.uid ∉ p.2 := by
  have hnone : f.held.isNone = false := by
    cases hh : f.held with
    | none => exact absurd hh h
    | some p => rfl
  unfold State.laneBack
  rw [hnone]
  intro b hb p hp
  obtain ⟨t, -, rfl⟩ := List.mem_map.mp hb
  obtain ⟨q, -, rfl⟩ := List.mem_map.mp (List.mem_of_mem_filter hp)
  simp

theorem State.leaveBatch_fib (s : State) (f : Fibre) (n : Nat) : (s.leaveBatch f).fib? n = s.fib? n := by
  unfold State.leaveBatch
  split <;> rfl

theorem State.leaveBatch_mem (s : State) (f : Fibre) : (s.leaveBatch f).mem = s.mem := by
  unfold State.leaveBatch
  split <;> rfl

/-- The batches of which a lane has left are old ones, with that lane gone and the same instances held back. -/
theorem State.leaveBatch_batches {s : State} {f : Fibre} {b k : Nat} (h : f.held = some (b, k)) :
    ∀ t ∈ (s.leaveBatch f).batches, ∃ t' ∈ s.batches, t.back = t'.back ∧ t.id = t'.id ∧
      (t.id = b → t.lanes = t'.lanes.set k .gone) := by
  unfold State.leaveBatch
  rw [h]
  intro t ht
  obtain ⟨t', ht', rfl⟩ := List.mem_map.mp (List.mem_of_mem_filter ht)
  refine ⟨t', ht', ?_⟩
  split
  · exact ⟨rfl, rfl, fun _ => rfl⟩
  · next hne => exact ⟨rfl, rfl, fun he => absurd he hne⟩

/-- The state in which a fibre has left its batch. -/
def State.loosed (s : State) (f : Fibre) (h : Hdr) : State :=
  (((s.retire f (.loose h) { stall := h.s.toNat }).laneBack f).leaveBatch f).modF f.uid fun g => { g with held := none }

theorem State.loosed_fib (s : State) (f : Fibre) (h : Hdr) (n : Nat) : (s.loosed f h).fib? n =
    (((s.retire f (.loose h) { stall := h.s.toNat }).fib? n).map f.waitsNot).map fun g =>
      if g.uid = f.uid then { g with held := none } else g := by
  have hmod := State.modF_fib (((s.retire f (.loose h) { stall := h.s.toNat }).laneBack f).leaveBatch f) f.uid
    (fun g => { g with held := none }) n fun _ => rfl
  rw [State.leaveBatch_fib, State.laneBack_fib] at hmod
  exact hmod

theorem Fibre.retire_wait (f : Fibre) (det : Bool) (size : Nat) (r : Retire) : (f.retire det size r).wait = .none := by
  obtain ⟨_, _, _, _, _, _, -, h⟩ := f.retire_eq det size r
  rw [h]
  rfl

theorem State.loosed_self {s : State} {f : Fibre} {h : Hdr} (hf : s.fib? f.uid = some f) :
    (s.loosed f h).fib? f.uid = some { f.retire (s.det f) 4 { stall := h.s.toNat } with held := none } := by
  have hret := State.retire_fib_self s f (.loose h) { stall := h.s.toNat } (by rw [hf]; rfl)
  rw [State.retired_of_unsafe _ _ _ rfl] at hret
  have hstand : f.waitsNot (f.retire (s.det f) 4 { stall := h.s.toNat }) =
      f.retire (s.det f) 4 { stall := h.s.toNat } := by
    simp only [Fibre.waitsNot, Fibre.retire_wait]
    cases f.held <;> rfl
  rw [State.loosed_fib, hret]
  simp only [Instr.size, Option.map_some, hstand, Fibre.retire_uid, if_true]

theorem State.loosed_other {s : State} {f : Fibre} {h : Hdr} {n : Nat} (hn : n ≠ f.uid) :
    (s.loosed f h).fib? n = (s.fib? n).map f.waitsNot := by
  rw [State.loosed_fib, State.retire_fib_other _ _ _ _ hn]
  cases hg : s.fib? n with
  | none => rfl
  | some g =>
    have hne : g.uid ≠ f.uid := State.fib_uid hg ▸ hn
    simp only [Option.map_some, Fibre.waitsNot_uid, hne, if_false]

theorem State.loosed_back {s : State} {f : Fibre} {h : Hdr} (hheld : f.held ≠ none) :
    ∀ b ∈ (s.loosed f h).batches, ∀ p ∈ b.back, f.uid ∉ p.2 := by
  obtain ⟨⟨i, k⟩, hk⟩ := Option.ne_none_iff_exists'.mp hheld
  intro b hb p hp
  obtain ⟨b', hb', hback, -, -⟩ := State.leaveBatch_batches hk b hb
  exact State.laneBack_back hheld b' hb' p (hback ▸ hp)

theorem State.loosed_gone {s : State} {f : Fibre} {h : Hdr} {b k : Nat} (hheld : f.held = some (b, k)) :
    ∀ t ∈ (s.loosed f h).batches, t.id = b → k < t.lanes.length → t.lanes[k]? = some .gone := by
  intro t ht hid hk
  obtain ⟨t', -, -, -, hlanes⟩ := State.leaveBatch_batches hheld t ht
  rw [hlanes hid, List.length_set] at hk
  rw [hlanes hid, List.getElem?_set_self hk]

/-- Settles O23. -/
theorem issueControlResults : Obligations.IssueControlResults := by
  intro s f h n a
  refine ⟨fun hi => ?_, fun hi => ?_, fun hi => lane_next hi, fun hi => lane_next hi⟩
  · refine ⟨_, issue_next hi, rfl, fun hd => ?_⟩
    obtain ⟨hf, -⟩ := State.cur_fib hi.1
    have hself := State.retire_fibres_self (.yield h) { stall := h.s.toNat } hd (State.fib_mem hf)
    rw [State.retired_of_unsafe _ _ _ rfl] at hself
    change ((s.retire f (.yield h) { stall := h.s.toNat }).fibres.filter fun g => g.uid != f.uid) ++
      ((s.retire f (.yield h) { stall := h.s.toNat }).fibres.filter fun g => g.uid == f.uid) = _
    rw [State.retire_fibres_others, hself]
    rfl
  · obtain ⟨hf, -⟩ := State.cur_fib hi.1
    refine ⟨s.loosed f h, issue_next hi, ?_, State.loosed_self hf, fun n hn => State.loosed_other hn,
      fun hheld => State.loosed_back hheld, fun b k hheld => State.loosed_gone hheld⟩
    change (((s.retire f (.loose h) { stall := h.s.toNat }).laneBack f).leaveBatch f).mem = s.mem
    rw [State.leaveBatch_mem, State.laneBack_mem, State.retire_mem]

end Sys2Proof.Machine

/-! O28, O29 (R51, R58 to R62, R131, R159, R273): special registers, safe points, `nap` and `cwait`. -/

namespace Sys2Proof.Machine

/-- Settles O28. -/
theorem specialRegisterResults : Obligations.SpecialRegisterResults := by
  intro s f h idx r
  refine ⟨fun hi => ?_, fun hi => issue_next hi, rfl, rfl, rfl, rfl, rfl, rfl, fun hh => ?_, fun b k hh => ?_, rfl,
    fun k h1 h2 => ?_, fun ho => if_pos ho, fun l hl => ⟨fun ho => ?_, fun hd => ?_, fun hd => ?_⟩⟩
  · refine (issue_next hi).trans (congrArg (fun g => Host.Outcome.next (s.retire g (.smov h idx r) { stall := h.s.toNat })) ?_)
    by_cases hb : idx = 0x0B
    · rw [if_pos hb, if_pos hb]
    · rw [if_neg hb, if_neg hb]
      by_cases h8 : idx = 0x08
      · rw [if_pos (.inl h8), if_pos h8, h8]
        rfl
      · by_cases ha : idx = 0x0A
        · rw [if_pos (.inr ha), if_neg h8, if_pos ha, ha]
          rfl
        · rw [if_neg (not_or.mpr ⟨h8, ha⟩), if_neg h8, if_neg ha]
  · simp only [State.special, hh]
  · simp only [State.special, hh]
  · interval_cases k <;> rfl
  · simp only [State.special, State.bset, ho, ne_eq, not_true, if_false, hl]
  · simp only [State.special, State.hbp, hl, hd, if_true]
  · simp only [State.special, State.hbp, hl, hd]
    rfl

/-! Safe points. -/

section
variable {s t : State} {f : Fibre} {l : Launch} {i : Instr} {h : Hdr} {n : Nat} {e : List Byte}

theorem safeptAt_next (hi : s.Issues f i h.g [] []) (hl : s.launch? f.launch = some l) (hn : n < l.kern.nsafe) :
    safeptAt i h n s = .next (withEntry s f i l n fun s e =>
      if (e.getD 9 0).toNat < f.frames.length then s.trapAt f i .frame
      else s.rebody l f n fun s f => match s.published l f n with
        | some (x, pc) => (s.setF (x.enter { f.flush with pc := pc, waited := false, inst := none })).laneDone f
        | none =>
          s.retire { f with tiles := e.getD 8 0xFF } i
            { stall := h.s.toNat, safe := true, live := .ofNat 64 (Dec.leNat (e.take 8)) ||| f.rangeMask }) := by
  have hb : (s.cur?.bind fun f => s.launch? f.launch) = some l := by rw [hi.1]; exact hl
  unfold safeptAt
  rw [hb]
  dsimp only
  rw [if_neg (Nat.not_le.mpr hn)]
  exact issue_next hi

theorem safeptAt_undef (hc : s.cur? = some f) (hl : s.launch? f.launch = some l) (hn : l.kern.nsafe ≤ n) :
    safeptAt i h n s = .next (s.trapAt f i .undef) := by
  have hb : (s.cur?.bind fun f => s.launch? f.launch) = some l := by rw [hc]; exact hl
  unfold safeptAt
  rw [hb]
  dsimp only
  rw [if_pos hn, undefined_next hc]

theorem withEntry_ok {k : State → List Byte → State}
    (hread : vread s (some f.core) (coreQuad f.core) l.asid 0 (l.kern.safetab + 16 * n) 8 2 = .ok e t) :
    withEntry s f i l n k = if badEntry e then t.trapAt f i .frame else k t e := by
  rw [withEntry, hread]

theorem rebody_none {k : State → Fibre → State} (hr : f.rebody = false) : s.rebody l f n k = k s f := by
  rw [State.rebody, hr]
  rfl

end

/-- A swap to a translated body moves the loops to the addresses that stand for theirs. -/
theorem Fibre.across_loop (f : Fibre) (p q : List (Nat × Nat)) {m : Nat} (hm : m < 3) :
    (f.across p q).loop m = { f.loop m with start := standsFor p (f.loop m).start, stop := standsFor q (f.loop m).stop } := by
  interval_cases m <;> rfl

theorem Fibre.setLoop_eq (f : Fibre) (n : Nat) (l : Loop) :
    ∃ a b c, f.setLoop n l = { f with lc0 := a, lc1 := b, lc2 := c } := by
  unfold Fibre.setLoop
  split
  · exact ⟨l, f.lc1, f.lc2, rfl⟩
  · exact ⟨f.lc0, l, f.lc2, rfl⟩
  · exact ⟨f.lc0, f.lc1, l, rfl⟩

theorem XBody.enter_eq (x : XBody) (f : Fibre) :
    ∃ a b c, x.enter f = { f with lc0 := a, lc1 := b, lc2 := c, craco := false, xlat := true, vector := x.vector } := by
  unfold XBody.enter Fibre.across
  rw [List.foldl_cons, List.foldl_cons, List.foldl_cons, List.foldl_nil]
  obtain ⟨_, _, _, h0⟩ := f.setLoop_eq 0 { f.loop 0 with
    start := standsFor x.pairs (f.loop 0).start, stop := standsFor x.ends (f.loop 0).stop }
  rw [h0]
  generalize hg : ({ f with lc0 := _, lc1 := _, lc2 := _ } : Fibre) = g
  obtain ⟨_, _, _, h1⟩ := g.setLoop_eq 1 { g.loop 1 with
    start := standsFor x.pairs (g.loop 1).start, stop := standsFor x.ends (g.loop 1).stop }
  rw [h1]
  generalize hk : ({ g with lc0 := _, lc1 := _, lc2 := _ } : Fibre) = k
  obtain ⟨_, _, _, h2⟩ := k.setLoop_eq 2 { k.loop 2 with
    start := standsFor x.pairs (k.loop 2).start, stop := standsFor x.ends (k.loop 2).stop }
  rw [h2, ← hk, ← hg]
  exact ⟨_, _, _, rfl⟩

theorem XBody.enter_loop (x : XBody) (f : Fibre) {m : Nat} (hm : m < 3) : (x.enter f).loop m =
    { f.loop m with start := standsFor x.pairs (f.loop m).start, stop := standsFor x.ends (f.loop m).stop } := by
  rw [← f.across_loop x.pairs x.ends hm]
  match m with
  | 0 | 1 | _ + 2 => rfl

/-- The fibre as a swap leaves it. -/
def XBody.swapped (x : XBody) (f : Fibre) (pc : Nat) : Fibre :=
  x.enter { f.flush with pc := pc, waited := false, inst := none }

theorem Fibre.flush_loop (f : Fibre) (m : Nat) : f.flush.loop m = f.loop m := by
  match m with
  | 0 => exact f.flush_lc0
  | 1 => exact f.flush_lc1
  | _ + 2 => exact f.flush_lc2

theorem XBody.swapped_loop (x : XBody) (f : Fibre) (pc : Nat) {m : Nat} (hm : m < 3) : (x.swapped f pc).loop m =
    { f.loop m with start := standsFor x.pairs (f.loop m).start, stop := standsFor x.ends (f.loop m).stop } := by
  have hstand : ({ f.flush with pc := pc, waited := false, inst := none } : Fibre).loop m = f.loop m := by
    rw [← f.flush_loop m]
    match m with
    | 0 | 1 | _ + 2 => rfl
  rw [XBody.swapped, x.enter_loop _ hm, hstand]

/-- Everything that a swap leaves of the fibre. -/
theorem XBody.swapped_eq (x : XBody) (f : Fibre) (pc : Nat) : ∃ a b c, x.swapped f pc = { f.flush with
    pc := pc, waited := false, inst := none, lc0 := a, lc1 := b, lc2 := c, craco := false, xlat := true
    vector := x.vector } := by
  obtain ⟨a, b, c, h⟩ := x.enter_eq { f.flush with pc := pc, waited := false, inst := none }
  exact ⟨a, b, c, h⟩

section
variable {s t : State} {f : Fibre} {l : Launch} {i : Instr} {h : Hdr} {n : Nat} {e : List Byte}

/-- A good entry and no translated body: the instruction retires as a safe point. -/
theorem safeptAt_retires (hi : s.Issues f i h.g [] []) (hl : s.launch? f.launch = some l) (hn : n < l.kern.nsafe)
    (hread : vread s (some f.core) (coreQuad f.core) l.asid 0 (l.kern.safetab + 16 * n) 8 2 = .ok e t)
    (hgood : badEntry e = false) (hdepth : f.frames.length ≤ (e.getD 9 0).toNat) (hre : f.rebody = false)
    (hpub : t.published l f n = none) : safeptAt i h n s = .next (t.retire { f with tiles := e.getD 8 0xFF } i
      { stall := h.s.toNat, safe := true, live := .ofNat 64 (Dec.leNat (e.take 8)) ||| f.rangeMask }) := by
  rw [safeptAt_next hi hl hn, withEntry_ok hread, if_neg (by simp [hgood]), if_neg (Nat.not_lt.mpr hdepth),
    rebody_none hre]
  simp only [hpub]

/-- A good entry and a translated body: the fibre goes over to it. -/
theorem safeptAt_swaps (hi : s.Issues f i h.g [] []) (hl : s.launch? f.launch = some l) (hn : n < l.kern.nsafe)
    (hread : vread s (some f.core) (coreQuad f.core) l.asid 0 (l.kern.safetab + 16 * n) 8 2 = .ok e t)
    (hgood : badEntry e = false) (hdepth : f.frames.length ≤ (e.getD 9 0).toNat) (hre : f.rebody = false)
    {x : XBody} {pc : Nat} (hpub : t.published l f n = some (x, pc)) :
    safeptAt i h n s = .next ((t.setF (x.swapped f pc)).laneDone f) := by
  rw [safeptAt_next hi hl hn, withEntry_ok hread, if_neg (by simp [hgood]), if_neg (Nat.not_lt.mpr hdepth),
    rebody_none hre]
  simp only [hpub]
  rfl

/-- A bad entry, or more frames than it has, traps FRAME. -/
theorem safeptAt_traps (hi : s.Issues f i h.g [] []) (hl : s.launch? f.launch = some l) (hn : n < l.kern.nsafe)
    (hread : vread s (some f.core) (coreQuad f.core) l.asid 0 (l.kern.safetab + 16 * n) 8 2 = .ok e t)
    (hbad : badEntry e = true ∨ (e.getD 9 0).toNat < f.frames.length) :
    safeptAt i h n s = .next (t.trapAt f i .frame) := by
  rw [safeptAt_next hi hl hn, withEntry_ok hread]
  by_cases hb : badEntry e = true
  · rw [if_pos hb]
  · rw [if_neg hb, if_pos (hbad.resolve_left hb)]

/-! `nap` and `cwait`. -/

/-- A `nap` that waits (R51). -/
def napWaits (f : Fibre) (h : Hdr) (n : Nat) : Bool := decide (n ≠ 0) || decide (h.s ≠ 0) || f.craco || f.xlat

theorem napWaits_iff (f : Fibre) (h : Hdr) (n : Nat) :
    napWaits f h n = true ↔ n ≠ 0 ∨ h.s ≠ 0 ∨ f.craco = true ∨ f.xlat = true := by
  simp only [napWaits, Bool.or_eq_true, decide_eq_true_eq, or_assoc]

theorem napAt_next (hi : s.Issues f i h.g [] []) : napAt i h n s =
    .next (if f.wait = .napOver ∨ (!napWaits f h n) = true then
      s.retire f i { stall := h.s.toNat, nap := n, safe := napWaits f h n } else s.block f .nap) := issue_next hi

theorem napAt_over (hi : s.Issues f i h.g [] []) (hw : f.wait = .napOver) (hn : napWaits f h n = true) :
    napAt i h n s = .next (s.retire f i { stall := h.s.toNat, nap := n, safe := true }) := by
  rw [napAt_next hi, if_pos (.inl hw), hn]

theorem napAt_waits (hi : s.Issues f i h.g [] []) (hw : f.wait = .none) (hn : napWaits f h n = true) :
    napAt i h n s = .next (s.block f .nap) := by
  rw [napAt_next hi, if_neg (by simp [hw, hn])]

theorem napAt_passes (hi : s.Issues f i h.g [] []) (hn : napWaits f h n = false) :
    napAt i h n s = .next (s.retire f i { stall := h.s.toNat, nap := n }) := by
  rw [napAt_next hi, if_pos (.inr (by simp [hn])), hn]

theorem exec_cwait {c : Cls} {k : BitVec 6} (hi : s.Issues f (.cwait h c k) h.g [] []) :
    exec (.cwait h c k) s = .next (
      if f.counter c ≤ k.toNat then
        match f.mxFaults.find? fun d => c == .mx && !f.trapMode && decide (d.acc + k.toNat ≤ f.mxSeq) with
        | some d => s.mxTrap f d
        | none => s.retire f (.cwait h c k) { stall := h.s.toNat, flush := true, safe := true }
      else s.block f (.counter c k.toNat)) := (issue_next hi).trans rfl

end

/-- The count of a `safept` or a `nap`, with or without an `ext` (R31). -/
def wideCount (v : Option (BitVec 19)) (n : BitVec 13) : Nat := match v with
  | none => n.toNat
  | some v => (v ++ n).toNat

theorem exec_safept (s : State) (h : Hdr) (v : Option (BitVec 19)) (n : BitVec 13) :
    exec (withExt v (.safept h n)) s = safeptAt (withExt v (.safept h n)) h (wideCount v n) s := by
  cases v <;> rfl

theorem exec_nap (s : State) (h : Hdr) (v : Option (BitVec 19)) (n : BitVec 13) :
    exec (withExt v (.nap h n)) s = napAt (withExt v (.nap h n)) h (wideCount v n) s := by
  cases v <;> rfl

/-- Settles O29. -/
theorem safePointAndWaitResults : Obligations.SafePointAndWaitResults := by
  intro s f l h v n c k wide
  have hwide : wideCount v n = wide := rfl
  clear_value wide
  refine ⟨fun e t hi hl hn hread => ⟨fun hgood hdepth hre hpub => ?_, fun x pc hgood hdepth hre hpub => ?_,
    fun hbad => ?_⟩, fun hi hl hn => ?_, fun hi => ⟨fun hw hnap => ?_, fun hw hnap => ?_, fun hz hs hcr hx => ?_⟩,
    fun hi => ⟨fun hle hmx => ?_, fun hgt => ?_⟩⟩
  · rw [exec_safept, hwide]
    exact safeptAt_retires hi hl hn hread hgood hdepth hre hpub
  · refine ⟨x.swapped f pc, by rw [exec_safept, hwide]; exact safeptAt_swaps hi hl hn hread hgood hdepth hre hpub, ?_⟩
    have hloop {m : Nat} (hm : m < 3) := x.swapped_loop f pc hm
    obtain ⟨a, b, d, heq⟩ := x.swapped_eq f pc
    rw [heq] at hloop ⊢
    exact ⟨f.flush_uid, rfl, rfl, rfl, rfl, f.flush_frames, f.flush_outs, f.flush_hbc, f.flush_dist, rfl, fun _ => rfl,
      fun _ => rfl, fun m hm => hloop hm⟩
  · rw [exec_safept, hwide]
    exact safeptAt_traps hi hl hn hread hbad
  · rw [exec_safept, hwide]
    exact safeptAt_undef hi.1 hl hn
  · rw [exec_nap, hwide]
    exact napAt_over hi hw ((napWaits_iff f h wide).mpr (hnap.imp_right .inl))
  · rw [exec_nap, hwide]
    exact napAt_waits hi hw ((napWaits_iff f h wide).mpr hnap)
  · have hpass := napAt_passes hi (n := wide) (by simp [napWaits, hz, hs, hcr, hx])
    rw [hs, hz] at hpass
    rw [exec_nap, hwide, hz]
    exact hpass
  · rw [exec_cwait hi, if_pos hle, hmx]
    rfl
  · rw [exec_cwait hi, if_neg (Nat.not_le.mpr hgt)]

end Sys2Proof.Machine

/-! O30 (R158, R228, R240, R254): a first pass under DET is a release, and the records that it closes are those that a key store
of another fibre, its Widens applied, has raced with: the store takes note of the race (log 98). The statement has every access
stand. -/

namespace Sys2Proof.Machine

/-- The fibre that passes, in a launch under DET. -/
def passing : Fibre := bench.fibre 2 1
/-- A key store of another fibre, its Widens applied (R240). -/
def widenedStore : Access where
  id := 9
  fib := 3
  iaddr := 0
  insn := 0
  loc := .dram 0x1000
  addr := 0x1000
  size := 4
  op := .store 0
  acq := false
  rel := false
  scope := .dev
  tag := 0
  win := none
  set := none
  wseq := 0
  widened := true
  fate := none
/-- A complete record of the passing fibre: a write of the word that the store writes. -/
def passedRecord : RegionRec := ⟨2, 1, 0, 0, 0x400, .write, .dev, 0, 5, true, false, 0⟩
/-- The machine with both fibres, the store under way and the record. -/
def passingState : State := { State.reset with
  launches := [{ bench.launch 1 with flags := 1 }]
  fibres := [passing, bench.fibre 3 1]
  accs := [widenedStore]
  records := [passedRecord]
  cur := 2 }

theorem passing_issues : passingState.Issues passing (.tokPass ⟨0, 3⟩) 0 [] [] :=
  ⟨rfl, by simp, by decide, rfl, fun h => by cases h⟩

/-- The accesses after an instruction that goes on. -/
def accsAfter (r : Result) : List Access :=
  match r with
  | .next u => u.accs
  | .fault _ | .refused _ => []

/-- The store has met the record that the pass closes. -/
theorem accsAfter_pass :
    accsAfter (exec (.tokPass ⟨0, 3⟩) passingState) = [{ widenedStore with fate := some 11 }] := by
  decide +kernel

/-- Refutes O30: the release of a first pass marks a key store that it raced with, so that not every access stands. -/
theorem not_tokenPass : ¬Obligations.TokenPass := by
  intro h
  obtain ⟨-, hpass⟩ := h.1 passingState passing ⟨0, 3⟩ passing_issues
  obtain ⟨u, -, hexec, -, -, -, -, -, haccs, -⟩ := hpass rfl rfl
  have hafter := accsAfter_pass
  rw [hexec] at hafter
  have hstand : [widenedStore] = [{ widenedStore with fate := some 11 }] := haccs.symm.trans hafter
  exact absurd hstand (by decide)

end Sys2Proof.Machine

/-! O26 (R49, R113, R114): joins. -/

namespace Sys2Proof.Machine

/-! The read of an accumulator (R49). -/

/-- Under CHK a register of the range's accumulator is read early. -/
def Fibre.AccEarly (f : Fibre) (r : Range) : Prop :=
  r.op ≠ .none ∧ f.chk = true ∧ ∃ c ∈ accRegs r.acc r.ty, f.early (rc c) = true

theorem Fibre.earlyCodes_eq_nil {f : Fibre} {r : Range} (h : ∀ c ∈ accRegs r.acc r.ty, f.early (rc c) = false) :
    ((accRegs r.acc r.ty).map rc).filter f.early = [] := by
  simpa [List.filter_eq_nil_iff] using h

section
variable {s k : State} {f : Fibre} {i : Instr} {r : Range} {reads : Bool}

theorem State.readsAcc_pass (h : reads = true → ¬f.AccEarly r) : s.readsAcc f i r reads k = k := by
  refine if_neg fun hc => ?_
  simp only [Bool.and_eq_true, decide_eq_true_eq, Bool.not_eq_true', List.isEmpty_eq_false_iff] at hc
  obtain ⟨⟨⟨hreads, hop⟩, hchk⟩, hne⟩ := hc
  refine h hreads ⟨hop, hchk, ?_⟩
  by_contra hnone
  exact hne (Fibre.earlyCodes_eq_nil fun c hcm => by simpa using fun he => hnone ⟨c, hcm, he⟩)

/-- The trap of an early read names the lowest register read early. -/
theorem State.readsAcc_trap (hreads : reads = true) (h : f.AccEarly r) :
    ∃ c ∈ accRegs r.acc r.ty, f.early (rc c) = true ∧ (∀ e ∈ accRegs r.acc r.ty, f.early (rc e) = true → rc c ≤ rc e) ∧
      s.readsAcc f i r reads k = s.trapAt f i .stallShort (rc c) := by
  obtain ⟨hop, hchk, c, hc, he⟩ := h
  have hin : rc c ∈ ((accRegs r.acc r.ty).map rc).filter f.early := by simpa using ⟨⟨c, hc, rfl⟩, he⟩
  have hle : ∀ c ∈ ((accRegs r.acc r.ty).map rc).filter f.early, c ≤ 255 := by
    intro c hc
    obtain ⟨g, -, rfl⟩ := List.mem_map.mp (List.mem_of_mem_filter hc)
    exact (rc_lt g).le.trans (by decide)
  obtain ⟨hmin, hall⟩ := minCode_spec (List.ne_nil_of_mem hin) hle
  obtain ⟨hmap, hearly⟩ := List.mem_filter.mp hmin
  obtain ⟨m, hm, hmc⟩ := List.mem_map.mp hmap
  rw [← hmc] at hall hearly
  refine ⟨m, hm, hearly, fun e hem hee => hall _ (List.mem_filter.mpr ⟨List.mem_map_of_mem hem, hee⟩), ?_⟩
  rw [hmc]
  refine if_pos ?_
  simp [hreads, hop, hchk, List.ne_nil_of_mem hin]

end

theorem drained_pass {s k : State} {f : Fibre} (houts : f.outs = []) (hmx : f.mxFaults = []) : drained s f k = k := by
  rw [drained, houts, hmx]
  rfl

section
variable {s : State} {f : Fibre} {r : Range} {k : State → Fibre → State}

theorem joinRange_ended (h : ∀ c ∈ r.kids, s.ended c = true) :
    joinRange s f r k = k (r.kids.foldl (consume r) (s, f)).1 (r.kids.foldl (consume r) (s, f)).2 :=
  if_pos (List.all_eq_true.mpr h)

theorem joinRange_blocks (h : ∃ c ∈ r.kids, s.ended c = false) : joinRange s f r k = s.blockJoin f r.kids := by
  obtain ⟨c, hc, he⟩ := h
  exact if_neg fun hall => by simp [List.all_eq_true.mp hall c hc] at he

end

/-! Each join where it issues. -/

/-- What `join.r` does with the fibre's frames. -/
def joinRAt (h : Hdr) (s : State) (f : Fibre) : State :=
  match f.inline, f.frames with
  | false :: rest, _ => s.retire { f with inline := rest } (.joinR h) { stall := h.s.toNat }
  | true :: _, _ => s.trapAt f (.joinR h) .frame
  | [], [] => if f.origin = .range then doneRange s f (.joinR h) h else s.trapAt f (.joinR h) .frame
  | [], .call _ _ _ :: _ => s.trapAt f (.joinR h) .frame
  | [], .range r :: rest =>
    s.readsAcc f (.joinR h) r (!r.kids.isEmpty) <| joinRange s f r fun s f =>
      s.retire { f with frames := rest } (.joinR h)
        { stall := h.s.toNat, flush := !r.kids.isEmpty, safe := !r.kids.isEmpty }

/-- What `join.c` does with the fibre's frames. -/
def joinCAt (h : Hdr) (pd : Pred) (a : Reg) (s : State) (f : Fibre) : State :=
  match f.inline, f.frames with
  | true :: rest, _ => s.retire ({ f with inline := rest }.now (pc8 pd) 0) (.joinC h pd a) { stall := h.s.toNat }
  | false :: _, _ => s.trapAt f (.joinC h pd a) .frame
  | [], [] => s.trapAt f (.joinC h pd a) .frame
  | [], .range _ :: _ => s.trapAt f (.joinC h pd a) .frame
  | [], .call _ _ none :: rest =>
    s.retire ({ f with frames := rest }.now (pc8 pd) 0) (.joinC h pd a) { stall := h.s.toNat }
  | [], .call _ _ (some c) :: rest =>
    match s.fib? c with
    | none => s.retire ({ f with frames := rest }.now (pc8 pd) 0) (.joinC h pd a) { stall := h.s.toNat }
    | some k =>
      if k.status = .ended then
        let g := ({ f with frames := rest }.now (pc8 pd) 1).setRegNow a (k.result.setWidth 32)
        let t := s.sticky g (k.sat.getLsbD 0) (k.sat.getLsbD 1)
        { t.1 with fibres := t.1.fibres.filter fun x => x.uid != c }.retire t.2 (.joinC h pd a)
          { stall := h.s.toNat, flush := true, safe := true }
      else s.blockJoin f [c]

section
variable {s : State} {f : Fibre} {h : Hdr} {pd : Pred} {a : Reg}

theorem exec_joinR (hi : s.Issues f (.joinR h) h.g [] []) : exec (.joinR h) s = .next (joinRAt h s f) :=
  (issue_next hi).trans rfl

theorem exec_joinC (hi : s.Issues f (.joinC h pd a) h.g [a] []) :
    exec (.joinC h pd a) s = .next (joinCAt h pd a s f) := (issue_next hi).trans rfl

variable {r : Range} {rest : List Frame}

theorem joinRAt_range (hin : f.inline = []) (hfr : f.frames = .range r :: rest) : joinRAt h s f =
    s.readsAcc f (.joinR h) r (!r.kids.isEmpty) (joinRange s f r fun s f =>
      s.retire { f with frames := rest } (.joinR h)
        { stall := h.s.toNat, flush := !r.kids.isEmpty, safe := !r.kids.isEmpty }) := by
  simp only [joinRAt, hin, hfr]

/-- `join.r` of a range child with no frame of its own ends it. -/
theorem joinRAt_child (hin : f.inline = []) (hfr : f.frames = []) (ho : f.origin = .range) :
    joinRAt h s f = doneRange s f (.joinR h) h := by
  simp only [joinRAt, hin, hfr, ho, if_true]

theorem joinRAt_inline {more : List Bool} (hin : f.inline = false :: more) :
    joinRAt h s f = s.retire { f with inline := more } (.joinR h) { stall := h.s.toNat } := by
  simp only [joinRAt, hin]

/-- The frames at which `join.r` has nothing to join. -/
theorem joinRAt_trap (hbad : (∃ more, f.inline = true :: more) ∨
    (f.inline = [] ∧ ∃ t as c, f.frames = .call t as c :: rest) ∨
    (f.inline = [] ∧ f.frames = [] ∧ f.origin ≠ .range)) : joinRAt h s f = s.trapAt f (.joinR h) .frame := by
  rcases hbad with ⟨more, hin⟩ | ⟨hin, t, as, c, hfr⟩ | ⟨hin, hfr, ho⟩
  · simp only [joinRAt, hin]
  · simp only [joinRAt, hin, hfr]
  · simp only [joinRAt, hin, hfr, ho, if_false]

/-- The frames at which `join.c` has nothing to join. -/
theorem joinCAt_trap (hbad : (∃ more, f.inline = false :: more) ∨ (f.inline = [] ∧ ∃ q, f.frames = .range q :: rest) ∨
    (f.inline = [] ∧ f.frames = [])) : joinCAt h pd a s f = s.trapAt f (.joinC h pd a) .frame := by
  rcases hbad with ⟨more, hin⟩ | ⟨hin, q, hfr⟩ | ⟨hin, hfr⟩
  · simp only [joinCAt, hin]
  · simp only [joinCAt, hin, hfr]
  · simp only [joinCAt, hin, hfr]

/-- A range child whose counters are 0 goes on to its children. -/
theorem doneRange_eq {i : Instr} (hroot : f.root = some r) (hearly : ¬f.AccEarly r) (houts : f.outs = [])
    (hmx : f.mxFaults = []) : doneRange s f i h =
      joinRange s f r fun s f => s.finish f i h (if r.op = .none then 0 else f.getAcc r) := by
  unfold doneRange
  rw [hroot]
  exact (State.readsAcc_pass fun _ => hearly).trans (drained_pass houts hmx)

end

/-- Settles O26. -/
theorem joinResults : Obligations.JoinResults := by
  intro s f h pd a rest r t args k
  refine ⟨fun hi hin hfr hk he => ?_, fun hi hin hfr hall he => ?_, fun hi hin hfr hex he => ?_, fun hi hin hfr => ?_,
    fun hi hin hfr hk hend => ?_, fun hi hin hfr hk hend => ?_,
    fun hi => ⟨fun more hin => ?_, fun hbad => ?_, fun hin hfr ho hroot houts hmx he hex => ?_⟩,
    fun hi => ⟨fun more hin => ?_, fun hbad => ?_⟩⟩
  · obtain ⟨c, hc, hcode, hmin, htrap⟩ := State.readsAcc_trap (s := s) (i := .joinR h) (reads := !r.kids.isEmpty)
      (by simpa using hk) he
    exact ⟨c, hc, hcode, hmin, by rw [exec_joinR hi, joinRAt_range hin hfr, htrap]⟩
  · rw [exec_joinR hi, joinRAt_range hin hfr, State.readsAcc_pass fun hr => he (by simpa using hr),
      joinRange_ended hall]
  · rw [exec_joinR hi, joinRAt_range hin hfr, State.readsAcc_pass fun _ => he, joinRange_blocks hex]
    rfl
  · rw [exec_joinC hi]
    simp only [joinCAt, hin, hfr]
  · rw [exec_joinC hi]
    simp only [joinCAt, hin, hfr, hk, hend, if_true]
  · rw [exec_joinC hi]
    simp only [joinCAt, hin, hfr, hk, hend, if_false]
    rfl
  · rw [exec_joinR hi, joinRAt_inline hin]
  · rw [exec_joinR hi, joinRAt_trap hbad]
  · rw [exec_joinR hi, joinRAt_child hin hfr ho, doneRange_eq hroot he houts hmx, joinRange_blocks hex]
    rfl
  · rw [exec_joinC hi]
    simp only [joinCAt, hin]
  · rw [exec_joinC hi, joinCAt_trap hbad]

end Sys2Proof.Machine

/-! What reads and writes of memory change besides what they are for: one relation for the steps of coherence, one for reads with
their translations and checks, and one for writes. -/

namespace Sys2Proof.Machine

/-- Only L1 and directory states and fills differ. -/
def State.Coh (s t : State) : Prop := t = { s with l1 := t.l1, dir := t.dir, proxyDir := t.proxyDir, fills := t.fills }

/-- Only what a read may change differs: coherence, errors and their records at the host, translations, snoops and the plazas it meets. -/
def State.Reads (s t : State) : Prop :=
  t = { s with
    l1 := t.l1, dir := t.dir, proxyDir := t.proxyDir, fills := t.fills, poison := t.poison, errors := t.errors, bar := t.bar
    msix := t.msix, hostMem := t.hostMem, tlb := t.tlb, l1tlb := t.l1tlb, ctxSeen := t.ctxSeen, snoops := t.snoops
    plazas := t.plazas, awayPlazas := t.awayPlazas, wsLines := t.wsLines, replies := t.replies }

/-- Only what a write may change differs: what a read may, the memories, and what is kept beside them. -/
def State.Writes (s t : State) : Prop :=
  t = { s with
    l1 := t.l1, dir := t.dir, proxyDir := t.proxyDir, fills := t.fills, poison := t.poison, errors := t.errors, bar := t.bar
    msix := t.msix, hostMem := t.hostMem, tlb := t.tlb, l1tlb := t.l1tlb, ctxSeen := t.ctxSeen, snoops := t.snoops
    plazas := t.plazas, awayPlazas := t.awayPlazas, wsLines := t.wsLines, replies := t.replies
    mem := t.mem, spMem := t.spMem, tbMem := t.tbMem, checks := t.checks, cxlLines := t.cxlLines, mx := t.mx }

section
variable {s t u : State}

theorem State.Coh.refl (s : State) : s.Coh s := rfl
theorem State.Reads.refl (s : State) : s.Reads s := rfl
theorem State.Writes.refl (s : State) : s.Writes s := rfl

theorem State.Coh.trans (h : s.Coh t) (k : t.Coh u) : s.Coh u := by
  unfold State.Coh at *
  rw [h] at k
  exact k
theorem State.Reads.trans (h : s.Reads t) (k : t.Reads u) : s.Reads u := by
  unfold State.Reads at *
  rw [h] at k
  exact k
theorem State.Writes.trans (h : s.Writes t) (k : t.Writes u) : s.Writes u := by
  unfold State.Writes at *
  rw [h] at k
  exact k

theorem State.Coh.reads (h : s.Coh t) : s.Reads t := by
  unfold State.Coh at h
  rw [h]
  rfl
theorem State.Reads.writes (h : s.Reads t) : s.Writes t := by
  unfold State.Reads at h
  rw [h]
  rfl

theorem State.Coh.foldl {α : Type} (l : List α) {v : State → α → State} (s : State) (hv : ∀ (t : State) a, t.Coh (v t a)) :
    s.Coh (l.foldl v s) := by
  induction l generalizing s with
  | nil => exact State.Coh.refl s
  | cons a l ih => exact (hv s a).trans (ih _)
theorem State.Reads.foldl {α : Type} (l : List α) {v : State → α → State} (s : State) (hv : ∀ (t : State) a, t.Reads (v t a)) :
    s.Reads (l.foldl v s) := by
  induction l generalizing s with
  | nil => exact State.Reads.refl s
  | cons a l ih => exact (hv s a).trans (ih _)
theorem State.Writes.foldl {α : Type} (l : List α) {v : State → α → State} (s : State) (hv : ∀ (t : State) a, t.Writes (v t a)) :
    s.Writes (l.foldl v s) := by
  induction l generalizing s with
  | nil => exact State.Writes.refl s
  | cons a l ih => exact (hv s a).trans (ih _)

end

/-! What stands through a write: the fibres and what they hold, and what is under way. -/

section
variable {s t : State} (h : s.Writes t)
include h

theorem State.Writes.fibres : t.fibres = s.fibres := by
  unfold State.Writes at h
  rw [h]
theorem State.Writes.launches : t.launches = s.launches := by
  unfold State.Writes at h
  rw [h]
theorem State.Writes.hostFaults : t.hostFaults = s.hostFaults := by
  unfold State.Writes at h
  rw [h]
theorem State.Writes.nextId : t.nextId = s.nextId := by
  unfold State.Writes at h
  rw [h]
theorem State.Writes.accs : t.accs = s.accs := by
  unfold State.Writes at h
  rw [h]
theorem State.Writes.records : t.records = s.records := by
  unfold State.Writes at h
  rw [h]

theorem State.Writes.fib (n : Nat) : t.fib? n = s.fib? n := by
  simp only [State.fib?, h.fibres]

theorem State.Writes.launch (n : Nat) : t.launch? n = s.launch? n := by
  simp only [State.launch?, h.launches]

theorem State.Writes.recordAddr (f : Fibre) : t.recordAddr f = s.recordAddr f := by
  simp only [State.recordAddr, h.launch]

end

/-! Coherence. -/

section
variable (s : State)

theorem State.setDir_coh (p : Option Nat) (e : DirEntry) : s.Coh (s.setDir p e) := by
  unfold State.setDir
  split <;> rfl

theorem State.setL1_coh (x k : Nat) (v : L1) : s.Coh (s.setL1 x k v) := rfl

theorem State.killFills_coh (x k : Nat) : s.Coh (s.killFills x k) := rfl

theorem State.invalidateCore_coh (k x : Nat) : s.Coh (s.invalidateCore k x) := rfl

theorem State.invalidate_coh (k y : Nat) : s.Coh (s.invalidate k y) := by
  unfold State.invalidate
  split
  · rfl
  · exact (State.Coh.foldl _ s fun t c => t.invalidateCore_coh k c).trans ((State.setDir_coh _ _ _).trans rfl)

theorem State.recallAll_coh (p : Option Nat) (k : Nat) (x : Option Nat) : s.Coh (s.recallAll p k x) :=
  State.Coh.foldl _ s fun t y => t.invalidate_coh k y

theorem State.homeClear_coh (k : Nat) : s.Coh (s.homeClear k) := (s.recallAll_coh none k none).trans (State.setDir_coh _ _ _)

theorem State.probeCore_coh (k x : Nat) : s.Coh (s.probeCore k x).1 := by
  unfold State.probeCore
  split
  · rfl
  · rfl
  · rfl
  · rfl
  · split <;> rfl

theorem State.probeProxy_coh (k d : Nat) : s.Coh (s.probeProxy k d).1 := by
  unfold State.probeProxy
  extract_lets e r
  have hr : s.Coh r.1 := by
    unfold r
    split
    · dsimp only
      exact (s.probeCore_coh k _).trans (State.setDir_coh _ _ _)
    · rfl
    · rfl
    · rfl
  split
  · exact hr
  · exact hr.trans rfl
  · exact hr.trans rfl
  · split <;> exact hr.trans rfl
  · split <;> exact hr.trans rfl

theorem State.share_coh (p : Option Nat) (k y : Nat) (joins : List Nat) : s.Coh (s.share p k y joins) := by
  unfold State.share
  dsimp only
  split
  · exact (s.probeCore_coh k y).trans (State.setDir_coh _ _ _)
  · exact (s.probeProxy_coh k _).trans (State.setDir_coh _ _ _)

theorem State.homePeek_coh (k : Nat) : s.Coh (s.homePeek k) := by
  unfold State.homePeek
  split
  · exact s.share_coh _ _ _ _
  all_goals rfl

theorem State.peekAll_coh (l : Loc) (n : Nat) : s.Coh (s.peekAll l n) := State.Coh.foldl _ s fun t k => t.homePeek_coh k

theorem State.serveS_coh (p : Option Nat) (x k : Nat) : s.Coh (s.serveS p x k).1 := by
  unfold State.serveS
  dsimp only
  split
  · split <;> exact s.setDir_coh _ _
  · exact s.setDir_coh _ _
  · split
    · rfl
    · exact s.share_coh _ _ _ _
  · split
    · rfl
    · exact s.setDir_coh _ _

theorem State.serveM_coh (p : Option Nat) (x k : Nat) : s.Coh (s.serveM p x k) :=
  (s.recallAll_coh p k (some x)).trans ((State.setDir_coh _ _ _).trans rfl)

/-! Checks, errors and translations. -/

theorem State.setHost_reads (a : Nat) (bs : List Byte) : s.Reads (s.setBytes (.host a) bs) := by
  unfold State.setBytes
  generalize memWrite s.hostMem a bs = m
  rfl

theorem makeError_reads (kind agent die addr : Nat) : s.Reads (makeError s kind agent die addr) := by
  unfold makeError
  extract_lets seq r t u
  have ht : s.Reads t := rfl
  have hu : t.Reads u := by
    unfold u
    split
    · exact State.setHost_reads _ _ _
    · rfl
  clear_value t u
  split
  · exact ht
  · exact ht.trans (hu.trans rfl)

theorem checkRead_reads (l : Loc) (n agent : Nat) : s.Reads (checkRead s l n agent).1 := by
  unfold checkRead
  split
  · refine State.Reads.foldl _ s fun t k => ?_
    split
    · exact State.Reads.trans (t := { t with poison := k :: t.poison }) rfl (makeError_reads _ _ _ _ _)
    · rfl
  · rfl

theorem State.snoop_reads (ks : List (Nat × Bool)) : s.Reads (s.snoop ks) := rfl

theorem State.uncached_reads (pa n agent : Nat) : s.Reads (s.uncached pa n agent).1 := by
  unfold State.uncached
  dsimp only
  split
  · exact (s.peekAll_coh _ _).reads.trans (checkRead_reads _ _ _ _)
  · rfl

theorem State.uncachedAll_reads (agent : Nat) (as : List Nat) : s.Reads (s.uncachedAll agent as).1 := by
  induction as generalizing s with
  | nil => rfl
  | cons a as ih =>
    unfold State.uncachedAll
    dsimp only
    split
    · exact (s.uncached_reads a 8 agent).trans (ih _)
    · exact s.uncached_reads a 8 agent

theorem State.tlbFill_reads (e : TlbEntry) : s.Reads (s.tlbFill e) := by
  unfold State.tlbFill
  split <;> rfl

theorem State.l1Fill_reads (c : Nat) (e : TlbEntry) : s.Reads (s.l1Fill c e) := by
  unfold State.l1Fill
  split <;> rfl

theorem State.ctxSee_reads (asid : Nat) : s.Reads (s.ctxSee asid) := by
  unfold State.ctxSee
  split <;> rfl

theorem State.findEntry_reads (core : Option Nat) (quad asid va : Nat) : s.Reads (s.findEntry core quad asid va).1 := by
  unfold State.findEntry
  extract_lets keep r t
  have hkeep (t : State) (e : TlbEntry) : t.Reads (keep t e) := by
    unfold keep
    cases core with
    | none => rfl
    | some c => exact t.l1Fill_reads c e
  have hr : s.Reads r.1 := s.uncachedAll_reads _ _
  have ht : s.Reads t := hr.trans (State.ctxSee_reads _ _)
  clear_value t r
  split
  · rfl
  · split
    · exact hkeep _ _
    · split
      · exact hr
      · split
        · exact ht.trans ((t.tlbFill_reads _).trans (hkeep _ _))
        · exact ht

/-! Plazas that an access meets. -/

theorem State.causeAbort_reads (h : DWord) (c : Nat) : s.Reads (s.causeAbort h c) := by
  unfold State.causeAbort
  split
  · rfl
  · split
    · split <;> rfl
    · rfl

theorem meetLine_reads (tag : DWord) (writes : Bool) (w : WsLine) : s.Reads (meetLine s tag writes w).1 := by
  unfold meetLine
  split
  · rfl
  · split
    · rfl
    · dsimp only
      split
      · split
        · rfl
        · split
          · exact s.causeAbort_reads _ _
          · rfl
      · split
        · split
          · rfl
          · split
            · exact s.causeAbort_reads _ _
            · split
              · rfl
              · exact s.causeAbort_reads _ _
        · rfl

theorem meetLines_reads (tag : DWord) (writes : Bool) (ws : List WsLine) : s.Reads (meetLines s tag writes ws).1 := by
  induction ws generalizing s with
  | nil => rfl
  | cons w ws ih =>
    unfold meetLines
    dsimp only
    split
    · exact meetLine_reads s tag writes w
    · exact (meetLine_reads s tag writes w).trans (ih _)

theorem State.meet_reads (l : Loc) (n : Nat) (tag : DWord) (writes : Bool) : s.Reads (s.meet l n tag writes).1 := by
  unfold State.meet
  split
  · exact meetLines_reads _ _ _ _
  · rfl

/-! Writes. -/

theorem State.setBytes_writes (l : Loc) (bs : List Byte) : s.Writes (s.setBytes l bs) := by
  cases l <;> rfl

theorem widenOne_writes (b : Binding) (c v : Nat) : s.Writes (widenOne s b c v) := by
  unfold widenOne
  extract_lets a t u
  have ht : s.Coh t := State.Coh.foldl _ s fun t k => t.homeClear_coh k
  exact ht.reads.writes.trans rfl

theorem State.widen_writes (pa n : Nat) : s.Writes (s.widen pa n) := by
  refine State.Writes.foldl _ s fun t b => ?_
  split
  · exact State.Writes.foldl _ t fun t i => widenOne_writes _ _ _ _
  · rfl

theorem State.perform_writes (l : Loc) (bs : List Byte) : s.Writes (s.perform l bs) := by
  cases l with
  | dram pa => exact State.Writes.trans (t := s.store pa bs) rfl (State.widen_writes _ _ _)
  | _ => rfl

theorem State.homeWrite_writes (l : Loc) (bs : List Byte) : s.Writes (s.homeWrite l bs) :=
  (State.Coh.foldl _ s fun t k => t.homeClear_coh k).reads.writes.trans (State.perform_writes _ _ _)

theorem State.setObj_writes (l : Loc) (o : Obj) : s.Writes (s.setObj l o) := s.homeWrite_writes l o.bytes

end

end Sys2Proof.Machine

/-! What registrations, arrivals, departures and completed phases leave of the fibres (R148, R152). -/

namespace Sys2Proof.Machine

/-! What the operations at a fibre's end leave of a state: each changes the parts named. -/

theorem State.touch_eq (s : State) (a : NewAcc) : ∃ ts, s.touch a = { s with touched := ts } := by
  unfold State.touch
  dsimp only
  split
  · exact ⟨_, rfl⟩
  · exact ⟨s.touched, rfl⟩

theorem State.detectorDrains_eq (s : State) (d : Nat) : ∃ df, s.detectorDrains d = { s with detectorFull := df } := by
  unfold State.detectorDrains
  split
  · exact ⟨_, rfl⟩
  · exact ⟨s.detectorFull, rfl⟩

/-- A registration adds records and last touchers, and may end that a table has given up. -/
theorem State.register_ok {s t : State} {a : NewAcc} (h : s.register a = .ok t) :
    ∃ rs ts df, t = { s with records := rs, touched := ts, detectorFull := df } := by
  unfold State.register at h
  split at h
  · cases h
    exact ⟨s.records, s.touched, s.detectorFull, rfl⟩
  · extract_lets u rs p at h
    have hu : ∃ df, u = { s with detectorFull := df } := by
      unfold u
      split
      · exact s.detectorDrains_eq _
      · exact ⟨s.detectorFull, rfl⟩
    obtain ⟨df, hdf⟩ := hu
    split at h
    · cases h
    · split at h
      · obtain ⟨ts, hts⟩ := ({ u with records := p.1 ++ p.2 } : State).touch_eq a
        refine ⟨p.1 ++ p.2, ts, df, ?_⟩
        rw [← Registered.ok.inj h, hts, hdf]
      · split at h
        · obtain ⟨ts, hts⟩ := u.touch_eq a
          refine ⟨s.records, ts, df, ?_⟩
          rw [← Registered.ok.inj h, hts, hdf]
        · cases h

theorem State.homeWrite_sp (s : State) (k : Nat) (bs : List Byte) :
    s.homeWrite (.sp k) bs = { s with spMem := memWrite s.spMem k bs } := by
  simp only [State.homeWrite, Loc.sectors, List.foldl_nil, State.perform, State.setBytes]

/-! What arrivals, departures and completed phases change of a fibre that they do not name: its wait and what belongs to its set,
but not the set itself. Of an object in scratchpad they change no memory of device or host. -/

/-- The fibre's name, place and set stand, and it gains no arrival. -/
def Fibre.Rolled (g h : Fibre) : Prop := h.uid = g.uid ∧ h.pc = g.pc ∧ h.set = g.set ∧ (g.arrived = none → h.arrived = none)

theorem Fibre.Rolled.refl (g : Fibre) : g.Rolled g := ⟨rfl, rfl, rfl, id⟩

theorem Fibre.Rolled.trans {f g h : Fibre} (hfg : f.Rolled g) (hgh : g.Rolled h) : f.Rolled h := by
  obtain ⟨hu, hp, hs, ha⟩ := hfg
  obtain ⟨hu', hp', hs', ha'⟩ := hgh
  exact ⟨hu'.trans hu, hp'.trans hp, hs'.trans hs, ha' ∘ ha⟩

/-- What operations at the object l leave of the fibres, one by one, and of the memories where l lies in scratchpad. -/
def State.Rolled (l : Loc) (s t : State) : Prop :=
  List.Forall₂ Fibre.Rolled s.fibres t.fibres ∧ ∀ k, l = .sp k → t.mem = s.mem ∧ t.hostMem = s.hostMem

section
variable {l : Loc} {s t u : State}

theorem State.rolled_of_map {u : Fibre → Fibre} (hf : t.fibres = s.fibres.map u) (hm : t.mem = s.mem)
    (hh : t.hostMem = s.hostMem) (hu : ∀ g : Fibre, g.Rolled (u g)) : s.Rolled l t := by
  refine ⟨?_, fun _ _ => ⟨hm, hh⟩⟩
  rw [hf, List.forall₂_map_right_iff]
  exact List.forall₂_same.mpr fun g _ => hu g

theorem State.rolled_congr (hf : t.fibres = s.fibres) (hm : t.mem = s.mem) (hh : t.hostMem = s.hostMem) : s.Rolled l t :=
  State.rolled_of_map (u := id) (hf.trans (List.map_id _).symm) hm hh Fibre.Rolled.refl

theorem State.Rolled.refl (l : Loc) (s : State) : s.Rolled l s := State.rolled_congr rfl rfl rfl

theorem State.Rolled.trans (h : s.Rolled l t) (k : t.Rolled l u) : s.Rolled l u := by
  obtain ⟨hf, hm⟩ := h
  obtain ⟨kf, km⟩ := k
  have htrans : ∀ {as bs cs : List Fibre}, List.Forall₂ Fibre.Rolled as bs → List.Forall₂ Fibre.Rolled bs cs →
      List.Forall₂ Fibre.Rolled as cs := by
    intro as bs cs hab
    induction hab generalizing cs with
    | nil => exact id
    | cons hd _ ih =>
      intro hbc
      cases hbc with
      | cons hd' htl => exact .cons (hd.trans hd') (ih htl)
  refine ⟨htrans hf kf, fun n hn => ?_⟩
  obtain ⟨h1, h2⟩ := hm n hn
  obtain ⟨k1, k2⟩ := km n hn
  exact ⟨k1.trans h1, k2.trans h2⟩

theorem State.Rolled.foldl {α : Type} (as : List α) {v : State → α → State} (s : State) (hv : ∀ t a, State.Rolled l t (v t a)) :
    s.Rolled l (as.foldl v s) := by
  induction as generalizing s with
  | nil => exact State.Rolled.refl l s
  | cons a as ih => exact (hv s a).trans (ih _)

/-- A fibre that has a name has it afterwards too, rolled. -/
theorem State.Rolled.fib {g : Fibre} {n : Nat} (h : s.Rolled l t) (hg : s.fib? n = some g) :
    ∃ g', t.fib? n = some g' ∧ g.Rolled g' := by
  obtain ⟨hf, -⟩ := h
  unfold State.fib? at *
  generalize s.fibres = as, t.fibres = bs at hf hg ⊢
  induction hf with
  | nil => cases hg
  | cons hd _ ih =>
    obtain ⟨hu, -⟩ := id hd
    simp only [List.find?_cons, hu] at hg ⊢
    split at hg
    · cases hg
      exact ⟨_, rfl, hd⟩
    · exact ih hg

theorem State.modF_rolled (s : State) (n : Nat) {u : Fibre → Fibre} (hu : ∀ g : Fibre, g.Rolled (u g)) : s.Rolled l (s.modF n u) :=
  State.rolled_of_map (u := fun g => if g.uid = n then u g else g) rfl rfl rfl fun g => by
    split
    · exact hu g
    · exact .refl g

end

section
variable (s : State) (l : Loc)

theorem State.setObj_rolled (o : Obj) : s.Rolled l (s.setObj l o) := by
  refine ⟨?_, ?_⟩
  · rw [(s.setObj_writes l o).fibres]
    exact List.forall₂_same.mpr fun g _ => .refl g
  · rintro k rfl
    rw [State.setObj, State.homeWrite_sp]
    exact ⟨rfl, rfl⟩

theorem State.markSat_rolled : s.Rolled l (s.markSat l) := by
  refine ⟨?_, ?_⟩
  · rw [State.markSat, (State.setBytes_writes s _ _).fibres]
    exact List.forall₂_same.mpr fun g _ => .refl g
  · rintro k rfl
    exact ⟨rfl, rfl⟩

theorem State.opened_rolled (o : Obj) : s.Rolled l (s.opened l o).1 := by
  unfold State.opened
  split
  · exact State.rolled_congr rfl rfl rfl
  · exact .refl l s

theorem Fibre.mapWait_rolled (u : Wait → Wait) (g : Fibre) : g.Rolled (g.mapWait u) := ⟨rfl, rfl, rfl, id⟩

theorem State.collect_rolled (set : Loc) (m : Nat) (h : DWord) (fs : List Fibre) (sat : Bool) :
    s.Rolled l (s.collect set m h fs sat) := by
  unfold State.collect
  extract_lets all s'
  have hall (t : State) {u : Fibre → Fibre} (hu : ∀ g : Fibre, g.Rolled (u g)) : t.Rolled l (all t u) :=
    State.Rolled.foldl _ _ fun t g => State.modF_rolled t g.uid hu
  split
  · exact hall _ (Fibre.mapWait_rolled _)
  · split
    · exact State.Rolled.trans (t := { s with nextId := s.nextId + 1 }) (State.rolled_congr rfl rfl rfl)
        (hall _ (Fibre.mapWait_rolled _))
    · split
      · exact hall _ (Fibre.mapWait_rolled _)
      · refine State.Rolled.trans ?_ (hall _ fun g => ⟨rfl, rfl, rfl, id⟩)
        unfold s'
        split
        · exact State.rolled_congr rfl rfl rfl
        · exact .refl l s

theorem Fibre.stillHeld_rolled (key : Nat) (g : Fibre) : g.Rolled (g.stillHeld l key) := by
  unfold Fibre.stillHeld
  split
  · split
    · exact Fibre.mapWait_rolled _ g
    · exact ⟨rfl, rfl, rfl, id⟩
  · exact .refl g

theorem State.formBatches_rolled (set : Loc) : s.Rolled l (s.formBatches set) := by
  unfold State.formBatches
  extract_lets s' ms
  have hs : s.Rolled l s' := State.rolled_of_map rfl rfl rfl fun g => Fibre.stillHeld_rolled set _ g
  refine hs.trans ?_
  refine State.Rolled.foldl _ _ fun t us => ?_
  extract_lets b t'
  refine State.Rolled.trans (t := t') (State.rolled_congr rfl rfl rfl) ?_
  refine State.Rolled.foldl _ _ fun t n => State.modF_rolled t _ ?_
  exact fun _ => ⟨rfl, rfl, rfl, id⟩

theorem State.phaseDone_rolled (o : Obj) : s.Rolled l (s.phaseDone l o) := by
  unfold State.phaseDone
  extract_lets p arrivals here satOf forms plz s' go cleared freed s''
  have hplz : s.Rolled l s' := by
    unfold s'
    clear_value plz
    split
    · exact .refl l s
    · split
      · split
        · exact State.collect_rolled _ _ _ _ _ _ _
        · exact State.Rolled.foldl _ _ fun t g => State.modF_rolled t _ (Fibre.mapWait_rolled _)
      · exact .refl l s
  have hcleared (g : Fibre) : g.Rolled (cleared g) := by
    unfold cleared
    split
    · exact ⟨rfl, rfl, rfl, fun _ => rfl⟩
    · exact .refl g
  have hfib : s'.Rolled l s'' := State.rolled_of_map (u := fun f => cleared (go f)) rfl rfl rfl fun g =>
    (Fibre.mapWait_rolled _ g).trans (hcleared (go g))
  split
  · exact (hplz.trans hfib).trans (State.formBatches_rolled _ l l)
  · exact hplz.trans hfib

theorem State.completeOnce_rolled : s.Rolled l (s.completeOnce l) := by
  unfold State.completeOnce
  extract_lets o
  split
  · exact ((s.opened_rolled l o).trans (State.setObj_rolled _ l _)).trans (State.phaseDone_rolled _ l _)
  · exact .refl l s

theorem State.closeDrained_rolled (n : Nat) : s.Rolled l (s.closeDrained n) := by
  unfold State.closeDrained
  split
  · exact .refl l s
  · split
    · exact .refl l s
    · exact State.Rolled.trans (State.rolled_congr rfl rfl rfl) (State.modF_rolled _ _ fun g => ⟨rfl, rfl, rfl, id⟩)

theorem State.completeOp_rolled (n op : Nat) : s.Rolled l (s.completeOp n op) :=
  (State.modF_rolled s n (u := fun g => g.complete op) fun _ => ⟨rfl, rfl, rfl, id⟩).trans (State.closeDrained_rolled _ l n)

theorem State.tlbSettle_rolled (op : Nat) : s.Rolled l (s.tlbSettle op) := by
  unfold State.tlbSettle
  extract_lets t
  split <;> exact State.rolled_congr rfl rfl rfl

theorem State.leaveMx_rolled (e : MxEntry) : s.Rolled l (s.leaveMx e) := by
  unfold State.leaveMx
  refine State.Rolled.trans (t := s.closeOwner e.id) (State.rolled_congr rfl rfl rfl) ?_
  refine (State.tlbSettle_rolled _ l e.id).trans ?_
  exact (State.completeOp_rolled _ l e.fib e.id).trans (State.rolled_congr rfl rfl rfl)

theorem State.leaveOp_rolled (op : Nat) : s.Rolled l (s.leaveOp op) := by
  unfold State.leaveOp
  split
  · exact s.leaveMx_rolled l _
  · exact .refl l s

theorem State.letIn_rolled (a : HeldArrival) (ha : a.loc = l) : s.Rolled l (s.letIn a) := by
  subst ha
  exact ((State.setObj_rolled _ _ _).trans (State.completeOnce_rolled _ _)).trans (State.leaveOp_rolled _ _ _)

theorem State.admitHeld_rolled (n : Nat) : s.Rolled l (s.admitHeld l n) := by
  induction n generalizing s with
  | zero => exact .refl l s
  | succ n ih =>
    unfold State.admitHeld
    split
    · exact .refl l s
    · next a ha =>
      have hloc : a.loc = l := beq_iff_eq.mp (List.find?_some (p := fun b : HeldArrival => b.loc == l) ha)
      extract_lets o t
      have ht : s.Rolled l t := State.rolled_congr rfl rfl rfl
      split
      · refine State.Rolled.trans ?_ (ih _)
        refine State.Rolled.trans ?_ (State.leaveOp_rolled _ l a.op)
        split
        · exact ht.trans (hloc ▸ State.markSat_rolled t a.loc)
        · exact ht
      · split
        · exact .refl l s
        · exact (ht.trans (State.letIn_rolled _ l a hloc)).trans (ih _)

theorem State.completeObj_rolled : s.Rolled l (s.completeObj l) := by
  unfold State.completeObj
  split
  · exact (State.completeOnce_rolled _ l).trans (State.admitHeld_rolled _ l _)
  · exact .refl l s

/-- An arrival leaves every fibre its name, its place and its set. -/
theorem State.arrive_fib {f g : Fibre} {n : Nat} {k : PhaseKind} (hg : s.fib? n = some g) :
    ∃ g', (s.arrive f l k).fib? n = some g' ∧ g'.uid = g.uid ∧ g'.pc = g.pc ∧ g'.set = g.set := by
  unfold State.arrive
  extract_lets t o u v
  have hu : s.Rolled l u := State.Rolled.trans (t := t) (State.rolled_congr rfl rfl rfl) (State.setObj_rolled _ l _)
  obtain ⟨g1, hg1, hu1, hp1, hs1, -⟩ := hu.fib hg
  have hv : ∃ g2, v.fib? n = some g2 ∧ g2.uid = g1.uid ∧ g2.pc = g1.pc ∧ g2.set = g1.set := by
    unfold v
    split
    · rw [State.modF_fib, hg1, Option.map_some]
      · refine ⟨_, rfl, ?_⟩
        split <;> exact ⟨rfl, rfl, rfl⟩
      · exact fun _ => rfl
    · exact ⟨g1, hg1, rfl, rfl, rfl⟩
  obtain ⟨g2, hg2, hu2, hp2, hs2⟩ := hv
  obtain ⟨g3, hg3, hu3, hp3, hs3, -⟩ := (State.completeObj_rolled v l).fib hg2
  exact ⟨g3, hg3, hu3.trans (hu2.trans hu1), hp3.trans (hp2.trans hp1), hs3.trans (hs2.trans hs1)⟩

theorem State.depart_none {f : Fibre} (hset : f.set = none) : s.depart f = s := by
  unfold State.depart
  rw [hset]

theorem State.depart_some {f : Fibre} (hset : f.set = some l) : ∃ o, s.depart f =
    (((s.release f.uid).setObj l o).modF f.uid fun f => { f with set := none, arrived := none, votes := 0 }).completeObj l := by
  unfold State.depart
  rw [hset]
  exact ⟨_, rfl⟩

/-- A fibre that departs is in no set and has no arrival. -/
theorem State.depart_fib {f g : Fibre} (hset : f.set = some l) (hg : s.fib? f.uid = some g) :
    ∃ g', (s.depart f).fib? f.uid = some g' ∧ g'.uid = g.uid ∧ g'.pc = g.pc ∧ g'.set = none ∧ g'.arrived = none := by
  obtain ⟨o, ho⟩ := State.depart_some s l hset
  have hu : s.Rolled l ((s.release f.uid).setObj l o) :=
    State.Rolled.trans (t := s.release f.uid) (State.rolled_congr rfl rfl rfl) (State.setObj_rolled _ l _)
  obtain ⟨g1, hg1, hu1, hp1, -⟩ := hu.fib hg
  have hmod := State.modF_fib ((s.release f.uid).setObj l o) f.uid
    (fun f => { f with set := none, arrived := none, votes := 0 }) f.uid fun _ => rfl
  rw [hg1, Option.map_some, if_pos (State.fib_uid hg1)] at hmod
  obtain ⟨g2, hg2, hu2, hp2, hs2, ha2⟩ := (State.completeObj_rolled _ l).fib hmod
  exact ⟨g2, ho ▸ hg2, hu2.trans hu1, hp2.trans hp1, hs2, ha2 rfl⟩

/-- A departure from a set in scratchpad changes no memory of device or host. -/
theorem State.depart_mems {f : Fibre} {k : Nat} (hset : f.set = some (.sp k)) :
    (s.depart f).mem = s.mem ∧ (s.depart f).hostMem = s.hostMem := by
  obtain ⟨o, ho⟩ := State.depart_some s (.sp k) hset
  obtain ⟨-, hm⟩ := State.completeObj_rolled
    (((s.release f.uid).setObj (.sp k) o).modF f.uid fun f => { f with set := none, arrived := none, votes := 0 }) (.sp k)
  obtain ⟨-, hm'⟩ := State.setObj_rolled (s.release f.uid) (.sp k) o
  obtain ⟨h1, h2⟩ := hm k rfl
  obtain ⟨h3, h4⟩ := hm' k rfl
  rw [ho]
  exact ⟨h1.trans h3, h2.trans h4⟩

end

end Sys2Proof.Machine

/-! O27 (R110 to R117, R152): the ends of fibres, and `spawn`. -/

namespace Sys2Proof.Machine

theorem State.moveToken_eq (s : State) (id n : Nat) : ∃ ls, s.moveToken id n = { s with launches := ls } := by
  induction n generalizing s with
  | zero => exact ⟨s.launches, rfl⟩
  | succ n ih =>
    unfold State.moveToken
    split
    · split
      · exact ih _
      · exact ⟨s.launches, rfl⟩
    · exact ⟨s.launches, rfl⟩

theorem State.leaveBatch_eq (s : State) (f : Fibre) :
    s.leaveBatch f = { s with batches := (s.leaveBatch f).batches } := by
  unfold State.leaveBatch
  split <;> rfl

/-- What an ended fibre keeps. -/
def Fibre.over (result : DWord) (g : Fibre) : Fibre :=
  { g with
    status := .ended, result := result, wait := .none, waited := false, inst := none, fresh := false, rejoin := none
    frames := [], inline := [], root := none, held := none, seg := none, stopped := false }

/-- After its departure the end of a fibre changes its own entry, and no memory. -/
theorem State.endFibre_eq (s : State) (f : Fibre) (result : DWord) : ∃ bs rs as ls ps ws qs,
    s.endFibre f result = { (s.depart f).modF f.uid (Fibre.over result) with
      batches := bs, records := rs, accs := as, launches := ls, plazas := ps, awayPlazas := ws, replies := qs } := by
  obtain ⟨ls, hl⟩ :=
    ((((s.depart f).leaveBatch f).closeFibre f.uid).modF f.uid (Fibre.over result)).moveToken_eq f.launch
    (((((s.depart f).leaveBatch f).closeFibre f.uid).modF f.uid (Fibre.over result)).blocks.length + 1)
  have heq : s.endFibre f result =
      (((((s.depart f).leaveBatch f).closeFibre f.uid).modF f.uid (Fibre.over result)).moveToken f.launch
        (((((s.depart f).leaveBatch f).closeFibre f.uid).modF f.uid (Fibre.over result)).blocks.length + 1)).freePlazas := rfl
  rw [heq, hl, State.leaveBatch_eq]
  exact ⟨_, _, _, _, _, _, _, rfl⟩

/-! The fold of the children's results. -/

/-- In no set, or in one that lies in scratchpad. -/
def Fibre.inSp (f : Fibre) : Prop := f.set = none ∨ ∃ k, f.set = some (.sp k)

/-- What a fold of children leaves, of the state and the fibre that it began with. -/
def Consumed (kids : List Nat) (t w : State × Fibre) : Prop :=
  w.1.mem = t.1.mem ∧ w.1.hostMem = t.1.hostMem ∧ (t.2.set = none → w.1.spMem = t.1.spMem) ∧ w.2.uid = t.2.uid ∧
    w.2.set = t.2.set ∧ ∀ n, n ∉ kids → w.1.fib? n = t.1.fib? n

theorem Fibre.setAcc_uid (f : Fibre) (r : Range) (v : DWord) : (f.setAcc r v).uid = f.uid := by
  unfold Fibre.setAcc
  split
  · rfl
  · split <;> simp [Fibre.setPairNow, Fibre.setRegNow]

theorem Fibre.setAcc_set (f : Fibre) (r : Range) (v : DWord) : (f.setAcc r v).set = f.set := by
  unfold Fibre.setAcc
  split
  · rfl
  · split <;> simp [Fibre.setPairNow, Fibre.setRegNow]

/-- Sticky bits of a fibre whose set lies in scratchpad. -/
theorem State.sticky_consumed {s : State} {f : Fibre} (hin : f.inSp) (conv ovf : Bool) :
    Consumed [] (s, f) (s.sticky f conv ovf) := by
  unfold State.sticky
  split
  · rcases hin with hset | ⟨k, hset⟩
    · simp only [hset]
      exact ⟨rfl, rfl, fun _ => rfl, rfl, rfl, fun _ _ => rfl⟩
    · simp only [hset]
      split
      · exact ⟨rfl, rfl, fun _ => rfl, rfl, rfl, fun _ _ => rfl⟩
      · exact ⟨rfl, rfl, fun hn => (by cases hset.symm.trans hn), rfl, rfl, fun _ _ => rfl⟩
  · exact ⟨rfl, rfl, fun _ => rfl, rfl, rfl, fun _ _ => rfl⟩

theorem State.fib_filter_ne (s : State) {n kid : Nat} (hn : n ≠ kid) :
    ({ s with fibres := s.fibres.filter fun x => x.uid != kid } : State).fib? n = s.fib? n := by
  unfold State.fib?
  rw [List.find?_filter]
  congr 1
  funext g
  by_cases hg : g.uid = n
  · simp [hg, hn]
  · simp [hg]

theorem consume_consumed {r : Range} {t : State × Fibre} (kid : Nat) (hin : t.2.inSp) :
    Consumed [kid] t (consume r t kid) := by
  unfold consume
  split
  · exact ⟨rfl, rfl, fun _ => rfl, rfl, rfl, fun _ _ => rfl⟩
  · next c _ =>
    extract_lets v g u
    have huid : g.uid = t.2.uid := by
      unfold g
      split
      · rfl
      · exact Fibre.setAcc_uid _ _ _
    have hset : g.set = t.2.set := by
      unfold g
      split
      · rfl
      · exact Fibre.setAcc_set _ _ _
    have hg : g.inSp := by simpa only [Fibre.inSp, hset] using hin
    obtain ⟨hmem, hhost, hsp, huid', hset', hfib⟩ :=
      State.sticky_consumed (s := t.1) hg (c.sat.getLsbD 0) (c.sat.getLsbD 1 || v.2)
    refine ⟨hmem, hhost, fun hn => hsp (hset.trans hn), huid'.trans huid, hset'.trans hset, fun n hn => ?_⟩
    exact (State.fib_filter_ne _ (by simpa using hn)).trans (hfib n (List.not_mem_nil))

theorem foldl_consumed {r : Range} (kids : List Nat) {t : State × Fibre} (hin : t.2.inSp) :
    Consumed kids t (kids.foldl (consume r) t) := by
  induction kids generalizing t with
  | nil => exact ⟨rfl, rfl, fun _ => rfl, rfl, rfl, fun _ _ => rfl⟩
  | cons kid kids ih =>
    obtain ⟨hmem, hhost, hsp, huid, hset, hfib⟩ := consume_consumed (r := r) kid hin
    have hin' : (consume r t kid).2.inSp := by simpa only [Fibre.inSp, hset] using hin
    obtain ⟨hmem', hhost', hsp', huid', hset', hfib'⟩ := ih hin'
    refine ⟨hmem'.trans hmem, hhost'.trans hhost, fun hn => (hsp' (hset.trans hn)).trans (hsp hn), huid'.trans huid,
      hset'.trans hset, fun n hn => ?_⟩
    rw [List.mem_cons, not_or] at hn
    exact (hfib' n hn.2).trans (hfib n (by simpa using hn.1))

/-! The end itself. -/

theorem Fibre.retire_set (f : Fibre) (det : Bool) (size : Nat) (r : Retire) : (f.retire det size r).set = f.set := by
  obtain ⟨_, _, _, _, _, _, -, h⟩ := f.retire_eq det size r
  obtain ⟨_, _, _, _, hs⟩ := f.shown_eq r
  rw [h, Fibre.noted, hs]

theorem State.retired_set (s : State) (f : Fibre) (i : Instr) (r : Retire) : (s.retired f i r).set = f.set := by
  unfold State.retired Fibre.atSafePoint
  split
  · split <;> exact Fibre.retire_set _ _ _ _
  · exact Fibre.retire_set _ _ _ _

/-- The retirement of an instruction that ends its fibre, and the end. -/
def State.endWith (s : State) (f : Fibre) (i : Instr) (h : Hdr) (result : DWord) : State :=
  { s.retire f i { stall := h.s.toNat, safe := true } with cur := 0 }.endFibre
    (s.retired f i { stall := h.s.toNat, safe := true }) result

/-- What stands after a fibre's end: the fibre, ended and in no set, and no memory of device or host changed. -/
def State.EndedAs (s u : State) (n : Nat) (result : DWord) : Prop :=
  (∃ g, u.fib? n = some g ∧ g.status = .ended ∧ g.result = result ∧ g.set = none ∧ g.held = none ∧ g.seg = none) ∧
    u.mem = s.mem ∧ u.hostMem = s.hostMem

section
variable {s : State} {f : Fibre} {i : Instr} {h : Hdr} {result : DWord}

theorem State.endFibre_fib (s : State) (f : Fibre) (result : DWord) (n : Nat) : (s.endFibre f result).fib? n =
    ((s.depart f).fib? n).map fun g => if g.uid = f.uid then g.over result else g := by
  obtain ⟨_, _, _, _, _, _, _, h⟩ := s.endFibre_eq f result
  have hfib := State.modF_fib (s.depart f) f.uid (Fibre.over result) n fun _ => rfl
  rw [h, ← hfib]
  rfl

theorem State.endFibre_mems (s : State) (f : Fibre) (result : DWord) : (s.endFibre f result).mem = (s.depart f).mem ∧
    (s.endFibre f result).hostMem = (s.depart f).hostMem ∧ (s.endFibre f result).spMem = (s.depart f).spMem := by
  obtain ⟨_, _, _, _, _, _, _, h⟩ := s.endFibre_eq f result
  rw [h]
  exact ⟨rfl, rfl, rfl⟩

/-- A fibre that its departure leaves in no set has ended. -/
theorem State.endFibre_endedAs {g : Fibre} (hg : (s.depart f).fib? f.uid = some g) (hset : g.set = none)
    (hmem : (s.depart f).mem = s.mem) (hhost : (s.depart f).hostMem = s.hostMem) :
    s.EndedAs (s.endFibre f result) f.uid result := by
  obtain ⟨hm, hh, -⟩ := s.endFibre_mems f result
  refine ⟨⟨g.over result, ?_, rfl, rfl, hset, rfl, rfl⟩, hm.trans hmem, hh.trans hhost⟩
  rw [State.endFibre_fib, hg, Option.map_some, if_pos (State.fib_uid hg)]

theorem State.endWith_fib_self (hf : (s.fib? f.uid).isSome = true) :
    ({ s.retire f i { stall := h.s.toNat, safe := true } with cur := 0 } : State).fib? f.uid =
      some (s.retired f i { stall := h.s.toNat, safe := true }) :=
  State.retire_fib_self s f i { stall := h.s.toNat, safe := true } hf

/-- The end of a fibre in no set. -/
theorem State.endWith_none (hf : (s.fib? f.uid).isSome = true) (hset : f.set = none) :
    s.EndedAs (s.endWith f i h result) f.uid result ∧ (s.endWith f i h result).spMem = s.spMem ∧
      ∀ n, n ≠ f.uid → (s.endWith f i h result).fib? n = s.fib? n := by
  have hdep := State.depart_none ({ s.retire f i { stall := h.s.toNat, safe := true } with cur := 0 } : State)
    ((State.retired_set s f i { stall := h.s.toNat, safe := true }).trans hset)
  have hself := State.endWith_fib_self (i := i) (h := h) hf
  refine ⟨?_, ?_, fun n hn => ?_⟩
  · have hend := State.endFibre_endedAs (result := result)
      (s := { s.retire f i { stall := h.s.toNat, safe := true } with cur := 0 })
      (f := s.retired f i { stall := h.s.toNat, safe := true }) (g := s.retired f i { stall := h.s.toNat, safe := true })
      (by rw [hdep, State.retired_uid, hself]) ((State.retired_set s f i _).trans hset) (by rw [hdep]) (by rw [hdep])
    rw [State.retired_uid] at hend
    obtain ⟨hg, hm, hh⟩ := hend
    exact ⟨hg, hm.trans (State.retire_mem s f i _), hh.trans (State.retire_hostMem s f i _)⟩
  · obtain ⟨-, -, hsp⟩ := State.endFibre_mems ({ s.retire f i { stall := h.s.toNat, safe := true } with cur := 0 } : State)
      (s.retired f i { stall := h.s.toNat, safe := true }) result
    rw [hdep] at hsp
    exact hsp.trans (State.retire_spMem s f i _)
  · have hother := State.retire_fib_other s f i { stall := h.s.toNat, safe := true } hn
    rw [State.endWith, State.endFibre_fib, hdep, State.retired_uid]
    refine Eq.trans ?_ hother
    change ((s.retire f i { stall := h.s.toNat, safe := true }).fib? n).map _ = _
    cases hg : (s.retire f i { stall := h.s.toNat, safe := true }).fib? n with
    | none => rfl
    | some g => rw [Option.map_some, if_neg (State.fib_uid hg ▸ hn)]

/-- The end of a fibre whose set lies in scratchpad. -/
theorem State.endWith_sp {k : Nat} (hf : (s.fib? f.uid).isSome = true) (hset : f.set = some (.sp k)) :
    s.EndedAs (s.endWith f i h result) f.uid result := by
  have hset' := (State.retired_set s f i { stall := h.s.toNat, safe := true }).trans hset
  have hself := State.endWith_fib_self (i := i) (h := h) hf
  obtain ⟨hmem, hhost⟩ :=
    State.depart_mems ({ s.retire f i { stall := h.s.toNat, safe := true } with cur := 0 } : State) hset'
  obtain ⟨g, hg, -, -, hgset, -⟩ := State.depart_fib
    ({ s.retire f i { stall := h.s.toNat, safe := true } with cur := 0 } : State) _ hset'
    ((State.retired_uid s f i _).symm ▸ hself)
  have hend := State.endFibre_endedAs (result := result)
    (s := { s.retire f i { stall := h.s.toNat, safe := true } with cur := 0 })
    (f := s.retired f i { stall := h.s.toNat, safe := true }) hg hgset hmem hhost
  rw [State.retired_uid] at hend
  obtain ⟨hg, hm, hh⟩ := hend
  exact ⟨hg, hm.trans (State.retire_mem s f i _), hh.trans (State.retire_hostMem s f i _)⟩

end

/-! The instructions that end a fibre. -/

section
variable {s : State} {f : Fibre} {i : Instr} {h : Hdr} {result : DWord}

theorem State.finish_none (hf : (s.fib? f.uid).isSome = true) (hset : f.set = none) :
    s.finish f i h result = s.endWith f i h result := by
  have hself := State.retire_fib_self s f i { stall := h.s.toNat, safe := true } hf
  unfold State.finish State.departHeld State.departThen Fibre.departs
  rw [hset]
  dsimp only [Option.filter_none]
  rw [hself]
  rfl

/-- An object in scratchpad is at hand once the fibre's own accesses to it are performed. -/
theorem State.whenHeld_sp {k : Nat} {m : Nat} {c : State → State} (hown : s.ownAhead f (.sp k) m = false) :
    s.whenHeld f (.sp k) m c = c s := by
  have hsign : s.signSectors (.sp k) m = [] := rfl
  have hserve : s.mayServe (.sp k) m true = true := by
    simp [State.mayServe, State.hostHeld, State.pinned, Loc.sectors, hsign]
  unfold State.whenHeld
  rw [hown, hserve]
  rfl

theorem State.finish_sp {k : Nat} {v : State} (hf : (v.fib? f.uid).isSome = true) (hset : f.set = some (.sp k))
    (hown : s.ownAhead f (.sp k) 32 = false) (hreg : s.register (s.departAcc f (.sp k)) = .ok v) :
    s.finish f i h result =
      (({ v with nextId := v.nextId + 1 } : State).endWith f i h result).recDone (s.departAcc f (.sp k)).owner := by
  have hself := State.retire_fib_self ({ v with nextId := v.nextId + 1 } : State) f i
    { stall := h.s.toNat, safe := true } hf
  have hdep : f.departs none = some (.sp k) := by simp [Fibre.departs, hset]
  unfold State.finish State.departHeld
  rw [hdep]
  dsimp only
  rw [State.whenHeld_sp hown]
  unfold State.departThen State.registerFrom
  rw [hdep]
  dsimp only
  rw [hreg]
  have hsec : (s.departAcc f (.sp k)).loc.sectors (s.departAcc f (.sp k)).size = [] := rfl
  dsimp only
  rw [hsec, List.foldl_nil, hself]
  rfl

end

section
variable {s : State} {f : Fibre} {h : Hdr} {a : Reg} {r : Range}

/-- What an instruction that ends its fibre leaves, after the fold of the children `kids` (R115, R152). -/
def State.EndsBy (s : State) (f : Fibre) (u : State) (kids : List Nat) (w : State × Fibre) (result : DWord) : Prop :=
  (f.set = none → s.EndedAs u f.uid result ∧ u.spMem = s.spMem ∧ ∀ n, n ≠ f.uid → n ∉ kids → u.fib? n = s.fib? n) ∧
    ∀ k v, f.set = some (.sp k) → w.1.ownAhead w.2 (.sp k) 32 = false →
      w.1.register (w.1.departAcc w.2 (.sp k)) = .ok v → s.EndedAs u f.uid result

theorem State.finish_endsBy {i : Instr} {kids : List Nat} {w : State × Fibre} {result : DWord}
    (hf : (s.fib? f.uid).isSome = true) (hkids : f.uid ∉ kids) (hw : f.inSp → Consumed kids (s, f) w) :
    s.EndsBy f (w.1.finish w.2 i h result) kids w result := by
  constructor
  · intro hset
    obtain ⟨hmem, hhost, hsp, huid, hset', hfib⟩ := hw (.inl hset)
    have hself : (w.1.fib? w.2.uid).isSome = true := by
      rw [huid, hfib _ hkids]
      exact hf
    obtain ⟨⟨hg, hm, hh⟩, hs, hother⟩ := State.endWith_none (i := i) (h := h) (result := result) hself (hset'.trans hset)
    rw [State.finish_none hself (hset'.trans hset)]
    refine ⟨⟨huid ▸ hg, hm.trans hmem, hh.trans hhost⟩, hs.trans (hsp hset), fun n hn hk => ?_⟩
    exact (hother n fun he => hn (he.trans huid)).trans (hfib n hk)
  · intro k v hset hown hreg
    obtain ⟨hmem, hhost, -, huid, hset', hfib⟩ := hw (.inr ⟨k, hset⟩)
    obtain ⟨rs, ts, df, hv⟩ := State.register_ok hreg
    have hself : (v.fib? w.2.uid).isSome = true := by
      rw [hv, huid]
      exact (congrArg Option.isSome (hfib _ hkids)).trans hf
    rw [State.finish_sp hself (hset'.trans hset) hown hreg]
    obtain ⟨hg, hm, hh⟩ := State.endWith_sp (s := { v with nextId := v.nextId + 1 }) (i := i) (h := h) (result := result)
      hself (hset'.trans hset)
    refine ⟨huid ▸ hg, Eq.trans hm ?_, Eq.trans hh ?_⟩
    · rw [← hmem, hv]
    · rw [← hhost, hv]

theorem Fibre.stackEmpty_of_nil (hfr : f.frames = []) (hin : f.inline = []) : f.stackEmpty = true := by
  rw [Fibre.stackEmpty, hfr, hin]
  rfl

theorem exec_exit (hi : s.Issues f (.exit h) h.g [] []) : exec (.exit h) s = .next (
    if !f.stackEmpty then s.trapAt f (.exit h) .frame
    else if f.origin = .range then doneRange s f (.exit h) h
    else drained s f (s.finish f (.exit h) h 0)) := issue_next hi

theorem exec_done (hi : s.Issues f (.done h a) h.g [a] [rc a]) : exec (.done h a) s = .next (
    if !f.stackEmpty || f.origin ≠ .call then s.trapAt f (.done h a) .frame
    else drained s f (s.finish f (.done h a) h ((f.reg a).setWidth 64))) := issue_next hi

theorem exec_doneR (hi : s.Issues f (.doneR h) h.g [] []) : exec (.doneR h) s = .next (
    if !f.stackEmpty || f.origin ≠ .range then s.trapAt f (.doneR h) .frame
    else doneRange s f (.doneR h) h) := issue_next hi

/-- The end of a range child whose own children have ended. -/
theorem doneRange_finish {i : Instr} (hroot : f.root = some r) (hearly : ¬f.AccEarly r) (houts : f.outs = [])
    (hmx : f.mxFaults = []) (hall : ∀ c ∈ r.kids, s.ended c = true) : doneRange s f i h =
      (r.kids.foldl (consume r) (s, f)).1.finish (r.kids.foldl (consume r) (s, f)).2 i h
        (if r.op = .none then 0 else (r.kids.foldl (consume r) (s, f)).2.getAcc r) := by
  rw [doneRange_eq hroot hearly houts hmx, joinRange_ended hall]

/-- A fibre that can issue is none of the children that have ended. -/
theorem State.cur_not_ended (hc : s.cur? = some f) (hall : ∀ c ∈ r.kids, s.ended c = true) : f.uid ∉ r.kids := by
  intro hm
  obtain ⟨hf, hres⟩ := State.cur_fib hc
  have he := hall _ hm
  simp [State.ended, hf, hres] at he

theorem exec_spawn {d : Reg} (hi : s.Issues f (.spawn h d a) h.g [d, a, odd a] [rc d, rc a, rc (odd a)])
    (heven : (f.pair a).toNat % 2 = 0) (hlow : (f.pair a).toNat < 2 ^ 57) : exec (.spawn h d a) s =
      .next ((s.retire f (.spawn h d a) { stall := h.s.toNat }).queue
        (s.child f .spawn (f.pair a).toNat (argWindow [f.reg d]))) :=
  (issue_next hi).trans (congrArg _ (jumpTo_ok heven hlow))

/-- A spawned fibre's argument is in g1, and every other register is 0. -/
theorem argWindow_reg {g : Fibre} {x : Word} (hg : g.regs = argWindow [x]) (n : Reg) :
    g.reg n = if n = 1 then x else 0 := by
  rw [Fibre.reg, hg]
  by_cases hone : n = 1
  · subst hone
    simp [argWindow, zeros]
  · have hne : 1 ≠ n.toNat := fun he => hone (BitVec.eq_of_toNat_eq he.symm)
    rw [if_neg hone]
    simp [argWindow, zeros, hne]

end

/-- Settles O27. -/
theorem endAndSpawnResults : Obligations.EndAndSpawnResults := by
  intro s f h d a r ends
  have hends {i : Instr} {kids : List Nat} {w : State × Fibre} {result : DWord} (hc : s.cur? = some f)
      (he : exec i s = .next (w.1.finish w.2 i h result)) (hkids : f.uid ∉ kids)
      (hw : f.inSp → Consumed kids (s, f) w) : ends i kids w result := by
    obtain ⟨hf, -⟩ := State.cur_fib hc
    obtain ⟨hnone, hsp⟩ := State.finish_endsBy (i := i) (h := h) (result := result) (by rw [hf]; rfl) hkids hw
    refine ⟨fun hset => ?_, fun k v hset hown hreg => ?_⟩
    · obtain ⟨⟨⟨g, hg, hst, hres, -, hheld, hseg⟩, hm, hh⟩, hs, hother⟩ := hnone hset
      exact ⟨_, g, he, hg, hst, hres, hheld, hseg, hm, hh, hs, hother⟩
    · obtain ⟨⟨g, hg, hst, hres, hset', hheld, hseg⟩, hm, hh⟩ := hsp k v hset hown hreg
      exact ⟨_, g, he, hg, hst, hres, hset', hheld, hseg, hm, hh⟩
  have hone : f.inSp → Consumed [] (s, f) (s, f) := fun _ => ⟨rfl, rfl, fun _ => rfl, rfl, rfl, fun _ _ => rfl⟩
  refine ⟨fun houts hmx hfr hin => ⟨fun hi ho => ?_, fun hi ho => ?_, ?_⟩,
    fun hfr => ?_, fun hi heven hlow => ?_⟩
  · refine hends hi.1 ?_ List.not_mem_nil hone
    rw [exec_exit hi, Fibre.stackEmpty_of_nil hfr hin, if_neg ho, drained_pass houts hmx]
    rfl
  · refine hends hi.1 ?_ List.not_mem_nil hone
    rw [exec_done hi, Fibre.stackEmpty_of_nil hfr hin, drained_pass houts hmx]
    simp [ho]
  · intro ho hroot hall hearly w
    have hnot : ¬f.AccEarly r := fun ⟨hop, hchk, c, hc, he⟩ => by rw [hearly hop hchk c hc] at he; cases he
    have hdone {i : Instr} : doneRange s f i h = w.1.finish w.2 i h (if r.op = .none then 0 else w.2.getAcc r) :=
      doneRange_finish hroot hnot houts hmx hall
    refine ⟨fun hi => ?_, fun hi => ?_, fun hi => ?_⟩
    · refine hends hi.1 ?_ (State.cur_not_ended hi.1 hall) fun hsp => foldl_consumed r.kids hsp
      rw [exec_doneR hi, Fibre.stackEmpty_of_nil hfr hin, ← hdone]
      simp [ho]
    · refine hends hi.1 ?_ (State.cur_not_ended hi.1 hall) fun hsp => foldl_consumed r.kids hsp
      rw [exec_joinR hi, joinRAt_child hin hfr ho, hdone]
    · refine hends hi.1 ?_ (State.cur_not_ended hi.1 hall) fun hsp => foldl_consumed r.kids hsp
      rw [exec_exit hi, Fibre.stackEmpty_of_nil hfr hin, if_pos ho, ← hdone]
      rfl
  · have hfull : f.stackEmpty = false := by simp [Fibre.stackEmpty, hfr]
    exact ⟨fun hi => by rw [exec_exit hi, hfull]; rfl, fun hi => by rw [exec_done hi, hfull]; rfl,
      fun hi => by rw [exec_doneR hi, hfull]; rfl⟩
  · exact ⟨_, s.child f .spawn (f.pair a).toNat (argWindow [f.reg d]), exec_spawn hi heven hlow,
      by rw [State.queue, State.retire_nextId], rfl, rfl, rfl, (argWindow_reg rfl 1).trans (if_pos rfl),
      fun n hn => (argWindow_reg rfl n).trans (if_neg hn), rfl, rfl, rfl, rfl, rfl, rfl, rfl⟩

end Sys2Proof.Machine

/-! O20 (R162): entering trap mode, and parking. -/

namespace Sys2Proof.Machine

/-! Where the record lies. -/

theorem State.recordAt_reads (s : State) (f : Fibre) (w : Bool) : s.Reads (s.recordAt f w).state := by
  have hr := s.findEntry_reads (some f.core) (coreQuad f.core) (s.asidOf f) (s.recordAddr f)
  unfold State.recordAt
  extract_lets r
  change s.Reads r.1 at hr
  clear_value r
  split
  · exact hr
  · exact hr
  · exact hr
  · exact hr
  · exact hr
  · next l _ _ _ =>
    have hm := r.1.meet_reads l 64 f.tag w
    split
    · exact hr
    · split
      · next e =>
        rw [e] at hm
        exact hr.trans hm
      · next t e =>
        rw [e] at hm
        have ht : s.Reads t := hr.trans hm
        split
        · exact ht.trans (t.snoop_reads _)
        · split <;> exact ht

/-- The fibre as its trap's record and its vector see it. -/
def Fibre.atTrap (f : Fibre) : Fibre :=
  { f.flush with wait := .none, waited := false, inst := none, fresh := false, dist := f.distNow, fuse := none }

theorem State.recordAt_atTrap (s : State) (f : Fibre) (w : Bool) : s.recordAt f.atTrap w = s.recordAt f w := by
  obtain ⟨rs, ps, h⟩ := f.flush_eq
  rw [Fibre.atTrap, h]
  rfl

theorem State.recordAddr_atTrap (s : State) (f : Fibre) : s.recordAddr f.atTrap = s.recordAddr f := by
  obtain ⟨rs, ps, h⟩ := f.flush_eq
  rw [Fibre.atTrap, h]
  rfl

/-! Trap mode. -/

/-- The state in which the fibre stands at its vector, in trap mode. -/
def State.entered (s : State) (f : Fibre) : State :=
  (s.setF { f.atTrap.setPairNow 14 (.ofNat 64 (s.recordAddr f.atTrap)) with
    trapMode := true, pc := f.atTrap.vector, dist := 0
    tag := if f.atTrap.abort.isSome then 0 else f.atTrap.tag
    plzSet := if f.atTrap.abort.isSome then none else f.atTrap.plzSet }).laneDone f.atTrap

section
variable {s r : State} {f : Fibre} {t : TrapInfo}

theorem Fibre.atTrap_trapMode (f : Fibre) : f.atTrap.trapMode = f.trapMode := by simp [Fibre.atTrap]
theorem Fibre.atTrap_vector (f : Fibre) : f.atTrap.vector = f.vector := by simp [Fibre.atTrap]
theorem Fibre.atTrap_uid (f : Fibre) : f.atTrap.uid = f.uid := by simp [Fibre.atTrap]
theorem Fibre.atTrap_tag (f : Fibre) : f.atTrap.tag = f.tag := by simp [Fibre.atTrap]

theorem State.takeTrap_nested (h : f.trapMode = true) :
    s.takeTrap f t = s.park f.atTrap (trapBytes f.atTrap t true) := if_pos (f.atTrap_trapMode.trans h)

/-- Outside trap mode the record is written first. -/
theorem State.takeTrap_first (h : f.trapMode = false) : s.takeTrap f t =
    s.writeRecord f.atTrap (trapBytes f.atTrap t false) fun s =>
      if f.atTrap.vector = 0 then s.park f.atTrap (trapBytes f.atTrap t false) else s.entered f :=
  if_neg (by simp only [Fibre.atTrap_trapMode, h, Bool.false_eq_true, not_false_eq_true] : ¬f.atTrap.trapMode = true)

theorem State.takeTrap_wait (h : f.trapMode = false) (hr : s.recordAt f true = .wait r) : s.takeTrap f t = r := by
  rw [State.takeTrap_first h, State.writeRecord, State.recordAt_atTrap, hr]

/-- The state w in which the record of a trap of f stands. -/
def State.RecordIn (s : State) (f : Fibre) (t : TrapInfo) (w : State) : Prop :=
  (∃ l r, s.recordAt f true = .ok l r ∧ w = r.homeWrite l (trapBytes f.atTrap t false)) ∨ s.recordAt f true = .gone w

theorem State.RecordIn.writes {w : State} (h : s.RecordIn f t w) : s.Writes w := by
  have hr := s.recordAt_reads f true
  rcases h with ⟨l, r, he, rfl⟩ | he
  · rw [he] at hr
    exact hr.writes.trans (State.homeWrite_writes _ _ _)
  · rw [he] at hr
    exact hr.writes

theorem State.takeTrap_in {w : State} (h : f.trapMode = false) (hw : s.RecordIn f t w) : s.takeTrap f t =
    if f.vector = 0 then w.park f.atTrap (trapBytes f.atTrap t false) else w.entered f := by
  rw [State.takeTrap_first h, State.writeRecord, State.recordAt_atTrap, Fibre.atTrap_vector]
  rcases hw with ⟨l, r, he, rfl⟩ | he <;> rw [he]

/-! What entering leaves. -/

/-- The pair g14:g15 after it is written. -/
theorem Fibre.setPairNow_pair (f : Fibre) (v : DWord) : (f.setPairNow 14 v).pair 14 = v := by
  have h15 : (f.setPairNow 14 v).reg (odd 14) = v.extractLsb' 32 32 := Fibre.now_reg _ (odd 14) _ _
  have h14 : (f.setPairNow 14 v).reg 14 = v.setWidth 32 :=
    (Fibre.now_reg _ (odd 14) _ _).trans (Fibre.now_reg f 14 14 _)
  rw [Fibre.pair, h15, h14]
  refine BitVec.eq_of_getLsbD_eq fun i hi => ?_
  rw [BitVec.getLsbD_append]
  split
  · next hlt => simp [hlt]
  · next hge => simp [show 32 + (i - 32) = i by omega, show i - 32 < 32 by omega]

theorem Fibre.setPairNow_reg_of_ne (f : Fibre) (v : DWord) {r : Reg} (h14 : r ≠ 14) (h15 : r ≠ 15) :
    (f.setPairNow 14 v).reg r = f.reg r :=
  (Fibre.now_reg _ (odd 14) r _).trans ((if_neg fun h => h15 h.1).trans
    ((Fibre.now_reg f 14 r _).trans (if_neg fun h => h14 h.1)))

theorem Fibre.setPairNow_pred (f : Fibre) (r : Reg) (v : DWord) (p : Pred) : (f.setPairNow r v).pred p = f.pred p := by
  have hne (c : Reg) : rc c ≠ pc8 p := by
    have hc : rc c < 64 := rc_lt c
    unfold pc8
    omega
  exact (Fibre.put_pred_of_ne _ (hne (odd r)) _).trans (Fibre.put_pred_of_ne f (hne r) _)

theorem State.laneDone_eq (s : State) (f : Fibre) : s.laneDone f = { s with batches := (s.laneDone f).batches } := by
  unfold State.laneDone
  split <;> rfl

theorem State.entered_fib_other {n : Nat} (h : n ≠ f.uid) : (s.entered f).fib? n = s.fib? n := by
  rw [State.entered, State.laneDone_fib, State.setF_fib_other]
  simpa [Fibre.setPairNow, Fibre.atTrap] using h

/-- What a fibre takes into trap mode. -/
def Fibre.trapKeeps (f : Fibre) : Nat × Word × Nat × List Frame × List Out × Word × Option (Nat × Nat) :=
  (f.uid, f.mode, f.hbc, f.frames, f.outs, f.sat, f.held)

/-- The fibre at its vector. -/
theorem State.entered_fib_self (hf : (s.fib? f.uid).isSome = true) : ∃ g, (s.entered f).fib? f.uid = some g ∧
    g.trapMode = true ∧ g.pc = f.vector ∧ g.pair 14 = .ofNat 64 (s.recordAddr f) ∧ g.mode = f.mode ∧ g.dist = 0 ∧
    g.hbc = f.hbc ∧ g.frames = f.frames ∧ g.outs = f.outs ∧ g.sat = f.sat ∧ g.held = f.held ∧ g.pend = [] ∧
    (∀ r : Reg, r ≠ 14 → r ≠ 15 → g.reg r = f.flush.reg r) ∧ ∀ p : Pred, g.pred p = f.flush.pred p := by
  have hpair := Fibre.setPairNow_pair f.atTrap (.ofNat 64 (s.recordAddr f.atTrap))
  have hreg (r : Reg) := Fibre.setPairNow_reg_of_ne (r := r) f.atTrap (.ofNat 64 (s.recordAddr f.atTrap))
  have hpred (p : Pred) := Fibre.setPairNow_pred f.atTrap 14 (.ofNat 64 (s.recordAddr f.atTrap)) p
  obtain ⟨hkeep, hpend⟩ : (f.atTrap.setPairNow 14 (.ofNat 64 (s.recordAddr f.atTrap))).trapKeeps = f.trapKeeps ∧
      (f.atTrap.setPairNow 14 (.ofNat 64 (s.recordAddr f.atTrap))).pend = [] := by
    refine ⟨?_, rfl⟩
    simp [Fibre.trapKeeps, Fibre.setPairNow, Fibre.atTrap]
  have hdone (g : Fibre) (hg : g.uid = f.uid) : ((s.setF g).laneDone f.atTrap).fib? f.uid = some g := by
    rw [State.laneDone_fib, ← hg, State.setF_fib_self]
    rw [hg]
    exact hf
  unfold State.entered
  rw [State.recordAddr_atTrap] at *
  generalize f.atTrap.setPairNow 14 (.ofNat 64 (s.recordAddr f)) = k at *
  obtain ⟨huid, hmode, hhbc, hframes, houts, hsat, hheld⟩ : k.uid = f.uid ∧ k.mode = f.mode ∧ k.hbc = f.hbc ∧
      k.frames = f.frames ∧ k.outs = f.outs ∧ k.sat = f.sat ∧ k.held = f.held := by
    simpa [Fibre.trapKeeps] using hkeep
  exact ⟨_, hdone _ huid, rfl, f.atTrap_vector, hpair, hmode, rfl, hhbc, hframes, houts, hsat, hheld, hpend,
    fun r h14 h15 => hreg r h14 h15, hpred⟩

theorem State.entered_eq (s : State) (f : Fibre) :
    s.entered f = { s with fibres := (s.entered f).fibres, batches := (s.entered f).batches } := by
  unfold State.entered
  rw [State.laneDone_eq]
  rfl

/-! Parking. -/

theorem State.park_untagged {bs : List Byte} (htag : f.tag = 0) : s.park f bs =
    { (s.setF { f with status := .parked, wait := .none }).laneDone f with hostFaults := s.hostFaults ++ [bs] } := by
  unfold State.park
  rw [if_pos htag, State.laneDone_hostFaults]
  rfl

theorem State.park_fib_self {bs : List Byte} (htag : f.tag = 0) (hf : (s.fib? f.uid).isSome = true) :
    (s.park f bs).fib? f.uid = some { f with status := .parked, wait := .none } := by
  rw [State.park_untagged htag]
  change ((s.setF { f with status := .parked, wait := .none }).laneDone f).fib? f.uid = _
  rw [State.laneDone_fib]
  exact State.setF_fib_self s { f with status := .parked, wait := .none } hf

theorem State.park_hostFaults {bs : List Byte} (htag : f.tag = 0) :
    (s.park f bs).hostFaults = s.hostFaults ++ [bs] := by
  rw [State.park_untagged htag]

theorem State.park_eq {bs : List Byte} (htag : f.tag = 0) : s.park f bs =
    { s with
      fibres := (s.park f bs).fibres, batches := (s.park f bs).batches, hostFaults := s.hostFaults ++ [bs] } := by
  rw [State.park_untagged htag, State.laneDone_eq]
  rfl

/-- A fibre that parks keeps its mode, its PC and, its writes done, its registers. -/
theorem State.park_atTrap {bs : List Byte} (htag : f.tag = 0) (hf : (s.fib? f.uid).isSome = true) :
    ∃ g, (s.park f.atTrap bs).fib? f.uid = some g ∧ g.status = .parked ∧ g.trapMode = f.trapMode ∧ g.pc = f.pc ∧
      ∀ r : Reg, g.reg r = f.flush.reg r := by
  have hself := State.park_fib_self (bs := bs) (s := s) (f := f.atTrap) (f.atTrap_tag.trans htag)
    (by rw [Fibre.atTrap_uid]; exact hf)
  rw [Fibre.atTrap_uid] at hself
  exact ⟨_, hself, rfl, f.atTrap_trapMode, by simp [Fibre.atTrap], fun r => rfl⟩

end

/-- Settles O20. -/
theorem trapEntry : Obligations.TrapEntry := by
  refine ⟨fun s r w f t l hf hmode hvec => ?_, fun s f t hf htag hpark hnowait => ?_⟩
  · intro u e
    have hrecord : trapBytes e t false = trapBytes f.atTrap t false := rfl
    refine ⟨fun hr => State.takeTrap_wait hmode hr, fun hw => ?_⟩
    have hin : s.RecordIn f t w := by
      rcases hw with ⟨he, hw⟩ | ⟨he, rfl⟩
      · exact .inl ⟨l, r, he, hw.trans (by rw [hrecord])⟩
      · exact .inr he
    have hu : u = w.entered f := (State.takeTrap_in hmode hin).trans (if_neg hvec)
    have hself : (w.fib? f.uid).isSome = true := by rw [hin.writes.fib, hf]; rfl
    rw [hu]
    refine ⟨⟨_, _, w.entered_eq f⟩, fun n hn => (State.entered_fib_other hn).trans (hin.writes.fib n), ?_⟩
    rw [← hin.writes.recordAddr]
    exact State.entered_fib_self hself
  · intro u e
    have hrecord (b : Bool) : trapBytes e t b = trapBytes f.atTrap t b := rfl
    have htag' : f.atTrap.tag = 0 := f.atTrap_tag.trans htag
    have hsome : (s.fib? f.uid).isSome = true := by rw [hf]; rfl
    rw [hrecord]
    cases hmode : f.trapMode with
    | true =>
      have hu : u = s.park f.atTrap (trapBytes f.atTrap t true) := State.takeTrap_nested hmode
      rw [hu, ← hmode]
      refine ⟨State.park_atTrap htag hsome, ?_, fun _ => ⟨_, _, State.park_eq htag'⟩⟩
      rw [State.park_hostFaults htag', hmode]
    | false =>
      obtain ⟨w, hin⟩ : ∃ w, s.RecordIn f t w := by
        cases hr : s.recordAt f true with
        | ok l r => exact ⟨_, .inl ⟨l, r, hr, rfl⟩⟩
        | gone r => exact ⟨r, .inr hr⟩
        | wait r => exact absurd hr (hnowait hmode r)
      have hvec : f.vector = 0 := hpark.resolve_left (by simp [hmode])
      have hu : u = w.park f.atTrap (trapBytes f.atTrap t false) := (State.takeTrap_in hmode hin).trans (if_pos hvec)
      have hself : (w.fib? f.uid).isSome = true := by rw [hin.writes.fib, hf]; rfl
      rw [hu, ← hmode]
      refine ⟨State.park_atTrap htag hself, ?_, fun h => absurd (hmode.symm.trans h) Bool.false_ne_true⟩
      rw [State.park_hostFaults htag', hin.writes.hostFaults, hmode]

end Sys2Proof.Machine

/-! O21 (R164): the return from a trap, and `trap n`. -/

namespace Sys2Proof.Machine

/-! A read that meets no poison changes nothing (R233). -/

/-- The check of one sector. -/
def State.checkSector (agent : Nat) (s : State) (k : Nat) : State :=
  if s.mismatch k && !s.poison.contains k then
    makeError { s with poison := k :: s.poison } 0x01 agent (homeDie (64 * k)) (64 * k)
  else s

theorem makeError_poison (s : State) (kind agent die addr : Nat) : (makeError s kind agent die addr).poison = s.poison := by
  unfold makeError
  dsimp only
  split
  · rfl
  · split <;> rfl

theorem State.checkSector_poison (s : State) (agent k : Nat) :
    (∀ q ∈ s.poison, q ∈ (s.checkSector agent k).poison) ∧ (k ∈ (s.checkSector agent k).poison ∨ s.checkSector agent k = s) := by
  unfold State.checkSector
  split
  · rw [makeError_poison]
    exact ⟨fun q hq => List.mem_cons_of_mem _ hq, .inl List.mem_cons_self⟩
  · exact ⟨fun q hq => hq, .inr rfl⟩

theorem State.foldl_checkSector_poison (agent : Nat) (ks : List Nat) (s : State) :
    ∀ q ∈ s.poison, q ∈ (ks.foldl (State.checkSector agent) s).poison := by
  induction ks generalizing s with
  | nil => exact fun q hq => hq
  | cons k ks ih => exact fun q hq => ih _ q ((s.checkSector_poison agent k).1 q hq)

theorem State.foldl_checkSector_clean {agent : Nat} {ks : List Nat} {s : State}
    (h : ∀ k ∈ ks, k ∉ (ks.foldl (State.checkSector agent) s).poison) : ks.foldl (State.checkSector agent) s = s := by
  induction ks generalizing s with
  | nil => rfl
  | cons k ks ih =>
    rcases (s.checkSector_poison agent k).2 with hk | hk
    · exact absurd (State.foldl_checkSector_poison agent ks _ k hk) (h k List.mem_cons_self)
    · rw [List.foldl_cons, hk] at h ⊢
      exact ih fun q hq => h q (List.mem_cons_of_mem k hq)

theorem checkRead_clean {s z : State} {l : Loc} {n agent : Nat} (h : checkRead s l n agent = (z, [])) : z = s := by
  unfold checkRead at h
  split at h
  · next pa =>
    change ((sectorsOf pa n).foldl (State.checkSector agent) s,
      (sectorsOf pa n).filter fun k => ((sectorsOf pa n).foldl (State.checkSector agent) s).poison.contains k) = _ at h
    obtain ⟨hz, hnone⟩ := Prod.mk.inj h
    rw [← hz]
    refine State.foldl_checkSector_clean fun k hk hin => ?_
    exact List.filter_eq_nil_iff.mp hnone k hk (by simpa using hin)
  · exact (Prod.mk.inj h).1.symm

/-- The record of the fibre's trap is found: its bytes rb, and the state z that has read them (log 4). -/
def State.RecordRead (s r z : State) (f : Fibre) (l : Loc) (rb : List Byte) : Prop :=
  (s.recordAt f false = .ok l r ∧ r.ownAhead f l 64 = false ∧ checkRead (r.peekAll l 64) l 64 0 = (z, []) ∧
      rb = z.bytes l 64) ∨
    (s.recordAt f false = .gone r ∧ z = r.draw 64 ∧ rb = r.freeBytesAt 64)

section
variable {s r z : State} {f : Fibre} {i : Instr} {l : Loc} {rb : List Byte} {k : State → List Byte → State}

theorem State.readRecord_found (h : s.RecordRead r z f l rb) :
    s.readRecord f i k = if badRecord rb then z.trapAt f i .undef else k z rb := by
  unfold State.readRecord
  rcases h with ⟨hr, hown, hgot, rfl⟩ | ⟨hr, rfl, rfl⟩
  · simp only [hr, hown, hgot, Bool.false_eq_true, if_false, List.isEmpty_nil, if_true]
  · simp only [hr]

theorem State.readRecord_own (hr : s.recordAt f false = .ok l r) (hown : r.ownAhead f l 64 = true) :
    s.readRecord f i k = r := by
  unfold State.readRecord
  simp only [hr, hown, if_true]

theorem State.readRecord_poisoned (hr : s.recordAt f false = .ok l r) (hown : r.ownAhead f l 64 = false)
    (hbad : (checkRead (r.peekAll l 64) l 64 0).2 ≠ []) : s.readRecord f i k =
      (checkRead (r.peekAll l 64) l 64 0).1.trapAt f i .integrity 0 (s.recordAddr f) := by
  have hne : (checkRead (r.peekAll l 64) l 64 0).2.isEmpty = false := List.isEmpty_eq_false_iff.mpr hbad
  unfold State.readRecord
  simp only [hr, hown, hne, Bool.false_eq_true, if_false]

theorem State.readRecord_wait (hr : s.recordAt f false = .wait r) : s.readRecord f i k = r := by
  unfold State.readRecord
  simp only [hr]

/-- A read that finds the record changes no memory and no fibre. -/
theorem State.RecordRead.stands (h : s.RecordRead r z f l rb) :
    z.mem = r.mem ∧ z.hostMem = r.hostMem ∧ z.spMem = s.spMem ∧ z.fibres = s.fibres := by
  have hr := s.recordAt_reads f false
  rcases h with ⟨he, -, hgot, -⟩ | ⟨he, rfl, -⟩
  · rw [he] at hr
    change s.Reads r at hr
    have hz := r.peekAll_coh l 64
    rw [← checkRead_clean hgot] at hz
    have hall : s.Reads z := hr.trans hz.reads
    refine ⟨?_, ?_, ?_, hall.writes.fibres⟩
    · unfold State.Coh at hz
      rw [hz]
    · unfold State.Coh at hz
      rw [hz]
    · unfold State.Reads at hall
      rw [hall]
  · rw [he] at hr
    change s.Reads r at hr
    refine ⟨rfl, rfl, ?_, hr.writes.fibres⟩
    unfold State.Reads at hr
    rw [hr]
    rfl

end

/-! The fibre that returns. -/

/-- The fibre after its return, with the record's bytes. -/
def Fibre.returned (f : Fibre) (i : Instr) (stall : Nat) (rb : List Byte) (label : Option Nat) : Fibre :=
  let pc := Dec.leNat (rb.drop 8 |>.take 8) % 2 ^ 57
  let g := f.retire false i.size { stall := stall, taken := some pc, leaves := false, flush := true }
  let g := g.setPairNow 14 (.ofNat 64 (Dec.leNat (rb.drop 32 |>.take 8)))
  let g := { g with
    mode := .ofNat 32 (Dec.leNat (rb.drop 40 |>.take 4) % 512)
    preds := .ofNat 8 (Dec.leNat (rb.drop 44 |>.take 1))
    trapMode := false, aborted := 0 }
  match label with
  | some t => { g.leaveLoops pc t with pc := t }
  | none => g

theorem State.returnTrap_eq (s : State) (f : Fibre) (i : Instr) (stall : Nat) (rb : List Byte) (label : Option Nat) :
    s.returnTrap f i stall rb label = (s.setF (f.returned i stall rb label)).laneBack f := by
  cases label <;> rfl

/-- What a return leaves: to its target, with what the record gives, and everything else as it was in the vector (R164). -/
structure Fibre.Returned (f g : Fibre) (rb : List Byte) (target : Nat) : Prop where
  uid : g.uid = f.uid
  wait : g.wait = .none
  trapMode : g.trapMode = false
  pc : g.pc = target
  pair : g.pair 14 = .ofNat 64 (Dec.leNat ((rb.drop 32).take 8))
  mode : g.mode = .ofNat 32 (Dec.leNat ((rb.drop 40).take 4) % 512)
  preds : g.preds = .ofNat 8 (Dec.leNat ((rb.drop 44).take 1))
  reg : ∀ r : Reg, r ≠ 14 → r ≠ 15 → g.reg r = f.flush.reg r
  frames : g.frames.length = f.frames.length
  outs : g.outs = f.outs
  held : g.held = f.held
  hbc : g.hbc = f.hbc
  dist : g.dist = f.dist

theorem Fibre.Returned.leaveLoops {f g : Fibre} {rb : List Byte} {target : Nat} (h : f.Returned g rb target) (src t : Nat) :
    f.Returned { g.leaveLoops src t with pc := t } rb t := by
  obtain ⟨_, _, _, _, _, hg, hlen⟩ := g.leaveLoops_loopsOnly src t
  rw [hg]
  exact { h with pc := rfl, frames := hlen.trans h.frames }

/-- The fibre as an instruction of its vector that ends it leaves it: every write shown, at a PC. -/
def Fibre.shownAt (f : Fibre) (pc : Nat) : Fibre :=
  { f.flush with
    wait := .none, waited := false, inst := none, fresh := false, live := .allOnes 64, fuse := none, pc := pc }

theorem Fibre.retire_shownAt {f : Fibre} (ht : f.trapMode = true) (size stall pc : Nat) :
    f.retire false size { stall := stall, taken := some pc, leaves := false, flush := true } = f.shownAt pc := by
  have hshown : f.shown { stall := stall, taken := some pc, leaves := false, flush := true } = f.flush := by
    simp [Fibre.shown]
  obtain ⟨rs, ps, hf⟩ := f.flush_eq
  rw [Fibre.retire_of_taken f false size rfl, Fibre.noted, hshown, Fibre.shownAt, hf]
  simp [ht]

theorem Fibre.setPairNow_eq (f : Fibre) (r : Reg) (v : DWord) :
    ∃ rs ps pd ld, f.setPairNow r v = { f with regs := rs, preds := ps, pend := pd, landed := ld } := by
  obtain ⟨_, _, _, _, h⟩ := f.now_eq (rc r) (v.setWidth 32)
  obtain ⟨rs, ps, pd, ld, h'⟩ := (f.now (rc r) (v.setWidth 32)).now_eq (rc (odd r)) (v.extractLsb' 32 32)
  exact ⟨rs, ps, pd, ld, by rw [Fibre.setPairNow, h', h]⟩

theorem Fibre.returned_none {f : Fibre} (ht : f.trapMode = true) (i : Instr) (stall : Nat) (rb : List Byte) :
    f.Returned (f.returned i stall rb none) rb (Dec.leNat ((rb.drop 8).take 8) % 2 ^ 57) := by
  unfold Fibre.returned
  dsimp only
  rw [Fibre.retire_shownAt ht]
  generalize Dec.leNat ((rb.drop 8).take 8) % 2 ^ 57 = pc
  generalize hv : BitVec.ofNat 64 (Dec.leNat ((rb.drop 32).take 8)) = v
  have hpair := Fibre.setPairNow_pair (f.shownAt pc) v
  have hreg (r : Reg) (h14 : r ≠ 14) (h15 : r ≠ 15) := Fibre.setPairNow_reg_of_ne (f.shownAt pc) v h14 h15
  obtain ⟨rs, ps, pd, ld, hk⟩ := (f.shownAt pc).setPairNow_eq 14 v
  obtain ⟨rs', ps', hf⟩ := f.flush_eq
  rw [hk] at hpair hreg ⊢
  refine ⟨?_, rfl, rfl, rfl, hpair.trans hv.symm, rfl, rfl, hreg, ?_, ?_, ?_, ?_, ?_⟩
  all_goals
    dsimp only [Fibre.shownAt]
    rw [hf]

/-- The fibre after its return, to the record's PC or to the label. -/
theorem Fibre.returned_spec {f : Fibre} (ht : f.trapMode = true) (i : Instr) (stall : Nat) (rb : List Byte)
    (label : Option Nat) :
    f.Returned (f.returned i stall rb label) rb (label.getD (Dec.leNat ((rb.drop 8).take 8) % 2 ^ 57)) := by
  cases label with
  | none => exact Fibre.returned_none ht i stall rb
  | some t => exact (Fibre.returned_none ht i stall rb).leaveLoops _ t

/-! The state after the return. -/

theorem State.laneBack_eq (s : State) (f : Fibre) :
    s.laneBack f = { s with batches := (s.laneBack f).batches, fibres := (s.laneBack f).fibres } := by
  unfold State.laneBack
  split <;> rfl

theorem Fibre.waitsNot_of_idle (f : Fibre) {g : Fibre} (h : g.wait = .none) : f.waitsNot g = g := by
  unfold Fibre.waitsNot
  rw [h]
  split <;> trivial

/-- What a return leaves of the machine. -/
structure State.Back (s z u : State) (f : Fibre) (rb : List Byte) (target : Nat) : Prop where
  mem : u.mem = z.mem
  hostMem : u.hostMem = z.hostMem
  spMem : u.spMem = z.spMem
  lanes : f.held ≠ none → ∀ b ∈ u.batches, ∀ p ∈ b.back, f.uid ∉ p.2
  fib : ∃ g, u.fib? f.uid = some g ∧ f.Returned g rb target

theorem State.returnTrap_back {z : State} {f : Fibre} (s : State) (ht : f.trapMode = true)
    (hf : (z.fib? f.uid).isSome = true) (i : Instr) (stall : Nat) (rb : List Byte) (label : Option Nat) :
    s.Back z ((z.returnTrap f i stall rb label).freePlazas) f rb
      (label.getD (Dec.leNat ((rb.drop 8).take 8) % 2 ^ 57)) := by
  have hspec := Fibre.returned_spec ht i stall rb label
  have hlb := State.laneBack_eq (z.setF (f.returned i stall rb label)) f
  rw [State.returnTrap_eq]
  generalize f.returned i stall rb label = g at hspec hlb
  have hself : ((z.setF g).laneBack f).fib? f.uid = some g := by
    have hset := State.setF_fib_self z g (by rw [hspec.uid]; exact hf)
    rw [hspec.uid] at hset
    rw [State.laneBack_fib, hset, Option.map_some, Fibre.waitsNot_of_idle f hspec.wait]
  refine ⟨?_, ?_, ?_, fun hheld => State.laneBack_back hheld, g, hself, hspec⟩
  · exact (congrArg State.mem hlb).trans rfl
  · exact (congrArg State.hostMem hlb).trans rfl
  · exact (congrArg State.spMem hlb).trans rfl

/-! The instructions. -/

section
variable {s r z : State} {f : Fibre} {h : Hdr} {l : Loc} {rb : List Byte}

/-- What a `tret` does with the record's bytes. -/
def tretBack (f : Fibre) (i : Instr) (stall : Nat) (z : State) (rb : List Byte) : State :=
  jumpTo z f i (.ofNat 64 (Dec.leNat ((rb.drop 8).take 8))) fun _ => (z.returnTrap f i stall rb none).freePlazas

theorem exec_tret (hi : s.Issues f (.tret h) h.g [] []) : exec (.tret h) s = .next (
    if !f.trapMode then s.trapAt f (.tret h) .undef
    else s.readRecord f (.tret h) (tretBack f (.tret h) h.s.toNat)) := issue_next hi

theorem exec_tretLabel {v : Option (BitVec 19)} {off : BitVec 19}
    (hi : s.Issues f (withExt v (.tretLabel h off)) h.g [] []) : exec (withExt v (.tretLabel h off)) s = .next (
      if !f.trapMode then s.trapAt f (withExt v (.tretLabel h off)) .undef
      else s.readRecord f (withExt v (.tretLabel h off)) fun z rb =>
        (z.returnTrap f (withExt v (.tretLabel h off)) h.s.toNat rb (some (targetE f.pc v off))).freePlazas) := by
  cases v <;> exact issue_next hi

theorem exec_trap {n : BitVec 6} (hi : s.Issues f (.trap h n) h.g [] []) : exec (.trap h n) s = .next (
    if f.trapMode then s.takeTrap f
      { cause := .soft, detail := n.toNat, pc := f.pc + 4, iaddr := f.pc, insn := insnWord (.trap h n) }
    else s.retire
      { f with deferred := ⟨0, .ld, 0, .soft, n.toNat, f.pc, insnWord (.trap h n), 0⟩ :: f.deferred } (.trap h n)
      { stall := h.s.toNat }) := issue_next hi

/-- The record's PC is where `tret` goes, where it is even and of 57 bits. -/
theorem tretBack_eq {i : Instr} {stall : Nat} (heven : Dec.leNat ((rb.drop 8).take 8) % 2 = 0)
    (hlow : Dec.leNat ((rb.drop 8).take 8) < 2 ^ 57) :
    tretBack f i stall z rb = (z.returnTrap f i stall rb none).freePlazas := by
  have hnat : (BitVec.ofNat 64 (Dec.leNat ((rb.drop 8).take 8))).toNat = Dec.leNat ((rb.drop 8).take 8) := by
    rw [BitVec.toNat_ofNat, Nat.mod_eq_of_lt (by omega)]
  exact jumpTo_ok (by rw [hnat]; exact heven) (by rw [hnat]; exact hlow)

end

/-- `trap n` in trap mode parks the fibre. -/
theorem State.park_fib_parked {s : State} {f : Fibre} {bs : List Byte} (hf : (s.fib? f.uid).isSome = true) :
    ∃ g, (s.park f bs).fib? f.uid = some g ∧ g.status = .parked := by
  have hself : ((s.setF { f with status := .parked, wait := .none }).laneDone f).fib? f.uid =
      some { f with status := .parked, wait := .none } := by
    rw [State.laneDone_fib]
    exact State.setF_fib_self s { f with status := .parked, wait := .none } hf
  unfold State.park
  dsimp only
  split
  · exact ⟨_, hself, rfl⟩
  · exact ⟨{ f with status := .parked, wait := .none },
      ((State.causeAbort_reads _ _ _).writes.fib f.uid).trans hself, rfl⟩

/-- Settles O21. -/
theorem trapReturn : Obligations.TrapReturn := by
  refine ⟨fun s r z f h v off l rb => ?_, fun s f h n hi => ⟨fun hmode => ?_, fun hmode => ?_⟩⟩
  · intro pc got found back
    have hback {u : State} {target : Nat} (hread : s.RecordRead r z f l rb) (hb : s.Back z u f rb target) :
        back u target := by
      obtain ⟨hmem, hhost, hsp, -⟩ := hread.stands
      obtain ⟨g, hg, hr⟩ := hb.fib
      refine ⟨hb.mem.trans hmem, hb.hostMem.trans hhost, hb.spMem.trans hsp, hb.lanes, g, hg, hr.trapMode, hr.pc, hr.pair,
        hr.mode, fun n hn => ?_, hr.reg, hr.frames, hr.outs, hr.held, hr.hbc, hr.dist⟩
      rw [Fibre.pred, hr.preds, beq_false_of_ne hn, Bool.false_or]
    have hself (hread : s.RecordRead r z f l rb) (hc : s.cur? = some f) : (z.fib? f.uid).isSome = true := by
      rw [State.fib?, hread.stands.2.2.2, ← State.fib?, (State.cur_fib hc).1]
      rfl
    refine ⟨fun hi => ⟨fun hm hfound hgood heven hlow => ?_, fun hm hfound hbad => ?_, fun hm hr hown => ?_,
      fun hm hr hown hp => ?_, fun hm hr => ?_, fun hm => ?_⟩,
      fun hi => ⟨fun hm hfound hgood => ?_, fun hm hfound hbad => ?_, fun hm hr hown => ?_,
      fun hm hr hown hp => ?_, fun hm hr => ?_, fun hm => ?_⟩⟩
    · refine ⟨_, ?_, hback hfound (Nat.mod_eq_of_lt hlow ▸
        State.returnTrap_back s hm (hself hfound hi.1) (.tret h) h.s.toNat rb none)⟩
      rw [exec_tret hi, hm, State.readRecord_found hfound, hgood, tretBack_eq heven hlow]
      rfl
    · rw [exec_tret hi, hm, State.readRecord_found hfound, hbad]
      rfl
    · rw [exec_tret hi, hm, State.readRecord_own hr hown]
      rfl
    · rw [exec_tret hi, hm, State.readRecord_poisoned hr hown hp]
      rfl
    · rw [exec_tret hi, hm, State.readRecord_wait hr]
      rfl
    · rw [exec_tret hi, hm]
      rfl
    · refine ⟨_, ?_, hback hfound (State.returnTrap_back s hm (hself hfound hi.1) (withExt v (.tretLabel h off)) h.s.toNat rb
        (some (targetE f.pc v off)))⟩
      rw [exec_tretLabel hi, hm, State.readRecord_found hfound, hgood]
      rfl
    · rw [exec_tretLabel hi, hm, State.readRecord_found hfound, hbad]
      rfl
    · rw [exec_tretLabel hi, hm, State.readRecord_own hr hown]
      rfl
    · rw [exec_tretLabel hi, hm, State.readRecord_poisoned hr hown hp]
      rfl
    · rw [exec_tretLabel hi, hm, State.readRecord_wait hr]
      rfl
    · rw [exec_tretLabel hi, hm]
      rfl
  · refine (exec_trap hi).trans ?_
    rw [hmode]
    rfl
  · obtain ⟨hf, -⟩ := State.cur_fib hi.1
    obtain ⟨g, hg, hst⟩ := State.park_fib_parked (s := s) (f := f.atTrap) (bs := trapBytes f.atTrap
      { cause := .soft, detail := n.toNat, pc := f.pc + 4, iaddr := f.pc, insn := insnWord (.trap h n) } true)
      (by rw [Fibre.atTrap_uid, hf]; rfl)
    rw [Fibre.atTrap_uid] at hg
    refine ⟨_, g, (exec_trap hi).trans ?_, hg, hst⟩
    rw [hmode, if_pos rfl, State.takeTrap_nested hmode]

end Sys2Proof.Machine

/-! O31 (R85 to R89): cross-lane instructions of a held batch, and the reduction tree. -/

namespace Sys2Proof.Machine

/-! The reduction tree: over an associative and commutative operation it is a fold (R89). -/

section
variable {op : Nat → Nat → Nat} (hassoc : ∀ x y z, op (op x y) z = op x (op y z)) (hcomm : ∀ x y, op x y = op y x)
include hassoc hcomm

theorem op_foldl (c y : Nat) (l : List Nat) : op (l.foldl op c) y = l.foldl op (op c y) := by
  induction l generalizing c with
  | nil => rfl
  | cons x l ih =>
    have hswap : op (op c x) y = op (op c y) x := by rw [hassoc, hcomm x y, ← hassoc]
    rw [List.foldl_cons, List.foldl_cons, ih, hswap]

theorem foldl_zipWith {a b : List Nat} (c : Nat) (hlen : a.length = b.length) :
    (List.zipWith op a b).foldl op c = (a ++ b).foldl op c := by
  rw [List.foldl_append]
  induction a generalizing b c with
  | nil => rw [List.length_eq_zero_iff.mp hlen.symm]; rfl
  | cons x a ih =>
    cases b with
    | nil => cases hlen
    | cons y b =>
      rw [List.zipWith_cons_cons, List.foldl_cons, ih _ (Nat.succ.inj hlen), List.foldl_cons, List.foldl_cons,
        op_foldl hassoc hcomm, hassoc]

end

/-- The two halves of a list, place by place. -/
theorem range_map_halves {h : Nat} {v : List Nat} (hlen : v.length = h + h) (op : Nat → Nat → Nat) :
    ((List.range h).map fun i => op (v.getD i 0) (v.getD (i + h) 0)) = List.zipWith op (v.take h) (v.drop h) := by
  refine List.ext_getElem (by simp [hlen]) fun i h1 h2 => ?_
  have hi : i < h := by simpa using h1
  have hlow : i < v.length := by omega
  have hhigh : i + h < v.length := by omega
  simp [hlow, hhigh, Nat.add_comm h i]

theorem redLevel_fst (g : Fibre) (o : XlOp) {op : Nat → Nat → Nat} (hop : ∀ x y, (redOp g o x y).1 = op x y) (h : Nat)
    (v : List Nat) : (redLevel g o h v).1 = (List.range h).map fun i => op (v.getD i 0) (v.getD (i + h) 0) := by
  simp only [redLevel, List.map_map, Function.comp_def, hop]

/-- The tree gives the fold of the operation, begun with its identity, over 2^n values. -/
theorem redTree_fst {g : Fibre} {o : XlOp} {op : Nat → Nat → Nat} {c : Nat}
    (hassoc : ∀ x y z, op (op x y) z = op x (op y z)) (hcomm : ∀ x y, op x y = op y x)
    (hop : ∀ x y, (redOp g o x y).1 = op x y) (hlt : ∀ x y, x < 2 ^ 32 → y < 2 ^ 32 → op x y < 2 ^ 32)
    (hid : ∀ x, x < 2 ^ 32 → op c x = x) (n : Nat) {v : List Nat} (b : Bool) (hlen : v.length = 2 ^ n)
    (hv : ∀ x ∈ v, x < 2 ^ 32) : (redTree g o n v b).1 = v.foldl op c := by
  induction n generalizing v b with
  | zero =>
    obtain ⟨x, rfl⟩ := List.length_eq_one_iff.mp hlen
    exact (hid x (hv x List.mem_cons_self)).symm
  | succ n ih =>
    have hhalf : v.length = 2 ^ n + 2 ^ n := by omega
    have hdrop : (v.take (2 ^ n)).length = (v.drop (2 ^ n)).length := by simp [hhalf]
    have hlevel := (redLevel_fst g o hop (2 ^ n) v).trans (range_map_halves hhalf op)
    have hlow : ∀ x ∈ List.zipWith op (v.take (2 ^ n)) (v.drop (2 ^ n)), x < 2 ^ 32 := by
      intro x hx
      obtain ⟨i, hi, rfl⟩ := List.getElem_of_mem hx
      rw [List.getElem_zipWith]
      exact hlt _ _ (hv _ (List.mem_of_mem_take (List.getElem_mem _))) (hv _ (List.mem_of_mem_drop (List.getElem_mem _)))
    rw [redTree, hlevel, ih _ (by simp [hhalf]) hlow, foldl_zipWith hassoc hcomm _ hdrop, List.take_append_drop]

/-- A reduction whose operation raises nothing raises nothing. -/
theorem redTree_snd {g : Fibre} {o : XlOp} (hop : ∀ x y, (redOp g o x y).2 = false) (n : Nat) (v : List Nat) (b : Bool) :
    (redTree g o n v b).2 = b := by
  induction n generalizing v b with
  | zero => rfl
  | succ n ih =>
    have hnone : (redLevel g o (2 ^ n) v).2 = false := by simp [redLevel, hop]
    rw [redTree, ih, hnone, Bool.or_false]

theorem foldl_add_mod (v : List Nat) (c : Nat) :
    v.foldl (fun x y => (x + y) % 2 ^ 32) (c % 2 ^ 32) = v.foldl (· + ·) c % 2 ^ 32 := by
  induction v generalizing c with
  | nil => rfl
  | cons x v ih => rw [List.foldl_cons, List.foldl_cons, ← ih, Nat.mod_add_mod]

theorem redTree_add (g : Fibre) {v : List Nat} (b : Bool) (hlen : v.length = 64) (hv : ∀ x ∈ v, x < 2 ^ 32) :
    (redTree g .addI32 6 v b).1 = v.foldl (· + ·) 0 % 2 ^ 32 := by
  rw [← foldl_add_mod]
  refine redTree_fst (fun x y z => ?_) (fun x y => ?_) (fun x y => ?_) (fun x y _ _ => Nat.mod_lt _ (by decide))
    (fun x hx => ?_) 6 b hlen hv
  · omega
  · omega
  · simp [redOp, BitVec.toNat_add]
  · omega

theorem redTree_min (g : Fibre) {v : List Nat} (b : Bool) (hlen : v.length = 64) (hv : ∀ x ∈ v, x < 2 ^ 32) :
    (redTree g .minN32 6 v b).1 = v.foldl min (2 ^ 32 - 1) :=
  redTree_fst Nat.min_assoc Nat.min_comm (fun _ _ => rfl) (fun x y hx _ => by omega) (fun x hx => by omega) 6 b hlen hv

theorem redTree_max (g : Fibre) {v : List Nat} (b : Bool) (hlen : v.length = 64) (hv : ∀ x ∈ v, x < 2 ^ 32) :
    (redTree g .maxN32 6 v b).1 = v.foldl max 0 :=
  redTree_fst Nat.max_assoc Nat.max_comm (fun _ _ => rfl) (fun x y hx hy => by omega) (fun x _ => by omega) 6 b hlen hv

theorem redTree_quiet (g : Fibre) {o : XlOp} (ho : o ∈ ([.addI32, .minI32, .maxI32, .minN32, .maxN32, .andB32, .orB32,
    .xorB32, .minF32, .maxF32] : List XlOp)) (v : List Nat) (b : Bool) : (redTree g o 6 v b).2 = b := by
  refine redTree_snd (fun x y => ?_) 6 v b
  fin_cases ho <;> rfl

/-! A group of lanes that executes. -/

theorem State.sticky_fibres (s : State) (f : Fibre) (c o : Bool) : (s.sticky f c o).1.fibres = s.fibres := by
  unfold State.sticky State.markSat
  split
  · dsimp only
    split
    · next l _ =>
      split
      · rfl
      · cases l <;> rfl
    · rfl
  · rfl

theorem State.sticky_launches (s : State) (f : Fibre) (c o : Bool) : (s.sticky f c o).1.launches = s.launches := by
  unfold State.sticky State.markSat
  split
  · dsimp only
    split
    · next l _ =>
      split
      · rfl
      · cases l <;> rfl
    · rfl
  · rfl

/-- A lane of the group. -/
def State.laneStep (i : Instr) (h : Hdr) (eff : Fibre → Fibre × Bool) (t : State) (g : Fibre) : State :=
  if g.guard h.g then
    (t.sticky (eff g).1 false (eff g).2).1.retire (t.sticky (eff g).1 false (eff g).2).2 i { stall := h.s.toNat }
  else t.retire g i { stall := h.s.toNat }

/-- What a lane becomes: an active one has its result, and its overflow, and each retires. -/
def Fibre.laneOut (det : Bool) (h : Hdr) (eff : Fibre → Fibre × Bool) (g : Fibre) : Fibre :=
  (if g.guard h.g = true then (if (eff g).2 = true then (eff g).1.stick false true else (eff g).1) else g).retire det 4
    { stall := h.s.toNat }

/-- The effect changes its lane's registers and predicates alone, as far as this section asks. -/
def KeepsLane (eff : Fibre → Fibre × Bool) : Prop := ∀ g, (eff g).1.uid = g.uid ∧ (eff g).1.launch = g.launch

section
variable {s : State} {i : Instr} {h : Hdr} {eff : Fibre → Fibre × Bool}

theorem State.sticky_snd (s : State) (f : Fibre) (o : Bool) :
    (s.sticky f false o).2 = if o = true then f.stick false true else f := by
  unfold State.sticky
  cases o <;> rfl

theorem State.det_congr {s t : State} {f g : Fibre} (hl : t.launches = s.launches) (hf : g.launch = f.launch) :
    t.det g = s.det f := by
  simp only [State.det, State.launch?, hl, hf]

/-- A lane that executes takes its result, and no other fibre changes. -/
theorem State.laneStep_fib (hkeep : KeepsLane eff) (hsize : i.size = 4) (t : State) (g : Fibre) :
    (∀ n, n ≠ g.uid → (t.laneStep i h eff g).fib? n = t.fib? n) ∧
      ((t.fib? g.uid).isSome = true → (t.laneStep i h eff g).fib? g.uid = some (g.laneOut (t.det g) h eff)) ∧
      (t.laneStep i h eff g).launches = t.launches := by
  obtain ⟨huid, hlaunch⟩ := hkeep g
  have hret (u : State) (k : Fibre) (hk : k.uid = g.uid) :
      (∀ n, n ≠ g.uid → (u.retire k i { stall := h.s.toNat }).fib? n = u.fib? n) ∧
        ((u.fib? g.uid).isSome = true →
          (u.retire k i { stall := h.s.toNat }).fib? g.uid = some (k.retire (u.det k) 4 { stall := h.s.toNat })) := by
    refine ⟨fun n hn => State.retire_fib_other u k i _ (hk ▸ hn), fun hf => ?_⟩
    have hself := State.retire_fib_self u k i { stall := h.s.toNat } (hk.symm ▸ hf)
    rw [State.retired_of_unsafe _ _ _ rfl, hk, hsize] at hself
    exact hself
  unfold State.laneStep Fibre.laneOut
  split
  · have hfib (n : Nat) : (t.sticky (eff g).1 false (eff g).2).1.fib? n = t.fib? n := by
      simp only [State.fib?, State.sticky_fibres]
    have hk : (t.sticky (eff g).1 false (eff g).2).2.uid = g.uid ∧
        (t.sticky (eff g).1 false (eff g).2).2.launch = g.launch := by
      rw [State.sticky_snd]
      split <;> exact ⟨huid, hlaunch⟩
    have hdet := State.det_congr (State.sticky_launches t (eff g).1 false (eff g).2) hk.2
    obtain ⟨hother, hself⟩ := hret (t.sticky (eff g).1 false (eff g).2).1 _ hk.1
    refine ⟨fun n hn => (hother n hn).trans (hfib n), fun hf => ?_, ?_⟩
    · rw [hself (by rw [hfib]; exact hf), hdet, State.sticky_snd]
    · rw [State.retire_launches, State.sticky_launches]
  · obtain ⟨hother, hself⟩ := hret t g rfl
    exact ⟨hother, hself, State.retire_launches _ _ _ _⟩

/-- Every lane at the instruction takes its result, in turn. -/
theorem State.foldl_laneStep (hkeep : KeepsLane eff) (hsize : i.size = 4) {fs : List Fibre}
    (hnodup : (fs.map (·.uid)).Nodup) {t : State} (hl : t.launches = s.launches)
    (ht : ∀ g ∈ fs, (t.fib? g.uid).isSome = true) :
    (∀ n, (∀ g ∈ fs, g.uid ≠ n) → (fs.foldl (State.laneStep i h eff) t).fib? n = t.fib? n) ∧
      ∀ g ∈ fs, (fs.foldl (State.laneStep i h eff) t).fib? g.uid = some (g.laneOut (s.det g) h eff) := by
  induction fs generalizing t with
  | nil => exact ⟨fun _ _ => rfl, fun g hg => absurd hg List.not_mem_nil⟩
  | cons x fs ih =>
    obtain ⟨hx, hnodup⟩ := List.nodup_cons.mp hnodup
    have hne (g : Fibre) (hg : g ∈ fs) : g.uid ≠ x.uid := fun he => hx (List.mem_map.mpr ⟨g, hg, he⟩)
    obtain ⟨hother, hself, hlaunch⟩ := State.laneStep_fib hkeep hsize (h := h) t x
    obtain ⟨hrest, hdone⟩ := ih hnodup (hlaunch.trans hl) fun g hg => by
      rw [hother _ (hne g hg)]
      exact ht g (List.mem_cons_of_mem x hg)
    refine ⟨fun n hn => ?_, fun g hg => ?_⟩
    · rw [List.foldl_cons, hrest n fun g hg => hn g (List.mem_cons_of_mem x hg)]
      exact hother n (hn x List.mem_cons_self).symm
    · rw [List.foldl_cons]
      rcases List.mem_cons.mp hg with rfl | hg
      · rw [hrest _ fun k hk => hne k hk, hself (ht _ List.mem_cons_self), State.det_congr hl rfl]
      · exact hdone g hg

/-- Where no active lane overflows, memory stands. -/
theorem State.foldl_laneStep_mem {fs : List Fibre} {t : State}
    (hquiet : ∀ g ∈ fs, g.guard h.g = true → (eff g).2 = false) :
    (fs.foldl (State.laneStep i h eff) t).mem = t.mem ∧ (fs.foldl (State.laneStep i h eff) t).spMem = t.spMem := by
  induction fs generalizing t with
  | nil => exact ⟨rfl, rfl⟩
  | cons x fs ih =>
    obtain ⟨hm, hsp⟩ := ih (t := t.laneStep i h eff x) fun g hg => hquiet g (List.mem_cons_of_mem x hg)
    have hstep : (t.laneStep i h eff x).mem = t.mem ∧ (t.laneStep i h eff x).spMem = t.spMem := by
      unfold State.laneStep
      split
      · next hg =>
        rw [hquiet x List.mem_cons_self hg]
        exact ⟨State.retire_mem _ _ _ _, State.retire_spMem _ _ _ _⟩
      · exact ⟨State.retire_mem _ _ _ _, State.retire_spMem _ _ _ _⟩
    exact ⟨hm.trans hstep.1, hsp.trans hstep.2⟩

end

/-! The lanes of a held batch. -/

theorem State.holdBack_eq (s : State) (f : Fibre) (us : List Nat) :
    s.holdBack f us = { s with batches := (s.holdBack f us).batches } := by
  unfold State.holdBack
  split
  · rfl
  · split <;> rfl

/-- The lanes at the instruction. -/
def State.atInstance (s : State) (f : Fibre) : List Fibre := (s.instanceLanes f).filterMap s.fib?

theorem State.atInstance_fib {s : State} {f g : Fibre} (hg : g ∈ s.atInstance f) : s.fib? g.uid = some g := by
  obtain ⟨u, -, hu⟩ := List.mem_filterMap.mp hg
  rw [State.fib_uid hu]
  exact hu

theorem State.atInstance_nodup {s : State} {f : Fibre} (hd : (s.instanceLanes f).Nodup) :
    ((s.atInstance f).map (·.uid)).Nodup := by
  have hsub : ((s.atInstance f).map (·.uid)).Sublist (s.instanceLanes f) := by
    unfold State.atInstance
    induction s.instanceLanes f with
    | nil => exact List.Sublist.refl _
    | cons u us ih =>
      cases hu : s.fib? u with
      | none => rw [List.filterMap_cons_none hu]; exact ih.cons u
      | some g =>
        rw [List.filterMap_cons_some hu, List.map_cons, State.fib_uid hu]
        exact ih.cons_cons u
  exact hsub.nodup hd

section
variable {s : State} {f : Fibre} {i : Instr} {h : Hdr} {uses : List Reg} {srcs : List Nat}
  {eff : List Fibre → Fibre → Fibre × Bool}

/-- A group of lanes at which no lane reads early, and which is not held back, executes for each of its lanes. -/
theorem crossLane_next (hc : s.cur? = some f) (hheld : f.held.isSome = true) (haway : s.shortLanes f = [])
    (hwin : ∀ r ∈ uses, r.toNat < f.window) (hearly : ∀ g ∈ s.atInstance f, laneEarly h srcs g = []) :
    crossLane s i h uses srcs eff = .next ((s.atInstance f).foldl
      (State.laneStep i h (eff ((s.atInstance f).filter fun g => g.guard h.g))) (s.holdBack f [])) := by
  have huses : (uses.any fun r => decide (f.window ≤ r.toNat)) = false := by
    rw [List.any_eq_false]
    intro r hr
    have := hwin r hr
    simpa using this
  have hshort : ((s.atInstance f).filter fun g => !(laneEarly h srcs g).isEmpty) = [] := by
    rw [List.filter_eq_nil_iff]
    intro g hg
    simp [hearly g hg]
  have hnone : f.held.isNone = false := by simpa using hheld
  unfold crossLane
  rw [hc]
  dsimp only
  rw [huses, hnone, haway]
  change (if ((s.atInstance f).filter fun g => !(laneEarly h srcs g).isEmpty).isEmpty && _ then _ else _) = _
  rw [hshort]
  rfl

/-- What a group that executes leaves (R85). -/
theorem crossLane_runs (hc : s.cur? = some f) (hheld : f.held.isSome = true) (hd : (s.instanceLanes f).Nodup)
    (haway : s.shortLanes f = []) (hsize : i.size = 4)
    (hkeep : KeepsLane (eff ((s.atInstance f).filter fun g => g.guard h.g)))
    (hwin : ∀ r ∈ uses, r.toNat < f.window) (hearly : ∀ g ∈ s.atInstance f, laneEarly h srcs g = []) :
    ∃ u, crossLane s i h uses srcs eff = .next u ∧
      ((∀ g ∈ (s.atInstance f).filter fun g => g.guard h.g,
          (eff ((s.atInstance f).filter fun g => g.guard h.g) g).2 = false) → u.mem = s.mem ∧ u.spMem = s.spMem) ∧
      (∀ n, (∀ g ∈ s.atInstance f, g.uid ≠ n) → u.fib? n = s.fib? n) ∧
      ∀ g ∈ s.atInstance f, u.fib? g.uid =
        some (g.laneOut (s.det g) h (eff ((s.atInstance f).filter fun g => g.guard h.g))) := by
  have hhold := s.holdBack_eq f []
  have hfib (n : Nat) : (s.holdBack f []).fib? n = s.fib? n := by
    rw [hhold]
    rfl
  obtain ⟨hother, hdone⟩ := State.foldl_laneStep (s := s) (h := h) hkeep hsize (State.atInstance_nodup hd)
    (t := s.holdBack f []) (by rw [hhold]) fun g hg => by
      rw [hfib, State.atInstance_fib hg]
      rfl
  refine ⟨_, crossLane_next hc hheld haway hwin hearly, fun hq => ?_, fun n hn => (hother n hn).trans (hfib n), hdone⟩
  obtain ⟨hm, hsp⟩ := State.foldl_laneStep_mem (i := i) (t := s.holdBack f []) fun g hg hguard =>
    hq g (List.mem_filter.mpr ⟨hg, hguard⟩)
  exact ⟨hm.trans (by rw [hhold]), hsp.trans (by rw [hhold])⟩

end

section
variable {s : State} {h : Hdr} {pa pd : Pred} {a d : Reg} {k : BitVec 3} {op : XlOp}

theorem exec_xlElect : exec (.xlElect h pd) s = crossLane s (.xlElect h pd) h [] [] fun act f =>
    (f.setPred 6 pd (laneOf f == firstLane act), false) := rfl

theorem exec_xlBcast : exec (.xlBcastB32 h a d) s = crossLane s (.xlBcastB32 h a d) h [a, d] [rc a] fun act f =>
    (f.setReg 6 d (s.laneReg (s.lanes f) (laneOf f) (firstLane act) a), false) := rfl

theorem exec_xlCount : exec (.xlCount h pa d) s = crossLane s (.xlCount h pa d) h [d] [pc8 pa] fun act f =>
    (f.setReg 6 d (.ofNat 32 (act.filter fun g => if g.uid = f.uid then g.pred pa else g.flush.pred pa).length),
      false) := rfl

theorem exec_xlBfly : exec (.xlBflyB32 h k a d) s = crossLane s (.xlBflyB32 h k a d) h [a, d] [rc a] fun _ f =>
    (f.setReg 6 d (s.laneReg (s.lanes f) (laneOf f) (laneOf f ^^^ 64 / 2 ^ k.toNat) a), false) := rfl

theorem exec_xlUp : exec (.xlUpB32 h k a d) s = crossLane s (.xlUpB32 h k a d) h [a, d] [rc a] fun _ f =>
    (f.setReg 6 d (s.laneReg (s.lanes f) (laneOf f)
      (if laneOf f < 64 / 2 ^ k.toNat then laneOf f else laneOf f - 64 / 2 ^ k.toNat) a), false) := rfl

theorem exec_xlDown : exec (.xlDownB32 h k a d) s = crossLane s (.xlDownB32 h k a d) h [a, d] [rc a] fun _ f =>
    (f.setReg 6 d (s.laneReg (s.lanes f) (laneOf f)
      (if 64 ≤ laneOf f + 64 / 2 ^ k.toNat then laneOf f else laneOf f + 64 / 2 ^ k.toNat) a), false) := rfl

/-- The values that a reduction of register a combines, as lane f reads them (R89). -/
def redLeaves (op : XlOp) (a : Reg) (act : List Fibre) (f : Fibre) : List Nat :=
  (List.range 64).map fun n => match act.find? fun g => laneOf g == n with
    | some g => (if g.uid = f.uid then g.reg a else g.flush.reg a).toNat
    | none => redId op

theorem exec_xlRed : exec (.xlRed h op a d) s = crossLane s (.xlRed h op a d) h [a, d] [rc a] fun act f =>
    (f.setReg 16 d (.ofNat 32 (redTree (act.headD f) op 6 (redLeaves op a act f) false).1),
      (redTree (act.headD f) op 6 (redLeaves op a act f) false).2) := rfl

end

/-- Settles O31. -/
theorem crossLaneResults : Obligations.CrossLaneResults := by
  refine ⟨fun s f h pa pd a d k op hc hheld hd haway => ?_, fun g v o hlen hv => ⟨redTree_add g o hlen hv,
    redTree_min g o hlen hv, redTree_max g o hlen hv, fun op hop => redTree_quiet g hop v o⟩⟩
  intro at' act runs from' off leaves tree never
  have hreg (L : Nat) (w : Fibre → Word) (ovf : Fibre → Bool) : KeepsLane fun g => (g.setReg L d (w g), ovf g) := fun g =>
    ⟨Fibre.later_uid _ _ _ _, Fibre.later_launch _ _ _ _⟩
  have hpred (w : Fibre → Bool) : KeepsLane fun g => (g.setPred 6 pd (w g), false) := fun g =>
    ⟨Fibre.later_uid _ _ _ _, Fibre.later_launch _ _ _ _⟩
  have hruns {i : Instr} {uses : List Reg} {srcs : List Nat} {eff : Fibre → Fibre} {ovf : Fibre → Bool}
      {e : List Fibre → Fibre → Fibre × Bool} (hex : exec i s = crossLane s i h uses srcs e)
      (he : e act = fun g => (eff g, ovf g)) (hkeep : KeepsLane fun g => (eff g, ovf g)) (hsize : i.size = 4) :
      runs i uses srcs eff ovf := by
    intro hwin hearly
    obtain ⟨u, hu, hmem, hother, hdone⟩ :=
      crossLane_runs (eff := e) (h := h) hc hheld hd haway hsize (he ▸ hkeep) hwin hearly
    have he' : e ((s.atInstance f).filter fun g => g.guard h.g) = fun g => (eff g, ovf g) := he
    rw [he'] at hmem hdone
    exact ⟨u, hex.trans hu, hmem, hother, hdone⟩
  refine ⟨?_, ?_, ?_, ?_, ?_, ?_, ?_⟩
  · exact hruns exec_xlElect rfl (hpred _) rfl
  · exact hruns exec_xlBcast rfl (hreg 6 _ never) rfl
  · exact hruns exec_xlCount rfl (hreg 6 _ never) rfl
  · exact hruns exec_xlBfly rfl (hreg 6 _ never) rfl
  · exact hruns exec_xlUp rfl (hreg 6 _ never) rfl
  · exact hruns exec_xlDown rfl (hreg 6 _ never) rfl
  · exact hruns exec_xlRed rfl (hreg 16 _ _) rfl

end Sys2Proof.Machine

/-! O32 (R124, R224, R225): the checks of a global operand, in their order. -/

namespace Sys2Proof.Machine

section
variable {s : State} {f : Fibre} {va size align : Nat} {k : AccKind}

theorem resolveGlobal_high (h : 2 ^ 57 ≤ va) : resolveGlobal s f va size align k = .trap .prot 0 va := if_pos h

theorem resolveGlobal_misaligned (h : va < 2 ^ 57) (ha : va % align ≠ 0) :
    resolveGlobal s f va size align k = .trap .align 0 va := by
  rw [resolveGlobal, if_neg (by omega), if_pos ha]

theorem resolveGlobal_frames (h : va < 2 ^ 57) (ha : va % align = 0) (hf : s.inFrames (s.asidOf f) va size = true) :
    resolveGlobal s f va size align k = .trap .prot 0 va := by
  rw [resolveGlobal, if_neg (by omega), if_neg (by simp [ha]), if_pos hf]

/-- An untagged fibre's operand is where its translation says, or takes what that answers. -/
theorem resolveGlobal_untagged (h : va < 2 ^ 57) (ha : va % align = 0) (hf : s.inFrames (s.asidOf f) va size = false)
    (hr : f.tag = 0 ∨ ∀ l t, translateFor s f va k ≠ .ok l t) :
    resolveGlobal s f va size align k = translateFor s f va k := by
  rw [resolveGlobal, if_neg (by omega), if_neg (by simp [ha]), if_neg (by simp [hf])]
  cases e : translateFor s f va k with
  | ok l t => simp [hr.resolve_right fun hn => hn l t e]
  | trap c d a => rfl
  | wait t w => rfl
  | stand t => rfl

theorem translateFor_failed (h : f.wait = .faultFailed (va / 4096)) : translateFor s f va k = .trap .page 0 va := if_pos h

/-- What a translation that ended in state z answers to a fibre (R225, R261). -/
def Xlat.answer (s z : State) (f : Fibre) (va : Nat) (k : AccKind) : Xlat → Resolve
  | .ok l _ => .ok l z
  | .prot => .trap .prot 0 va
  | .fault reason level ea => .wait (openFault z (coreDie f.core) (s.asidOf f) va k 0 reason level ea).1
      (openFault z (coreDie f.core) (s.asidOf f) va k 0 reason level ea).2.wait
  | .flip => .wait z .bias
  | .busy => .stand z

theorem translateFor_lookup (h : f.wait ≠ .faultFailed (va / 4096)) {z : State} {x : Xlat}
    (hl : s.lookup (some f.core) (coreQuad f.core) (s.asidOf f) va k = (z, x)) :
    translateFor s f va k = x.answer s z f va k := by
  rw [translateFor, if_neg h]
  simp only [hl]
  cases x <;> simp only [Xlat.answer]

/-- The translation answers: for a location the fibre is untagged, any other answer is as it stands. -/
theorem resolveGlobal_answer (h : va < 2 ^ 57) (ha : va % align = 0) (hf : s.inFrames (s.asidOf f) va size = false)
    (hw : f.wait ≠ .faultFailed (va / 4096)) {z : State} {x : Xlat}
    (hl : s.lookup (some f.core) (coreQuad f.core) (s.asidOf f) va k = (z, x)) (hx : f.tag = 0 ∨ ∀ l e, x ≠ .ok l e) :
    resolveGlobal s f va size align k = x.answer s z f va k := by
  have ht := translateFor_lookup hw hl
  rw [← ht]
  refine resolveGlobal_untagged h ha hf (hx.imp_right fun hn l t hok => ?_)
  rw [ht] at hok
  cases x with
  | ok l e => exact hn l e rfl
  | prot => cases hok
  | fault r l e => cases hok
  | flip => cases hok
  | busy => cases hok

/-- An entry of the core's L1 TLB answers by itself. -/
theorem lookup_l1 {core quad asid : Nat} {e : TlbEntry} (he : s.l1Find core asid va = some e) :
    s.lookup (some core) quad asid va k = (s, s.permit k (.ok (e.loc.add (va - e.base)) e)) := by
  have hfind : s.findEntry (some core) quad asid va = (s, .ok (e.loc.add (va - e.base)) e) := by
    simp only [State.findEntry, Option.bind_some, he]
  rw [State.lookup, hfind]

/-- The L1 TLB's entry allows the access: its location stands, and nothing changes. -/
theorem lookup_l1_ok {core quad asid : Nat} {e : TlbEntry} (he : s.l1Find core asid va = some e)
    (hallow : e.allows k = true) (hflip : s.flipping (e.loc.add (va - e.base)) = false) :
    s.lookup (some core) quad asid va k = (s, .ok (e.loc.add (va - e.base)) e) := by
  rw [lookup_l1 he]
  simp [State.permit, hallow, hflip]

end

/-- Settles O32. -/
theorem globalOperandChecks : Obligations.GlobalOperandChecks := by
  intro s f va size align k
  refine ⟨resolveGlobal_high, resolveGlobal_misaligned, resolveGlobal_frames, fun h ha hf => ⟨fun hw => ?_, fun hw =>
    ⟨fun z hl => ?_, fun z l e hl htag => ?_, fun z hl => ?_, fun z r l e hl => ?_, fun e he =>
      ⟨fun hallow => ?_, fun hallow hflip htag => ?_⟩⟩⟩⟩
  · have ht := translateFor_failed (s := s) (k := k) hw
    rw [resolveGlobal_untagged h ha hf (.inr fun l t hok => by cases ht.symm.trans hok), ht]
  · exact resolveGlobal_answer h ha hf hw hl (.inr fun l e he => by cases he)
  · exact resolveGlobal_answer h ha hf hw hl (.inl htag)
  · exact resolveGlobal_answer h ha hf hw hl (.inr fun l e he => by cases he)
  · exact resolveGlobal_answer h ha hf hw hl (.inr fun l e he => by cases he)
  · have hl : s.lookup (some f.core) (coreQuad f.core) (s.asidOf f) va k = (s, .prot) := by
      rw [lookup_l1 he]
      simp [State.permit, hallow]
    exact resolveGlobal_answer h ha hf hw hl (.inr fun l e he => by cases he)
  · exact resolveGlobal_answer h ha hf hw (lookup_l1_ok he hallow hflip) (.inl htag)

end Sys2Proof.Machine

/-! O33, O34, O35 (R126 to R143): how an access is posted; and the ordered store and atomic, whose release may mark a key store. -/

namespace Sys2Proof.Machine

/-! Plaza lines that let an access go on. -/

/-- A line that an untagged access goes past is as it was. -/
theorem meetLine_go {s t : State} {writes : Bool} {w : WsLine} (h : meetLine s 0 writes w = (t, false)) : t = s := by
  unfold meetLine at h
  split at h
  · exact (Prod.mk.inj h).1.symm
  · split at h
    · exact (Prod.mk.inj h).1.symm
    · dsimp only at h
      rw [if_pos rfl] at h
      obtain ⟨hs, hw⟩ := Prod.mk.inj h
      rw [Bool.or_eq_false_iff] at hw
      obtain ⟨hseal, hwr⟩ := hw
      rw [if_pos (by simp [hwr])] at hs
      exact hs.symm

theorem meetLines_go {s t : State} {writes : Bool} {ws : List WsLine} (h : meetLines s 0 writes ws = (t, .go)) : t = s := by
  induction ws with
  | nil => exact (Prod.mk.inj h).1.symm
  | cons w ws ih =>
    unfold meetLines at h
    obtain ⟨r, hr⟩ : ∃ r, meetLine s 0 writes w = r := ⟨_, rfl⟩
    obtain ⟨u, b⟩ := r
    rw [hr] at h
    cases b with
    | true => cases h
    | false =>
      obtain rfl := meetLine_go hr
      exact ih h

theorem State.meet_go {s t : State} {l : Loc} {n : Nat} {writes : Bool} (h : s.meet l n 0 writes = (t, .go)) : t = s := by
  unfold State.meet at h
  split at h
  · exact meetLines_go h
  · exact (Prod.mk.inj h).1.symm

/-! The Roundabout (R129). -/

theorem mem_of_mem_afterLast {p : RaEntry → Bool} {r : RaEntry} {l : List RaEntry} (h : r ∈ afterLast p l) : r ∈ l := by
  induction l with
  | nil => exact h
  | cons x l ih =>
    unfold afterLast at h
    split at h
    · exact List.mem_cons_of_mem x (ih h)
    · split at h
      · exact List.mem_cons_of_mem x h
      · exact h

/-- The Roundabout after an access has joined it: an entry of its line carries it, and every other stands. -/
def State.Joined (s : State) (core : Nat) (a : Access) (ra : List RaEntry) : Prop :=
  (∃ r ∈ ra, a.id ∈ r.accs ∧ r.core = core ∧ r.line = a.loc.line ∧ r.store = !a.op.isLoad) ∧
    ∀ q ∈ s.roundabout, ∃ r ∈ ra, r.core = q.core ∧ r.line = q.line ∧ r.store = q.store ∧ r.sent = q.sent ∧
      ∀ n ∈ q.accs, n ∈ r.accs

theorem State.joinRound_room {s : State} {core : Nat} (a : Access) (h : s.roundCount core < Config.roundaboutEntries) :
    ∃ ra, s.joinRound core a = some { s with roundabout := ra } ∧ s.Joined core a ra := by
  unfold State.joinRound
  extract_lets fits common
  rw [if_neg (by omega)]
  split
  · next r hr =>
    have hmem := mem_of_mem_afterLast (List.mem_of_find?_eq_some hr)
    have hfits := List.find?_some hr
    simp only [fits, Bool.and_eq_true, beq_iff_eq] at hfits
    obtain ⟨⟨⟨⟨⟨hcore, hline⟩, -⟩, -⟩, hstore⟩, -⟩ := hfits
    refine ⟨_, rfl, ⟨{ r with accs := r.accs ++ [a.id] }, List.mem_map.mpr ⟨r, hmem, if_pos rfl⟩,
      List.mem_append_right _ List.mem_cons_self, hcore, hline, hstore⟩, fun q hq => ?_⟩
    refine ⟨_, List.mem_map_of_mem hq, ?_⟩
    split
    · exact ⟨rfl, rfl, rfl, rfl, fun n hn => List.mem_append_left _ hn⟩
    · exact ⟨rfl, rfl, rfl, rfl, fun n hn => hn⟩
  · exact ⟨_, rfl, ⟨_, List.mem_append_right _ List.mem_cons_self, List.mem_cons_self, rfl, rfl, rfl⟩,
      fun q hq => ⟨q, List.mem_append_left _ hq, rfl, rfl, rfl, rfl, fun n hn => hn⟩⟩

/-! Posting. -/

/-- The tag of an access at a location (R297). -/
def accTag (f : Fibre) : Loc → DWord
  | .dram _ | .host _ | .peer _ _ => f.tag
  | .sp _ | .cb _ => 0

section
variable {t : State} {f : Fibre} {i : Instr} {h : Hdr} {a : Access}

/-- An access that nothing holds back is posted: after a release, where it is one. -/
theorem postAccess_next (hpost : t.CanPost f { a with id := t.nextId, tag := accTag f a.loc }) :
    ∃ ra, t.Joined f.core { a with id := t.nextId, tag := accTag f a.loc } ra ∧ postAccess t f i h a =
      (let u : State := if a.rel then ({ t with roundabout := ra } : State).release f.uid else { t with roundabout := ra }
       ({ u with accs := u.accs ++ [{ a with id := t.nextId, tag := accTag f a.loc }], nextId := u.nextId + 1 } : State).retire
        (f.raise t.nextId (classOf a.loc a.op)) i { stall := h.s.toNat }) := by
  obtain ⟨hroom, hgate, hmeet, hround, hreach⟩ := hpost
  obtain ⟨ra, hjoin, hra⟩ := State.joinRound_room { a with id := t.nextId, tag := accTag f a.loc } hround
  refine ⟨ra, hra, ?_⟩
  have hgo : (if accTag f a.loc = 0 then t.meet a.loc a.size 0 (!a.op.isLoad) else (t, .go)) = (t, Meet.go) := by
    split
    · next htag =>
      have hm := hmeet htag
      obtain ⟨r, hr⟩ : ∃ r, t.meet a.loc a.size 0 (!a.op.isLoad) = r := ⟨_, rfl⟩
      obtain ⟨u, m⟩ := r
      rw [hr] at hm ⊢
      obtain rfl : m = .go := hm
      rw [State.meet_go hr]
    · rfl
  have hcount : ¬63 ≤ f.counter (classOf a.loc a.op) := Nat.not_le.mpr hroom
  have hgate' : t.gate f a.loc a.op = .go := hgate
  have hretire (u : State) (r : Retire) (g : Fibre) (hu : u.routes = t.routes) :
      (u.retire g i r).unreachable a.loc = false := by
    have hsame : (u.retire g i r).unreachable a.loc = t.unreachable a.loc := by
      simp only [State.unreachable, State.reaches, State.retire_routes, hu]
    exact hsame.trans hreach
  unfold postAccess
  dsimp only
  rw [if_neg hcount, hgate']
  change (match if accTag f a.loc = 0 then t.meet a.loc a.size 0 (!a.op.isLoad) else (t, Meet.go) with
    | (t, .wait hd) => t.block f (.plaza hd)
    | (t, .go) => match t.joinRound f.core { a with id := t.nextId, tag := accTag f a.loc } with
      | none => t.block f .roundabout
      | some u =>
        let v : State := if a.rel then u.release f.uid else u
        let w := ({ v with
          accs := v.accs ++ [{ a with id := t.nextId, tag := accTag f a.loc }], nextId := v.nextId + 1 } : State).retire
          (f.raise t.nextId (classOf a.loc a.op)) i { stall := h.s.toNat }
        if w.unreachable a.loc then
          w.failAccess { a with id := t.nextId, tag := accTag f a.loc } .page 0x01 a.addr
        else w) = _
  rw [hgo]
  dsimp only
  rw [hjoin]
  dsimp only
  rw [hretire]
  · rfl
  · split <;> rfl

/-- A posted access that releases nothing. -/
theorem postAccess_posted (hrel : a.rel = false) (hpost : t.CanPost f { a with id := t.nextId, tag := accTag f a.loc }) :
    t.Posted f i h.s.toNat { a with id := t.nextId, tag := accTag f a.loc } (postAccess t f i h a) := by
  obtain ⟨ra, ⟨hin, hstand⟩, hnext⟩ := postAccess_next (i := i) (h := h) hpost
  refine ⟨ra, ?_, hin, hstand⟩
  rw [hnext]
  dsimp only
  rw [hrel]
  rfl

theorem mkAccess_posted {l : Loc} {addr size : Nat} {op : AccOp} :
    { mkAccess f i l addr size op with id := t.nextId, tag := accTag f (mkAccess f i l addr size op).loc } =
      t.newAccess f i l addr size op := by
  cases l <;> rfl

end

/-! Loads. -/

section
variable {s t : State} {f : Fibre} {h : Hdr} {v : Option (BitVec 19)} {off : BitVec 7} {a d : Reg} {ty : LdTy}

theorem andThen_ok {r : Resolve} {l : Loc} {i : Instr} {c : Loc → State → State} (hr : r = .ok l t) :
    r.andThen s f i c = c l t := by
  rw [hr]
  rfl

theorem operand_ok {glob : Bool} {addr size : Nat} {k : AccKind} {l : Loc} {i : Instr} {c : Loc → State → State}
    (hr : (if glob then resolveGlobal s f addr size size k else resolveSp s f addr size size false) = .ok l t) :
    (s.operand f glob addr size k).andThen s f i c = c l t := by
  have ho : s.operand f glob addr size k = .ok l t := hr
  rw [ho]
  rfl

end

/-- Settles O33. -/
theorem loadResults : Obligations.LoadResults := by
  intro s t f h v off a d ty sp wide w sc buf l posts plain
  have hposts {i : Instr} {m n : Access} (he : exec i s = .next (postAccess t f i h m)) (hrel : m.rel = false)
      (hn : { m with id := t.nextId, tag := accTag f m.loc } = n) : posts i n := by
    intro hpost
    subst hn
    exact ⟨_, he, postAccess_posted hrel hpost⟩
  have hplain {i : Instr} {glob : Bool} {ty : LdTy} {off : DWord} (he : exec i s = plainLoad s i h glob a d ty off) :
      plain i glob ty off := by
    intro hi hr
    exact hposts (he.trans ((issue_next hi).trans (congrArg Host.Outcome.next (operand_ok hr)))) rfl mkAccess_posted
  refine ⟨hplain (by cases v <;> rfl), hplain (by cases v <;> rfl), hplain (by cases v <;> rfl), hplain (by cases v <;> rfl),
    ?_, ?_, ?_⟩
  · intro i addr hi hr
    refine hposts (m := { mkAccess f i l addr 4 (.load .b32 d) with win := t.winOf f w.toNat }) ?_ rfl ?_
    · have hex : exec i s = ldSwAt i v h w a d s := by cases v <;> rfl
      exact hex.trans ((issue_next hi).trans (congrArg Host.Outcome.next (andThen_ok hr)))
    · rw [← mkAccess_posted]
  · intro i addr n hi hr
    refine hposts (m := { mkAccess f i l addr n (.load (if wide then .b64 else .b32) d) with
      acq := true, scope := sc }) ?_ rfl ?_
    · have hex : exec i s = ldAcqAt i v h sc wide a d s := by cases v <;> rfl
      exact hex.trans ((issue_next hi).trans (congrArg Host.Outcome.next (andThen_ok hr)))
    · rw [← mkAccess_posted]
  · intro i addr n hi hr
    refine hposts (m := mkAccess f i l addr n (.load (if wide then .b64 else .b32) d)) ?_ rfl mkAccess_posted
    have hex : exec i s = ldCbAt i v h buf wide a d s := by cases v <;> rfl
    exact hex.trans ((issue_next hi).trans (congrArg Host.Outcome.next (andThen_ok hr)))

/-! A release that marks a key store: the machine of the refutations of O34 and O35. -/

/-- An L1 TLB entry that maps the first page to itself. -/
def firstPage : TlbEntry where
  quad := 0
  asid := 1
  base := 0
  size := 4096
  loc := .dram 0
  r := true
  w := true
  x := true
  summ := false
  sidx := 0

/-- The fibre that releases, beside a key store of another fibre with its Widens applied, and a complete record of the fibre's
write of the word that the store writes. -/
def releasing : State := { State.reset with
  launches := [bench.launch 1]
  fibres := [passing, bench.fibre 3 1]
  accs := [widenedStore]
  records := [passedRecord]
  l1tlb := [(0, firstPage)]
  cur := 2 }

theorem releasing_resolves (k : AccKind) (hk : firstPage.allows k = true) :
    resolveGlobal releasing passing 0 4 4 k = .ok (.dram 0) releasing :=
  resolveGlobal_answer (by decide) rfl rfl (fun h => by cases h)
    (lookup_l1_ok (e := firstPage) (by decide +kernel) hk rfl) (.inl rfl)

/-- The machine's accesses after an ordered store, and after a releasing atomic, of the fibre: the store has met the record. -/
theorem accsAfter_stRel : ((accsAfter (exec (.stRel ⟨0, 3⟩ .dev false 0 0) releasing)).head?.bind fun a => a.fate) =
    some 11 := by
  decide +kernel

theorem accsAfter_atom :
    ((accsAfter (exec (.atom ⟨0, 3⟩ false 0 0 0 .b32 .dev .rel .exch) releasing)).head?.bind fun a => a.fate) =
      some 11 := by
  decide +kernel

/-- Of a posted access the statements have every other access stand. -/
theorem posted_head {i : Instr} {n : Access} {u : State} (hexec : exec i releasing = .next u)
    (hposted : releasing.Posted passing i 3 n u) :
    ((accsAfter (exec i releasing)).head?.bind fun a => a.fate) = none := by
  obtain ⟨ra, hu, -, -⟩ := hposted
  have haccs : u.accs = widenedStore :: [n] := by
    rw [hu, State.retire_accs]
    rfl
  rw [hexec]
  change u.accs.head?.bind _ = none
  rw [haccs]
  rfl

/-- Refutes O34: an ordered store is a release, and marks a key store that it has raced with, so that not every other access stands. -/
theorem not_storeResults : ¬Obligations.StoreResults := by
  intro h
  obtain ⟨-, -, -, -, -, hrel, -⟩ :=
    h releasing releasing passing ⟨0, 3⟩ none 0 0 0 .b8 false false 0 .dev .wbuf (.dram 0)
  obtain ⟨u, hexec, hposted⟩ := hrel ⟨rfl, by decide, by decide, rfl, fun hc => by cases hc⟩
    (releasing_resolves .write rfl) ⟨by decide, by decide +kernel, fun _ => by decide +kernel, by decide, rfl⟩
  exact Option.some_ne_none _ (accsAfter_stRel.symm.trans (posted_head hexec hposted))

/-- Refutes O35: so does an atomic that releases. -/
theorem not_atomicAndCopyResults : ¬Obligations.AtomicAndCopyResults := by
  intro h
  obtain ⟨hatom, -⟩ := h.1 releasing releasing passing ⟨0, 3⟩ 0 0 0 0 false false false false .b32 .dev .rel .exch 0 0 .sp .sp 0
    (.dram 0) (.global 0) (.global 0) [] []
  obtain ⟨u, hexec, hposted⟩ := hatom ⟨rfl, by decide, by decide, rfl, fun hc => by cases hc⟩
    (releasing_resolves .atomic rfl) ⟨by decide, by decide +kernel, fun _ => by decide +kernel, by decide, rfl⟩
  exact Option.some_ne_none _ (accsAfter_atom.symm.trans (posted_head hexec hposted))

end Sys2Proof.Machine

/-! O36 (R127 to R129, R142, R214): a request is sent, and an access in scratchpad or a typed buffer is performed. -/

namespace Sys2Proof.Machine

/-- The oldest unsent entry of a core and line is the one that is sent. -/
theorem sendOldest_append {core line : Nat} {pre post : List RaEntry} {r : RaEntry} (hcore : r.core = core)
    (hline : r.line = line) (hsent : r.sent = false)
    (hpre : ∀ q ∈ pre, ¬(q.core = core ∧ q.line = line ∧ q.sent = false)) :
    sendOldest core line (pre ++ r :: post) = pre ++ { r with sent := true } :: post := by
  induction pre with
  | nil => exact if_pos ⟨hcore, hline, hsent⟩
  | cons q pre ih =>
    have hq := hpre q List.mem_cons_self
    rw [List.cons_append, sendOldest, if_neg hq, ih fun x hx => hpre x (List.mem_cons_of_mem q hx)]
    rfl

/-- A line that no fill of the core is on its way to: the request alone is sent. -/
theorem exec_roundaboutSend {s : State} {core line : Nat}
    (hfills : ∀ e ∈ s.fills, e.core = core → (sectorLoc e.sector).line ≠ line) :
    exec (.roundaboutSend core line) s = .next { s with roundabout := sendOldest core line s.roundabout } := by
  have hks : ((s.fills.filter fun e => e.core == core).map (·.sector)).filter
      (fun k => decide ((sectorLoc k).line = line)) = [] := by
    rw [List.filter_eq_nil_iff]
    intro k hk
    obtain ⟨e, he, rfl⟩ := List.mem_map.mp hk
    obtain ⟨hin, hcore⟩ := List.mem_filter.mp he
    simpa using hfills e hin (beq_iff_eq.mp hcore)
  change execRoundaboutSend core line s = _
  unfold execRoundaboutSend
  dsimp only
  rw [hks]
  rfl

/-- A location in scratchpad or in a typed buffer: it has no sectors. -/
def Loc.inBlock (l : Loc) : Prop := (∃ k, l = .sp k) ∨ ∃ k, l = .cb k

section
variable {s u : State} {a : Access} {f : Fibre}

theorem Loc.inBlock.sectors {l : Loc} (h : l.inBlock) (n : Nat) : l.sectors n = [] := by
  rcases h with ⟨k, rfl⟩ | ⟨k, rfl⟩ <;> rfl

theorem State.peekAll_inBlock {l : Loc} (h : l.inBlock) (n : Nat) : s.peekAll l n = s := by
  rw [State.peekAll, h.sectors]
  rfl

theorem State.homeWrite_inBlock {l : Loc} (h : l.inBlock) (bs : List Byte) : s.homeWrite l bs = s.setBytes l bs := by
  rw [State.homeWrite, h.sectors]
  rcases h with ⟨k, rfl⟩ | ⟨k, rfl⟩ <;> rfl

theorem State.fibreStore_inBlock {l : Loc} (h : l.inBlock) (core : Nat) (bs : List Byte) :
    s.fibreStore core l bs = s.setBytes l bs := by
  rw [State.fibreStore, h.sectors]
  rcases h with ⟨k, rfl⟩ | ⟨k, rfl⟩ <;> rfl

theorem State.touchRead_inBlock (h : a.loc.inBlock) : s.touchRead f a = s := by
  unfold State.touchRead
  split
  · rw [State.fibreLoad, h.sectors]
    rfl
  · exact State.peekAll_inBlock h _

theorem State.checkAcc_inBlock (h : a.loc.inBlock) (htag : a.tag = 0) : s.checkAcc f a = (s, false) := by
  unfold State.checkAcc
  split
  · rw [h.sectors]
    rfl
  · rcases h with ⟨k, hk⟩ | ⟨k, hk⟩ <;> simp [hk, checkRead, htag]

/-- The detector's step for an access keeps every memory and every access. -/
theorem State.registerAcc_ok {writes : Bool} (h : s.registerAcc f a writes = .ok u) :
    ∃ rs ts df, u = { s with records := rs, touched := ts, detectorFull := df } := by
  unfold State.registerAcc at h
  dsimp only at h
  split at h
  · cases h
  · split at h
    · rw [← Registered.ok.inj h]
      unfold State.recordAgain
      split
      · exact ⟨s.records, s.touched, s.detectorFull, rfl⟩
      · exact ⟨_, s.touched, s.detectorFull, rfl⟩
    · exact State.register_ok h

theorem State.registerAcc_seen {writes : Bool} (h : s.registerAcc f a writes = .ok u) : u.seen a = s.seen a := by
  obtain ⟨rs, ts, df, rfl⟩ := State.registerAcc_ok h
  rfl

/-- Where an access can be performed, it is, with the bytes it sees. -/
theorem serve_inBlock {k : Access → State → Fibre → List Byte → State} (hs : s.Serves a f u) (hl : a.loc.inBlock) :
    serve s a k = k a u f (s.seen a) := by
  obtain ⟨hacc, hfib, hready, hpeer, htag, hmeet, hhost, hserve, hreg⟩ := hs
  have hof : s.ofPlaza a = some a := by
    unfold State.ofPlaza
    exact if_pos htag
  have hclear : s.wayClear a (a.writesVal (Dec.leNat (s.seen a))).isSome
      ((a.writesVal (Dec.leNat (s.seen a))).isSome || (a.tag == 0 && a.op.isAtom && !a.op.isLoad)) = (s, true) := by
    unfold State.wayClear
    have htrue : (a.tag == 0) = true := beq_iff_eq.mpr htag
    rw [hready, hpeer, htrue, htag, Bool.true_and, hmeet]
    dsimp only
    rw [hhost, hserve]
    rfl
  have hseen := State.registerAcc_seen hreg
  unfold serve
  rw [hfib, hof]
  dsimp only
  rw [hclear]
  dsimp only
  rw [hreg]
  dsimp only
  rw [State.checkAcc_inBlock hl htag, hseen]
  split <;> rfl

theorem markLine_untagged {w : Option (List Byte)} {k : State → State} (htag : a.tag = 0) : markLine s a w k = k s := by
  unfold markLine
  rw [if_pos htag]

/-- A load lands the bytes it sees. -/
theorem exec_loadComplete {ty : LdTy} {d : Reg} (hs : s.Serves a f u) (hl : a.loc.inBlock) (hop : a.op = .load ty d)
    (hfill : s.byFill a.id = false) : exec (.loadComplete a.id) s =
      .next ((u.endAccess a).modF a.fib fun g => g.landLoad a.wseq ty d (Dec.leNat (s.seen a))) := by
  have hserve := serve_inBlock (k := fun a s f bs => landLoad s f a bs) hs hl
  obtain ⟨hacc, -, -, -, htag, -⟩ := hs
  change execLoadComplete a.id s = _
  unfold execLoadComplete
  rw [hacc]
  dsimp only
  rw [hfill, hop]
  dsimp only [AccOp.isLoad, AccOp.isAtom]
  change Host.Outcome.next (serve s a fun a s f bs => landLoad s f a bs) = _
  rw [hserve]
  unfold landLoad
  rw [hop]
  dsimp only
  rw [markLine_untagged htag, State.touchRead_inBlock hl]

/-- A store writes its bytes. -/
theorem exec_storePerform {v : DWord} (hs : s.Serves a f u) (hl : a.loc.inBlock) (hop : a.op = .store v) :
    exec (.storePerform a.id) s =
      .next (((u.setBytes a.loc (Dec.leBytes a.size v.toNat)).chooseRun a.loc a.size).endAccess a) := by
  have hserve := serve_inBlock (k := fun a s f bs => performStore s f a bs) hs hl
  obtain ⟨hacc, -, -, -, htag, -⟩ := hs
  have hwiden : s.widenFirst a = none := by
    unfold State.widenFirst
    rcases hl with ⟨k, hk⟩ | ⟨k, hk⟩ <;> rw [hop, hk]
  change execStorePerform a.id s = _
  unfold execStorePerform
  rw [hacc]
  dsimp only
  rw [hwiden, hop]
  dsimp only [AccOp.isLoad, AccOp.isAtom]
  change Host.Outcome.next (serve s a fun a s f bs => performStore s f a bs) = _
  rw [hserve]
  unfold performStore
  rw [hop]
  dsimp only
  rw [markLine_untagged htag, State.homeWrite_inBlock hl, State.fibreStore_inBlock hl, if_neg (by simp [htag]), ite_self]

/-- A word that no running pass updates is taken as it stands. -/
theorem State.chooseWord_idle (key : Nat) (h : ∀ e ∈ s.mx, e.run = []) : s.chooseWord key = s := by
  refine if_neg fun hany => ?_
  obtain ⟨e, he, hrun⟩ := List.any_eq_true.mp hany
  simp [h e he] at hrun

theorem State.chooseRun_idle {l : Loc} {n : Nat} (h : ∀ e ∈ s.mx, e.run = []) : s.chooseRun l n = s := by
  cases l with
  | cb k =>
    change (List.range (n / 4)).foldl (fun (t : State) i => t.chooseWord (k + 4 * i)) s = s
    induction List.range (n / 4) with
    | nil => rfl
    | cons i is ih => rw [List.foldl_cons, State.chooseWord_idle _ h, ih]
  | _ => rfl

/-- The state after an atomic's write, if it writes. -/
def State.atomWrites (u : State) (a : Access) : Option Nat → State
  | some n => u.setBytes a.loc (Dec.leBytes a.size n)
  | none => u

/-- An atomic reads and writes in one step. -/
theorem exec_atomicExecute {op : AtomOp} {ty : AtomTy} {b x : DWord} {dst : Reg} (hs : s.Serves a f u) (hl : a.loc.inBlock)
    (hop : a.op = .atom op ty b x dst) : exec (.atomicExecute a.id) s =
      .next (((u.atomWrites a (atomNew op ty (.ofNat 64 (Dec.leNat (s.bytes a.loc a.size))) b x)).endAccess a).modF a.fib
        fun g =>
          if ty.wide then g.landPair a.wseq dst (.ofNat 64 (Dec.leNat (s.bytes a.loc a.size)))
          else g.land a.wseq dst (.ofNat 32 (Dec.leNat (s.bytes a.loc a.size)))) := by
  have hserve := serve_inBlock (k := fun a s f bs => performAtomic s f a bs) hs hl
  obtain ⟨hacc, -, -, -, htag, -⟩ := hs
  have hseen : s.seen a = s.bytes a.loc a.size := by
    unfold State.seen Access.plainLoad
    rw [hop, if_pos htag]
    rfl
  change execAtomicExecute a.id s = _
  unfold execAtomicExecute
  rw [hacc]
  dsimp only
  rw [hop]
  dsimp only
  rw [hserve, hseen]
  unfold performAtomic
  rw [hop]
  dsimp only
  cases atomNew op ty (.ofNat 64 (Dec.leNat (s.bytes a.loc a.size))) b x with
  | none =>
    dsimp only
    rw [markLine_untagged htag, State.touchRead_inBlock hl]
    rfl
  | some n =>
    dsimp only
    rw [markLine_untagged htag, State.homeWrite_inBlock hl, if_neg (by simp [htag])]
    rfl

end

/-- Settles O36. -/
theorem accessEvents : Obligations.AccessEvents := by
  intro s u a f core line ty d v aop aty b x dst pre post r
  refine ⟨fun hround hcore hline hsent hpre hfills => ?_, fun hs hl => ⟨fun hop hfill => exec_loadComplete hs hl hop hfill,
    fun hop hown => ?_, fun hop => exec_storePerform hs hl hop, fun w => ⟨fun k hk => ?_, State.chooseRun_idle⟩,
    fun hop => ?_⟩⟩
  · rw [exec_roundaboutSend hfills, hround, sendOldest_append hcore hline hsent hpre]
  · obtain ⟨-, -, -, -, htag, -⟩ := hs
    unfold State.seen
    rw [if_pos htag, hown]
    exact ite_self _
  · rw [hk]
    rfl
  · refine (exec_atomicExecute hs hl hop).trans ?_
    cases atomNew aop aty (.ofNat 64 (Dec.leNat (s.bytes a.loc a.size))) b x <;> rfl

end Sys2Proof.Machine

/-! Operations at a barrier object (R147, R227): where it lies, and what stands as they reach it. -/

namespace Sys2Proof.Machine

/-! The operand. -/

section
variable {s t : State} {f : Fibre} {l : Loc}

theorem State.lookup_reads (s : State) (core : Option Nat) (quad asid va : Nat) (k : AccKind) :
    s.Reads (s.lookup core quad asid va k).1 := s.findEntry_reads core quad asid va

theorem translateFor_reads {va : Nat} {k : AccKind} (h : translateFor s f va k = .ok l t) : s.Reads t := by
  unfold translateFor at h
  split at h
  · cases h
  · have hr := s.lookup_reads (some f.core) (coreQuad f.core) (s.asidOf f) va k
    extract_lets r at h
    split at h
    · cases h
      exact hr
    · cases h
    · cases h
    · cases h
    · cases h

theorem resolveGlobal_reads {va size align : Nat} {k : AccKind} (h : resolveGlobal s f va size align k = .ok l t) : s.Reads t := by
  unfold resolveGlobal at h
  split at h
  · cases h
  · split at h
    · cases h
    · split at h
      · cases h
      · split at h
        · next ht =>
          split at h
          · cases h
          · cases h
            exact translateFor_reads ht
        · next r hne => exact absurd h (hne l t)

theorem resolveSp_ok {off size align : Nat} {barrier : Bool} (h : resolveSp s f off size align barrier = .ok l t) : t = s := by
  unfold resolveSp at h
  split at h
  · cases h
  · split at h
    · cases h
    · split at h
      · cases h
      · split at h
        · cases h
        · cases h
          rfl

/-- The way to an object changes no more than a read does. -/
theorem resolveObj_reads {space : BarSpace} {a : Reg} (h : resolveObj s f space a = .ok l t) : s.Reads t := by
  unfold resolveObj at h
  split at h
  · extract_lets off at h
    split at h
    · cases h
    · rw [resolveSp_ok h]
      exact .refl s
  · extract_lets va at h
    split at h
    · cases h
    · exact resolveGlobal_reads h
  · extract_lets va at h
    split at h
    · cases h
    · exact resolveGlobal_reads h

end

/-! The object as it is reached. -/

section
variable {s t r : State} {f : Fibre} {l : Loc}

theorem State.gained_coh (r : State) (l : Loc) (n : Nat) : ({ r with nextId := r.nextId + 1 } : State).Coh (r.gained l n) :=
  State.Coh.foldl _ _ fun t k => t.homeClear_coh k

theorem State.gained_fib (r : State) (l : Loc) (n m : Nat) : (r.gained l n).fib? m = r.fib? m :=
  (r.gained_coh l n).reads.writes.fib m

theorem State.Coh.nat (h : s.Coh t) (l : Loc) (n : Nat) : t.nat l n = s.nat l n := by
  unfold State.Coh at h
  rw [h]
  cases l <;> rfl

theorem State.Coh.obj (h : s.Coh t) (l : Loc) : t.obj l = s.obj l := by
  unfold State.obj
  simp only [h.nat]

theorem State.gained_nat {a : NewAcc} (h : t.register a = .ok r) (l l' : Loc) (n m : Nat) (hl : l'.isPeer = false) :
    (r.gained l n).nat l' m = t.nat l' m := by
  obtain ⟨rs, ts, df, rfl⟩ := State.register_ok h
  rw [(State.gained_coh _ l n).nat]
  cases l' with
  | peer => cases hl
  | _ => rfl

theorem Loc.isPeer_add (l : Loc) (n : Nat) : (l.add n).isPeer = l.isPeer := by cases l <;> rfl

theorem State.gained_obj {a : NewAcc} (h : t.register a = .ok r) (l l' : Loc) (n : Nat) (hl : l'.isPeer = false) :
    (r.gained l n).obj l' = t.obj l' := by
  have hn (k m : Nat) : (r.gained l n).nat (l'.add k) m = t.nat (l'.add k) m :=
    State.gained_nat h l _ n m ((Loc.isPeer_add l' k).trans hl)
  unfold State.obj
  rw [State.gained_nat h l l' n 4 hl]
  simp only [hn]

theorem State.register_fib {a : NewAcc} (h : t.register a = .ok r) (n : Nat) : r.fib? n = t.fib? n := by
  obtain ⟨rs, ts, df, rfl⟩ := State.register_ok h
  rfl

theorem whenHeld_ok {n : Nat} {k : State → State} (hown : t.ownAhead f l n = false) (hway : t.hostInWay l n true = [])
    (hserve : t.mayServe l n true = true) : t.whenHeld f l n k = k t := by
  unfold State.whenHeld
  rw [hown, hway, hserve]
  rfl

theorem registerFrom_ok {s0 : State} {i : Instr} {a : NewAcc} {addr : Nat} {k : State → State} (h : t.register a = .ok r) :
    t.registerFrom s0 f i a addr k = (k (r.gained a.loc a.size)).recDone a.owner := by
  unfold State.registerFrom
  rw [h]
  rfl

theorem registerFrom_race {s0 : State} {i : Instr} {a : NewAcc} {addr d : Nat} {k : State → State} (h : t.register a = .race d) :
    t.registerFrom s0 f i a addr k = (t.unread s0).trapAt f i .race d addr := by
  unfold State.registerFrom
  rw [h]

/-- At an object that stands open an operation passes its checks, is registered, and goes on. -/
theorem atObject_open {i : Instr} {sc : Scope} {addr : Nat} {check : Obj → Option Cause} {k : State → State}
    (ho : t.ObjectOpen f l) (hcheck : check (t.obj l) = none) (hreg : t.register (objAcc t f l 32 sc) = .ok r) :
    atObject t f i l sc addr check k = (k (r.gained l 32)).recDone t.nextId := by
  obtain ⟨-, hmeet, hown, hway, hserve, hsound, hdam⟩ := ho
  unfold atObject
  rw [hmeet]
  dsimp only
  rw [whenHeld_ok hown hway hserve]
  unfold State.soundObj
  rw [hsound]
  dsimp only [List.isEmpty_nil]
  rw [if_pos rfl, hdam, if_neg Bool.false_ne_true, hcheck]
  exact registerFrom_ok hreg

end

end Sys2Proof.Machine

/-! O39, O41 (R96, R97, R147 to R150): barrier instructions and rallies. -/

namespace Sys2Proof.Machine

section
variable {s t r : State} {f : Fibre} {h : Hdr} {space : BarSpace} {a d : Reg} {l : Loc} {sat : Bool} {i : Instr}

/-! Retirement after a phase wait. -/

theorem State.afterWait_plain {obj : Nat} (hsat : (sat && f.satt) = false) :
    t.afterWait f i h sat obj = t.retire f i { stall := h.s.toNat, flush := true, safe := true } := by
  unfold State.afterWait
  rw [hsat]
  rfl

theorem State.retired_satTrap (s : State) (f : Fibre) (i : Instr) (r : Retire) :
    (s.retired f i r).deferred = f.deferred ∧ (s.retired f i r).trapMode = f.trapMode := by
  have hret : (f.retire (s.det f) i.size r).deferred = f.deferred ∧ (f.retire (s.det f) i.size r).trapMode = f.trapMode := by
    obtain ⟨_, _, _, _, _, _, -, h⟩ := f.retire_eq (s.det f) i.size r
    obtain ⟨_, _, _, _, hs⟩ := f.shown_eq r
    rw [h, Fibre.noted, hs]
    exact ⟨rfl, rfl⟩
  unfold State.retired Fibre.atSafePoint
  split
  · split <;> exact hret
  · exact hret

/-- A wait that a saturated phase ended retires with its SAT trap due (R67). -/
theorem State.afterWait_sat {obj : Nat} (hf : (t.fib? f.uid).isSome = true) (hsatt : f.satt = true) (htrap : f.trapMode = false) :
    ∃ g, (t.afterWait f i h true obj).fib? f.uid = some g ∧ g.dist = 1 ∧ g.deferred = satTrap f i obj :: f.deferred := by
  have hself := State.retire_fib_self t f i { stall := h.s.toNat, flush := true, safe := true } hf
  obtain ⟨hdef, hmode⟩ := t.retired_satTrap f i { stall := h.s.toNat, flush := true, safe := true }
  unfold State.afterWait
  rw [hsatt]
  dsimp only
  rw [if_pos (Bool.and_self true), hself]
  generalize t.retired f i { stall := h.s.toNat, flush := true, safe := true } = g at hself hdef hmode
  dsimp only
  rw [hmode, htrap, if_neg Bool.false_ne_true]
  have hmod := State.modF_fib (t.retire f i { stall := h.s.toNat, flush := true, safe := true }) f.uid
    (fun g' => { g' with dist := 1, deferred := satTrap f i obj :: g.deferred }) f.uid fun _ => rfl
  rw [hself, Option.map_some, if_pos (State.fib_uid hself)] at hmod
  exact ⟨_, hmod, rfl, congrArg _ hdef⟩

/-! The instructions, at an object that stands open. -/

theorem exec_barInit (hi : s.Issues f (.barInit h space a d) h.g (barUses space a d) (rc d :: barSrcs space a))
    (hl : resolveObj s f space a = .ok l t) (ho : t.ObjectOpen f l)
    (hreg : t.register (objAcc t f l 32 (objScope space)) = .ok r) (hset : (t.obj l).isSet = false)
    (haw : t.awaited l = false) : exec (.barInit h space a d) s = .next
      ((((r.gained l 32).setObj l ⟨0, (f.reg d).toNat, 0, 0, 0, 0⟩).retire f (.barInit h space a d)
        { stall := h.s.toNat }).recDone t.nextId) := by
  refine (issue_next hi).trans (congrArg _ ?_)
  rw [andThen_ok hl, if_neg (by rw [ho.1]; exact Bool.false_ne_true)]
  exact atObject_open ho (by rw [hset, haw]; rfl) hreg

theorem exec_barExpect (hi : s.Issues f (.barExpect h space a d) h.g (barUses space a d) (rc d :: barSrcs space a))
    (hl : resolveObj s f space a = .ok l t) (ho : t.ObjectOpen f l)
    (hreg : t.register (objAcc t f l 32 (objScope space)) = .ok r) : exec (.barExpect h space a d) s = .next
      ((((r.gained l 32).setObj l { t.obj l with bytesExp := ((t.obj l).bytesExp + (f.reg d).toNat) % 2 ^ 64 }).retire f
        (.barExpect h space a d) { stall := h.s.toNat }).recDone t.nextId) := by
  refine (issue_next hi).trans (congrArg _ ?_)
  rw [andThen_ok hl, if_neg (by rw [ho.1]; exact Bool.false_ne_true), atObject_open ho rfl hreg,
    State.gained_obj hreg _ _ _ ho.1]

theorem exec_barArrive (hi : s.Issues f (.barArrive h space a d) h.g (barUses space a d) (barSrcs space a))
    (hl : resolveObj s f space a = .ok l t) (ho : t.ObjectOpen f l)
    (hreg : t.register (objAcc t f l 32 (objScope space)) = .ok r) (hset : (t.obj l).isSet = false ∨ f.set = some l)
    (hroom : (t.obj l).arrived ≠ (t.obj l).expected) :
    ∃ g, ((r.gained l 32).arrive f l .bar).fib? f.uid = some g ∧ g.uid = f.uid ∧ g.pc = f.pc ∧
      exec (.barArrive h space a d) s = .next ((((r.gained l 32).arrive f l .bar).retire (g.setRegNow d (t.obj l).phase)
        (.barArrive h space a d) { stall := h.s.toNat }).recDone t.nextId) := by
  obtain ⟨hf, -⟩ := State.cur_fib hi.1
  have hz : (r.gained l 32).fib? f.uid = some f := by
    rw [State.gained_fib, State.register_fib hreg, (resolveObj_reads hl).writes.fib, hf]
  obtain ⟨g, hg, huid, hpc, -⟩ := State.arrive_fib _ l (f := f) (k := .bar) hz
  refine ⟨g, hg, huid, hpc, (issue_next hi).trans (congrArg _ ?_)⟩
  have hcheck : arriveCheck f l (t.obj l) = none := by
    unfold arriveCheck
    rw [if_neg hroom]
    rcases hset with hs | hs <;> simp [hs]
  rw [andThen_ok hl, if_neg (by rw [ho.1]; exact Bool.false_ne_true), atObject_open ho hcheck hreg,
    State.gained_obj hreg _ _ _ ho.1]
  dsimp only
  rw [hg]

theorem exec_barWait_released (hi : s.Issues f (.barWait h space a d) h.g (barUses space a d) (rc d :: barSrcs space a))
    (hl : resolveObj s f space a = .ok l t) (hpeer : l.isPeer = false) (hfail : (t.obj l).failed = false)
    (hw : f.wait = .released sat) :
    exec (.barWait h space a d) s = .next (t.afterWait f (.barWait h space a d) h sat (objAddr f space a)) := by
  refine (issue_next hi).trans (congrArg _ ?_)
  rw [andThen_ok hl, if_neg (by rw [hpeer]; exact Bool.false_ne_true), hw]
  dsimp only
  rw [hfail, if_neg Bool.false_ne_true]

/-- A `bar.wait` that has not waited yet goes on or blocks as its phase has completed or not (R150). -/
theorem exec_barWait_none (hi : s.Issues f (.barWait h space a d) h.g (barUses space a d) (rc d :: barSrcs space a))
    (hl : resolveObj s f space a = .ok l t) (ho : t.ObjectOpen f l) (hfail : (t.obj l).failed = false)
    (hreg : t.register (objAcc t f l 32 (objScope space)) = .ok r) (hset : (t.obj l).isSet = false ∨ f.set = some l)
    (hw : f.wait = .none) : exec (.barWait h space a d) s = .next
      ((if (t.obj l).passed (f.reg d) then
          (r.gained l 32).afterWait f (.barWait h space a d) h (f.reg d == (t.obj l).phase - 1 && (t.obj l).satph)
            (objAddr f space a)
        else (r.gained l 32).block f (.phase l (f.reg d) .bar)).recDone t.nextId) := by
  refine (issue_next hi).trans (congrArg _ ?_)
  rw [andThen_ok hl, if_neg (by rw [ho.1]; exact Bool.false_ne_true), hw]
  dsimp only
  rw [atObject_open ho _ hreg, State.gained_obj hreg _ _ _ ho.1]
  rw [hfail]
  rcases hset with hs | hs <;> simp [hs]

end

/-! Rallies. -/

section
variable {s t r : State} {f : Fibre} {h : Hdr} {a : Reg} {l : Loc} {sat : Bool} {i : Instr} {kind : PhaseKind}

/-- A fibre that blocks stands at its instruction and waits. -/
theorem State.block_fib_self (s : State) {f : Fibre} (w : Wait) (hf : (s.fib? f.uid).isSome = true) :
    ∃ g, (s.block f w).fib? f.uid = some g ∧ g.pc = f.pc ∧ g.wait = w := by
  let g : Fibre := { f with wait := w, waited := true, live := .allOnes 64, dist := f.distNow }.atSafePoint
  have hg : g.uid = f.uid ∧ g.pc = f.pc ∧ g.wait = w := by
    unfold g Fibre.atSafePoint
    split <;> exact ⟨rfl, rfl, rfl⟩
  obtain ⟨huid, hpc, hwait⟩ := hg
  refine ⟨g, ?_, hpc, hwait⟩
  have hself := State.setF_fib_self s g (by rw [huid]; exact hf)
  rw [huid] at hself
  rw [State.block, State.laneDone_fib]
  exact hself

/-- An arrival that waits: the fibre blocks on the collecting phase, and then arrives. -/
theorem State.arriveWait_eq (hf : (s.fib? f.uid).isSome = true) :
    ∃ g, (s.block f (.phase l (s.obj l).phase kind)).fib? f.uid = some g ∧ g.pc = f.pc ∧
      g.wait = .phase l (s.obj l).phase kind ∧
      s.arriveWait f l kind = (s.block f (.phase l (s.obj l).phase kind)).arrive g l kind := by
  obtain ⟨g, hself, hpc, hwait⟩ := s.block_fib_self (.phase l (s.obj l).phase kind) hf
  refine ⟨g, hself, hpc, hwait, ?_⟩
  unfold State.arriveWait
  dsimp only
  rw [hself]

theorem rallyWith_released (hi : s.Issues f i h.g [a] [rc a]) (hw : f.wait = .released sat)
    (hsat : (sat && f.satt) = false) :
    rallyWith s i h a kind = .next (s.retire f i { stall := h.s.toNat, flush := true, safe := true }) := by
  refine (issue_next hi).trans (congrArg _ ?_)
  dsimp only
  rw [hw]
  exact State.afterWait_plain hsat

theorem rallyWith_noSet (hi : s.Issues f i h.g [a] [rc a]) (hw : f.wait = .none) (hset : f.set = none) :
    rallyWith s i h a kind = .next (s.trapAt f i .set 0 (f.reg a).toNat) := by
  refine (issue_next hi).trans (congrArg _ ?_)
  dsimp only
  rw [hw, hset]
  rfl

theorem rallyWith_held (hi : s.Issues f i h.g [a] [rc a]) (hw : f.wait = .none) (hset : f.set ≠ none) (hheld : f.held ≠ none) :
    rallyWith s i h a .rallyH = .next (s.trapAt f i .held 0 (f.reg a).toNat) := by
  refine (issue_next hi).trans (congrArg _ ?_)
  dsimp only
  rw [hw]
  obtain ⟨m, hm⟩ := Option.ne_none_iff_exists'.mp hset
  obtain ⟨b, hb⟩ := Option.ne_none_iff_exists'.mp hheld
  rw [hm, hb]
  rfl

theorem rallyWith_arrives (hi : s.Issues f i h.g [a] [rc a]) (hw : f.wait = .none) (hheld : kind = .rallyH → f.held = none)
    (hl : resolveObj s f .sp a = .ok l t) (ho : t.ObjectOpen f l) (hreg : t.register (objAcc t f l 32 .dev) = .ok r)
    (hset : f.set = some l) (hiss : (t.obj l).isSet = true) (hfail : (t.obj l).failed = false)
    (hroom : (t.obj l).arrived ≠ (t.obj l).expected) :
    rallyWith s i h a kind = .next (((r.gained l 32).arriveWait f l kind).recDone t.nextId) := by
  refine (issue_next hi).trans (congrArg _ ?_)
  have hk : (decide (kind = .rallyH) && f.held.isSome) = false := by
    by_cases hk : kind = .rallyH
    · simp [hheld hk]
    · simp [hk]
  have hcheck : rallyCheck f l (t.obj l) = none := by
    unfold rallyCheck
    rw [hiss, hfail, if_neg hroom]
    simp [hset]
  dsimp only
  rw [hw]
  dsimp only
  rw [hset]
  dsimp only [Option.isNone_some]
  rw [if_neg Bool.false_ne_true, hk, if_neg Bool.false_ne_true, andThen_ok hl, atObject_open ho hcheck hreg]

end

/-- Settles O41. -/
theorem rallyResults : Obligations.RallyResults := by
  intro s t r f h a l sat form i kind hi
  have hexec : exec i s = rallyWith s i h a kind := by
    unfold i kind
    split <;> rfl
  have hkind : kind = .rallyH ↔ form = true := by
    unfold kind
    split <;> simp [*]
  rw [hexec]
  refine ⟨rallyWith_released hi, rallyWith_noSet hi, ?_, fun hw hform hset hheld => ?_⟩
  · intro hw hheld hl ho hreg hset hiss hfail hroom w
    obtain ⟨hf, -⟩ := State.cur_fib hi.1
    have hz : ((r.gained l 32).fib? f.uid).isSome = true := by
      rw [State.gained_fib, State.register_fib hreg, (resolveObj_reads hl).writes.fib, hf]
      rfl
    obtain ⟨g, hg, hpc, hwait, harr⟩ := State.arriveWait_eq (l := l) (kind := kind) hz
    rw [State.gained_obj hreg _ _ _ ho.1] at hg hwait harr
    refine ⟨g, hg, hpc, hwait, ?_⟩
    rw [rallyWith_arrives hi hw (hheld ∘ hkind.mp) hl ho hreg hset hiss hfail hroom, harr]
  · rw [hkind.mpr hform]
    exact rallyWith_held hi hw hset hheld

/-- Settles O39. -/
theorem barrierResults : Obligations.BarrierResults := by
  intro s t r f h space a d l sat hl z o ready
  refine ⟨?_, ?_, ?_, ?_⟩
  · rintro hi ⟨ho, hreg⟩ hset haw
    exact exec_barInit hi hl ho hreg hset haw
  · rintro hi ⟨ho, hreg⟩
    exact exec_barExpect hi hl ho hreg
  · rintro hi ⟨ho, hreg⟩ hset hroom
    exact exec_barArrive hi hl ho hreg hset hroom
  · intro hi hpeer hfail
    refine ⟨fun hw hsat => ?_, fun hw hsatt htrap => ?_, fun hw ⟨ho, hreg⟩ hset => ⟨fun hpass hsatt => ?_, fun hpass => ?_⟩⟩
    · rw [exec_barWait_released hi hl hpeer hfail hw, State.afterWait_plain hsat]
    · obtain ⟨hf, -⟩ := State.cur_fib hi.1
      have ht : (t.fib? f.uid).isSome = true := by
        rw [(resolveObj_reads hl).writes.fib, hf]
        rfl
      obtain ⟨g, hg, hdist, hdef⟩ := State.afterWait_sat (i := .barWait h space a d) (h := h) (obj := objAddr f space a) ht
        hsatt htrap
      exact ⟨_, g, exec_barWait_released hi hl hpeer hfail hw, hg, hdist, hdef⟩
    · rw [exec_barWait_none hi hl ho hfail hreg hset hw, if_pos hpass, State.afterWait_plain (by rw [hsatt, Bool.and_false])]
    · rw [exec_barWait_none hi hl ho hfail hreg hset hw, if_neg (by rw [hpass]; exact Bool.false_ne_true)]

end Sys2Proof.Machine

/-! O40 (R148, R150): the object of a barrier as it is written and read, and the phase that an arrival completes. -/

namespace Sys2Proof.Machine

open Sys2Proof.Dec (leNat leBytes fld)

/-! Bytes written and read at a location. -/

theorem memBytes_append (m : Memory) (a k n : Nat) : memBytes m a (k + n) = memBytes m a k ++ memBytes m (a + k) n := by
  induction k generalizing a with
  | zero => rw [Nat.zero_add]; rfl
  | succ k ih =>
    rw [Nat.add_right_comm, memBytes, ih, memBytes, List.cons_append]
    congr 3
    omega

theorem memBytes_memWrite_at {m : Memory} (a k n : Nat) (bs : List Byte) (h : m.wf = true) (hk : k + n ≤ bs.length) :
    memBytes (memWrite m a bs) (a + k) n = (bs.drop k).take n := by
  obtain ⟨r, hr⟩ := Nat.exists_eq_add_of_le hk
  have hall := memBytes_memWrite a bs h
  rw [hr, memBytes_append, memBytes_append] at hall
  generalize memWrite m a bs = w at hall ⊢
  rw [← hall, List.append_assoc, List.drop_left' (memBytes_length _ _ _), List.take_left' (memBytes_length _ _ _)]

section
variable {s t : State} {l : Loc}

/-- With no key page bound, a write at its home leaves its bytes there. -/
theorem State.homeWrite_bytes (hm : s.memsOk) (hb : s.bindings = []) (hl : l.isPeer = false) (bs : List Byte) (k n : Nat)
    (hk : k + n ≤ bs.length) : (s.homeWrite l bs).bytes (l.add k) n = (bs.drop k).take n := by
  obtain ⟨hmem, hhost, hsp, htb, -⟩ := hm
  have hcoh : s.Coh ((l.sectors bs.length).foldl (fun t k => t.homeClear k) s) :=
    State.Coh.foldl _ _ fun t k => t.homeClear_coh k
  unfold State.homeWrite
  generalize (l.sectors bs.length).foldl (fun t k => t.homeClear k) s = t at hcoh
  unfold State.Coh at hcoh
  rw [hcoh]
  cases l with
  | peer => cases hl
  | dram pa =>
    have hw : (({ s with l1 := t.l1, dir := t.dir, proxyDir := t.proxyDir, fills := t.fills } : State).store pa bs).bindings = [] :=
      hb
    unfold State.perform State.widen
    dsimp only
    rw [hw]
    exact memBytes_memWrite_at pa k n bs hmem hk
  | host pa => exact memBytes_memWrite_at pa k n bs hhost hk
  | sp q => exact memBytes_memWrite_at q k n bs hsp hk
  | cb q => exact memBytes_memWrite_at q k n bs htb hk

/-! The object. -/

/-- Every field of the object fits its bytes. -/
def Obj.Fits (o : Obj) : Prop :=
  o.expected < 2 ^ 32 ∧ o.bytesExp < 2 ^ 64 ∧ o.landed < 2 ^ 64 ∧ o.arrived < 2 ^ 32 ∧ o.flags < 2 ^ 32

theorem leNat_lt (bs : List Byte) : leNat bs < 256 ^ bs.length := by
  induction bs with
  | nil => exact Nat.one_pos
  | cons b bs ih =>
    have hb := b.isLt
    rw [leNat, List.length_cons, Nat.pow_succ]
    omega

theorem State.bytes_length (s : State) (l : Loc) (n : Nat) : (s.bytes l n).length = n := by
  cases l <;> simp [State.bytes]

theorem State.nat_lt (s : State) (l : Loc) (n : Nat) : s.nat l n < 256 ^ n := by
  have h := leNat_lt (s.bytes l n)
  rwa [s.bytes_length] at h

theorem State.obj_fits (s : State) (l : Loc) : (s.obj l).Fits :=
  ⟨s.nat_lt _ 4, s.nat_lt _ 8, s.nat_lt _ 8, s.nat_lt _ 4, s.nat_lt _ 4⟩

theorem Obj.bytes_length (o : Obj) : o.bytes.length = 32 := by simp [Obj.bytes]

theorem Loc.add_zero (l : Loc) : l.add 0 = l := by cases l <;> rfl

theorem State.obj_setObj (hm : s.memsOk) (hb : s.bindings = []) (hl : l.isPeer = false) {o : Obj} (ho : o.Fits) :
    (s.setObj l o).obj l = o := by
  obtain ⟨h1, h2, h3, h4, h5⟩ := ho
  have hn (k n : Nat) (hk : k + n ≤ 32) : (s.setObj l o).nat (l.add k) n = leNat ((o.bytes.drop k).take n) := by
    rw [State.nat, State.setObj, State.homeWrite_bytes hm hb hl _ k n (by rw [o.bytes_length]; exact hk)]
  have hn0 := hn 0 4 (by decide)
  rw [Loc.add_zero] at hn0
  unfold State.obj
  rw [hn0, hn 4 4 (by decide), hn 8 8 (by decide), hn 16 8 (by decide), hn 24 4 (by decide), hn 28 4 (by decide)]
  have hphase := o.phase.isLt
  obtain ⟨ph, e, be, la, ar, fl⟩ := o
  simp (disch := decide) only [Obj.bytes, List.append_assoc, drop_leBytes_append, take_leBytes_append, take_leBytes,
    Nat.reduceSub, List.drop_zero, leNat_leBytes]
  rw [Nat.mod_eq_of_lt (show ph.toNat < 256 ^ 4 from hphase), Nat.mod_eq_of_lt (show e < 256 ^ 4 from h1),
    Nat.mod_eq_of_lt (show be < 256 ^ 8 from h2), Nat.mod_eq_of_lt (show la < 256 ^ 8 from h3),
    Nat.mod_eq_of_lt (show ar < 256 ^ 4 from h4), Nat.mod_eq_of_lt (show fl < 256 ^ 4 from h5), BitVec.ofNat_toNat,
    BitVec.setWidth_eq]

end

/-! A phase that completes at a barrier that is no set. -/

/-- What a completed phase of the object makes of a wait, where no set collects there. -/
def Obj.releases (l : Loc) (o : Obj) : Wait → Wait
  | .phase l' q k =>
    if l' = l ∧ o.passed q = true ∧ (k = .bar ∨ k = .rally ∨ k = .rallyH) then .released (q == o.phase - 1 && o.satph)
    else .phase l' q k
  | w => w

section
variable {s : State} {l : Loc}

theorem Fibre.stillHeld_other {f : Fibre} (key : Nat) (h : f.set ≠ some l) : f.stillHeld l key = f :=
  if_neg fun hh => h hh.1

theorem State.formBatches_noSet (h : ∀ x ∈ s.fibres, x.set ≠ some l) : s.formBatches l = s := by
  unfold State.formBatches
  extract_lets s' ms
  have hs : s' = s := by
    have hmap (key : Nat) : s.fibres.map (Fibre.stillHeld l key) = s.fibres :=
      (List.map_congr_left fun x hx => Fibre.stillHeld_other key (h x hx)).trans (List.map_id _)
    unfold s'
    rw [hmap]
  have hms : ms = [] := by
    have hnone : s.fibres.filter (fun f => f.set == some l && f.status != .ended && f.held.isNone) = [] := by
      rw [List.filter_eq_nil_iff]
      intro x hx
      simp [h x hx]
    unfold ms
    rw [hs, hnone]
    rfl
  rw [hms, hs]
  rfl

theorem State.phaseDone_noSet (o : Obj) (h : ∀ x ∈ s.fibres, x.set ≠ some l) :
    ∃ ms ps, s.phaseDone l o = { s with fibres := s.fibres.map (Fibre.mapWait (o.releases l)), mx := ms, peerWaits := ps } := by
  unfold State.phaseDone
  extract_lets p arrivals here satOf forms plz s' go cleared freed s''
  have harr : arrivals = [] := by
    rw [List.filter_eq_nil_iff]
    intro x hx
    simp [h x hx]
  have hplz : plz = [] := by
    unfold plz
    rw [harr]
    rfl
  have hs : s' = s := by
    unfold s'
    rw [hplz]
  have hgo (f : Fibre) : go f = f.mapWait (o.releases l) := by
    unfold go
    congr 1
    funext w
    cases w with
    | phase l' q k =>
      by_cases hw : l' = l ∧ o.passed q = true
      · simp only [here, Obj.releases, hw, true_and]
        cases k <;> simp [satOf, p]
      · simp only [here, if_neg hw, Obj.releases]
        rw [if_neg fun hc => hw ⟨hc.1, hc.2.1⟩]
    | _ => rfl
  have hfib : s.fibres.map (fun f => cleared (go f)) = s.fibres.map (Fibre.mapWait (o.releases l)) := by
    refine List.map_congr_left fun x hx => ?_
    rw [hgo]
    exact if_neg fun hc => h x hx (beq_iff_eq.mp hc)
  have hs2 : s'' = { s with
      fibres := s.fibres.map (Fibre.mapWait (o.releases l)), mx := s.mx.map freed
      peerWaits := s.peerWaits.filter fun w => !(w.2.1 == l && o.passed w.2.2) } := by
    unfold s''
    rw [hs, hfib]
  have hform : s''.formBatches l = s'' := by
    refine State.formBatches_noSet fun x hx => ?_
    rw [hs2] at hx
    obtain ⟨y, hy, rfl⟩ := List.mem_map.mp hx
    exact h y hy
  rw [hform, ite_self, hs2]
  exact ⟨_, _, rfl⟩

end

/-! The arrival. -/

section
variable {s : State} {f : Fibre} {l : Loc}

/-- The object with an arrival more. -/
def Obj.arrives (o : Obj) : Obj := { o with arrived := o.arrived + 1 }

theorem Obj.arrives_fits {o : Obj} (h : o.Fits) (hroom : o.arrived < o.expected) : o.arrives.Fits := by
  obtain ⟨h1, h2, h3, h4, h5⟩ := h
  exact ⟨h1, h2, h3, Nat.lt_of_le_of_lt hroom h1, h5⟩

theorem Obj.next_fits {o : Obj} (h : o.Fits) : o.next.Fits := by
  obtain ⟨h1, h2, h3, h4, h5⟩ := h
  refine ⟨h1, Nat.two_pow_pos 64, Nat.lt_of_le_of_lt (Nat.sub_le _ _) h3, Nat.two_pow_pos 32, ?_⟩
  change o.flags / 4 * 4 + 2 * (o.flags % 2) < 2 ^ 32
  omega

theorem Obj.next_satph (o : Obj) : o.next.satph = (o.flags % 2 == 1) := by
  change (fld (o.flags / 4 * 4 + 2 * (o.flags % 2)) 1 1 == 1) = _
  have hbit : fld (o.flags / 4 * 4 + 2 * (o.flags % 2)) 1 1 = o.flags % 2 := by
    unfold fld
    omega
  rw [hbit]

theorem Obj.next_passed (o : Obj) : o.next.passed o.phase = true := by
  unfold Obj.passed Obj.next
  have hone : (o.phase + 1 - o.phase).toNat = 1 := by
    rw [BitVec.add_comm, BitVec.add_sub_cancel]
    rfl
  dsimp only
  rw [hone]
  rfl

/-- The state in which an arrival at a barrier that is no set of the fibre has been counted. -/
theorem State.arrive_other (k : PhaseKind) (hset : f.set ≠ some l) :
    s.arrive f l k = ((s.release f.uid).setObj l ((s.release f.uid).obj l).arrives).completeObj l := by
  unfold State.arrive
  extract_lets t o u v
  have hv : v = u := if_neg hset
  rw [hv]
  rfl

theorem State.release_obj (s : State) (n : Nat) (l : Loc) : (s.release n).obj l = s.obj l := by cases l <;> rfl

theorem Obj.releases_bar (o : Obj) : o.next.releases l (.phase l o.phase .bar) = .released (o.flags % 2 == 1) := by
  have hp : o.phase = o.next.phase - 1 := (BitVec.add_sub_cancel o.phase 1).symm
  refine (if_pos ⟨rfl, o.next_passed, .inl rfl⟩).trans ?_
  rw [← hp, beq_self_eq_true, Bool.true_and, o.next_satph]

theorem Obj.releases_other (o : Obj) {w : Wait} (hw : ∀ p k, w ≠ .phase l p k) : o.releases l w = w := by
  cases w with
  | phase l' q k => exact if_neg fun ⟨hl, _⟩ => hw q k (hl ▸ rfl)
  | _ => rfl

/-- With no engine's arrival held at the object, none is let in. -/
theorem State.admitHeld_none (n : Nat) (h : ∀ x ∈ s.heldArrivals, x.loc ≠ l) : s.admitHeld l n = s := by
  cases n with
  | zero => rfl
  | succ n =>
    have hfind : s.heldArrivals.find? (fun a => a.loc == l) = none := by
      rw [List.find?_eq_none]
      exact fun x hx => by simpa using h x hx
    unfold State.admitHeld
    rw [hfind]

theorem State.Writes.bindings {t : State} (h : s.Writes t) : t.bindings = s.bindings := by
  unfold State.Writes at h
  rw [h]

theorem State.Writes.held {t : State} (h : s.Writes t) : t.heldArrivals = s.heldArrivals ∧ t.satNext = s.satNext := by
  unfold State.Writes at h
  rw [h]
  exact ⟨rfl, rfl⟩

end

/-- Settles O40: the arrival is written, and the phase completes where it is the last. -/
theorem barrierPhases : Obligations.BarrierPhases := by
  intro s f l hm hl hb hsets hset hheld hsat hroom o u
  have hfits := s.obj_fits l
  have hu : u = ((s.release f.uid).setObj l o.arrives).completeObj l := by
    unfold u
    rw [State.arrive_other .bar hset, State.release_obj]
  have hw : (s.release f.uid).Writes ((s.release f.uid).setObj l o.arrives) := State.setObj_writes _ _ _
  have hobj : ((s.release f.uid).setObj l o.arrives).obj l = o.arrives :=
    State.obj_setObj (s := s.release f.uid) hm hb hl (Obj.arrives_fits hfits hroom)
  have hok : ((s.release f.uid).setObj l o.arrives).memsOk := setObj_memsOk _ _ hm
  generalize (s.release f.uid).setObj l o.arrives = v at hu hw hobj hok
  have hvf : v.fibres = s.fibres := hw.fibres
  have hvb : v.bindings = [] := hw.bindings.trans hb
  obtain ⟨hvh, hvs⟩ : v.heldArrivals = s.heldArrivals ∧ v.satNext = s.satNext := hw.held
  constructor
  · intro hshort
    have hfull : (v.obj l).full = false := by
      rw [hobj]
      unfold Obj.full Obj.arrives
      rcases hshort with h1 | h1
      · rw [decide_eq_false (by simpa using h1), Bool.false_and]
      · rw [decide_eq_false (p := o.bytesExp ≤ o.landed) (Nat.not_le.mpr h1), Bool.and_false]
    have huv : u = v := by
      rw [hu]
      unfold State.completeObj
      rw [hfull, if_neg Bool.false_ne_true]
    rw [huv]
    exact ⟨hobj, fun n => hw.fib n⟩
  · intro hlast hbytes
    have hfull : (v.obj l).full = true := by
      rw [hobj]
      unfold Obj.full Obj.arrives
      rw [decide_eq_true (by rw [hlast]), decide_eq_true (by exact hbytes), Bool.and_self]
    have hnext : o.arrives.next = o.next := rfl
    have hopen : v.opened l o.arrives = (v, o.next) := by
      unfold State.opened
      rw [hvs, if_neg (by simpa using hsat)]
      rfl
    have hw' : v.Writes (v.setObj l o.next) := State.setObj_writes _ _ _
    have hobj' : (v.setObj l o.next).obj l = o.next := State.obj_setObj hok hvb hl (Obj.next_fits hfits)
    have hu' : u = (((v.setObj l o.next).phaseDone l o.next).admitHeld l v.heldArrivals.length) := by
      rw [hu]
      unfold State.completeObj State.completeOnce
      dsimp only
      rw [hfull, if_pos rfl, if_pos rfl, hobj, hopen, hnext]
    generalize v.setObj l o.next = z at hw' hobj' hu'
    have hzf : z.fibres = s.fibres := hw'.fibres.trans hvf
    obtain ⟨ms, ps, hdone⟩ := State.phaseDone_noSet (s := z) (l := l) o.next (by rw [hzf]; exact hsets)
    have hz : u = { z with fibres := z.fibres.map (Fibre.mapWait (o.next.releases l)), mx := ms, peerWaits := ps } := by
      rw [hu', hdone, State.admitHeld_none]
      exact fun x hx => hheld x (by rwa [← hvh, ← hw'.held.1])
    have hub : u.obj l = o.next := by
      rw [← hobj', hz]
      cases l <;> rfl
    refine ⟨hub, ?_, fun g hg => ?_⟩
    · rw [hub]
      exact o.next_passed
    · refine ⟨g.mapWait (o.next.releases l), ?_, ?_, fun hgw => ?_, fun hgw => ?_, fun hgw => ?_⟩
      · rw [hz]
        change (z.fibres.map _).find? _ = _
        rw [List.find?_map, hzf]
        exact congrArg (Option.map _) hg
      · rfl
      · change o.next.releases l g.wait = _
        rw [hgw, o.releases_bar]
      · exact Obj.releases_other _ hgw
      · change g.rejoin.map _ = g.rejoin
        cases hr : g.rejoin with
        | none => rfl
        | some p =>
          rw [Option.map_some, Obj.releases_other _ fun q k hc => hgw p.1 q k (by rw [hr, ← hc])]

end Sys2Proof.Machine

/-! O42 (R151, R152): set instructions. -/

namespace Sys2Proof.Machine

section
variable {s t r z : State} {f : Fibre} {h : Hdr} {a : Reg} {l m : Loc} {i : Instr} {tagTraps damage : Bool}
  {check : Fibre → Loc → Obj → Option (Cause × Nat × Nat)} {k : Fibre → Loc → State → State}

/-! The set that the fibre leaves. -/

theorem Fibre.departs_none (h : f.set = none ∨ f.set = some l) : f.departs (some l) = none := by
  unfold Fibre.departs
  rcases h with h | h <;> simp [h]

theorem Fibre.departs_other (h : f.set = some m) (hm : m ≠ l) : f.departs (some l) = some m := by
  unfold Fibre.departs
  simp [h, Ne.symm hm]

/-- The object of the set that the fibre leaves is at hand. -/
theorem State.departHeld_ok {c : State → State} (h : ∀ m, f.set = some m → m ≠ l →
    t.ownAhead f m 32 = false ∧ t.hostInWay m 32 true = [] ∧ t.mayServe m 32 true = true) :
    t.departHeld f (some l) c = c t := by
  unfold State.departHeld
  split
  · rfl
  · next m hm =>
    obtain ⟨hset, hne⟩ := Option.filter_eq_some_iff.mp hm
    obtain ⟨hown, hway, hserve⟩ := h m hset fun hml => (of_decide_eq_true hne) (hml ▸ rfl)
    exact whenHeld_ok hown hway hserve

theorem State.departThen_none {at' : Option Loc} {c : State → State} (h : f.departs at' = none) :
    z.departThen t f i at' c = c z := by
  unfold State.departThen
  rw [h]

theorem State.departThen_some {at' : Option Loc} {c : State → State} (h : f.departs at' = some m) :
    z.departThen t f i at' c = z.registerFrom t f i (z.departAcc f m) (m.key.2 % 2 ^ 18) c := by
  unfold State.departThen
  rw [h]

/-! The instruction: its traps, and the way to its object. -/

theorem setOp_held (hi : s.Issues f i h.g [a] [rc a]) (hheld : f.held ≠ none) :
    setOp s i h a tagTraps check damage k = .next (s.trapAt f i .held 0 (f.reg a).toNat) := by
  refine (issue_next hi).trans (congrArg _ ?_)
  exact if_pos (Option.isSome_iff_ne_none.mpr hheld)

theorem setOp_tagged (hi : s.Issues f i h.g [a] [rc a]) (hheld : f.held = none) (htag : f.tag ≠ 0) :
    setOp s i h a true check damage k = .next (s.trapAt f i .plazaMisuse 0x04 f.tag.toNat) := by
  refine (issue_next hi).trans (congrArg _ ?_)
  dsimp only
  rw [hheld, if_neg (by simp), if_pos (by simpa using htag)]

/-- What is left of the instruction once its operation at the object is done. -/
def retireOwn (f : Fibre) (i : Instr) (h : Hdr) (t : State) : State :=
  match t.fib? f.uid with
  | some g => t.retire g i { stall := h.s.toNat }
  | none => t

/-- The object of a set instruction is at hand (R128, R147). -/
def SetAtHand (s t : State) (f : Fibre) (a : Reg) (l : Loc) : Prop :=
  f.held = none ∧ resolveObj s f .sp a = .ok l t ∧ t.ownAhead f l 32 = false ∧ t.hostInWay l 32 true = [] ∧
    t.mayServe l 32 true = true ∧
    ∀ m, f.set = some m → m ≠ l → t.ownAhead f m 32 = false ∧ t.hostInWay m 32 true = [] ∧ t.mayServe m 32 true = true

theorem SetAtHand.state (ho : SetAtHand s t f a l) : t = s := by
  obtain ⟨-, hl, -⟩ := ho
  unfold resolveObj at hl
  dsimp only at hl
  split at hl
  · cases hl
  · exact resolveSp_ok hl

/-- A set instruction whose object is at hand checks it. -/
theorem setOp_atHand (hi : s.Issues f i h.g [a] [rc a]) (ho : SetAtHand s t f a l) (htag : tagTraps = true → f.tag = 0)
    (hdam : damage = true → (t.obj l).damaged = false) :
    setOp s i h a tagTraps check damage k = .next (match check f l (t.obj l) with
      | some (c, d, x) => t.trapAt f i c d x
      | none => t.registerObj f i (objAcc t f l 32 .dev) (f.reg a).toNat fun u =>
          u.departThen t f i (some l) fun u => retireOwn f i h (k f l u)) := by
  obtain ⟨hheld, hl, hown, hway, hserve, hdep⟩ := ho
  have htag' : (tagTraps && decide (f.tag ≠ 0)) = false := by
    cases tagTraps with
    | false => rfl
    | true => simp [htag rfl]
  have hdam' : (damage && (t.obj l).damaged) = false := by
    cases damage with
    | false => rfl
    | true => rw [hdam rfl]; rfl
  refine (issue_next hi).trans (congrArg _ ?_)
  dsimp only
  rw [hheld, if_neg (by simp), htag', if_neg Bool.false_ne_true, andThen_ok hl, whenHeld_ok hown hway hserve,
    State.departHeld_ok hdep, hdam', if_neg Bool.false_ne_true]
  rfl

/-! The registrations, and then the operation. -/

/-- What a set instruction answers, whose operation leaves `body y u` of the state y in which its accesses are registered. -/
def SetMoves (s t r : State) (f : Fibre) (l : Loc) (i : Instr) (body : State → State → Prop) : Prop :=
  let z := r.gained l 32
  ((f.set = none ∨ f.set = some l) → ∃ u, body z u ∧ exec i s = .next (u.recDone t.nextId)) ∧
  (∀ m, f.set = some m → m ≠ l →
    (∀ q, z.register (z.departAcc f m) = .ok q →
      ∃ u, body (q.gained m 32) u ∧ exec i s = .next ((u.recDone z.nextId).recDone t.nextId)) ∧
    (∀ d, z.register (z.departAcc f m) = .race d →
      exec i s = .next (({ z with records := t.records, touched := t.touched } : State).trapAt f i .race d
        (m.key.2 % 2 ^ 18) |>.recDone t.nextId)))

theorem setMoves {c : State → State} {body : State → State → Prop} (hreg : t.register (objAcc t f l 32 .dev) = .ok r)
    (hexec : exec i s = .next (t.registerObj f i (objAcc t f l 32 .dev) (f.reg a).toNat fun u => u.departThen t f i (some l) c))
    (hbody : ∀ y : State, y.fib? f.uid = r.fib? f.uid → body y (c y)) : SetMoves s t r f l i body := by
  have hgo : exec i s = .next (((r.gained l 32).departThen t f i (some l) c).recDone t.nextId) :=
    hexec.trans (congrArg _ (registerFrom_ok hreg))
  refine ⟨fun hset => ⟨c (r.gained l 32), hbody _ (State.gained_fib _ _ _ _), ?_⟩, fun m hset hm => ⟨fun q hq => ?_, fun d hd => ?_⟩⟩
  · rw [hgo, State.departThen_none (Fibre.departs_none hset)]
  · refine ⟨c (q.gained m 32), hbody _ ?_, ?_⟩
    · rw [State.gained_fib, State.register_fib hq, State.gained_fib]
    · rw [hgo, State.departThen_some (Fibre.departs_other hset hm), registerFrom_ok hq]
      rfl
  · rw [hgo, State.departThen_some (Fibre.departs_other hset hm), registerFrom_race hd]
    rfl

/-! The operations. -/

/-- The fibre that has departed stands where it did. -/
theorem State.departed {y : State} (hy : y.fib? f.uid = some f) :
    ∃ g, (y.depart f).fib? f.uid = some g ∧ g.pc = f.pc ∧ (f.set = none → g = f) ∧
      (f.set ≠ none → g.set = none ∧ g.arrived = none) := by
  cases hset : f.set with
  | none => exact ⟨f, by rw [State.depart_none _ hset, hy], rfl, fun _ => rfl, fun h => absurd rfl h⟩
  | some n =>
    obtain ⟨g, hg, -, hpc, hs, ha⟩ := State.depart_fib y n hset hy
    exact ⟨g, hg, hpc, nofun, fun _ => ⟨hs, ha⟩⟩

/-- A change of the fibre before its retirement is one with it. -/
theorem retireOwn_modF {y : State} {g : Fibre} {u : Fibre → Fibre} (hu : ∀ g, (u g).uid = g.uid) (hg : y.fib? f.uid = some g) :
    retireOwn f i h (y.modF f.uid u) = y.retire (u g) i { stall := h.s.toNat } := by
  have huid := State.fib_uid hg
  have hmod : (y.modF f.uid u).fib? f.uid = some (u g) := by
    rw [State.modF_fib _ _ _ _ hu, hg, Option.map_some, if_pos huid]
  have hset (e : Fibre) (he : e.uid = f.uid) : (y.modF f.uid u).setF e = y.setF e := by
    have hfib : (y.fibres.map fun x => if x.uid = f.uid then u x else x).map (fun x => if x.uid = e.uid then e else x) =
        y.fibres.map fun x => if x.uid = e.uid then e else x := by
      rw [List.map_map]
      refine List.map_congr_left fun x _ => ?_
      rw [Function.comp_apply, he]
      by_cases hx : x.uid = f.uid
      · rw [if_pos hx, if_pos hx, if_pos ((hu x).trans hx)]
      · rw [if_neg hx, if_neg hx]
    exact congrArg (fun fs => { y with fibres := fs }) hfib
  unfold retireOwn
  rw [hmod]
  dsimp only
  rw [State.retire_eq_setF, State.retire_eq_setF]
  have he : ((y.modF f.uid u).retired (u g) i { stall := h.s.toNat }) = y.retired (u g) i { stall := h.s.toNat } := rfl
  rw [he, hset _ (by rw [State.retired_uid, hu, huid])]

/-- The fibre enters the set. -/
def Fibre.enters (l : Loc) (g : Fibre) : Fibre := { g with set := some l, arrived := none, votes := 0 }

/-- What `set.new` does at its object (R151). -/
def State.makesSet (f : Fibre) (l : Loc) (s : State) : State :=
  ({ s.depart f with satNext := (s.depart f).satNext.erase l }.setObj l ⟨0, 1, 0, 0, 0, 8⟩).modF f.uid (Fibre.enters l)

/-- What `set.enrol` does at its object (R151). -/
def State.joinsSet (f : Fibre) (l : Loc) (s : State) : State :=
  ((s.depart f).setObj l { (s.depart f).obj l with expected := ((s.depart f).obj l).expected + 1 }).modF f.uid (Fibre.enters l)

/-- What `set.enrol` finds in its way (R151). -/
def enrolCheck (s : State) (a : Reg) (f : Fibre) (l : Loc) (o : Obj) : Option (Cause × Nat × Nat) :=
  if !o.isSet then some (.set, 0, (f.reg a).toNat) else (s.memberOf l).map fun hd => (.plazaMisuse, 0x04, hd.toNat)

/-- What `set.quit` finds in its way (R151). -/
def quitCheck (a : Reg) (f : Fibre) (l : Loc) (_ : Obj) : Option (Cause × Nat × Nat) :=
  if f.set ≠ some l then some (.set, 0, (f.reg a).toNat) else none

theorem exec_setNew_eq (s : State) : exec (.setNew h a) s =
    setOp s (.setNew h a) h a false (fun _ _ _ => none) false State.makesSet := rfl
theorem exec_setEnrol_eq (s : State) : exec (.setEnrol h a) s =
    setOp s (.setEnrol h a) h a true (enrolCheck s a) true State.joinsSet := rfl
theorem exec_setQuit_eq (s : State) : exec (.setQuit h a) s =
    setOp s (.setQuit h a) h a true (quitCheck a) true (fun f _ s => s.depart f) := rfl

/-- A set instruction that finds nothing in its way registers its accesses and does its operation. -/
theorem exec_setOp (hexec : exec i s = setOp s i h a tagTraps check damage k) (hi : s.Issues f i h.g [a] [rc a])
    (hh : SetAtHand s t f a l) (htag : tagTraps = true → f.tag = 0) (hdam : damage = true → (t.obj l).damaged = false)
    (hcheck : check f l (t.obj l) = none) : exec i s = .next (t.registerObj f i (objAcc t f l 32 .dev) (f.reg a).toNat
      fun u => u.departThen t f i (some l) fun u => retireOwn f i h (k f l u)) := by
  rw [hexec, setOp_atHand hi hh htag hdam, hcheck]

theorem exec_setOp_trap {c : Cause} {d x : Nat} (hexec : exec i s = setOp s i h a tagTraps check damage k)
    (hi : s.Issues f i h.g [a] [rc a]) (hh : SetAtHand s t f a l) (htag : tagTraps = true → f.tag = 0)
    (hdam : damage = true → (t.obj l).damaged = false) (hcheck : check f l (t.obj l) = some (c, d, x)) :
    exec i s = .next (t.trapAt f i c d x) := by
  rw [hexec, setOp_atHand hi hh htag hdam, hcheck]

end

/-- Settles O42. -/
theorem setResults : Obligations.SetResults := by
  intro s t r f h a l o z opens moves
  have hmoves : moves = SetMoves s t r f l := rfl
  clear_value moves
  subst hmoves
  have hhand (ho : opens) : SetAtHand s t f a l ∧ t.register (objAcc t f l 32 .dev) = .ok r := by
    obtain ⟨h1, h2, h3, h4, h5, h6, h7⟩ := ho
    exact ⟨⟨h1, h2, h3, h4, h5, h7⟩, h6⟩
  have hfib (hc : s.cur? = some f) (hh : SetAtHand s t f a l) (hreg : t.register (objAcc t f l 32 .dev) = .ok r) :
      r.fib? f.uid = some f := by
    rw [State.register_fib hreg, hh.state, (State.cur_fib hc).1]
  refine ⟨fun hi ho => ?_, fun hi ho htag hdam hset hmem => ?_, fun hi ho htag hdam hset hd hmem => ?_,
    fun hi ho htag hset hdam => ?_, fun op hop hi hheld htag => ?_, fun op hop hi hheld => ?_⟩
  · obtain ⟨hh, hreg⟩ := hhand ho
    refine setMoves hreg (exec_setOp (exec_setNew_eq s) hi hh nofun nofun rfl) fun y hy => ?_
    obtain ⟨g, hg, hpc, hsame, -⟩ := State.departed (hy.trans (hfib hi.1 hh hreg))
    have hz : State.fib? _ f.uid = some g := ((State.setObj_writes
      ({ y.depart f with satNext := (y.depart f).satNext.erase l } : State) l ⟨0, 1, 0, 0, 0, 8⟩).fib f.uid).trans hg
    exact ⟨g, hg, hpc, hsame, retireOwn_modF (u := Fibre.enters l) (fun _ => rfl) hz⟩
  · obtain ⟨hh, hreg⟩ := hhand ho
    have hcheck : enrolCheck s a f l (t.obj l) = none := by
      unfold enrolCheck
      rw [hset, ← hh.state, hmem]
      rfl
    refine setMoves hreg (exec_setOp (exec_setEnrol_eq s) hi hh (fun _ => htag) (fun _ => hdam) hcheck)
      fun y hy => ?_
    obtain ⟨g, hg, hpc, hsame, -⟩ := State.departed (hy.trans (hfib hi.1 hh hreg))
    have hz : State.fib? _ f.uid = some g := ((State.setObj_writes (y.depart f) l
      { (y.depart f).obj l with expected := ((y.depart f).obj l).expected + 1 }).fib f.uid).trans hg
    exact ⟨g, hg, hpc, hsame, retireOwn_modF (u := Fibre.enters l) (fun _ => rfl) hz⟩
  · obtain ⟨hh, -⟩ := hhand ho
    refine exec_setOp_trap (exec_setEnrol_eq s) hi hh (fun _ => htag) (fun _ => hdam) ?_
    unfold enrolCheck
    rw [hset, ← hh.state, hmem]
    rfl
  · obtain ⟨hh, hreg⟩ := hhand ho
    have hcheck : quitCheck a f l (t.obj l) = none := if_neg (not_not_intro hset)
    refine setMoves hreg (exec_setOp (exec_setQuit_eq s) hi hh (fun _ => htag) (fun _ => hdam) hcheck)
      fun y hy => ?_
    obtain ⟨g, hg, hpc, -, hgone⟩ := State.departed (hy.trans (hfib hi.1 hh hreg))
    obtain ⟨hs, ha⟩ := hgone (by rw [hset]; exact Option.some_ne_none l)
    refine ⟨g, hg, hs, ha, hpc, ?_⟩
    unfold retireOwn
    rw [hg]
  · rcases List.mem_pair.mp hop with rfl | rfl
    · exact (exec_setEnrol_eq s).trans (setOp_tagged hi hheld htag)
    · exact (exec_setQuit_eq s).trans (setOp_tagged hi hheld htag)
  · simp only [List.mem_cons, List.not_mem_nil, or_false] at hop
    rcases hop with rfl | rfl | rfl
    · exact (exec_setNew_eq s).trans (setOp_held hi hheld)
    · exact (exec_setEnrol_eq s).trans (setOp_held hi hheld)
    · exact (exec_setQuit_eq s).trans (setOp_held hi hheld)

end Sys2Proof.Machine

/-! O43 (R153 to R155): sharing groups. -/

namespace Sys2Proof.Machine

/-! What the way to the group leaves: what the gain of its sectors and a release leave. -/

section
variable {s t r : State} {f : Fibre} {h : Hdr} {a d : Reg} {pa n : Nat} {m l : Loc} {w : Window} {i : Instr}

/-- A group's registration and the gain of its sectors change the detector, the directories and the L1s alone. -/
theorem State.gained_eq {c : NewAcc} (hreg : t.register c = .ok r) (l : Loc) (n : Nat) : ∃ rs ts df l1 dir pd fl,
    r.gained l n = { t with
      records := rs, touched := ts, detectorFull := df, nextId := t.nextId + 1, l1 := l1, dir := dir, proxyDir := pd, fills := fl } := by
  obtain ⟨rs, ts, df, rfl⟩ := State.register_ok hreg
  exact ⟨_, _, _, _, _, _, _, State.gained_coh _ l n⟩

theorem Access.meetsFate_uses (s : State) (gone : List RegionRec) (a : Access) :
    (a.meetsFate s gone).id = a.id ∧ (a.meetsFate s gone).win = a.win ∧ (a.meetsFate s gone).set = a.set := by
  unfold Access.meetsFate
  split
  · extract_lets n
    split <;> exact ⟨rfl, rfl, rfl⟩
  · exact ⟨rfl, rfl, rfl⟩

theorem State.release_windowUses (s : State) (k : Nat) (l : Loc) (n : Nat) (m : Loc) :
    (s.release k).windowUses l n m = s.windowUses l n m := by
  have haccs (gone : List RegionRec) (p : Option (Loc × Nat) → Option Loc → Bool) :
      ((s.accs.map (Access.meetsFate s gone)).filter fun a => p a.win a.set).map (·.id) =
        (s.accs.filter fun a => p a.win a.set).map (·.id) := by
    rw [List.filter_map, List.map_map]
    have hp : ((fun a : Access => p a.win a.set) ∘ Access.meetsFate s gone) = fun a => p a.win a.set := by
      funext a
      obtain ⟨-, hw, hs⟩ := a.meetsFate_uses s gone
      rw [Function.comp_apply, hw, hs]
    have hid : ((fun a : Access => a.id) ∘ Access.meetsFate s gone) = fun a => a.id := by
      funext a
      exact (a.meetsFate_uses s gone).1
    rw [hp, hid]
  exact congrArg (· ++ _) (haccs _ fun win set => match win with
    | some (g, q) => g == l && (q == n || set == some m)
    | none => false)

/-! The group is at hand: its operation passes its checks and is registered, where the fibre's set fits. -/

/-- The group object at pa stands for an operation of a fibre of the set m (R153, R154). -/
def GroupAtHand (s t r : State) (f : Fibre) (a : Reg) (pa : Nat) (m : Loc) : Prop :=
  f.set = some m ∧ (f.pair a).toNat % 64 = 0 ∧ resolveGlobal s f (f.pair a).toNat 64 64 .atomic = .ok (.dram pa) t ∧
    homeDie pa = coreDie f.core ∧ t.meet (.dram pa) 64 f.tag true = (t, .go) ∧ t.ownAhead f (.dram pa) 64 = false ∧
    checkRead t (.dram pa) 64 0 = (t, []) ∧ t.hostInWay (.dram pa) 64 true = [] ∧ t.mayServe (.dram pa) 64 true = true ∧
    (∀ k, k < 16 → slotBad (slotAt t (.dram pa) k) = false) ∧ t.register (objAcc t f (.dram pa) 64 .die) = .ok r

variable {fits : Loc → Loc → State → Bool} {k : Loc → Loc → State → State}

theorem groupOp_atHand (hh : GroupAtHand s t r f a pa m) : groupOp s f i a fits k =
    if fits (.dram pa) m t then (k (.dram pa) m (r.gained (.dram pa) 64)).recDone t.nextId
    else t.trapAt f i .set 0 (f.pair a).toNat := by
  obtain ⟨hset, hal, hl, hdie, hmeet, hown, hsound, hway, hserve, hslots, hreg⟩ := hh
  have hbad : ((List.range 16).any fun n => slotBad (slotAt t (.dram pa) n)) = false := by
    rw [List.any_eq_false]
    intro n hn
    rw [hslots n (List.mem_range.mp hn)]
    exact Bool.false_ne_true
  unfold groupOp
  extract_lets va
  rw [if_neg (not_not_intro hal), hset]
  dsimp only
  rw [andThen_ok hl]
  simp only [hdie, beq_self_eq_true, Bool.not_true, Bool.false_eq_true, if_false]
  rw [hmeet]
  dsimp only
  rw [whenHeld_ok hown hway hserve]
  unfold State.soundObj
  rw [hsound]
  dsimp only [List.isEmpty_nil]
  rw [if_pos rfl, hbad, Bool.false_or]
  cases hf : fits (.dram pa) m t with
  | false => rfl
  | true => exact registerFrom_ok hreg

/-! The free slot. -/

theorem slotAt_gained {c : NewAcc} (hreg : t.register c = .ok r) (k e : Nat) (l : Loc) (q : Nat) :
    slotAt ((r.gained l q).release e) (.dram pa) k = slotAt t (.dram pa) k :=
  State.gained_nat hreg l (.dram (pa + 4 * k)) q 4 rfl

theorem find_lowest {p : Nat → Bool} (hn : n < 16) (hp : p n = true) (hlow : ∀ k, k < n → p k = false) :
    (List.range 16).find? p = some n := by
  rw [List.find?_range_eq_some]
  exact ⟨hp, List.mem_range.mpr hn, fun k hk => by rw [hlow k hk]; rfl⟩

/-- The sets that hold a window of the group. -/
theorem any_window {ws : List Window} : (ws.any fun x => x.group == l && x.set == m) = true ↔ ∃ x ∈ ws, x.group = l ∧ x.set = m := by
  simp [List.any_eq_true]

theorem any_window_false {ws : List Window} (h : ∀ x ∈ ws, x.group = l → x.set ≠ m) :
    (ws.any fun x => x.group == l && x.set == m) = false := by
  rw [← Bool.not_eq_true, any_window]
  exact fun ⟨x, hx, hg, hs⟩ => h x hx hg hs

/-! The instructions. -/

/-- The state in which a group is entered: registered, gained and released. -/
def State.groupState (r : State) (f : Fibre) (pa : Nat) : State := (r.gained (.dram pa) 64).release f.uid

theorem exec_grpEnter (hi : s.Issues f (.grpEnter h a d) h.g (pairRegs a ++ [d]) (pairCodes a)) (hh : GroupAtHand s t r f a pa m)
    (hfree : ∀ x ∈ t.windows, x.group = .dram pa → x.set ≠ m) : exec (.grpEnter h a d) s = .next (State.recDone
      (match (List.range 16).find? (fun n => Dec.fld (slotAt t (.dram pa) n) 31 1 == 0) with
      | none => (r.groupState f pa).retire (f.setRegNow d 0xFFFFFFFF) (.grpEnter h a d) { stall := h.s.toNat }
      | some n => ({ (r.groupState f pa).homeWrite (.dram (pa + 4 * n))
            (Dec.leBytes 4 (2 ^ 31 + 65536 * (f.core % 256) + t.allocOf f)) with
          windows := t.windows ++ [⟨.dram pa, n, m, f.core, t.allocOf f, false⟩] } : State).retire
            (f.setRegNow d (.ofNat 32 n)) (.grpEnter h a d) { stall := h.s.toNat }) t.nextId) := by
  refine (issue_next hi).trans (congrArg _ ?_)
  rw [groupOp_atHand hh, any_window_false hfree]
  simp only [Bool.not_false, if_true]
  obtain ⟨-, -, -, -, -, -, -, -, -, -, hreg⟩ := hh
  have hslot (k : Nat) := slotAt_gained (pa := pa) hreg k f.uid (.dram pa) 64
  obtain ⟨_, _, _, _, _, _, _, hz⟩ := State.gained_eq hreg (.dram pa) 64
  have halloc : ((r.gained (.dram pa) 64).release f.uid).allocOf f = t.allocOf f := by
    rw [hz]
    rfl
  have hwin : ((r.gained (.dram pa) 64).release f.uid).windows = t.windows := by
    rw [hz]
    rfl
  have hwrite (y : State) (l : Loc) (bs : List Byte) : (y.homeWrite l bs).windows = y.windows ∧
      (y.homeWrite l bs).allocOf f = y.allocOf f := by
    have hw := y.homeWrite_writes l bs
    unfold State.Writes at hw
    rw [hw]
    exact ⟨rfl, rfl⟩
  simp only [hslot]
  cases (List.range 16).find? (fun n => Dec.fld (slotAt t (.dram pa) n) 31 1 == 0) with
  | none => rfl
  | some n =>
    obtain ⟨hw1, hw2⟩ := hwrite ((r.gained (.dram pa) 64).release f.uid) ((Loc.dram pa).add (4 * n))
      (Dec.leBytes 4 (2 ^ 31 + 65536 * (f.core % 256) + t.allocOf f))
    rw [hwin] at hw1
    rw [halloc] at hw2
    dsimp only
    rw [halloc]
    change _ = State.recDone (State.retire { ((r.gained (.dram pa) 64).release f.uid).homeWrite ((Loc.dram pa).add (4 * n))
      (Dec.leBytes 4 (2 ^ 31 + 65536 * (f.core % 256) + t.allocOf f)) with
        windows := t.windows ++ [⟨.dram pa, n, m, f.core, t.allocOf f, false⟩] } _ _ _) _
    generalize ((r.gained (.dram pa) 64).release f.uid).homeWrite ((Loc.dram pa).add (4 * n))
      (Dec.leBytes 4 (2 ^ 31 + 65536 * (f.core % 256) + t.allocOf f)) = y at hw1 hw2 ⊢
    rw [hw1, hw2]

theorem exec_grpEnter_trap (hi : s.Issues f (.grpEnter h a d) h.g (pairRegs a ++ [d]) (pairCodes a))
    (hh : GroupAtHand s t r f a pa m) (hany : ∃ x ∈ t.windows, x.group = .dram pa ∧ x.set = m) :
    exec (.grpEnter h a d) s = .next (t.trapAt f (.grpEnter h a d) .set 0 (f.pair a).toNat) := by
  refine (issue_next hi).trans (congrArg _ ?_)
  rw [groupOp_atHand hh, any_window.mpr hany]
  rfl

theorem exec_grpLeave_trap (hi : s.Issues f (.grpLeave h a) h.g (pairRegs a) (pairCodes a)) (hh : GroupAtHand s t r f a pa m)
    (hnone : ∀ x ∈ t.windows, x.group = .dram pa → x.set ≠ m) :
    exec (.grpLeave h a) s = .next (t.trapAt f (.grpLeave h a) .set 0 (f.pair a).toNat) := by
  refine (issue_next hi).trans (congrArg _ ?_)
  rw [groupOp_atHand hh, any_window_false hnone]
  rfl

/-- The state in which the window of a leaving set is shut. -/
def State.leaving (r t : State) (f : Fibre) (pa : Nat) (w : Window) : State :=
  if w.shut = true then r.gained (.dram pa) 64
  else { r.groupState f pa with windows := t.windows.map fun x => if x = w then { x with shut := true } else x }

theorem exec_grpLeave (hi : s.Issues f (.grpLeave h a) h.g (pairRegs a) (pairCodes a)) (hh : GroupAtHand s t r f a pa m)
    (hw : t.windows.find? (fun x => x.group == .dram pa && x.set == m) = some w) : exec (.grpLeave h a) s = .next
      ((if (t.windowUses (.dram pa) w.n m).isEmpty then
          ((r.leaving t f pa w).clearSlot (.dram pa) w.n).retire f (.grpLeave h a) { stall := h.s.toNat, safe := true }
        else (r.leaving t f pa w).block f (.window w.n (t.windowUses (.dram pa) w.n m))).recDone t.nextId) := by
  have hin : (w.group == .dram pa && w.set == m) = true :=
    List.find?_some (p := fun x : Window => x.group == .dram pa && x.set == m) hw
  have hset : w.set = m := beq_iff_eq.mp (Bool.and_eq_true_iff.mp hin).2
  have hfits : (t.windows.any fun x => x.group == .dram pa && x.set == m) = true := by
    rw [List.any_eq_true]
    exact ⟨w, List.mem_of_find?_eq_some hw, hin⟩
  refine (issue_next hi).trans (congrArg _ ?_)
  rw [groupOp_atHand hh, hfits, if_pos rfl]
  obtain ⟨-, -, -, -, -, -, -, -, -, -, hreg⟩ := hh
  obtain ⟨_, _, _, _, _, _, _, hz⟩ := State.gained_eq hreg (.dram pa) 64
  have hwin : (r.gained (.dram pa) 64).windows = t.windows := by rw [hz]
  have huses : (r.gained (.dram pa) 64).windowUses (.dram pa) w.n m = t.windowUses (.dram pa) w.n m := by
    rw [hz]
    rfl
  have hleave : (if w.shut then r.gained (.dram pa) 64 else ((r.gained (.dram pa) 64).release f.uid).shutWindow w) =
      r.leaving t f pa w := by
    unfold State.leaving State.shutWindow
    rw [← hwin]
    rfl
  have huses' : (r.leaving t f pa w).windowUses (.dram pa) w.n m = t.windowUses (.dram pa) w.n m := by
    unfold State.leaving
    split
    · exact huses
    · exact ((r.gained (.dram pa) 64).release_windowUses f.uid _ _ _).trans huses
  dsimp only
  rw [hwin, hw]
  dsimp only
  rw [hleave, hset, huses']

end

/-- Settles O43. -/
theorem groupResults : Obligations.GroupResults := by
  intro s t r f h a d pa n m w h1 h2 h3 h4 h5 h6 h7 h8 h9 h10 hreg l z v alloc
  have hh : GroupAtHand s t r f a pa m := ⟨h1, h2, h3, h4, h5, h6, h7, h8, h9, h10, hreg⟩
  refine ⟨fun hi hfree => ⟨fun hn hp hlow => ?_, fun hfull => ?_⟩, fun hi hany => exec_grpEnter_trap hi hh hany,
    fun hi => ⟨fun hw => ?_, fun hnone => exec_grpLeave_trap hi hh hnone⟩⟩
  · rw [exec_grpEnter hi hh hfree, find_lowest hn (by rw [hp]; rfl) fun k hk => by rw [hlow k hk]; rfl]
    rfl
  · have hnone : (List.range 16).find? (fun k => Dec.fld (slotAt t (.dram pa) k) 31 1 == 0) = none := by
      rw [List.find?_eq_none]
      intro k hk
      rw [hfull k (List.mem_range.mp hk)]
      exact Bool.false_ne_true
    rw [exec_grpEnter hi hh hfree, hnone]
    rfl
  · intro y
    refine ⟨fun hnone => ?_, fun hsome => ?_⟩
    · rw [exec_grpLeave hi hh hw, hnone]
      rfl
    · rw [exec_grpLeave hi hh hw, if_neg (by rw [List.isEmpty_iff]; exact hsome)]
      rfl

end Sys2Proof.Machine

/-! O44 (R292 to R301): plaza instructions that a set makes together, ballots, and the messages of an abort. -/

namespace Sys2Proof.Machine

open Sys2Proof.Dec (leBytes fld)

section
variable {s t r : State} {f : Fibre} {h : Hdr} {a d : Reg} {l : Loc} {sat leave : Bool} {i : Instr} {minor : Nat} {hd : DWord}
  {off e : Nat}

/-! The arrival of a set for a plaza instruction. -/

/-- The fibre's set stands open for an arrival of a plaza instruction (R148, R295). -/
def PlzOpen (s t r : State) (f : Fibre) (d : Reg) (l : Loc) : Prop :=
  resolveObj s f .sp d = .ok l t ∧ t.ObjectOpen f l ∧ t.register (objAcc t f l 32 .dev) = .ok r ∧
    f.set = some l ∧ (t.obj l).isSet = true ∧ (t.obj l).failed = false ∧ (t.obj l).arrived ≠ (t.obj l).expected

/-- An instruction that arrives on the set: its fibre waits for the collecting phase, having arrived. -/
def PlzArrives (s t r : State) (f : Fibre) (l : Loc) (hd : DWord) (i : Instr) (minor : Nat) : Prop :=
  let w := (r.gained l 32).block f (.phase l (t.obj l).phase (.plz minor hd))
  ∃ g, w.fib? f.uid = some g ∧ g.pc = f.pc ∧ g.wait = .phase l (t.obj l).phase (.plz minor hd) ∧
    exec i s = .next ((w.arrive g l (.plz minor hd)).recDone t.nextId)

theorem plzArrives (hc : s.cur? = some f) (ho : PlzOpen s t r f d l)
    (hexec : exec i s = .next (plzArrive t f i l off minor hd)) : PlzArrives s t r f l hd i minor := by
  obtain ⟨hl, hopen, hreg, hset, hiss, hfail, hroom⟩ := ho
  have hcheck : rallyCheck f l (t.obj l) = none := by
    unfold rallyCheck
    rw [hiss, hfail, if_neg hroom]
    simp [hset]
  have hz : ((r.gained l 32).fib? f.uid).isSome = true := by
    rw [State.gained_fib, State.register_fib hreg, (resolveObj_reads hl).writes.fib, (State.cur_fib hc).1]
    rfl
  obtain ⟨g, hg, hpc, hwait, harr⟩ := State.arriveWait_eq (l := l) (kind := .plz minor hd) hz
  rw [State.gained_obj hreg _ _ _ hopen.1] at hg hwait harr
  refine ⟨g, hg, hpc, hwait, ?_⟩
  rw [hexec, plzArrive, atObject_open hopen hcheck hreg, harr]

/-! `plz.enter`. -/

theorem exec_plzEnter_none (hi : s.Issues f (.plzEnter h a d) h.g (pairRegs a ++ [d]) (pairCodes a ++ [rc d]))
    (hw : f.wait = .none) (hbad : s.badHandle (f.pair a) = false) (htag : f.tag = 0) (ho : PlzOpen s t r f d l) :
    exec (.plzEnter h a d) s =
      .next (plzArrive t f (.plzEnter h a d) l (f.reg d).toNat 1 (f.pair a)) := by
  obtain ⟨hl, -, -, hset, -⟩ := ho
  refine (issue_next hi).trans (congrArg _ ?_)
  dsimp only
  rw [hw]
  dsimp only
  rw [hbad, if_neg Bool.false_ne_true, htag, if_neg (not_not_intro rfl), hset]
  dsimp only [Option.isNone_some]
  rw [if_neg Bool.false_ne_true, andThen_ok hl]

theorem exec_plzEnter_over (hi : s.Issues f (.plzEnter h a d) h.g (pairRegs a ++ [d]) (pairCodes a ++ [rc d]))
    (hw : f.wait = .collective none e sat ∨ f.wait = .replied 0 false sat) (hsat : (sat && f.satt) = false) :
    exec (.plzEnter h a d) s =
      .next (s.retire f (.plzEnter h a d) { stall := h.s.toNat, flush := true, safe := true }) := by
  refine (issue_next hi).trans (congrArg _ ?_)
  dsimp only
  rcases hw with hw | hw
  · rw [hw]
    exact State.afterWait_plain hsat
  · rw [hw]
    dsimp only
    rw [if_neg Bool.false_ne_true, if_pos rfl]
    exact State.afterWait_plain hsat

/-! `plz.leave` and `plz.vote`. -/

/-- The instruction that casts a ballot. -/
def castInstr (leave : Bool) (h : Hdr) (a d : Reg) : Instr := if leave = true then .plzLeave h a d else .plzVote h a d

theorem exec_castInstr (s : State) : exec (castInstr leave h a d) s = plzCast s (castInstr leave h a d) h a d leave := by
  cases leave <;> rfl

variable (hi : s.Issues f (castInstr leave h a d) h.g (pairRegs a ++ [d]) (pairCodes a ++ [rc d]))
include hi

theorem exec_cast_none (hw : f.wait = .none) (hbad : s.badHandle (f.pair a) = false) (htag : f.tag = f.pair a)
    (hne : f.pair a ≠ 0) (hl : resolveObj s f .sp d = .ok l t) (hset : t.settled (f.pair a) l = false) :
    exec (castInstr leave h a d) s = .next
      (if f.counter .st = 0 ∧ f.counter .at = 0 ∧ f.counter .rm = 0 then
        plzArrive t f (castInstr leave h a d) l (f.reg d).toNat (if leave then 2 else 3) (f.pair a)
      else t.block f .drainStores) := by
  refine (exec_castInstr s).trans ((issue_next hi).trans (congrArg _ ?_))
  dsimp only
  rw [hw]
  dsimp only
  rw [hbad, if_neg Bool.false_ne_true, if_neg (by simpa [htag] using hne), andThen_ok hl, hset, if_neg Bool.false_ne_true]

theorem exec_cast_ballot (hw : f.wait = .ballot sat) (hset : f.plzSet = some l) : exec (castInstr leave h a d) s = .next
    (if s.isLocal (f.pair a) then s.castOnce (f.pair a) l leave else s.castAway (f.pair a) l leave) := by
  refine (exec_castInstr s).trans ((issue_next hi).trans (congrArg _ ?_))
  dsimp only
  rw [hw]
  dsimp only
  rw [hset]

theorem exec_cast_over (hw : f.wait = .committed sat ∨ f.wait = .collective none e sat ∨ f.wait = .replied 0 false sat)
    (hsat : (sat && f.satt) = false) : exec (castInstr leave h a d) s = .next
      (({ s with away := s.away.filter fun m => !(m.2 == f.pair a && some m.1 == f.plzSet) } : State).retire
        { f with tag := 0, plzSet := none } (castInstr leave h a d) { stall := h.s.toNat, flush := true, safe := true }).freePlazas := by
  refine (exec_castInstr s).trans ((issue_next hi).trans (congrArg _ ?_))
  have hout := State.afterWait_plain
    (t := { s with away := s.away.filter fun m => !(m.2 == f.pair a && some m.1 == f.plzSet) })
    (f := { f with tag := 0, plzSet := none }) (h := h) (i := castInstr leave h a d) (obj := (f.reg d).toNat) hsat
  dsimp only
  rcases hw with hw | hw | hw
  · rw [hw] at hout ⊢
    exact congrArg State.freePlazas hout
  · rw [hw] at hout ⊢
    exact congrArg State.freePlazas hout
  · rw [hw] at hout ⊢
    dsimp only
    rw [if_neg Bool.false_ne_true, if_pos rfl]
    exact congrArg State.freePlazas hout

end

/-! Ballots. -/

section
variable {s : State} {hd : DWord} {p : Plaza} {l : Loc} {leave : Bool}

/-- The member set has cast its ballot. -/
def PlzMember.casts (l : Loc) (leave : Bool) (m : PlzMember) : PlzMember :=
  if m.set = l then { m with voted := m.voted || !leave, left := m.left || leave } else m

/-- The plaza with a ballot more (R294, R296, R299). -/
def Plaza.casts (l : Loc) (leave : Bool) (p : Plaza) : Plaza :=
  Plaza.count { p with
    members := p.members.map (PlzMember.casts l leave)
    votes := if leave then p.votes else p.votes + 1
    leaves := if leave then p.leaves + 1 else p.leaves }

theorem Plaza.count_eq (p : Plaza) :
    p.count = { p with state := if p.state = .opened ∧ p.votes + p.leaves = p.expect then .sealing else p.state } := by
  unfold Plaza.count
  split <;> rfl

theorem Plaza.casts_sum (l : Loc) (leave : Bool) (p : Plaza) :
    (p.casts l leave).votes + (p.casts l leave).leaves = p.votes + p.leaves + 1 := by
  rw [Plaza.casts, Plaza.count_eq]
  cases leave
  · exact Nat.add_right_comm _ _ _
  · exact (Nat.add_assoc _ _ _).symm

theorem Plaza.casts_state (leave : Bool) (h : p.state = .opened) :
    (p.casts l leave).state = if p.votes + p.leaves + 1 = p.expect then .sealing else .opened := by
  have hsum := Plaza.casts_sum l leave p
  rw [Plaza.casts, Plaza.count_eq] at hsum ⊢
  dsimp only at hsum ⊢
  rw [hsum, h]
  simp only [true_and]

/-- A set that has cast is no member that may still cast. -/
theorem Plaza.casts_done (leave : Bool) (p : Plaza) :
    ((p.casts l leave).members.any fun m => m.set == l && !m.voted && !m.left) = false := by
  rw [Plaza.casts, Plaza.count_eq, List.any_map, List.any_eq_false]
  intro m _
  rw [Function.comp_apply, PlzMember.casts]
  split
  · cases leave <;> simp
  · next hm => simp [hm]

theorem State.mayCast_iff (h : s.current? hd = some p) : s.mayCast hd l =
    (p.state == .opened && p.members.any fun m => m.set == l && !m.voted && !m.left) := by
  unfold State.mayCast
  rw [h]

theorem State.plaza_of_current (h : s.current? hd = some p) : s.plaza? hd = some p := by
  unfold State.current? at h
  split at h
  · next q hq =>
    split at h
    · rwa [← h]
    · cases h
  · cases h

theorem State.setPlaza_plaza {q : Plaza} (h : s.plaza? hd = some p) (hdie : q.die = p.die) (hix : q.index = p.index) :
    (s.setPlaza q).plaza? hd = some q := by
  unfold State.plaza? at *
  unfold State.setPlaza
  have hp := List.find?_some h
  rw [List.find?_map]
  have hcomp : ((fun p : Plaza => p.die == fld hd.toNat 50 2 && p.index == fld hd.toNat 32 18) ∘
      fun x => if x.die = q.die ∧ x.index = q.index then q else x) =
      fun p : Plaza => p.die == fld hd.toNat 50 2 && p.index == fld hd.toNat 32 18 := by
    funext x
    rw [Function.comp_apply]
    split
    · next hx => rw [hx.1, hx.2]
    · rfl
  rw [hcomp, h, Option.map_some, if_pos ⟨hdie.symm, hix.symm⟩]

theorem State.castOnce_plaza (h : s.current? hd = some p) (hmay : s.mayCast hd l = true) :
    (s.castOnce hd l leave).plaza? hd = some (p.casts l leave) := by
  have hset : (s.setPlaza (p.casts l leave)).plaza? hd = some (p.casts l leave) :=
    State.setPlaza_plaza (State.plaza_of_current h) (by rw [Plaza.casts, Plaza.count_eq]) (by rw [Plaza.casts, Plaza.count_eq])
  unfold State.castOnce
  rw [if_neg (by simp [hmay]), h]
  dsimp only
  rw [hmay, if_pos rfl]
  exact hset

theorem State.castOnce_closed (h : s.current? hd = some p) (hp : p.state ≠ .opened) : s.castOnce hd l true = s := by
  have hmay : s.mayCast hd l = false := by
    rw [State.mayCast_iff h, beq_false_of_ne hp, Bool.false_and]
  unfold State.castOnce
  rw [hmay]
  rfl

/-- What a ballot that goes to a peer makes of a wait. -/
def castsAway (dev n : Nat) (asks : Asks) : Wait → Wait
  | .ballot sat => .remote dev n true sat asks
  | w => w

/-- A fibre whose ballot goes to a peer waits for the answer. -/
def Fibre.castsAway (hd : DWord) (l : Loc) (n : Nat) (leave : Bool) (f : Fibre) : Fibre :=
  if f.votes? hd l then
    f.mapWait (Sys2Proof.Machine.castsAway (fld hd.toNat 52 12) n (if leave then .leave hd else .other)) else f

theorem Fibre.castsAway_uid (n : Nat) (f : Fibre) : (f.castsAway hd l n leave).uid = f.uid := by
  unfold Fibre.castsAway
  split <;> rfl

theorem State.castAway_eq (s : State) (hd : DWord) (l : Loc) (leave : Bool) : s.castAway hd l leave =
    { s with nextId := s.nextId + 1, fibres := s.fibres.map (Fibre.castsAway hd l s.nextId leave) } := by
  have hmap : (fun f : Fibre => if f.votes? hd l then f.mapWait fun w => match w with
      | .ballot sat => .remote (fld hd.toNat 52 12) s.nextId true sat (if leave then .leave hd else .other)
      | _ => w
      else f) = Fibre.castsAway hd l s.nextId leave := by
    funext f
    unfold Fibre.castsAway
    congr 2
    funext w
    cases w <;> rfl
  rw [← hmap]
  rfl

theorem State.castAway_fib (f : Fibre) (hf : s.fib? f.uid = some f) :
    (s.castAway hd l leave).fib? f.uid = some (f.castsAway hd l s.nextId leave) := by
  have hcomp : ((fun x : Fibre => x.uid == f.uid) ∘ Fibre.castsAway hd l s.nextId leave) = fun x => x.uid == f.uid := by
    funext x
    rw [Function.comp_apply, Fibre.castsAway_uid]
  unfold State.fib? at *
  rw [State.castAway_eq, List.find?_map, hcomp, hf, Option.map_some]

end

/-! Aborts of a peer's plaza. -/

theorem State.causeAbort_asked {s : State} {hd : DWord} {x : AwayPlaza} (cause : Nat) (h : s.isLocal hd = false)
    (hx : s.awayPlazas.find? (fun x => x.handle == hd) = some x) (ha : x.asked = true) : s.causeAbort hd cause = s := by
  unfold State.causeAbort
  rw [h, if_neg Bool.false_ne_true, hx]
  exact if_pos ha

theorem State.causeAbort_replies {s : State} {hd : DWord} (cause : Nat) (h : s.isLocal hd = false)
    (hx : ∀ x, s.awayPlazas.find? (fun x => x.handle == hd) = some x → x.asked = false) :
    (s.causeAbort hd cause).replies = s.replies ++ [2 :: leBytes 1 cause ++ leBytes 8 hd.toNat] := by
  unfold State.causeAbort
  rw [h, if_neg Bool.false_ne_true]
  cases hf : s.awayPlazas.find? fun x => x.handle == hd with
  | none => rfl
  | some x =>
    dsimp only
    rw [hx x hf, if_neg Bool.false_ne_true]

/-- Settles O44. -/
theorem plazaResults : Obligations.PlazaResults := by
  refine ⟨fun s t r f h a d l sat e => ?_, fun s hd p l leave hp hopen hmem => ?_, fun s hd p l hp hclosed => ?_,
    fun s hd l leave => ⟨⟨_, rfl⟩, fun f hf => ⟨fun sat htag hset hw hrej => ?_, fun hno => ?_⟩⟩,
    fun s f h a peer addr size cause sc => ⟨fun hi hgood haway => ⟨s.causeAbort (f.pair a) 5, ?_, fun x hx ha => ?_, fun hx => ?_⟩,
      fun hlocal => ?_⟩⟩
  · intro hd i open' arrives leaves
    refine ⟨fun hi => ⟨fun hw hbad htag ho => plzArrives hi.1 ho (exec_plzEnter_none hi hw hbad htag ho),
      fun hw hsat => exec_plzEnter_over hi hw hsat⟩, fun leave => ?_⟩
    intro j hi
    refine ⟨fun hw hbad htag hne hl hset => ⟨fun hdone ho => ?_, fun hout => ?_⟩, fun hw hlocal hset => ?_,
      fun hw haway hset => ?_, fun hw hsat => exec_cast_over hi hw hsat⟩
    · refine plzArrives (off := (f.reg d).toNat) hi.1 ho ((exec_cast_none hi hw hbad htag hne hl hset).trans ?_)
      exact congrArg Host.Outcome.next (if_pos hdone)
    · exact (exec_cast_none hi hw hbad htag hne hl hset).trans (congrArg Host.Outcome.next (if_neg hout))
    · exact (exec_cast_ballot hi hw hset).trans (congrArg Host.Outcome.next (if_pos hlocal))
    · exact (exec_cast_ballot hi hw hset).trans
        (congrArg Host.Outcome.next (if_neg (by rw [haway]; exact Bool.false_ne_true)))
  · have hmay : s.mayCast hd l = true := by
      rw [State.mayCast_iff hp, hopen, hmem]
      rfl
    refine ⟨p.casts l leave, State.castOnce_plaza hp hmay, ?_, ?_, Plaza.casts_sum l leave p, ?_, Plaza.casts_state leave hopen,
      Plaza.casts_done leave p⟩
    · rw [Plaza.casts, Plaza.count_eq]
    · rw [Plaza.casts, Plaza.count_eq]
    · rw [Plaza.casts, Plaza.count_eq]
  · exact State.castOnce_closed hp hclosed
  · have hvotes : f.votes? hd l = true := by
      simp [Fibre.votes?, htag, hset, Fibre.waits, hw]
    rw [State.castAway_fib f hf, Fibre.castsAway, if_pos hvotes, Fibre.mapWait, hw, hrej]
    rfl
  · have hvotes : f.votes? hd l = false := by
      rcases hno with hno | hno <;> simp [Fibre.votes?, hno]
    rw [State.castAway_fib f hf, Fibre.castsAway, hvotes]
    rfl
  · rw [exec_plzAbort hi, if_neg (by rw [hgood]; exact Bool.false_ne_true)]
  · exact State.causeAbort_asked 5 haway hx ha
  · exact State.causeAbort_replies 5 haway hx
  · change Host.Outcome.next (s.abortPlaza (f.pair a) (BitVec.ofNat 8 cause).toNat) = _
    rw [BitVec.toNat_ofNat]

end Sys2Proof.Machine

/-! O46 (R193 to R199, R241, R246, R249, R274): matrix and selection operations as they are posted, and `launch`. -/

namespace Sys2Proof.Machine

section
variable {s t y z q : State} {f : Fibre} {h : Hdr} {a d : Reg} {l : Loc} {i : Instr} {kind : MxKind} {off cls : Nat}
  {blk mask b : List Byte} {first : State} {two : Bool}

/-! The entry of an operation. -/

/-- The entry has the operation's name, block and issuer, and has not begun (R195). -/
def MxEntry.Names (t : State) (f : Fibre) (kind : MxKind) (off : Nat) (blk mask : List Byte) (cls : Nat) (n : MxEntry) : Prop :=
  n.id = t.nextId ∧ n.fib = f.uid ∧ n.quad = coreQuad f.core ∧ n.kind = kind ∧ n.ord = f.mxSeq + 1 ∧ n.off = off ∧ n.blk = blk ∧
    n.mask = mask ∧ n.cls = cls ∧ n.pass = 0 ∧ n.ovf = false ∧ n.hold = .none ∧ n.failed = false ∧ n.asid = t.asidOf f ∧
    n.iaddr = f.pc ∧ n.stage = .idle ∧ n.waitAt = mxWait kind (((t.spBase f kind.array).map (·.1)).getD 0) blk

/-- The table and the counter have room (R57, R195). -/
def State.MxRoom (t : State) (f : Fibre) (kind : MxKind) : Prop :=
  (kind.tabled = true → t.tableCount (coreQuad f.core) < Config.tableEntries) ∧ f.counter .mx < 63

/-- The entry as it takes its place in the table: its wait barrier is looked at (R195). -/
def MxEntry.placed (t : State) (e : MxEntry) : MxEntry :=
  match e.waitAt with
  | none => { e with tabled := true, released := true }
  | some (l, p) =>
    if (t.obj l).failed then { e with tabled := true, refused := some (2, 0) }
    else { e with tabled := true, released := (t.obj l).passed p }

theorem tableMx_eq (t : State) (f : Fibre) (i : Instr) (h : Hdr) (e : MxEntry) : tableMx t f i h e =
    ({ t with mx := (t.mx.filter fun g => g.id != (e.placed t).id) ++ [e.placed t] } : State).retire
      { f.raise (e.placed t).id .mx with mxSeq := f.mxSeq + 1 } i { stall := h.s.toNat } := by
  unfold tableMx MxEntry.placed
  cases e.waitAt with
  | none => rfl
  | some w =>
    obtain ⟨l, p⟩ := w
    dsimp only

/-- What placing an entry changes of it. -/
theorem MxEntry.placed_eq (t : State) (e : MxEntry) :
    ∃ r v, e.placed t = { e with tabled := true, released := r, refused := v } := by
  unfold MxEntry.placed
  split
  · exact ⟨_, _, rfl⟩
  · split <;> exact ⟨_, _, rfl⟩

theorem MxEntry.placed_names {e : MxEntry} (h : e.Names t f kind off blk mask cls) : (e.placed y).Names t f kind off blk mask cls := by
  obtain ⟨r, v, hp⟩ := e.placed_eq y
  rw [hp]
  exact h

theorem MxEntry.placed_free {e : MxEntry} (hr : e.refused = none) (hw : (e.placed t).waitAt = none) :
    (e.placed t).released = true ∧ (e.placed t).refused = none := by
  have hw' : e.waitAt = none := by
    obtain ⟨r, v, hp⟩ := e.placed_eq t
    rwa [hp] at hw
  unfold MxEntry.placed
  rw [hw']
  exact ⟨rfl, hr⟩

theorem MxEntry.placed_waits {e : MxEntry} (hr : e.refused = none) {w : Loc} {p : Word} (hw : (e.placed t).waitAt = some (w, p)) :
    ((t.obj w).failed = false → (e.placed t).refused = none ∧ (e.placed t).released = (t.obj w).passed p) ∧
    ((t.obj w).failed = true → (e.placed t).refused = some (2, 0)) := by
  have hw' : e.waitAt = some (w, p) := by
    obtain ⟨r, v, hp⟩ := e.placed_eq t
    rwa [hp] at hw
  unfold MxEntry.placed
  rw [hw']
  dsimp only
  refine ⟨fun hf => ?_, fun hf => ?_⟩
  · rw [hf, if_neg Bool.false_ne_true]
    exact ⟨hr, rfl⟩
  · rw [hf, if_pos rfl]

/-! Posting. -/

/-- What an operation that passes its checks in state t answers (R195). -/
def Posts (s : State) (f : Fibre) (h : Hdr) (i : Instr) (t : State) (kind : MxKind) (off : Nat) (blk mask : List Byte)
    (cls : Nat) : Prop :=
  (t.MxRoom f kind → ∃ n : MxEntry, n.Names t f kind off blk mask cls ∧ n.tabled = true ∧
    (n.waitAt = none → n.released = true ∧ n.refused = none) ∧
    (∀ w p, n.waitAt = some (w, p) → (t.obj w).failed = false → n.refused = none ∧ n.released = (t.obj w).passed p) ∧
    (∀ w p, n.waitAt = some (w, p) → (t.obj w).failed = true → n.refused = some (2, 0)) ∧
    exec i s = .next (({ t with mx := (t.mx.filter fun g => g.id != n.id) ++ [n], nextId := t.nextId + 1 } : State).retire
      { f.raise n.id .mx with mxSeq := f.mxSeq + 1 } i { stall := h.s.toNat })) ∧
  (¬t.MxRoom f kind → ∃ n : MxEntry, n.Names t f kind off blk mask cls ∧ n.tabled = false ∧
    exec i s = .next (({ t with mx := t.mx ++ [n], nextId := t.nextId + 1 } : State).block f (.table n.id)))

theorem State.mxRoom_iff (t : State) (f : Fibre) (kind : MxKind) : t.MxRoom f kind ↔
    ((kind.tabled && decide (Config.tableEntries ≤ t.tableCount (coreQuad f.core))) || decide (63 ≤ f.counter .mx)) = false := by
  unfold State.MxRoom
  cases kind.tabled <;> simp

theorem posts_of_postMx (hexec : exec i s = .next (postMx t f i h kind off blk mask cls)) :
    Posts s f h i t kind off blk mask cls := by
  unfold postMx at hexec
  extract_lets quad barBase e u at hexec
  have hnames : e.Names t f kind off blk mask cls := ⟨rfl, rfl, rfl, rfl, rfl, rfl, rfl, rfl, rfl, rfl, rfl, rfl, rfl, rfl, rfl, rfl, rfl⟩
  have hcount : u.tableCount quad = t.tableCount (coreQuad f.core) := rfl
  have hobj (w : Loc) : u.obj w = t.obj w := by cases w <;> rfl
  rw [hcount] at hexec
  refine ⟨fun hroom => ⟨e.placed u, MxEntry.placed_names hnames, ?_, MxEntry.placed_free rfl, fun w p hw hf => ?_, fun w p hw hf => ?_, ?_⟩,
    fun hroom => ⟨e, hnames, rfl, ?_⟩⟩
  · obtain ⟨r, v, hp⟩ := e.placed_eq u
    rw [hp]
  · obtain ⟨hok, -⟩ := MxEntry.placed_waits (t := u) (e := e) rfl hw
    rw [hobj] at hok
    exact hok hf
  · obtain ⟨-, hbad⟩ := MxEntry.placed_waits (t := u) (e := e) rfl hw
    rw [hobj] at hbad
    exact hbad hf
  · rw [(t.mxRoom_iff f kind).mp hroom, if_neg Bool.false_ne_true, tableMx_eq] at hexec
    exact hexec
  · rw [if_pos (by rw [← Bool.not_eq_false]; exact fun hc => hroom ((t.mxRoom_iff f kind).mpr hc))] at hexec
    exact hexec

theorem posting_first (hw : ∀ op, f.wait ≠ .table op) : posting s f i h first = first := by
  unfold posting
  split
  · next op he => exact absurd he (hw op)
  · rfl

theorem posting_table {op : Nat} {n : MxEntry} (hw : f.wait = .table op) (hn : (s.mx.find? fun x => x.id == op) = some n) :
    posting s f i h first = tableMx s f i h n := by
  unfold posting
  rw [hw]
  dsimp only
  rw [hn]

/-! The block. -/

/-- State u is t with the 64 bytes b at l read as an access of the fibre (R227; DEDUCED, log 97). -/
def ReadsBlock (f : Fibre) (t : State) (l : Loc) (b : List Byte) (u : State) : Prop := t.ownAhead f l 64 = false ∧
  ∃ q, t.register { objAcc t f l 64 .dev with writes := false, sync := false } = .ok q ∧ b = q.bytes l 64 ∧
    u = ({ q with nextId := q.nextId + 1 } : State).recDone t.nextId

theorem readBlock_ok {addr : Nat} {k : List Byte → State → State} (h : ReadsBlock f t l b y) :
    t.readBlock s f i l 64 addr k = k b y := by
  obtain ⟨hown, q, hreg, rfl, rfl⟩ := h
  unfold State.readBlock
  rw [hown, if_neg Bool.false_ne_true, hreg]

theorem atBlock_ok {k : List Byte → State → State} (hal : off % 64 = 0) (hl : resolveSp s f off 64 64 false = .ok l t)
    (hb : ReadsBlock f t l b y) : atBlock s f i off k = k b y := by
  unfold atBlock
  rw [if_neg (not_not_intro hal), andThen_ok hl, readBlock_ok hb]

/-- A block's read changes the detector alone. -/
theorem ReadsBlock.eq (h : ReadsBlock f t l b y) :
    ∃ rs ts df n, y = { t with records := rs, touched := ts, detectorFull := df, nextId := n } := by
  obtain ⟨-, q, hreg, -, rfl⟩ := h
  obtain ⟨rs, ts, df, rfl⟩ := State.register_ok hreg
  exact ⟨_, _, _, _, rfl⟩

theorem mxIssue_ok {stream : Option Nat} (hw : ∀ op, f.wait ≠ .table op) (hal : (f.reg a).toNat % 64 = 0)
    (hl : resolveSp s f (f.reg a).toNat 64 64 false = .ok l t) (hb : ReadsBlock f t l b y)
    (hcheck : mxCheck y f b (f.reg a).toNat stream = none) :
    mxIssue s f i h a kind stream = postMx y f i h kind (f.reg a).toNat b [] (mxClassOf y f b) := by
  unfold mxIssue
  extract_lets o
  rw [posting_first hw, atBlock_ok hal hl hb, hcheck]

end

/-! `launch`. -/

section
variable {s t y : State} {f : Fibre} {h : Hdr} {a : Reg} {r : List Byte} {la : Launch}

/-- What a `launch` leaves whose record passes its checks (R274). -/
def State.launched (y : State) (f : Fibre) (h : Hdr) (a : Reg) (la : Launch) : State :=
  ({ y.release f.uid with launches := y.launches ++ [la], nextId := y.nextId + 1 } : State).retire
    { f with closing := f.closing ++ [y.nextId] } (.launch h a) { stall := h.s.toNat, safe := true, flush := true }

/-- The fibre that has launched. -/
theorem State.launched_fib (hf : (y.fib? f.uid).isSome = true) : ∃ g, (y.launched f h a la).fib? f.uid = some g ∧
    g.outs = f.outs ∧ g.closing = f.closing ++ [y.nextId] := by
  have hself := State.retire_fib_self ({ y.release f.uid with launches := y.launches ++ [la], nextId := y.nextId + 1 } : State)
    { f with closing := f.closing ++ [y.nextId] } (.launch h a) { stall := h.s.toNat, safe := true, flush := true } hf
  refine ⟨_, hself, ?_⟩
  have hret (u : State) (g : Fibre) (i : Instr) (r : Retire) : (u.retired g i r).outs = g.outs ∧ (u.retired g i r).closing = g.closing := by
    have hg : (g.retire (u.det g) i.size r).outs = g.outs ∧ (g.retire (u.det g) i.size r).closing = g.closing := by
      obtain ⟨_, _, _, _, _, _, -, h⟩ := g.retire_eq (u.det g) i.size r
      obtain ⟨_, _, _, _, hs⟩ := g.shown_eq r
      rw [h, Fibre.noted, hs]
      exact ⟨rfl, rfl⟩
    unfold State.retired Fibre.atSafePoint
    split
    · split <;> exact hg
    · exact hg
  exact hret _ _ _ _

variable (hi : s.Issues f (.launch h a) h.g (pairRegs a) (pairCodes a)) (hal : (f.pair a).toNat % 64 = 0)
include hi hal

theorem exec_launch_tagged (htag : f.tag ≠ 0) :
    exec (.launch h a) s = .next (s.trapAt f (.launch h a) .plazaMisuse 0x04 f.tag.toNat) := by
  refine (issue_next hi).trans (congrArg _ ?_)
  dsimp only
  rw [if_neg (not_not_intro hal), if_pos htag]

theorem exec_launch_waits (htag : f.tag = 0) (hstop : s.graphStop f = none) (hst : f.counter .st ≠ 0) :
    exec (.launch h a) s = .next (s.block f (.counter .st 0)) := by
  refine (issue_next hi).trans (congrArg _ ?_)
  dsimp only
  rw [if_neg (not_not_intro hal), if_neg (not_not_intro htag), hstop]
  exact if_pos hst

/-- What the checks of its record make of a `launch` (R272, R274). -/
def State.checked (s : State) (f : Fibre) (h : Hdr) (a : Reg) : Checked → State
  | .refuse code u => (u.unread s).trapAt f (.launch h a) .launch code
  | .wait u => u.unread s
  | .ok la u => (u.launched f h a la).closeDrained f.uid

/-- The record has been read: its checks give the rest. -/
theorem exec_launch_read (htag : f.tag = 0) (hstop : s.graphStop f = none) (hst : f.counter .st = 0)
    (hread : readRecord s f (f.pair a).toNat 4 = .ok r t) {c : Checked}
    (hc : (if fb r 49 1 ≠ t.asidOf f then .refuse 0x40 t else t.checkLaunch r none f.before) = c) :
    exec (.launch h a) s = .next (s.checked f h a c) := by
  refine (issue_next hi).trans (congrArg _ ?_)
  dsimp only
  rw [if_neg (not_not_intro hal), if_neg (not_not_intro htag), hstop]
  dsimp only
  rw [if_neg (not_not_intro hst), hread]
  dsimp only
  rw [hc]
  cases c <;> rfl

end

/-- With nothing outstanding every `launch` of the fibre has drained. -/
theorem Fibre.le_drained_last {g : Fibre} {c : List Nat} {m : Nat} (houts : g.outs = []) (hc : g.closing = c ++ [m]) :
    m ≤ g.drained := by
  unfold Fibre.drained
  rw [houts, hc]
  simp only [List.all_nil, List.filter_true, List.foldl_append, List.foldl_cons, List.foldl_nil]
  exact le_max_right _ _

/-- Settles O46. -/
theorem matrixAndLaunchResults : Obligations.MatrixAndLaunchResults := by
  intro s t y z f h two a d l e sva bd r b mask la off reads posts
  have hreads (t : State) (l : Loc) (b : List Byte) (u : State) : reads t l b u = ReadsBlock f t l b u := rfl
  have hposts (i : Instr) (t : State) (kind : MxKind) (o : Nat) (blk m : List Byte) (cls : Nat)
      (hp : (∀ op, f.wait ≠ .table op) → Posts s f h i t kind o blk m cls) : posts i t kind o blk m cls := hp
  refine ⟨fun hal hl hb => ⟨fun hi hcheck => ?_, fun hi hcheck => ?_, fun hi hsel hmask hfields htag => ?_,
    fun hi hgat htag hquad => ?_⟩, fun op n hw hn => ⟨fun hi => ?_, fun hi => ?_, fun hi => ?_, fun hi => ?_⟩, ?_, ?_⟩
  · refine hposts _ _ _ _ _ _ _ fun hw => posts_of_postMx ((issue_next hi).trans (congrArg _ ?_))
    exact mxIssue_ok hw hal hl hb hcheck
  · refine hposts _ _ _ _ _ _ _ fun hw => posts_of_postMx ((issue_next hi).trans (congrArg _ ?_))
    exact mxIssue_ok hw hal hl hb hcheck
  · refine hposts _ _ _ _ _ _ _ fun hw => posts_of_postMx ((issue_next hi).trans (congrArg _ ?_))
    obtain ⟨rs, ts, df, n, hy⟩ := ReadsBlock.eq hb
    have hbase : s.spBase f false = y.spBase f false := by
      rw [hy, resolveSp_ok hl]
      rfl
    have hspad : s.spadOf f = y.spadOf f := by
      rw [hy, resolveSp_ok hl]
      rfl
    dsimp only
    rw [posting_first hw, atBlock_ok hal hl hb, hspad, hsel]
    simp only [Bool.not_true, Bool.false_eq_true, if_false]
    rw [hbase, readBlock_ok hmask, hfields, htag]
    rfl
  · refine hposts _ _ _ _ _ _ _ fun hw => posts_of_postMx ((issue_next hi).trans (congrArg _ ?_))
    obtain ⟨rs, ts, df, n, hy⟩ := ReadsBlock.eq hb
    have hspad : s.spadOf f = y.spadOf f := by
      rw [hy, resolveSp_ok hl]
      rfl
    have hquad' : s.holdsQuad f = true := by
      rw [← hquad, hy, resolveSp_ok hl]
      rfl
    dsimp only
    rw [posting_first hw, atBlock_ok hal hl hb, hspad, hgat, htag, hquad']
    rfl
  · exact (issue_next hi).trans (congrArg _ (posting_table hw hn))
  · exact (issue_next hi).trans (congrArg _ (posting_table hw hn))
  · exact (issue_next hi).trans (congrArg _ (posting_table hw hn))
  · exact (issue_next hi).trans (congrArg _ (posting_table hw hn))
  · intro va hi htag hl he hpage hx
    refine hposts _ _ _ _ _ _ _ fun hw => posts_of_postMx ((issue_next hi).trans (congrArg _ ?_))
    dsimp only
    rw [if_neg (not_not_intro htag), posting_first hw, andThen_ok hl, he]
    dsimp only
    rw [hpage]
    dsimp only
    rw [andThen_ok hx, if_neg (not_not_intro rfl)]
  · intro va hi hal
    refine ⟨exec_launch_tagged hi hal, exec_launch_waits hi hal, fun htag hstop hst hread => ⟨fun hasid hc => ?_, fun code hasid hc => ?_,
      fun hasid => ?_⟩⟩
    · intro w
      refine ⟨?_, fun houts hf => ?_⟩
      · exact exec_launch_read hi hal htag hstop hst hread ((if_neg (not_not_intro hasid)).trans hc)
      · obtain ⟨g, hg, hgo, hgc⟩ := State.launched_fib (h := h) (a := a) (la := la) hf
        have hdrained : y.nextId ≤ g.drained := Fibre.le_drained_last (hgo.trans houts) hgc
        intro x hx hfib
        obtain ⟨-, hkept⟩ := (State.closeDrained_records hg x).mp hx
        exact hdrained.trans (hkept hfib)
    · exact exec_launch_read hi hal htag hstop hst hread ((if_neg (not_not_intro hasid)).trans hc)
    · exact exec_launch_read hi hal htag hstop hst hread (if_pos hasid)

end Sys2Proof.Machine

/-! O47 (R51, R95, R106, R107, R109, R112, R132, R161): the steps at a fibre's boundary and of the Crossing. -/

namespace Sys2Proof.Machine

/-- Where names are distinct, a fibre is the one of its name. -/
theorem State.fib_of_mem {s : State} {g : Fibre} (hnd : (s.fibres.map (·.uid)).Nodup) (hg : g ∈ s.fibres) :
    s.fib? g.uid = some g := by
  obtain ⟨x, hx⟩ := Option.isSome_iff_exists.mp
    (List.find?_isSome.mpr ⟨g, hg, beq_self_eq_true g.uid⟩ : (s.fib? g.uid).isSome = true)
  have hxg : x = g := List.inj_on_of_nodup_map hnd (List.mem_of_find?_eq_some hx) hg (State.fib_uid hx)
  exact hxg ▸ hx

/-! Ticks. -/

/-- A step at the boundary of the fibre named n changes that fibre, and may queue one child under the next name. -/
def State.Beats (n : Nat) (s t : State) : Prop :=
  ∃ (v : Fibre → Fibre) (c : List Fibre), (∀ x, (v x).uid = x.uid) ∧ (∀ x, x.uid ≠ n → v x = x) ∧ (∀ k ∈ c, k.uid = s.nextId) ∧
    t = { s with fibres := s.fibres.map v ++ c, nextId := s.nextId + c.length }

section
variable {s t : State} {n : Nat}

theorem State.modF_beats (s : State) (n : Nat) {u : Fibre → Fibre} (hu : ∀ g, (u g).uid = g.uid) : s.Beats n (s.modF n u) := by
  refine ⟨fun g => if g.uid = n then u g else g, [], fun g => ?_, fun g hg => if_neg hg, fun _ hk => (List.not_mem_nil hk).elim, ?_⟩
  · dsimp only
    split
    · exact hu g
    · rfl
  · rw [List.append_nil]
    rfl

theorem State.Beats.trans {u : State} (h : s.Beats n t) (k : t.Beats n u) : s.Beats n u ∨ t.nextId ≠ s.nextId := by
  obtain ⟨v, c, hv, hv', hc, rfl⟩ := h
  obtain ⟨w, d, hw, hw', hd, rfl⟩ := k
  cases c with
  | cons k c => exact .inr (by simp)
  | nil =>
    refine .inl ⟨w ∘ v, d, fun x => (hw _).trans (hv x), fun x hx => ?_, hd, ?_⟩
    · rw [Function.comp_apply, hv' x hx, hw' x hx]
    · simp [List.map_map]

theorem State.Beats.fib {m : Nat} (h : s.Beats n t) (hm : m ≠ n) (hlt : m < s.nextId) : t.fib? m = s.fib? m := by
  obtain ⟨v, c, hv, hv', hc, rfl⟩ := h
  have hfind : (s.fibres.map v).find? (fun x => x.uid == m) = s.fibres.find? fun x => x.uid == m := by
    rw [List.find?_map]
    have hcomp : ((fun x : Fibre => x.uid == m) ∘ v) = fun x => x.uid == m := by
      funext x
      rw [Function.comp_apply, hv]
    rw [hcomp]
    cases hf : s.fibres.find? fun x => x.uid == m with
    | none => rfl
    | some x =>
      have hx : x.uid = m := by simpa using List.find?_some hf
      rw [Option.map_some, hv' x (by rw [hx]; exact hm)]
  have hnone : c.find? (fun x => x.uid == m) = none := by
    rw [List.find?_eq_none]
    intro k hk
    rw [hc k hk]
    simp [Nat.ne_of_gt hlt]
  change (s.fibres.map v ++ c).find? _ = s.fibres.find? _
  rw [List.find?_append, hfind, hnone, Option.or_none]

theorem State.Beats.stands (h : s.Beats n t) : t.mem = s.mem ∧ t.accs = s.accs ∧ s.nextId ≤ t.nextId := by
  obtain ⟨v, c, -, -, -, rfl⟩ := h
  exact ⟨rfl, rfl, Nat.le_add_right _ _⟩

theorem State.tick_beats (s : State) (f : Fibre) : s.Beats f.uid (s.tick f) := by
  unfold State.tick
  split
  · exact ⟨id, [], fun _ => rfl, fun _ _ => rfl, fun _ hk => (List.not_mem_nil hk).elim, by rw [List.map_id, List.append_nil]; rfl⟩
  · exact State.modF_beats _ _ fun _ => rfl
  · exact State.modF_beats _ _ fun _ => rfl
  · next m a args _ =>
    let u : Fibre → Fibre := fun g => if g.uid = f.uid then g.modFrame m (Frame.promoted s.nextId) else g
    have hu (g : Fibre) : (u g).uid = g.uid := by
      unfold u
      split <;> rfl
    refine ⟨u, [u (s.child f .call a (argWindow args))], hu, fun g hg => if_neg hg, fun k hk => ?_, ?_⟩
    · rw [List.mem_singleton.mp hk, hu]
      rfl
    · unfold State.queue State.modF
      rw [List.map_append]
      rfl

theorem State.deliverTick_beats (s : State) (f : Fibre) : s.Beats f.uid (s.deliverTick f) := by
  unfold State.deliverTick
  split
  · exact State.modF_beats _ _ fun _ => rfl
  · have hclear : s.Beats f.uid (s.modF f.uid fun g => { g with tickDue := false }) := State.modF_beats _ _ fun _ => rfl
    have htick := (s.modF f.uid fun g => { g with tickDue := false }).tick_beats { f with tickDue := false }
    exact (hclear.trans htick).resolve_right fun hne => hne rfl

theorem State.timerTick_beats (s : State) (f : Fibre) : s.Beats f.uid (s.timerTick f) := by
  unfold State.timerTick
  split
  · exact State.modF_beats _ _ fun _ => rfl
  · exact s.deliverTick_beats f

/-- The turn of one fibre in a core's tick. -/
def State.tickTurn (t : State) (f : Fibre) : State :=
  match t.fib? f.uid with
  | some g => t.timerTick g
  | none => t

theorem State.tickTurn_eq {f : Fibre} (hf : t.fib? f.uid = some f) : t.tickTurn f = t.timerTick f := by
  unfold State.tickTurn
  rw [hf]

/-- A core's tick reaches its fibres one by one, and no other. -/
theorem State.tickTurns (gs : List Fibre) (t : State) (hgs : ∀ g ∈ gs, t.fib? g.uid = some g ∧ g.uid < t.nextId)
    (hnd : (gs.map (·.uid)).Nodup) :
    (gs.foldl State.tickTurn t).mem = t.mem ∧ (∀ m, m ∉ gs.map (·.uid) → m < t.nextId →
      (gs.foldl State.tickTurn t).fib? m = t.fib? m) ∧
    ∀ g ∈ gs, ∃ t' : State, t'.accs = t.accs ∧ t'.fib? g.uid = some g ∧
      (gs.foldl State.tickTurn t).fib? g.uid = (t'.timerTick g).fib? g.uid := by
  induction gs generalizing t with
  | nil => exact ⟨rfl, fun _ _ _ => rfl, fun _ hg => (List.not_mem_nil hg).elim⟩
  | cons f gs ih =>
    rw [List.map_cons, List.nodup_cons] at hnd
    obtain ⟨hout, hnd⟩ := hnd
    obtain ⟨hf, hflt⟩ := hgs f List.mem_cons_self
    have hbeats := t.timerTick_beats f
    obtain ⟨hmem, haccs, hnext⟩ := hbeats.stands
    have hne {g : Fibre} (hg : g ∈ gs) : g.uid ≠ f.uid := fun he => hout (he ▸ List.mem_map_of_mem hg)
    have hgs' : ∀ g ∈ gs, (t.timerTick f).fib? g.uid = some g ∧ g.uid < (t.timerTick f).nextId := by
      intro g hg
      obtain ⟨hgf, hglt⟩ := hgs g (List.mem_cons_of_mem f hg)
      exact ⟨(hbeats.fib (hne hg) hglt).trans hgf, hglt.trans_le hnext⟩
    obtain ⟨imem, iother, igs⟩ := ih (t.timerTick f) hgs' hnd
    rw [List.foldl_cons, State.tickTurn_eq hf]
    refine ⟨imem.trans hmem, fun m hm hlt => ?_, fun g hg => ?_⟩
    · rw [List.map_cons, List.mem_cons, not_or] at hm
      exact (iother m hm.2 (hlt.trans_le hnext)).trans (hbeats.fib hm.1 hlt)
    · rcases List.mem_cons.mp hg with rfl | hg
      · exact ⟨t, rfl, hf, iother g.uid hout (hflt.trans_le hnext)⟩
      · obtain ⟨t', ha, hf', hv⟩ := igs g hg
        exact ⟨t', ha.trans haccs, hf', hv⟩

end

/-- The fibres that a core's timer ticks (R106). -/
def State.ticked (s : State) (launch core : Nat) : List Fibre :=
  s.fibres.filter fun g => g.launch == launch && g.core == core && g.status == .resident && g.wait == .none && !g.trapMode && !g.stopped

theorem exec_heartbeatTick {s : State} {launch core : Nat} (h : s.detLaunch launch = false) :
    exec (.heartbeatTick launch core) s = .next ((s.ticked launch core).foldl State.tickTurn s) := by
  change Host.Outcome.next _ = _
  unfold State.ticked State.tickTurn
  rw [h]
  rfl

/-! The statement's clauses. -/

section
variable {s : State} {f : Fibre} {l : Launch} {core seg launch : Nat} {fid : BitVec 31} {d : Deferred} {ds : List Deferred}

theorem heartbeatTick_all (hdet : s.detLaunch launch = false) (hnd : (s.fibres.map (·.uid)).Nodup)
    (hlt : ∀ g ∈ s.fibres, g.uid < s.nextId) : ∃ v, exec (.heartbeatTick launch core) s = .next v ∧ v.mem = s.mem ∧
      (∀ g ∈ s.fibres, g ∉ s.ticked launch core → v.fib? g.uid = some g) ∧
      ∀ g ∈ s.ticked launch core, (g.inGroup = true → v.fib? g.uid = some { g with tickDue := true }) ∧
        (g.inGroup = false →
          ∃ t : State, t.accs = s.accs ∧ t.fib? g.uid = some g ∧ v.fib? g.uid = (t.deliverTick g).fib? g.uid) := by
  have hsub : (s.ticked launch core).Sublist s.fibres := List.filter_sublist
  have hfib {g : Fibre} (hg : g ∈ s.fibres) : s.fib? g.uid = some g := State.fib_of_mem hnd hg
  obtain ⟨hmem, hother, hall⟩ := State.tickTurns (s.ticked launch core) s
    (fun g hg => ⟨hfib (hsub.subset hg), hlt g (hsub.subset hg)⟩) (hnd.sublist (hsub.map _))
  refine ⟨_, exec_heartbeatTick hdet, hmem, fun g hg hn => ?_, fun g hg => ?_⟩
  · rw [hother g.uid _ (hlt g hg), hfib hg]
    intro hin
    obtain ⟨x, hx, hux⟩ := List.mem_map.mp hin
    have hxg : x = g := List.inj_on_of_nodup_map hnd (hsub.subset hx) hg hux
    exact hn (hxg ▸ hx)
  · obtain ⟨t, ha, ht, hv⟩ := hall g hg
    refine ⟨fun hgr => ?_, fun hgr => ⟨t, ha, ht, ?_⟩⟩
    · have hmod := State.modF_fib t g.uid (fun g => { g with tickDue := true }) g.uid fun _ => rfl
      rw [hv, State.timerTick, if_pos hgr, hmod, ht, Option.map_some, if_pos rfl]
    · rw [hv, State.timerTick, if_neg (by rw [hgr]; exact Bool.false_ne_true)]

theorem exec_detHeartbeat (hf : s.fib? f.uid = some f) (hres : f.status = .resident) (hl : s.launch? f.launch = some l)
    (hdet : l.flags % 2 = 1) (hh : l.h ≤ f.hbc) (htrap : f.trapMode = false) (hw : f.wait = .none) :
    exec (.detHeartbeat f.uid) s = .next ((s.modF f.uid fun g => { g with hbc := 0 }).deliverTick { f with hbc := 0 }) := by
  have hdue : s.detDue f = true := by
    simp [State.detDue, hl, hdet, hh, htrap, hw]
  change Host.Outcome.next _ = _
  rw [hf]
  dsimp only
  rw [if_pos ⟨hres, hdue⟩]

theorem exec_childStart (hf : s.fib? f.uid = some f) (hl : s.launch? f.launch = some l)
    (hslot : s.slotFree l f.block core = true) (hseg : s.freeSeg l = some seg) (hdie : coreDie core = coreDie f.core)
    (hpre : f.preempt = false) (hq : f.status = .queued) (hcore : core < 1024) (hgate : core ∉ s.gated)
    (hfid : ∀ g ∈ s.fibres, g.uid ≠ f.uid → g.launch = f.launch → coreDie g.core = coreDie core →
      g.fid = .ofNat 32 (2 ^ 31 + fid.toNat) → g.status = .ended ∨ g.status = .queued)
    (hwait : ∀ g ∈ s.fibres, coreDie g.core = coreDie core → s.restorable g = false) :
    exec (.childStart f.uid core fid) s = .next (s.modF f.uid fun g =>
      { g with status := .resident, core := core, fid := .ofNat 32 (2 ^ 31 + fid.toNat), seg := some seg }) := by
  have htaken : (s.fibres.any fun g => g.uid != f.uid && g.launch == f.launch && coreDie g.core == coreDie core &&
      g.fid == .ofNat 32 (2 ^ 31 + fid.toNat) && g.status != .ended && g.status != .queued) = false := by
    rw [List.any_eq_false]
    intro g hg
    simp only [Bool.and_eq_true, bne_iff_ne, beq_iff_eq]
    rintro ⟨⟨⟨⟨⟨hu, hla⟩, hd⟩, hi⟩, he⟩, hqu⟩
    exact (hfid g hg hu hla hd hi).elim he hqu
  have hwaiting : (s.fibres.any fun g => s.restorable g && coreDie g.core == coreDie core) = false := by
    rw [List.any_eq_false]
    intro g hg
    simp only [Bool.and_eq_true, beq_iff_eq]
    rintro ⟨hr, hd⟩
    exact Bool.false_ne_true ((hwait g hg hd).symm.trans hr)
  change Host.Outcome.next _ = _
  rw [hf]
  dsimp only
  rw [hl]
  dsimp only
  rw [htaken, hwaiting, hslot, hseg, hpre, if_neg (by simp [hq, hdie, hcore, hgate])]

theorem exec_childStart_waits {g : Fibre} (hg : g ∈ s.fibres) (hd : coreDie g.core = coreDie core)
    (hr : s.restorable g = true) : exec (.childStart f.uid core fid) s = .next s := by
  have hwaiting : (s.fibres.any fun g => s.restorable g && coreDie g.core == coreDie core) = true := by
    rw [List.any_eq_true]
    exact ⟨g, hg, by simp [hr, hd]⟩
  change Host.Outcome.next _ = _
  cases s.fib? f.uid with
  | none => rfl
  | some f' =>
    dsimp only
    cases s.launch? f'.launch with
    | none => rfl
    | some l =>
      dsimp only
      rw [hwaiting, if_pos (by simp)]

theorem exec_joinRestore (hf : s.fib? f.uid = some f) (hl : s.launch? f.launch = some l)
    (hslot : s.slotFree l f.block core = true) (hseg : s.freeSeg l = some seg) (hdie : coreDie core = coreDie f.core)
    (hpre : f.preempt = false) (hst : f.status = .joinSaved) (hgate : core ∉ s.gated)
    (hover : s.waitOver f = true ∨ f.deferredDue = true) :
    exec (.joinRestore f.uid core) s = .next (s.modF f.uid fun g =>
      { g with status := .resident, core := core, seg := some seg }) := by
  have hr : s.restorable f = true := by
    rcases hover with h | h <;> simp [State.restorable, hst, hpre, h]
  change Host.Outcome.next _ = _
  rw [hf]
  dsimp only
  rw [hl]
  dsimp only
  rw [hr, hslot, hseg, if_neg (by simp [hdie, hgate])]

theorem exec_joinSave {g : Fibre} (hf : s.fib? f.uid = some f) (hg : g ∈ s.fibres)
    (hq : g.status = .queued ∨ s.restorable g = true) (hd : coreDie g.core = coreDie f.core) (hl : s.launch? g.launch = some l)
    (hin : f ∈ s.crowdedBy l g.block (coreDie f.core))
    (hold : ∀ x ∈ s.crowdedBy l g.block (coreDie f.core), f.since ≤ x.since) (houts : f.outs = []) :
    exec (.joinSave f.uid) s = .next (s.modF f.uid fun g => { g.flush with status := .joinSaved, seg := none }) := by
  have hdue : ((s.fibres.filter fun g => (g.status == .queued || s.restorable g) && coreDie g.core == coreDie f.core).any fun g =>
      match s.launch? g.launch with
      | some l => (s.crowdedBy l g.block (coreDie f.core)).any (fun h => h.uid == f.uid) &&
          (s.crowdedBy l g.block (coreDie f.core)).all fun h => decide (f.since ≤ h.since)
      | none => false) = true := by
    rw [List.any_eq_true]
    refine ⟨g, List.mem_filter.mpr ⟨hg, ?_⟩, ?_⟩
    · rcases hq with h | h <;> simp [h, hd]
    · simp only [hl, Bool.and_eq_true]
      exact ⟨List.any_eq_true.mpr ⟨f, hin, beq_self_eq_true _⟩, List.all_eq_true.mpr fun x hx => decide_eq_true (hold x hx)⟩
  change Host.Outcome.next _ = _
  rw [hf]
  dsimp only
  rw [houts]
  exact congrArg _ (if_pos (by rw [Bool.and_eq_true]; exact ⟨hdue, rfl⟩))

/-- What a trap does besides its record waits with that: outside trap mode the record's place comes first (log 4). -/
theorem State.whenRecord_found {k : State → State} {y : State} (htrap : f.trapMode = false)
    (hrec : ∃ lr, s.recordAt f true = .ok lr y ∨ s.recordAt f true = .gone y) : s.whenRecord f k = k y := by
  unfold State.whenRecord
  rw [htrap, if_neg Bool.false_ne_true]
  obtain ⟨lr, h | h⟩ := hrec <;> rw [h]

theorem State.whenRecord_waits {k : State → State} {y : State} (htrap : f.trapMode = false)
    (hrec : s.recordAt f true = .wait y) : s.whenRecord f k = y := by
  unfold State.whenRecord
  rw [htrap, if_neg Bool.false_ne_true, hrec]

/-- The oldest deferred trap of a fibre that stands at a boundary is due (R132). -/
theorem Fibre.dueDeferred_first (hw : f.wait = .none) (hd : f.deferred = d :: ds) : f.dueDeferred = some d := by
  unfold Fibre.dueDeferred
  rw [hw, hd]
  exact ite_self _

theorem exec_deferredTrap (hf : s.fib? f.uid = some f) (hres : f.status = .resident) (hstop : f.stopped = false)
    (htrap : f.trapMode = false) (hw : f.wait = .none) (hab : f.abort = none) (hd : f.deferred = d :: ds) :
    exec (.deferredTrap f.uid) s = .next (s.whenRecord f fun y => if d.cause = .held then
        (y.drawInsn f).takeTrap { f with deferred := ds }
          { cause := .held, pc := f.pc, iaddr := f.pc, insn := y.insnAt f, daddr := d.daddr }
      else y.takeTrap { f with deferred := ds }
        { cause := d.cause, detail := d.detail, pc := f.pc, iaddr := d.iaddr, insn := d.insn, daddr := d.daddr
          deferred := d.cause ≠ .sat && d.cause ≠ .soft }) := by
  have hfirst := Fibre.dueDeferred_first hw hd
  have hdue : f.deferredDue = true := by
    simp [Fibre.deferredDue, htrap, Fibre.takesDeferred, hfirst]
  have hkeep : ({ f.keeps with deferred := f.deferred.erase d } : Fibre) = { f with deferred := ds } := by
    have hk : f.keeps = f := by
      unfold Fibre.keeps Fibre.standing
      rw [hw]
    rw [hk, hd, List.erase_cons_head]
  have hsweep (t : State) : t.sweepCopy f = t := by
    unfold State.sweepCopy
    rw [hw]
  change Host.Outcome.next _ = _
  rw [hf]
  dsimp only
  rw [if_pos ⟨hres, by simp [hstop], hdue⟩]
  generalize ({ f with deferred := ds } : Fibre) = g at hkeep ⊢
  unfold State.takeDeferred
  rw [hab, hfirst]
  dsimp only
  rw [hkeep]
  simp only [hsweep]

theorem exec_safeDistance (hf : s.fib? f.uid = some f) (hres : f.status = .resident) (hstop : f.stopped = false)
    (hpre : f.preempt = true) (hdist : 4096 < f.distNow) (htrap : f.trapMode = false) (hw : f.wait = .none) :
    exec (.safeDistance f.uid) s = .next (s.whenRecord f fun y =>
      (y.drawInsn f).takeTrap f { cause := .safeDistance, pc := f.pc, iaddr := f.pc, insn := y.insnAt f }) := by
  have hfar : f.tooFar = true := by
    simp [Fibre.tooFar, hpre, hdist, htrap, hw]
  change Host.Outcome.next _ = _
  rw [hf]
  dsimp only
  rw [if_pos ⟨hres, by simp [hstop], hfar⟩]

end

/-- Settles O47. -/
theorem fibreEvents : Obligations.FibreEvents := by
  intro s f l core seg launch fid r u d ds hf
  refine ⟨fun hdet => ?_, fun hdet => ?_, exec_detHeartbeat hf, fun hres hdue hland => ?_, fun hl hslot hseg hdie hpre => ⟨?_, ?_, ?_⟩,
    fun g hg hq hd hl hin hold houts => exec_joinSave hf hg hq hd hl hin hold houts,
    fun hres hstop htrap hw hab hd => ⟨fun lr y hrec => ⟨fun hne => ?_, fun he => ?_⟩, fun y hrec => ?_⟩,
    fun hres hstop hpre hdist htrap hw => ⟨fun lr y hrec => ?_, fun y hrec => ?_⟩, fun hw => ?_, fun hrun => ?_⟩
  · change Host.Outcome.next _ = _
    rw [if_pos hdet]
  · intro ticked
    have htick : exec (.heartbeatTick launch core) s = .next (ticked.foldl State.tickTurn s) := exec_heartbeatTick hdet
    refine ⟨fun hnone => ?_, fun hone => ?_, heartbeatTick_all hdet⟩
    · rw [htick, hnone]
      rfl
    · rw [htick, hone, List.foldl_cons, List.foldl_nil, State.tickTurn_eq hf, State.timerTick]
      exact ⟨fun hg => by rw [if_neg (by rw [hg]; exact Bool.false_ne_true)], fun hg => by rw [if_pos hg]⟩
  · change Host.Outcome.next _ = _
    rw [hf]
    dsimp only
    rw [if_neg (not_not_intro hres), hdue]
    dsimp only
    rw [hland, if_neg Bool.false_ne_true]
  · exact exec_childStart hf hl hslot hseg hdie hpre
  · exact fun g hg hd hr => exec_childStart_waits hg hd hr
  · exact exec_joinRestore hf hl hslot hseg hdie hpre
  · rw [exec_deferredTrap hf hres hstop htrap hw hab hd, State.whenRecord_found htrap ⟨lr, hrec⟩, if_neg hne, Bool.decide_and]
  · rw [exec_deferredTrap hf hres hstop htrap hw hab hd, State.whenRecord_found htrap ⟨lr, hrec⟩, if_pos he]
  · rw [exec_deferredTrap hf hres hstop htrap hw hab hd, State.whenRecord_waits htrap hrec]
  · rw [exec_safeDistance hf hres hstop hpre hdist htrap hw, State.whenRecord_found htrap ⟨lr, hrec⟩]
  · rw [exec_safeDistance hf hres hstop hpre hdist htrap hw, State.whenRecord_waits htrap hrec]
  · change Host.Outcome.next _ = _
    rw [hf]
    exact congrArg _ (if_pos hw)
  · change Host.Outcome.next _ = _
    rw [hf]
    exact congrArg _ (if_pos hrun)

end Sys2Proof.Machine

/-! O48 (R68, R108 to R110): ticks that promote a call frame, and splits of ranges. -/

namespace Sys2Proof.Machine

/-! The middle of a split (R68). -/

theorem splitMid_none {i l : Int} {g : Nat} (h : l - i < 2 * g) : splitMid i l g = none := if_pos h

theorem splitMid_some {i l : Int} {g : Nat} (hg : 1 ≤ g) (h : 2 * g ≤ l - i) : ∃ mid, splitMid i l g = some mid ∧
    l - mid = g * ((l - i) / (2 * g)) ∧ i + g ≤ mid ∧ mid + g ≤ l ∧ l - mid ≤ mid - i := by
  refine ⟨l - g * ((l - i) / (2 * g)), if_neg (Int.not_lt.mpr h), by omega, ?_⟩
  have hpos : (0 : Int) < 2 * g := by omega
  have hone : 1 ≤ (l - i) / (2 * g) := (Int.le_ediv_iff_mul_le hpos).mpr (by omega)
  have hle : (l - i) / (2 * g) * (2 * g) ≤ l - i := Int.ediv_mul_le _ (Int.ne_of_gt hpos)
  generalize (l - i) / (2 * g) = q at hone hle
  have hgq : (g : Int) ≤ g * q := le_mul_of_one_le_right (by omega) hone
  have hle' : 2 * (g * q) ≤ l - i := by linarith
  omega

/-! Frames, loops and registers as a split changes them. -/

section
variable (f : Fibre)

theorem Fibre.modFrame_get (n m : Nat) (u : Frame → Frame) :
    (f.modFrame n u).frames.reverse[m]? = if m = n then f.frames.reverse[m]?.map u else f.frames.reverse[m]? := by
  have hfr : (f.modFrame n u).frames.reverse =
      ((List.range f.frames.reverse.length).zip f.frames.reverse).map fun p => if p.1 = n then u p.2 else p.2 :=
    List.reverse_reverse _
  rw [hfr, List.getElem?_map, List.zip, List.getElem?_zipWith]
  by_cases hm : m < f.frames.reverse.length
  · rw [List.getElem?_range hm, List.getElem?_eq_getElem hm]
    dsimp only [Option.map_some]
    split <;> rfl
  · rw [List.getElem?_eq_none (l := f.frames.reverse) (Nat.le_of_not_lt hm)]
    cases (List.range f.frames.reverse.length)[m]? <;> simp

theorem Fibre.setRegNow_eq (r : Reg) (v : Word) :
    ∃ rs ps pd ld, f.setRegNow r v = { f with regs := rs, preds := ps, pend := pd, landed := ld } := f.now_eq (rc r) v

theorem Fibre.setPairNow_reg (r q : Reg) (v : DWord) : (f.setPairNow r v).reg q =
    if q = odd r ∧ q ≠ 0 then v.extractLsb' 32 32 else if q = r ∧ q ≠ 0 then v.setWidth 32 else f.reg q :=
  (Fibre.now_reg (f.setRegNow r (v.setWidth 32)) (odd r) q _).trans (by rw [Fibre.now_reg])

theorem Fibre.setAcc_eq (r : Range) (v : DWord) :
    ∃ rs ps pd ld, f.setAcc r v = { f with regs := rs, preds := ps, pend := pd, landed := ld } := by
  unfold Fibre.setAcc
  split
  · exact ⟨f.regs, f.preds, f.pend, f.landed, rfl⟩
  · split
    · exact f.setPairNow_eq _ _
    · exact f.setRegNow_eq _ _

theorem Fibre.setAcc_reg (r : Range) (v : DWord) (q : Reg) : (f.setAcc r v).reg q =
    if q = 0 then 0
    else if r.op ≠ .none ∧ r.ty = .i64 ∧ q = odd r.acc then v.extractLsb' 32 32
    else if r.op ≠ .none ∧ q = r.acc then v.setWidth 32 else f.reg q := by
  by_cases hq : q = 0
  · rw [if_pos hq, hq]
    rfl
  · unfold Fibre.setAcc
    rw [if_neg hq]
    by_cases hop : r.op = .none
    · simp [hop]
    · by_cases hty : r.ty = .i64
      · rw [if_neg hop, if_pos hty, Fibre.setPairNow_reg]
        simp only [ne_eq, hop, hty, hq, not_false_eq_true, and_true, true_and]
      · rw [if_neg hop, if_neg hty, Fibre.now_reg]
        simp only [ne_eq, hop, hty, hq, not_false_eq_true, and_true, true_and, false_and, if_false]

end

/-! A promoted frame (R108, R110). -/

section
variable {s : State} {f : Fibre}

/-- The window that holds the arguments of a call (R111). -/
theorem argWindow_get (args : List Word) (n : Reg) :
    (argWindow args)[n.toNat]'n.isLt = if n = 0 then 0 else args.getD (n.toNat - 1) 0 := by
  have hfold (m k : Nat) (hk : k < 64) :
      ((List.range m).foldl (fun (w : Vector Word 64) j => w.setIfInBounds (j + 1) (args.getD j 0)) zeros)[k]'hk =
        if 1 ≤ k ∧ k ≤ m then args.getD (k - 1) 0 else 0 := by
    induction m with
    | zero => simp [zeros]; omega
    | succ m ih =>
      rw [List.range_succ, List.foldl_append, List.foldl_cons, List.foldl_nil, Vector.getElem_setIfInBounds, ih]
      by_cases hkm : m + 1 = k
      · rw [if_pos hkm, if_pos (by omega), ← hkm, Nat.add_sub_cancel]
      · rw [if_neg hkm]
        congr 1
        exact propext (by omega)
  unfold argWindow
  rw [hfold]
  by_cases hn : n = 0
  · simp [hn]
  · have hpos : 1 ≤ n.toNat := Nat.one_le_iff_ne_zero.mpr fun h => hn (BitVec.eq_of_toNat_eq h)
    rw [if_neg hn]
    by_cases hlen : n.toNat ≤ args.length
    · rw [if_pos ⟨hpos, hlen⟩]
    · rw [if_neg fun h => hlen h.2, List.getD_eq_default _ _ (by omega)]

/-- A queued child stands last, and its parent's changes leave it as it is. -/
theorem State.queue_modF {c : Fibre} (u : Fibre → Fibre) (hf : s.fib? f.uid = some f) (hc : c.uid ≠ f.uid)
    (hu : ∀ x, (u x).uid = x.uid) : ((s.queue c).modF f.uid u).fib? f.uid = some (u f) ∧
      ((s.queue c).modF f.uid u).fibres.getLast? = some c := by
  have hq : (s.queue c).fib? f.uid = some f := by
    change (s.fibres ++ [c]).find? _ = _
    rw [List.find?_append]
    change Option.or (s.fib? f.uid) _ = _
    rw [hf, Option.some_or]
  refine ⟨by rw [State.modF_fib _ _ _ _ hu, hq, Option.map_some, if_pos rfl], ?_⟩
  change ((s.fibres ++ [c]).map fun x => if x.uid = f.uid then u x else x).getLast? = _
  rw [List.map_append, List.map_singleton, List.getLast?_concat, if_neg hc]

theorem Fibre.tickAct_promote {rest : List Frame} {target : Nat} {args : List Word} (hroot : f.root = none)
    (hfr : f.frames = rest ++ [.call target args none]) : f.tickAct = .promote 0 target args := by
  unfold Fibre.tickAct
  rw [hroot, hfr, List.reverse_append]
  rfl

theorem Fibre.modFrame_last {rest : List Frame} {x : Frame} (u : Frame → Frame) (hfr : f.frames = rest ++ [x]) :
    (f.modFrame 0 u).frames = rest ++ [u x] := by
  refine List.reverse_injective (List.ext_getElem? fun m => ?_)
  rw [Fibre.modFrame_get, hfr, List.reverse_append, List.reverse_append]
  cases m <;> rfl

end

/-! A split (R68, R109). -/

section
variable {s : State} {f : Fibre} {r : Range} {mid i l : Int} {u : (Range → Range) → Fibre → Fibre} {n : Nat}

/-- The range that a split leaves the parent. -/
def Range.kept (n : Nat) (r : Range) : Range := { r with armed := false, due := false, kids := n :: r.kids }

/-- The loops of a range's child (R56, R109; log 87). -/
def Fibre.splitLoops (f : Fibre) (r : Range) (rest : Int) (c : Fibre) : Fibre :=
  if r.formL then
    ([0, 1, 2].foldl (fun (c : Fibre) n => c.setLoop n { c.loop n with count := 0 }) c).setLoop r.loopN
      { f.loop r.loopN with count := .ofInt 32 rest, order := 0 }
  else { c with lc0 := f.lc0, lc1 := f.lc1, lc2 := f.lc2, loopSeq := f.loopSeq }

/-- The child of a split: it has the range from the middle on, at the same place (R109). -/
def State.splitChild (s : State) (f : Fibre) (r : Range) (mid rest : Int) : Fibre :=
  (f.splitLoops r rest (({ s.child f .range f.pc f.flush.regs with
    root := some { r with kids := [], armed := false, due := false } } : Fibre).setRegNow r.idx (.ofInt 32 mid))).setAcc r
      (redIdentity r.ty r.op)

/-- The parent after a split: its range ends at the middle (R109). -/
def Fibre.splitParent (f : Fibre) (r : Range) (u : (Range → Range) → Fibre → Fibre) (kid : Nat) (mid i : Int) (g : Fibre) : Fibre :=
  let g := u (Range.kept kid) g
  if r.formL then g.setLoop r.loopN { f.loop r.loopN with count := .ofInt 32 (mid - i) } else g.setRegNow r.lim (.ofInt 32 mid)

theorem Fibre.splitLoops_eq (f : Fibre) (r : Range) (rest : Int) (c : Fibre) :
    ∃ x y z q, f.splitLoops r rest c = { c with lc0 := x, lc1 := y, lc2 := z, loopSeq := q } := by
  unfold Fibre.splitLoops
  split
  · have hzero : ([0, 1, 2].foldl (fun (c : Fibre) n => c.setLoop n { c.loop n with count := 0 }) c) =
        { c with lc0 := { c.lc0 with count := 0 }, lc1 := { c.lc1 with count := 0 }, lc2 := { c.lc2 with count := 0 } } := rfl
    rw [hzero]
    generalize ({ c.lc0 with count := 0 } : Loop) = x, ({ c.lc1 with count := 0 } : Loop) = y,
      ({ c.lc2 with count := 0 } : Loop) = z
    obtain ⟨x', y', z', h⟩ := ({ c with lc0 := x, lc1 := y, lc2 := z } : Fibre).setLoop_eq r.loopN
      { f.loop r.loopN with count := .ofInt 32 rest, order := 0 }
    rw [h]
    exact ⟨x', y', z', c.loopSeq, rfl⟩
  · exact ⟨_, _, _, _, rfl⟩

/-- All of the child that neither a register nor a loop is. -/
theorem State.splitChild_eq (s : State) (f : Fibre) (r : Range) (mid rest : Int) : ∃ rs ps pd ld x y z q,
    s.splitChild f r mid rest = { s.child f .range f.pc f.flush.regs with
      root := some { r with kids := [], armed := false, due := false }
      regs := rs, preds := ps, pend := pd, landed := ld, lc0 := x, lc1 := y, lc2 := z, loopSeq := q } := by
  unfold State.splitChild
  generalize hc : ({ s.child f .range f.pc f.flush.regs with
    root := some { r with kids := [], armed := false, due := false } } : Fibre) = c
  obtain ⟨_, _, _, _, h1⟩ := c.setRegNow_eq r.idx (.ofInt 32 mid)
  obtain ⟨_, _, _, _, h2⟩ := f.splitLoops_eq r rest (c.setRegNow r.idx (.ofInt 32 mid))
  obtain ⟨_, _, _, _, h3⟩ := (f.splitLoops r rest (c.setRegNow r.idx (.ofInt 32 mid))).setAcc_eq r (redIdentity r.ty r.op)
  rw [h3, h2, h1, ← hc]
  exact ⟨_, _, _, _, _, _, _, _, rfl⟩

theorem State.splitRange_eq (hq : f.qualifies r = true) (hi : i = (f.flush.reg r.idx).toInt)
    (hl : l = if r.formL = true then i + (f.loop r.loopN).count.toNat else (f.flush.reg r.lim).toInt)
    (hmid : splitMid i l r.grain = some mid) : s.splitRange f r u =
      (s.queue (s.splitChild f r mid (l - mid))).modF f.uid (f.splitParent r u s.nextId mid i) := by
  have huid : (s.splitChild f r mid (l - mid)).uid = s.nextId := by
    obtain ⟨_, _, _, _, _, _, _, _, h⟩ := s.splitChild_eq f r mid (l - mid)
    rw [h]
    rfl
  have hsplit : s.splitRange f r u =
      if !f.qualifies r then s.modF f.uid (u fun r => { r with armed := false, due := false })
      else match splitMid (f.flush.reg r.idx).toInt (if r.formL = true then (f.flush.reg r.idx).toInt + (f.loop r.loopN).count.toNat
          else (f.flush.reg r.lim).toInt) r.grain with
        | none => s.modF f.uid (u fun r => { r with armed := false, due := false })
        | some mid => (s.queue (s.splitChild f r mid ((if r.formL = true then (f.flush.reg r.idx).toInt +
            (f.loop r.loopN).count.toNat else (f.flush.reg r.lim).toInt) - mid))).modF f.uid
              (f.splitParent r u (s.splitChild f r mid ((if r.formL = true then (f.flush.reg r.idx).toInt +
                (f.loop r.loopN).count.toNat else (f.flush.reg r.lim).toInt) - mid)).uid mid (f.flush.reg r.idx).toInt) := rfl
  rw [hsplit, ← hi, ← hl, hmid, hq, if_neg (by simp)]
  exact congrArg (fun k => (s.queue (s.splitChild f r mid (l - mid))).modF f.uid (f.splitParent r u k mid i)) huid

/-! The child's registers, predicates and loops. -/

theorem State.splitChild_reg (s : State) (f : Fibre) (r : Range) (mid rest : Int) (n : Reg) :
    (s.splitChild f r mid rest).reg n =
      if n = 0 then 0
      else if r.op ≠ .none ∧ r.ty = .i64 ∧ n = odd r.acc then (redIdentity r.ty r.op).extractLsb' 32 32
      else if r.op ≠ .none ∧ n = r.acc then (redIdentity r.ty r.op).setWidth 32
      else if n = r.idx then .ofInt 32 mid
      else f.flush.reg n := by
  unfold State.splitChild
  rw [Fibre.setAcc_reg]
  generalize hc : ({ s.child f .range f.pc f.flush.regs with
    root := some { r with kids := [], armed := false, due := false } } : Fibre) = c
  have hloops : (f.splitLoops r rest (c.setRegNow r.idx (.ofInt 32 mid))).reg n = (c.setRegNow r.idx (.ofInt 32 mid)).reg n := by
    obtain ⟨_, _, _, _, h⟩ := f.splitLoops_eq r rest (c.setRegNow r.idx (.ofInt 32 mid))
    rw [h]
    rfl
  have hreg : c.reg n = f.flush.reg n := by
    rw [← hc]
    rfl
  rw [hloops, Fibre.now_reg, hreg]
  by_cases hn : n = 0
  · rw [if_pos hn, if_pos hn]
  · simp only [hn, ne_eq, not_false_eq_true, and_true]

theorem Fibre.setAcc_pred (f : Fibre) (r : Range) (v : DWord) (p : Pred) : (f.setAcc r v).pred p = f.pred p := by
  unfold Fibre.setAcc
  split
  · rfl
  · split
    · exact f.setPairNow_pred _ _ _
    · have hne : rc r.acc ≠ pc8 p := by
        have hc : rc r.acc < 64 := rc_lt r.acc
        unfold pc8
        omega
      exact Fibre.put_pred_of_ne f hne _

theorem State.splitChild_pred (s : State) (f : Fibre) (r : Range) (mid rest : Int) (p : Pred) :
    (s.splitChild f r mid rest).pred p = f.flush.pred p := by
  unfold State.splitChild
  rw [Fibre.setAcc_pred]
  generalize hc : ({ s.child f .range f.pc f.flush.regs with
    root := some { r with kids := [], armed := false, due := false } } : Fibre) = c
  have hne : rc r.idx ≠ pc8 p := by
    have hr : rc r.idx < 64 := rc_lt r.idx
    unfold pc8
    omega
  have hidx : (c.setRegNow r.idx (.ofInt 32 mid)).pred p = c.pred p := Fibre.put_pred_of_ne c hne _
  obtain ⟨_, _, _, _, h⟩ := f.splitLoops_eq r rest (c.setRegNow r.idx (.ofInt 32 mid))
  rw [h]
  refine Eq.trans hidx ?_
  rw [← hc]
  rfl

/-- Nothing is pending in a child. -/
theorem Fibre.now_pend {c : Fibre} (hp : c.pend = []) (code : Nat) (v : Word) : (c.now code v).pend = [] := by
  change (c.pend.map _) = []
  rw [hp]
  rfl

theorem State.splitChild_pend (s : State) (f : Fibre) (r : Range) (mid rest : Int) : (s.splitChild f r mid rest).pend = [] := by
  unfold State.splitChild
  generalize hc : ({ s.child f .range f.pc f.flush.regs with
    root := some { r with kids := [], armed := false, due := false } } : Fibre) = c
  have hcp : c.pend = [] := by
    rw [← hc]
    rfl
  have hl : (f.splitLoops r rest (c.setRegNow r.idx (.ofInt 32 mid))).pend = [] := by
    obtain ⟨_, _, _, _, h⟩ := f.splitLoops_eq r rest (c.setRegNow r.idx (.ofInt 32 mid))
    rw [h]
    exact Fibre.now_pend hcp (rc r.idx) (.ofInt 32 mid)
  unfold Fibre.setAcc
  split
  · exact hl
  · split
    · exact Fibre.now_pend (Fibre.now_pend hl (rc r.acc) _) (rc (odd r.acc)) _
    · exact Fibre.now_pend hl (rc r.acc) _

theorem State.splitChild_loop (s : State) (f : Fibre) (mid rest : Int) (hn : r.loopN < 3) {k : Nat} (hk : k < 3) :
    (s.splitChild f r mid rest).loop k =
      if r.formL = false then f.loop k
      else if k = r.loopN then { f.loop k with count := .ofInt 32 rest, order := 0 }
      else { f.loop k with active := false, count := 0 } := by
  unfold State.splitChild
  generalize hc : ({ s.child f .range f.pc f.flush.regs with
    root := some { r with kids := [], armed := false, due := false } } : Fibre) = c
  have hacc (g : Fibre) (v : DWord) : (g.setAcc r v).loop k = g.loop k := by
    obtain ⟨_, _, _, _, h⟩ := g.setAcc_eq r v
    rw [h]
    obtain rfl | rfl | rfl : k = 0 ∨ k = 1 ∨ k = 2 := by omega
    all_goals rfl
  have hidx : (c.setRegNow r.idx (.ofInt 32 mid)).loop k = { f.loop k with active := false } := by
    obtain ⟨_, _, _, _, h⟩ := c.setRegNow_eq r.idx (.ofInt 32 mid)
    rw [h, ← hc]
    obtain rfl | rfl | rfl : k = 0 ∨ k = 1 ∨ k = 2 := by omega
    all_goals rfl
  rw [hacc]
  generalize c.setRegNow r.idx (.ofInt 32 mid) = g at hidx
  unfold Fibre.splitLoops
  cases hform : r.formL with
  | false =>
    rw [if_neg Bool.false_ne_true, if_pos rfl]
    obtain rfl | rfl | rfl : k = 0 ∨ k = 1 ∨ k = 2 := by omega
    all_goals rfl
  | true =>
    rw [if_pos rfl, if_neg (by simp), Fibre.setLoop_loop _ _ hn hk]
    by_cases hkn : k = r.loopN
    · rw [if_pos hkn, if_pos hkn, hkn]
    · rw [if_neg hkn, if_neg hkn]
      have hzero : ([0, 1, 2].foldl (fun (c : Fibre) n => c.setLoop n { c.loop n with count := 0 }) g).loop k =
          { g.loop k with count := 0 } := by
        obtain rfl | rfl | rfl : k = 0 ∨ k = 1 ∨ k = 2 := by omega
        all_goals rfl
      rw [hzero, hidx]

/-! The parent. -/

/-- The root and a frame are told apart, and frames by their places. -/
theorem onRoot_ne_onFrame (f : Fibre) (r : Range) (n : Nat) : onRoot ≠ onFrame n := by
  intro h
  have hroot := congrArg (fun v => (v (fun r => { r with armed := !r.armed }) { f with root := some r }).root) h
  have hr : some { r with armed := !r.armed } = some r := hroot
  have harm := congrArg Range.armed (Option.some.inj hr)
  revert harm
  cases r.armed <;> simp

theorem onFrame_inj (f : Fibre) (r : Range) {n m : Nat} (h : onFrame n = onFrame m) : n = m := by
  by_contra hne
  have hget := congrArg (fun v => (v (fun r => { r with armed := !r.armed })
    { f with frames := List.replicate (n + 1) (.range r) }).frames.reverse[n]?) h
  simp only [onFrame, Fibre.modFrame_get, List.reverse_replicate] at hget
  rw [if_pos trivial, if_neg hne, List.getElem?_replicate, if_pos (Nat.lt_succ_self n)] at hget
  have hflip : (!r.armed) = r.armed := congrArg Range.armed (Frame.range.inj (Option.some.inj hget))
  exact absurd hflip (Bool.not_ne_self r.armed)

/-- The parent's range is the one that the split keeps, and no other frame changes. -/
theorem Fibre.splitParent_ranges {kid : Nat}
    (hu : (u = onRoot ∧ f.root = some r) ∨ ∃ n, u = onFrame n ∧ f.frames.reverse[n]? = some (.range r)) :
    (u = onRoot → (f.splitParent r u kid mid i f).root = some (r.kept kid) ∧ (f.splitParent r u kid mid i f).frames = f.frames) ∧
    (∀ n, u = onFrame n → (f.splitParent r u kid mid i f).root = f.root ∧
      (f.splitParent r u kid mid i f).frames.reverse[n]? = some (.range (r.kept kid)) ∧
      ∀ m, m ≠ n → (f.splitParent r u kid mid i f).frames.reverse[m]? = f.frames.reverse[m]?) := by
  have hkeep : (f.splitParent r u kid mid i f).root = (u (Range.kept kid) f).root ∧
      (f.splitParent r u kid mid i f).frames = (u (Range.kept kid) f).frames := by
    unfold Fibre.splitParent
    dsimp only
    split
    · obtain ⟨_, _, _, h⟩ := (u (Range.kept kid) f).setLoop_eq r.loopN { f.loop r.loopN with count := .ofInt 32 (mid - i) }
      rw [h]
      exact ⟨rfl, rfl⟩
    · obtain ⟨_, _, _, _, h⟩ := (u (Range.kept kid) f).setRegNow_eq r.lim (.ofInt 32 mid)
      rw [h]
      exact ⟨rfl, rfl⟩
  rw [hkeep.1, hkeep.2]
  rcases hu with ⟨rfl, hroot⟩ | ⟨n, rfl, hfr⟩
  · refine ⟨fun _ => ⟨?_, rfl⟩, fun n hn => absurd hn (onRoot_ne_onFrame f r n)⟩
    change f.root.map _ = _
    rw [hroot]
    rfl
  · refine ⟨fun h => absurd h.symm (onRoot_ne_onFrame f r n), fun m hm => ?_⟩
    obtain rfl := onFrame_inj f r hm
    refine ⟨rfl, ?_, fun m hm => ?_⟩
    · rw [onFrame, Fibre.modFrame_get, if_pos rfl, hfr]
      rfl
    · rw [onFrame, Fibre.modFrame_get, if_neg hm]

/-- Changing a range leaves the fibre's place, registers and loops. -/
theorem onRange_eq (v : Range → Range)
    (hu : (u = onRoot ∧ f.root = some r) ∨ ∃ n, u = onFrame n ∧ f.frames.reverse[n]? = some (.range r)) :
    ∃ rt fr, u v f = { f with root := rt, frames := fr } := by
  rcases hu with ⟨rfl, -⟩ | ⟨n, rfl, -⟩
  · exact ⟨_, _, rfl⟩
  · exact ⟨_, _, rfl⟩

theorem Fibre.loop_congr {g : Fibre} (h0 : g.lc0 = f.lc0) (h1 : g.lc1 = f.lc1) (h2 : g.lc2 = f.lc2) (k : Nat) :
    g.loop k = f.loop k := by
  match k with
  | 0 => exact h0
  | 1 => exact h1
  | _ + 2 => exact h2

/-- What the split leaves of the parent, by the form of the range. -/
theorem Fibre.splitParent_formL {kid : Nat} (hform : r.formL = true)
    (hu : (u = onRoot ∧ f.root = some r) ∨ ∃ n, u = onFrame n ∧ f.frames.reverse[n]? = some (.range r)) :
    ∃ rt fr, f.splitParent r u kid mid i f =
      ({ f with root := rt, frames := fr }).setLoop r.loopN { f.loop r.loopN with count := .ofInt 32 (mid - i) } := by
  obtain ⟨rt, fr, h⟩ := onRange_eq (f := f) (r := r) (Range.kept kid) hu
  refine ⟨rt, fr, ?_⟩
  unfold Fibre.splitParent
  rw [if_pos hform, h]

theorem Fibre.splitParent_formR {kid : Nat} (hform : r.formL = false)
    (hu : (u = onRoot ∧ f.root = some r) ∨ ∃ n, u = onFrame n ∧ f.frames.reverse[n]? = some (.range r)) :
    ∃ rt fr, f.splitParent r u kid mid i f = ({ f with root := rt, frames := fr }).setRegNow r.lim (.ofInt 32 mid) := by
  obtain ⟨rt, fr, h⟩ := onRange_eq (f := f) (r := r) (Range.kept kid) hu
  refine ⟨rt, fr, ?_⟩
  unfold Fibre.splitParent
  rw [if_neg (by simp [hform]), h]

theorem Fibre.splitParent_place {kid : Nat}
    (hu : (u = onRoot ∧ f.root = some r) ∨ ∃ n, u = onFrame n ∧ f.frames.reverse[n]? = some (.range r)) :
    (f.splitParent r u kid mid i f).pc = f.pc := by
  obtain ⟨rt, fr, h⟩ := onRange_eq (f := f) (r := r) (Range.kept kid) hu
  unfold Fibre.splitParent
  rw [h]
  dsimp only
  split
  · obtain ⟨_, _, _, h'⟩ := Fibre.setLoop_eq { f with root := rt, frames := fr } r.loopN
      { f.loop r.loopN with count := .ofInt 32 (mid - i) }
    rw [h']
  · obtain ⟨_, _, _, _, h'⟩ := Fibre.setRegNow_eq (f := { f with root := rt, frames := fr }) r.lim (.ofInt 32 mid)
    rw [h']

theorem onRange_uid (v : Range → Range) (n : Nat) (g : Fibre) : (onRoot v g).uid = g.uid ∧ (onFrame n v g).uid = g.uid :=
  ⟨rfl, rfl⟩

theorem Fibre.splitParent_uid {kid : Nat} (hu : u = onRoot ∨ ∃ n, u = onFrame n) (g : Fibre) :
    (f.splitParent r u kid mid i g).uid = g.uid := by
  have hg : (u (Range.kept kid) g).uid = g.uid := by
    rcases hu with rfl | ⟨n, rfl⟩
    · exact (onRange_uid _ 0 g).1
    · exact (onRange_uid _ n g).2
  unfold Fibre.splitParent
  dsimp only
  split
  · obtain ⟨_, _, _, h'⟩ := (u (Range.kept kid) g).setLoop_eq r.loopN { f.loop r.loopN with count := .ofInt 32 (mid - i) }
    rw [h']
    exact hg
  · obtain ⟨_, _, _, _, h'⟩ := (u (Range.kept kid) g).setRegNow_eq r.lim (.ofInt 32 mid)
    rw [h']
    exact hg

end

/-- Settles O48. -/
theorem ticksAndSplits : Obligations.TicksAndSplits := by
  refine ⟨fun i l g hg => ⟨splitMid_none, splitMid_some hg⟩, fun s f target args rest hf hne hroot hfr hland hlen => ?_,
    fun s f r mid u hf hne hn hq hu => ?_⟩
  · intro u
    let f' : Fibre := { f with tickDue := false }
    let s' : State := s.modF f.uid fun g => { g with tickDue := false }
    have hf' : s'.fib? f'.uid = some f' := by
      have hmod := State.modF_fib s f.uid (fun g => { g with tickDue := false }) f.uid fun _ => rfl
      rw [hf, Option.map_some, if_pos rfl] at hmod
      exact hmod
    have hland' : (f.ranges.any fun r => s.rangeLanding f r) = false := by
      rw [List.any_eq_false]
      intro r hr
      rw [hland r hr]
      exact Bool.false_ne_true
    have hu : u = (s'.queue (s'.child f' .call target (argWindow args))).modF f'.uid fun g =>
        g.modFrame 0 (Frame.promoted s'.nextId) := by
      have hact : f'.tickAct = .promote 0 target args := Fibre.tickAct_promote hroot hfr
      unfold u State.deliverTick
      rw [hland', if_neg Bool.false_ne_true]
      unfold State.tick
      rw [hact]
    obtain ⟨hg, hc⟩ := State.queue_modF (c := s'.child f' .call target (argWindow args))
      (fun g => g.modFrame 0 (Frame.promoted s'.nextId)) hf' (fun h => hne h.symm) fun _ => rfl
    rw [← hu] at hg hc
    refine ⟨_, _, hg, hc, Fibre.modFrame_last (f := f') _ hfr, rfl, rfl, rfl, rfl, rfl, rfl, rfl, rfl, rfl, rfl, rfl, ?_, ?_, ?_⟩
    · rw [hu]
      rfl
    · intro k hk
      obtain rfl | rfl | rfl : k = 0 ∨ k = 1 ∨ k = 2 := by omega
      all_goals rfl
    · intro n
      have hreg : (s'.child f' .call target (argWindow args)).reg n = if n = 0 then 0 else (argWindow args)[n.toNat]'n.isLt := rfl
      rw [hreg, argWindow_get]
      split <;> rfl
  · intro i l hmid v kept
    have hv : v = (s.queue (s.splitChild f r mid (l - mid))).modF f.uid (f.splitParent r u s.nextId mid i) :=
      State.splitRange_eq hq rfl rfl hmid
    obtain ⟨_, _, _, _, _, _, _, _, hchild⟩ := s.splitChild_eq f r mid (l - mid)
    have hcuid : (s.splitChild f r mid (l - mid)).uid = s.nextId := by rw [hchild]; rfl
    have hforms : u = onRoot ∨ ∃ n, u = onFrame n := hu.imp And.left fun ⟨n, h, _⟩ => ⟨n, h⟩
    obtain ⟨hg, hc⟩ := State.queue_modF (c := s.splitChild f r mid (l - mid)) (f.splitParent r u s.nextId mid i) hf
      (fun h => hne (h.symm.trans hcuid)) fun x => Fibre.splitParent_uid hforms x
    obtain ⟨hkroot, hkframe⟩ := Fibre.splitParent_ranges (mid := mid) (i := i) (kid := s.nextId) hu
    rw [hv]
    refine ⟨_, _, hg, hc, rfl, Fibre.splitParent_place hu, hkroot, hkframe, fun hform => ?_, fun hform => ?_, ?_⟩
    · obtain ⟨rt, fr, hp⟩ := Fibre.splitParent_formL (mid := mid) (i := i) (kid := s.nextId) hform hu
      rw [hp]
      refine ⟨?_, ?_, ?_, fun k hk hkn => ?_⟩
      · obtain ⟨_, _, _, h⟩ := Fibre.setLoop_eq { f with root := rt, frames := fr } r.loopN
          { f.loop r.loopN with count := .ofInt 32 (mid - i) }
        rw [h]
      · obtain ⟨_, _, _, h⟩ := Fibre.setLoop_eq { f with root := rt, frames := fr } r.loopN
          { f.loop r.loopN with count := .ofInt 32 (mid - i) }
        rw [h]
      · rw [Fibre.setLoop_loop _ _ hn hn, if_pos rfl]
      · rw [Fibre.setLoop_loop _ _ hn hk, if_neg hkn]
        exact Fibre.loop_congr rfl rfl rfl k
    · obtain ⟨rt, fr, hp⟩ := Fibre.splitParent_formR (mid := mid) (i := i) (kid := s.nextId) hform hu
      rw [hp]
      refine ⟨fun hlim => ?_, fun k => ?_⟩
      · rw [Fibre.now_reg, if_pos ⟨rfl, hlim⟩]
      · obtain ⟨_, _, _, _, h⟩ := Fibre.setRegNow_eq (f := { f with root := rt, frames := fr }) r.lim (.ofInt 32 mid)
        rw [h]
        exact Fibre.loop_congr rfl rfl rfl k
    · exact ⟨hcuid, congrArg Fibre.status hchild, congrArg Fibre.origin hchild, (congrArg Fibre.pc hchild).trans rfl,
        congrArg Fibre.frames hchild, congrArg Fibre.root hchild, s.splitChild_pend f r mid _, (congrArg Fibre.prio hchild).trans rfl,
        (congrArg Fibre.mode hchild).trans rfl, fun p => s.splitChild_pred f r mid _ p, fun q => s.splitChild_reg f r mid _ q,
        fun k hk => s.splitChild_loop f mid _ hn hk⟩

end Sys2Proof.Machine

/-! The steps of copies, walks, fault records, translation invalidation and the detector (O49). -/

namespace Sys2Proof.Machine

/-! A place of the core itself: no line, no host copy and no other device stands in the way (R136). -/

/-- A scratchpad or typed-buffer location. -/
def Loc.Near (l : Loc) : Prop := (∃ j, l = .sp j) ∨ ∃ j, l = .cb j

section
variable {s r : State} {c : Copy} {l : Loc}

theorem Loc.Near.add (h : l.Near) (n : Nat) : (l.add n).Near := by
  rcases h with ⟨j, rfl⟩ | ⟨j, rfl⟩
  · exact .inl ⟨j + n, rfl⟩
  · exact .inr ⟨j + n, rfl⟩

theorem Loc.Near.sectors (h : l.Near) (n : Nat) : l.sectors n = [] := by
  rcases h with ⟨_, rfl⟩ | ⟨_, rfl⟩ <;> rfl

theorem Loc.Near.isPeer (h : l.Near) : l.isPeer = false := by
  rcases h with ⟨_, rfl⟩ | ⟨_, rfl⟩ <;> rfl

theorem Loc.Near.unreachable (h : l.Near) (s : State) : s.unreachable l = false := by
  rcases h with ⟨_, rfl⟩ | ⟨_, rfl⟩ <;> rfl

theorem Loc.Near.meetLocs (h : l.Near) (s : State) (n : Nat) (writes : Bool) : meetLocs s writes [(l, n)] = (s, true) := by
  have hmeet : s.meet l n 0 writes = (s, .go) := by rcases h with ⟨_, rfl⟩ | ⟨_, rfl⟩ <;> rfl
  have hhost : s.hostInWay l n writes = [] := by rcases h with ⟨_, rfl⟩ | ⟨_, rfl⟩ <;> rfl
  have hpin : s.pinned l n = false := by
    have hs : s.signSectors l n = [] := by rcases h with ⟨_, rfl⟩ | ⟨_, rfl⟩ <;> rfl
    simp [State.pinned, h.sectors, hs]
  have hserve : s.mayServe l n writes = true := by
    have hheld : s.hostHeld l writes = true := by rcases h with ⟨_, rfl⟩ | ⟨_, rfl⟩ <;> rfl
    simp [State.mayServe, hheld, hpin]
  unfold Machine.meetLocs
  rw [hmeet]
  simp only [hhost, hserve, List.isEmpty_nil, Bool.not_true, Bool.false_eq_true, if_false]
  rfl

theorem Loc.Near.readLocs (h : l.Near) (s : State) (agent n : Nat) : readLocs s agent [(l, n)] = (s, some (s.bytes l n)) := by
  have hcheck : checkRead (s.peekAll l n) l n agent = (s, []) := by
    have hpeek : s.peekAll l n = s := by simp [State.peekAll, h.sectors]
    rw [hpeek]
    rcases h with ⟨_, rfl⟩ | ⟨_, rfl⟩ <;> rfl
  simp [Machine.readLocs, h.isPeer, hcheck]

theorem Loc.Near.writeLocs (h : l.Near) (s : State) (n : Nat) (bs : List Byte) :
    writeLocs s [(l, n)] bs = (s.setBytes l (bs.take n)).chooseRun l n := by
  have hhome : s.homeWrite l (bs.take n) = s.setBytes l (bs.take n) := by
    unfold State.homeWrite
    rw [h.sectors]
    rcases h with ⟨_, rfl⟩ | ⟨_, rfl⟩ <;> rfl
  simp [Machine.writeLocs, hhome]

theorem Loc.Near.copyLocs (h : l.Near) {e : CopyEnd} (he : e = .here l) (s : State) (c : Copy) (k : AccKind) (o n : Nat)
    (go : State → List (Loc × Nat) → State) : copyLocs s c e k o n go = go s [(l.add o, n)] := by
  subst he
  simp [Machine.copyLocs, CopyEnd.locs, (h.add o).unreachable, (h.add o).meetLocs]

/-- A piece is registered as its first word is handled, and goes on (R227; log 84). -/
theorem Loc.Near.copyRegister (h : l.Near) {e : CopyEnd} (he : e = .here l) (k : AccKind) (owner o n : Nat) (go : State → State)
    (hr : if c.pieceStart o = true then s.register (pieceAcc c (k == .write) owner (l.add o) n) = .ok r else r = s) :
    copyRegister s c e k owner o n go = go r := by
  unfold Machine.copyRegister
  by_cases hp : c.pieceStart o = true
  · rw [if_pos hp] at hr
    simp [hp, h.copyLocs he, registerLocs, (h.add o).isPeer, hr]
  · rw [if_neg hp] at hr
    simp [hp, hr]

/-- Registering a piece leaves the core's own bytes. -/
theorem Loc.Near.bytes_registered (h : l.Near) {p : Bool} {a : NewAcc}
    (hr : if p = true then s.register a = .ok r else r = s) (n : Nat) : r.bytes l n = s.bytes l n := by
  have hm : r.spMem = s.spMem ∧ r.tbMem = s.tbMem := by
    by_cases hp : p = true
    · rw [if_pos hp] at hr
      obtain ⟨_, _, _, rfl⟩ := State.register_ok hr
      exact ⟨rfl, rfl⟩
    · rw [if_neg hp] at hr
      rw [hr]
      exact ⟨rfl, rfl⟩
  rcases h with ⟨j, rfl⟩ | ⟨j, rfl⟩
  · simp only [State.bytes, hm.1]
  · simp only [State.bytes, hm.2]

/-! The steps of a copy (R137, R138). -/

theorem exec_copyPieceLand (hc : (s.copies.find? fun x => x.id == c.id) = some c)
    (hq : ∀ x ∈ s.copies, ¬(x.core = c.core ∧ x.queue = c.queue ∧ x.node.isSome = c.node.isSome ∧ x.id < c.id)) :
    exec (.copyPieceLand c.id) s = .next (landPiece s c) := by
  have hany : (s.copies.any fun d => d.core == c.core && d.queue == c.queue && d.node.isSome == c.node.isSome &&
      decide (d.id < c.id)) = false := by
    rw [List.any_eq_false]
    intro x hx
    have h := hq x hx
    simp only [Bool.and_eq_true, beq_iff_eq, decide_eq_true_eq, not_and] at h ⊢
    exact fun ⟨⟨h1, h2⟩, h3⟩ => h h1 h2 h3
  change Host.Outcome.next _ = _
  rw [hc]
  dsimp only
  rw [hany, if_neg Bool.false_ne_true]

theorem landPiece_read (hfail : c.failed = false) (hhold : c.hold = .none) (hlen : c.len ≠ 0)
    (hsent : c.sent < c.pieceEnd c.landed) (hsrc : c.src = .here l) (hl : l.Near)
    (hr : if c.pieceStart c.sent = true
      then s.register (pieceAcc c false c.id (l.add c.sent) (c.pieceEnd c.landed - c.sent)) = .ok r else r = s) :
    let n := min 4 (c.pieceEnd c.landed - c.sent)
    let d : Copy := { c with sent := c.sent + n, buf := c.buf ++ s.bytes (l.add c.sent) n }
    landPiece s c = if d.sent = c.len then (r.setCopy d).copySent d else r.setCopy d := by
  intro n d
  have hb : r.bytes (l.add c.sent) n = s.bytes (l.add c.sent) n := (hl.add _).bytes_registered hr n
  unfold landPiece
  rw [if_neg (by simp [hfail]), if_neg (by simp [hhold]), if_neg hlen, if_pos hsent]
  unfold readWord
  rw [hl.copyRegister hsrc .read c.id c.sent _ _ hr, hl.copyLocs hsrc]
  dsimp only
  rw [(hl.add _).readLocs, hb]

theorem landPiece_land (hfail : c.failed = false) (hhold : c.hold = .none) (hlen : c.len ≠ 0)
    (hsent : c.pieceEnd c.landed ≤ c.sent) (hbar : c.bar = none) (hdst : c.dst = .here l) (hl : l.Near)
    (hr : if c.pieceStart c.landed = true
      then s.register (pieceAcc c true (c.id + 1) (l.add c.landed) (c.pieceEnd c.landed - c.landed)) = .ok r else r = s) :
    let n := min 4 (c.sent - c.landed)
    let d : Copy := { c with landed := c.landed + n, buf := c.buf.drop n }
    let v := ((r.setBytes (l.add c.landed) (c.buf.take n)).chooseRun (l.add c.landed) n).setCopy d
    landPiece s c = if d.landed = c.len then v.endCopy d else v := by
  intro n d v
  have hcount (t : State) (b : Nat) : (if d.landed = c.pieceEnd c.landed then countPiece t d b else (t, true)) = (t, true) := by
    have h : countPiece t d b = (t, true) := by
      unfold countPiece
      rw [show d.bar = none from hbar]
    rw [h, ite_self]
  unfold landPiece
  rw [if_neg (by simp [hfail]), if_neg (by simp [hhold]), if_neg hlen, if_neg (Nat.not_lt.mpr hsent)]
  unfold landWord
  dsimp only
  rw [hl.copyRegister hdst .write (c.id + 1) c.landed _ _ hr, hl.copyLocs hdst]
  change (if (!(if d.landed = c.pieceEnd c.landed then countPiece r d _ else (r, true)).2) = true then _ else _) = _
  rw [hcount, if_neg (by simp), (hl.add _).writeLocs, List.take_take, Nat.min_self]

theorem landPiece_empty (hfail : c.failed = false) (hhold : c.hold = .none) (hlen : c.len = 0) (hbar : c.bar = none) :
    landPiece s c = s.endCopy c := by
  have h : countPiece s c 0 = (s, true) := by
    unfold countPiece
    rw [hbar]
  unfold landPiece
  rw [if_neg (by simp [hfail]), if_neg (by simp [hhold]), if_pos hlen, h]
  rfl

end

/-! Walks (R224). -/

section
variable {s t : State} {quad va : Nat} {asid : BitVec 8} {k : AccKind} {e : TlbEntry}

/-- A permission is never a fault. -/
theorem State.permit_ok (s : State) (k : AccKind) (l : Loc) (e : TlbEntry) :
    s.permit k (.ok l e) = .prot ∨ s.permit k (.ok l e) = .flip ∨ s.permit k (.ok l e) = .ok l e := by
  unfold State.permit
  dsimp only
  split
  · exact .inl rfl
  · split
    · exact .inr (.inl rfl)
    · exact .inr (.inr rfl)

/-- A walk that finds its entry only makes the effects of finding it. -/
theorem exec_tableWalk_ok {l : Loc} (h : s.findEntry none quad asid.toNat va = (t, .ok l e)) :
    exec (.tableWalk quad asid va k) s = .next t := by
  change Host.Outcome.next _ = _
  unfold State.lookup
  rw [h]
  dsimp only
  rcases t.permit_ok k l e with h | h | h <;> rw [h]

theorem State.findEntry_held (h : s.tlbFind quad asid.toNat va = some e) :
    s.findEntry none quad asid.toNat va = (s, .ok (e.loc.add (va - e.base)) e) := by
  unfold State.findEntry
  dsimp only [Option.bind_none]
  rw [h]

theorem State.findEntry_busy (h : s.tlbFind quad asid.toNat va = none)
    (hu : s.uncachedAll 4 (s.walkAddrs asid.toNat va) = (t, false)) : s.findEntry none quad asid.toNat va = (t, .busy) := by
  unfold State.findEntry
  dsimp only [Option.bind_none]
  rw [h]
  dsimp only
  rw [hu]
  rfl

theorem State.findEntry_walk (h : s.tlbFind quad asid.toNat va = none)
    (hu : s.uncachedAll 4 (s.walkAddrs asid.toNat va) = (t, true)) : s.findEntry none quad asid.toNat va =
      (match walk (t.ctxSee asid.toNat) quad asid.toNat va with
        | .ok l e => ((t.ctxSee asid.toNat).tlbFill e, .ok l e)
        | x => (t.ctxSee asid.toNat, x)) := by
  unfold State.findEntry
  dsimp only [Option.bind_none]
  rw [h]
  dsimp only
  rw [hu]
  rfl

end

/-! A fault record that closes (R225). -/

section
variable {s : State}

/-- What a launch that goes on, or completes without its write, leaves as it was. -/
def State.Standing (s t : State) : Prop :=
  t.faults = s.faults ∧ t.fibres = s.fibres ∧ t.mem = s.mem ∧ t.tlb = s.tlb

theorem makeError_standing (s : State) (kind agent die addr : Nat) : s.Standing (makeError s kind agent die addr) := by
  have htlb : (makeError s kind agent die addr).tlb = s.tlb := by
    unfold makeError
    dsimp only
    split
    · rfl
    · split <;> rfl
  have h := makeError_reads (s := s) kind agent die addr
  unfold State.Reads at h
  refine ⟨?_, ?_, ?_, htlb⟩
  all_goals rw [h]

theorem State.completionFailed_standing (s : State) (l : Launch) : s.Standing (s.completionFailed l) :=
  makeError_standing (s.launchOver l) 0x05 10 0 l.doneaddr

/-- A fibre after a record has closed. -/
def Fibre.afterFault (die rec page : Nat) (resolved : Bool) (f : Fibre) : Fibre :=
  if f.wait = .fault die rec then { f with wait := if resolved then .none else .faultFailed page }
  else if f.wait = .faultFull die then { f with wait := .none } else f

theorem Fibre.afterFault_uid (die rec page : Nat) (resolved : Bool) (f : Fibre) :
    (f.afterFault die rec page resolved).uid = f.uid := by
  unfold Fibre.afterFault
  split
  · rfl
  · split <;> rfl

theorem State.closeFault_standing (s : State) (die rec : Nat) (resolved : Bool) :
    let page := ((s.faults.find? fun x => x.die == die && x.index == rec).map fun x => x.va / 4096).getD 0
    (s.closeFault die rec resolved).faults = s.faults.filter (fun x => !(x.die == die && x.index == rec)) ∧
    (s.closeFault die rec resolved).fibres = s.fibres.map (Fibre.afterFault die rec page resolved) ∧
    (s.closeFault die rec resolved).mem = s.mem ∧ (s.closeFault die rec resolved).tlb = s.tlb := by
  intro page
  have hfold (v : State → Launch → State) (hv : ∀ (t : State) l, t.Standing (v t l)) (ls : List Launch) (t : State) :
      t.Standing (ls.foldl v t) := by
    induction ls generalizing t with
    | nil => exact ⟨rfl, rfl, rfl, rfl⟩
    | cons l ls ih =>
      obtain ⟨h1, h2, h3, h4⟩ := hv t l
      obtain ⟨k1, k2, k3, k4⟩ := ih (v t l)
      exact ⟨k1.trans h1, k2.trans h2, k3.trans h3, k4.trans h4⟩
  have hgo (start : State) (freed mine : Hold → Bool) : start.Standing (start.launches.foldl (fun t l => match l.status with
      | .completing h => if mine h && !resolved then t.completionFailed l
        else if freed h then t.setLaunch { l with status := .completing .none } else t
      | .running | .posted _ | .complete => t) start) := by
    refine hfold _ (fun t l => ?_) _ _
    split
    · split
      · exact t.completionFailed_standing l
      · split <;> exact ⟨rfl, rfl, rfl, rfl⟩
    all_goals exact ⟨rfl, rfl, rfl, rfl⟩
  unfold page
  cases hfind : s.faults.find? fun r => r.die == die && r.index == rec with
  | none =>
    unfold State.closeFault
    rw [hfind]
    exact hgo _ _ _
  | some r =>
    unfold State.closeFault
    rw [hfind]
    exact hgo _ _ _

theorem State.closeFault_fib (s : State) (die rec : Nat) (resolved : Bool) {f : Fibre} (hf : s.fib? f.uid = some f) :
    (s.closeFault die rec resolved).fib? f.uid = some (f.afterFault die rec
      (((s.faults.find? fun x => x.die == die && x.index == rec).map fun x => x.va / 4096).getD 0) resolved) := by
  unfold State.fib? at hf ⊢
  rw [(s.closeFault_standing die rec resolved).2.1, find_map_uid _ _ _ (Fibre.afterFault_uid _ _ _ _), hf]
  rfl

end

/-! TLBINV (R224, R258). -/

section
variable (s : State) (w : Word)

/-- The entry is of the invalidation's address space and range. -/
def TlbEntry.Gone (tlbva : Nat) (x : TlbEntry) : Prop :=
  x.asid = w.toNat / 2 ^ 24 ∧ tlbva < x.base + x.size ∧ x.base < tlbva + 4096 * (w.toNat % 2 ^ 24 + 1)

theorem fld_asid : Dec.fld w.toNat 24 8 = w.toNat / 2 ^ 24 := by
  have h := w.isLt
  unfold Dec.fld
  omega

/-- Bit 0 alone is set. -/
theorem or_one_bits (x : Word) (n : Nat) : (x ||| (1#32 <<< 0)).getLsbD n = (n == 0 || x.getLsbD n) := by
  cases n <;> simp [BitVec.getLsbD_one, Bool.or_comm]

/-- Bit 0 alone is cleared. -/
theorem and_not_one_bits (x : Word) (n : Nat) : (x &&& ~~~1#32).getLsbD n = (n != 0 && x.getLsbD n) := by
  by_cases hn : n < 32
  · rw [BitVec.getLsbD_and, BitVec.getLsbD_not, BitVec.getLsbD_one]
    cases n <;> simp [hn, Bool.and_comm]
  · simp [BitVec.getLsbD_of_ge _ _ (Nat.not_lt.mp hn)]

theorem exec_tlbinv : ∃ u, exec (.tlbinv w) s = .next u ∧ u.mem = s.mem ∧
    ((∀ x, x ∈ u.tlb ↔ x ∈ s.tlb ∧ ¬x.Gone w s.bar.tlbva.toNat) ∧
      ∀ n x, (n, x) ∈ u.l1tlb ↔ (n, x) ∈ s.l1tlb ∧ ¬x.Gone w s.bar.tlbva.toNat) ∧
    (u.tlbBusy = [] → ∀ x ∈ u.ctxSeen, x.1 ≠ w.toNat / 2 ^ 24) ∧
    (u.bar.sync.getLsbD 0 = true ↔ u.tlbBusy ≠ []) ∧ (∀ n, 0 < n → u.bar.sync.getLsbD n = s.bar.sync.getLsbD n) := by
  have hstays (x : TlbEntry) : (!(x.asid == Dec.fld w.toNat 24 8 && decide (s.bar.tlbva.toNat < x.base + x.size) &&
      decide (x.base < s.bar.tlbva.toNat + 4096 * (w.toNat % 2 ^ 24 + 1)))) = true ↔ ¬x.Gone w s.bar.tlbva.toNat := by
    rw [fld_asid]
    unfold TlbEntry.Gone
    rw [Bool.not_eq_true', ← Bool.not_eq_true, not_iff_not]
    simp [and_assoc]
  refine ⟨_, rfl, ?_⟩
  dsimp only
  generalize s.tlbBusy ++ s.accsIn _ _ _ ++ s.passesIn _ _ _ ++ s.copiesIn _ _ _ ++ s.remotesIn _ _ _ = busy
  by_cases hb : busy = []
  · subst hb
    rw [if_pos (List.isEmpty_nil : ([] : List Nat).isEmpty = true)]
    refine ⟨rfl, ⟨fun x => ?_, fun n x => ?_⟩, fun _ x hx hasid => ?_, ?_, fun n hn => ?_⟩
    · exact List.mem_filter.trans (and_congr_right fun _ => hstays x)
    · exact List.mem_filter.trans (and_congr_right fun _ => hstays x)
    · have h := (List.mem_filter.mp hx).2
      simp [fld_asid, hasid] at h
    · change (s.bar.sync &&& ~~~1#32).getLsbD 0 = true ↔ ([] : List Nat) ≠ []
      rw [and_not_one_bits]
      simp
    · change (s.bar.sync &&& ~~~1#32).getLsbD n = _
      rw [and_not_one_bits]
      simp [Nat.pos_iff_ne_zero.mp hn]
  · rw [if_neg (by simpa using hb)]
    refine ⟨rfl, ⟨fun x => ?_, fun n x => ?_⟩, fun h => absurd h hb, ?_, fun n hn => ?_⟩
    · exact List.mem_filter.trans (and_congr_right fun _ => hstays x)
    · exact List.mem_filter.trans (and_congr_right fun _ => hstays x)
    · change (s.bar.sync ||| (1#32 <<< 0)).getLsbD 0 = true ↔ busy ≠ []
      rw [or_one_bits]
      simp [hb]
    · change (s.bar.sync ||| (1#32 <<< 0)).getLsbD n = _
      rw [or_one_bits]
      simp [Nat.pos_iff_ne_zero.mp hn]

end

/-- Settles O49. -/
theorem memoryEvents : Obligations.MemoryEvents := by
  intro s r t c sl dl l quad va die rec reason level ea asid k e w
  refine ⟨fun hc hfail hhold hq => ?_, fun h => exec_tableWalk_ok (State.findEntry_held h),
    fun h => ⟨fun hu => ?_, fun hu => ⟨fun hw => ?_, fun hw => ?_⟩⟩,
    fun ok => ?_, exec_tlbinv s w, fun hfull => ?_, fun hdie hfull hgave => ?_⟩
  · intro stop
    refine ⟨fun hlen hsent hsrc hl hr => ?_, fun hlen hsent hbar hdst hl hr => ?_, fun hlen hbar => ?_⟩
    · exact (exec_copyPieceLand hc hq).trans (congrArg _ (landPiece_read hfail hhold hlen hsent hsrc hl hr))
    · exact (exec_copyPieceLand hc hq).trans (congrArg _ (landPiece_land hfail hhold hlen hsent hbar hdst hl hr))
    · exact (exec_copyPieceLand hc hq).trans (congrArg _ (landPiece_empty hfail hhold hlen hbar))
  · change Host.Outcome.next _ = _
    unfold State.lookup
    rw [State.findEntry_busy h hu]
    rfl
  · exact exec_tableWalk_ok ((State.findEntry_walk h hu).trans (by rw [hw]))
  · change Host.Outcome.next _ = _
    unfold State.lookup
    rw [State.findEntry_walk h hu, hw]
    rfl
  · intro page
    refine ⟨s.closeFault die rec ok, by cases ok <;> rfl, ?_⟩
    obtain ⟨hfaults, -, hmem, htlb⟩ := s.closeFault_standing die rec ok
    exact ⟨hfaults, hmem, htlb, fun f hf => s.closeFault_fib die rec ok hf⟩
  · change Host.Outcome.next _ = _
    rw [hfull, if_pos (by simp)]
  · refine ⟨_, congrArg Host.Outcome.next (if_neg (by simp [hfull, hgave, hdie])), ?_⟩
    have h := makeError_reads (s := { s with detectorFull := die :: s.detectorFull }) 0x04 9 die 0
    have herr : (makeError { s with detectorFull := die :: s.detectorFull } 0x04 9 die 0).errors =
        s.errors ++ [⟨0x04, 9, die, 0, s.bar.errseq.getD die 0 + 1⟩] := by
      unfold makeError
      dsimp only
      split
      · rfl
      · split <;> rfl
    unfold State.Reads at h
    refine ⟨?_, herr, ?_, ?_⟩
    · rw [h]
      exact List.mem_cons_self
    · rw [h]
    · rw [h]

end Sys2Proof.Machine

/-! The steps of sector coherence (O50): what a recall, a probe and a write-back leave at the L1s and in the directories. -/

namespace Sys2Proof.Machine

/-- Each element of a list is dealt with at its turn, and stays so. -/
theorem foldl_settles {α β : Type} {v : β → α → β} (P : α → β → Prop) (hself : ∀ t a, P a (v t a))
    (hkeep : ∀ t a b, P b t → P b (v t a)) {l : List α} {b : α} (hb : b ∈ l) (t : β) : P b (l.foldl v t) := by
  have hstay (l : List α) (t : β) (h : P b t) : P b (l.foldl v t) := by
    induction l generalizing t with
    | nil => exact h
    | cons a l ih => exact ih _ (hkeep t a b h)
  induction l generalizing t with
  | nil => exact (List.not_mem_nil hb).elim
  | cons a l ih =>
    rcases List.mem_cons.mp hb with rfl | hb
    · exact hstay l _ (hself t b)
    · exact ih hb _

/-- What every step of a fold keeps, the fold keeps. -/
theorem foldl_keeps {α β : Type} {v : β → α → β} (P : β → Prop) (hkeep : ∀ t a, P t → P (v t a)) (l : List α) {t : β}
    (h : P t) : P (l.foldl v t) := by
  induction l generalizing t with
  | nil => exact h
  | cons a l ih => exact ih (hkeep t a h)

/-! What a check of a read changes: nothing of the L1s and directories. -/

/-- Only poison and the error records differ. -/
def State.Checks (s t : State) : Prop :=
  t = { s with poison := t.poison, errors := t.errors, bar := t.bar, msix := t.msix, hostMem := t.hostMem }

section
variable {s t u : State}

theorem State.Checks.trans (h : s.Checks t) (k : t.Checks u) : s.Checks u := by
  unfold State.Checks at *
  rw [h] at k
  exact k

theorem State.setHost_checks (s : State) (a : Nat) (bs : List Byte) : s.Checks (s.setBytes (.host a) bs) := by
  unfold State.setBytes
  generalize memWrite s.hostMem a bs = m
  rfl

theorem makeError_checks (s : State) (kind agent die addr : Nat) : s.Checks (makeError s kind agent die addr) := by
  unfold makeError
  extract_lets seq r t u
  have ht : s.Checks t := rfl
  have hu : t.Checks u := by
    unfold u
    split
    · exact State.setHost_checks _ _ _
    · rfl
  clear_value t u
  split
  · exact ht
  · exact ht.trans (hu.trans rfl)

theorem checkRead_checks (s : State) (l : Loc) (n agent : Nat) : s.Checks (checkRead s l n agent).1 := by
  unfold checkRead
  split
  · refine foldl_keeps s.Checks (fun t k h => ?_) _ rfl
    split
    · exact h.trans (State.Checks.trans (t := { t with poison := k :: t.poison }) rfl (makeError_checks _ _ _ _ _))
    · exact h
  · rfl

theorem State.Checks.l1At (h : s.Checks t) (x k : Nat) : t.l1At x k = s.l1At x k := by
  unfold State.Checks at h
  rw [h]
  rfl
theorem State.Checks.dirAt (h : s.Checks t) (p : Option Nat) (k : Nat) : t.dirAt p k = s.dirAt p k := by
  unfold State.Checks at h
  rw [h]
  rfl
theorem State.Checks.mem (h : s.Checks t) : t.mem = s.mem := by
  unfold State.Checks at h
  rw [h]
/-- What stands in the way of a write at the home does not hang on the error records. -/
theorem State.Checks.inWay (h : s.Checks t) (l : Loc) (n : Nat) (w : Bool) :
    t.hostInWay l n w = s.hostInWay l n w ∧ t.pinned l n = s.pinned l n := by
  unfold State.Checks at h
  rw [h]
  exact ⟨rfl, rfl⟩
theorem State.Checks.keySector (h : s.Checks t) (k : Nat) : t.keySector k = s.keySector k := by
  unfold State.Checks at h
  rw [h]
  rfl

end

/-! A directory entry after an update. -/

section
variable (s : State) (p : Option Nat) (x y k q d : Nat)

theorem State.dirAt_sector : (s.dirAt p k).sector = k := by
  unfold State.dirAt
  cases p with
  | none =>
    dsimp only
    cases h : s.dir.find? fun e => e.sector == k with
    | none => rfl
    | some e => exact beq_iff_eq.mp (List.find?_some (p := fun e : DirEntry => e.sector == k) h)
  | some d =>
    dsimp only
    cases h : s.proxyDir.find? fun e => e.1 == d && e.2.sector == k with
    | none => rfl
    | some e =>
      have he := List.find?_some (p := fun e : Nat × DirEntry => e.1 == d && e.2.sector == k) h
      exact beq_iff_eq.mp (Bool.and_eq_true_iff.mp he).2

/-- An entry of the sector is read back. -/
theorem State.setDir_self {e : DirEntry} (hk : e.sector = k) (h : e.state = .i → e.sharers = []) :
    (s.setDir p e).dirAt p k = e := by
  subst hk
  exact setDir_dirAt s p e h

/-- So is one that lists somebody. -/
theorem State.setDir_listed (v : DirState) (hv : v ≠ .i) (sh : List Nat) :
    (s.setDir p ⟨k, v, sh⟩).dirAt p k = ⟨k, v, sh⟩ := setDir_dirAt s p ⟨k, v, sh⟩ fun h => absurd h hv

/-- Clearing another sector's entry at the home leaves a cleared one so. -/
theorem State.setDir_absent (h : (s.dirAt none k).state = .i) : ((s.setDir none ⟨q, .i, []⟩).dirAt none k).state = .i := by
  by_cases hq : q = k
  · subst hq
    rw [setDir_dirAt _ _ ⟨q, .i, []⟩ fun _ => rfl]
  · unfold State.dirAt State.setDir at *
    dsimp only at *
    rw [if_pos rfl, List.find?_filter]
    have hsame : (fun e : DirEntry => decide ((e.sector != q) = true ∧ (e.sector == k) = true)) = fun e => e.sector == k := by
      funext e
      by_cases he : e.sector = k
      · simp [he, Ne.symm hq]
      · simp [he]
    rw [hsame]
    exact h

/-- The entry that an owner's probe leaves is of its sector, and lists nobody where it is empty. -/
theorem Kept.entry_dirAt (v : Kept) (joins : List Nat) :
    (s.setDir p (v.entry k y joins)).dirAt p k = v.entry k y joins := by
  refine State.setDir_self s p k (by cases v <;> rfl) fun h => ?_
  cases v with
  | dirty => cases h
  | clean => cases h
  | none =>
    cases joins with
    | nil => rfl
    | cons _ _ => cases h

theorem DirEntry.without_sector (e : DirEntry) : (e.without x).sector = e.sector := by
  unfold DirEntry.without
  cases e.state with
  | i => rfl
  | s => rfl
  | em y | o y =>
    dsimp only
    split <;> rfl

theorem DirEntry.without_empty (e : DirEntry) (h : (e.without x).state = .i) : (e.without x).sharers = [] := by
  have hrest : (if (e.sharers.filter (· ≠ x)).isEmpty = true then DirState.i else .s) = .i → e.sharers.filter (· ≠ x) = [] := by
    intro h
    by_contra hne
    rw [if_neg (by simpa using hne)] at h
    cases h
  unfold DirEntry.without at h ⊢
  revert h
  cases hst : e.state with
  | i => exact fun _ => rfl
  | s => exact hrest
  | em y | o y =>
    dsimp only
    by_cases hy : y = x
    · rw [if_pos hy]
      exact hrest
    · rw [if_neg hy]
      exact nofun

theorem State.setDir_without : (s.setDir p ((t : State).dirAt p k |>.without x)).dirAt p k = (t.dirAt p k).without x :=
  State.setDir_self s p k ((DirEntry.without_sector x _).trans (t.dirAt_sector p k)) (DirEntry.without_empty x _)

end

/-! The L1 states that a recall leaves: no step of it gives a copy (R215 to R217). -/

section
variable {s t u : State} {x y k q d : Nat}

/-- No copy of the sector appears at the holder. -/
def State.Clears (s t : State) : Prop := ∀ y q, s.l1At y q = .i → t.l1At y q = .i

theorem State.Clears.trans (h : s.Clears t) (h' : t.Clears u) : s.Clears u := fun y q hy => h' y q (h y q hy)

theorem State.setL1_clears (s : State) (x k : Nat) : s.Clears (s.setL1 x k .i) := by
  intro y q hy
  rw [setL1_l1At]
  split
  · rfl
  · exact hy

theorem State.invalidateCore_clears (s : State) (k x : Nat) : s.Clears (s.invalidateCore k x) := s.setL1_clears x k

theorem State.invalidate_clears (s : State) (k y : Nat) : s.Clears (s.invalidate k y) := by
  unfold State.invalidate
  split
  · exact s.invalidateCore_clears k y
  · have hfold : s.Clears (((s.dirAt (some (y - 1024)) k).holders.foldl (fun t c => t.invalidateCore k c) s)) :=
      foldl_keeps s.Clears (fun t c h => h.trans (t.invalidateCore_clears k c)) _ fun _ _ h => h
    exact hfold.trans (State.setL1_clears _ y k)

theorem State.invalidate_l1At (s : State) (k y : Nat) : (s.invalidate k y).l1At y k = .i := by
  have hset (t : State) : (t.setL1 y k .i).l1At y k = .i := by rw [setL1_l1At, if_pos ⟨rfl, rfl⟩]
  unfold State.invalidate
  split
  · exact hset s
  · exact hset _

theorem State.recallAll_clears (s : State) (p : Option Nat) (k : Nat) (e : Option Nat) : s.Clears (s.recallAll p k e) :=
  foldl_keeps s.Clears (fun t y h => h.trans (t.invalidate_clears k y)) _ fun _ _ h => h

/-- Every holder but the one that asks loses its copy. -/
theorem State.recallAll_l1At (s : State) {p : Option Nat} {e : Option Nat} (hy : y ∈ (s.dirAt p k).holders) (he : some y ≠ e) :
    (s.recallAll p k e).l1At y k = .i := by
  refine foldl_settles (fun y (t : State) => t.l1At y k = .i) (fun t y => t.invalidate_l1At k y)
    (fun t a b h => t.invalidate_clears k a b k h) (List.mem_filter.mpr ⟨hy, ?_⟩) s
  simpa using he

theorem State.serveM_recalled (s : State) {p : Option Nat} (hy : y ∈ (s.dirAt p k).holders) (hx : y ≠ x) :
    (s.serveM p x k).l1At y k = .i := by
  unfold State.serveM
  rw [setL1_l1At, if_neg fun h => hx h.1]
  have h := s.recallAll_l1At (e := some x) hy (by simpa using hx)
  cases p <;> exact h

theorem State.serveM_gone (s : State) (p : Option Nat) (hx : y ≠ x) (h : s.l1At y q = .i) : (s.serveM p x k).l1At y q = .i := by
  unfold State.serveM
  rw [setL1_l1At, if_neg fun h => hx h.1]
  have h := s.recallAll_clears p k (some x) y q h
  cases p <;> exact h

theorem State.homeClear_clears (s : State) (k : Nat) : s.Clears (s.homeClear k) := s.recallAll_clears none k none

theorem State.homeClear_l1At (s : State) (hy : y ∈ (s.dirAt none k).holders) : (s.homeClear k).l1At y k = .i :=
  s.recallAll_l1At hy nofun

theorem State.invalidate_home (s : State) (k y q : Nat) : (s.invalidate k y).dirAt none q = s.dirAt none q := by
  unfold State.invalidate
  split
  · rfl
  · have hfold (l : List Nat) : (l.foldl (fun (t : State) c => t.invalidateCore k c) s).dirAt none q = s.dirAt none q :=
      foldl_keeps (v := fun (t : State) c => t.invalidateCore k c) (fun (t : State) => t.dirAt none q = s.dirAt none q)
        (fun _ _ h => h) l rfl
    exact hfold _

/-- Clearing a sector at its home leaves a cleared one so. -/
theorem State.homeClear_absent (s : State) (h : (s.dirAt none q).state = .i) : ((s.homeClear k).dirAt none q).state = .i := by
  refine State.setDir_absent _ q k ?_
  have hrec : (s.recallAll none k none).dirAt none q = s.dirAt none q :=
    foldl_keeps (fun (t : State) => t.dirAt none q = s.dirAt none q) (fun t y h => (t.invalidate_home k y q).trans h) _ rfl
  rw [hrec]
  exact h

/-! A write at the home (R217). -/

/-- Nobody in a list holds the sector, and its home lists nobody. -/
def State.Absent (s : State) (k : Nat) (ys : List Nat) : Prop := (s.dirAt none k).state = .i ∧ ∀ y ∈ ys, s.l1At y k = .i

theorem State.Absent.homeClear {ys : List Nat} (h : s.Absent k ys) (q : Nat) : (s.homeClear q).Absent k ys :=
  ⟨s.homeClear_absent h.1, fun y hy => s.homeClear_clears q y k (h.2 y hy)⟩

theorem State.Absent.store {ys : List Nat} (h : s.Absent k ys) (pa : Nat) (bs : List Byte) : (s.store pa bs).Absent k ys := by
  unfold State.store State.setBytes
  exact h

theorem State.Absent.widen {ys : List Nat} (h : s.Absent k ys) (pa n : Nat) : (s.widen pa n).Absent k ys := by
  have hone (t : State) (ht : t.Absent k ys) (b : Binding) (c v : Nat) : (widenOne t b c v).Absent k ys := by
    have hstored := (foldl_keeps (fun (t : State) => t.Absent k ys) (fun t q ht => ht.homeClear q)
      (Loc.sectors (.dram (b.spa + 4 * c)) 4) ht).store
      (b.spa + 4 * c) (widenPair (t.rd (b.spa + 4 * c) 2) (t.rd (b.spa + 4 * c + 2) 2) v)
    unfold widenOne
    dsimp only
    generalize State.store _ _ _ = u at hstored ⊢
    exact hstored
  refine foldl_keeps (fun (t : State) => t.Absent k ys) (fun t b ht => ?_) _ h
  split
  · exact foldl_keeps (fun (t : State) => t.Absent k ys) (fun t i ht => hone t ht _ _ _) _ ht
  · exact ht

theorem State.homeWrite_absent (s : State) {addr : Nat} {data : List Byte} (hk : sectorsOf addr data.length = [k]) :
    (s.homeWrite (.dram addr) data).Absent k (s.dirAt none k).holders := by
  have hclear : (s.homeClear k).Absent k (s.dirAt none k).holders :=
    ⟨by rw [homeClear_dirAt], fun y hy => s.homeClear_l1At hy⟩
  unfold State.homeWrite
  rw [show (Loc.dram addr).sectors data.length = [k] from hk]
  exact (hclear.store addr data).widen addr data.length

theorem sectorsOf_one {addr n : Nat} (hn : n ≠ 0) (h : (addr + n - 1) / 64 = addr / 64) : sectorsOf addr n = [addr / 64] := by
  have hlen : (addr + n + 63) / 64 - addr / 64 = 1 := by omega
  unfold sectorsOf
  rw [hlen]
  simp

theorem sectorLoc_of_inDram {addr n : Nat} (h : inDram addr n = true) : sectorLoc (addr / 64) = .dram (64 * (addr / 64)) := by
  unfold inDram at h
  have hlt : addr < 2 ^ 39 := of_decide_eq_true (Bool.and_eq_true_iff.mp h).1
  unfold sectorLoc hostSector
  rw [if_pos (by omega)]

/-! A copy given up (R216). -/

theorem State.drop_l1At (s : State) (hy : y < 1024) : (s.drop x k).l1At y q = if y = x ∧ q = k then .i else s.l1At y q := by
  have hset : ((s.setL1 x k .i).setDir (servedBy x k) ((s.dirAt (servedBy x k) k).without x)).l1At y q =
      if y = x ∧ q = k then .i else s.l1At y q := by
    rw [← setL1_l1At]
    cases servedBy x k <;> rfl
  unfold State.drop State.proxyDirty
  dsimp only
  split
  · split
    · rw [setL1_l1At, if_neg fun h => ?_, hset]
      have := h.1
      unfold proxyOf at this
      omega
    · exact hset
  · exact hset

theorem State.drop_dirAt (s : State) (x k : Nat) :
    (s.drop x k).dirAt (servedBy x k) k = (s.dirAt (servedBy x k) k).without x := by
  have hset := (s.setL1 x k .i).setDir_without (t := s) (servedBy x k) x k
  unfold State.drop State.proxyDirty
  dsimp only
  split
  · split
    · next h _ => rw [h] at hset ⊢; exact hset
    · exact hset
  · exact hset

theorem State.drop_coh (s : State) (x k : Nat) : s.Coh (s.drop x k) := by
  have hset : s.Coh ((s.setL1 x k .i).setDir (servedBy x k) ((s.dirAt (servedBy x k) k).without x)) :=
    (s.setL1_coh x k .i).trans (State.setDir_coh _ _ _)
  unfold State.drop State.proxyDirty
  dsimp only
  split
  · split
    · exact hset.trans (State.setL1_coh _ _ _ _)
    · exact hset
  · exact hset

/-- A core that gives a copy up keeps no other than it had. -/
theorem State.drop_l1 (s : State) (hx : x < 1024) {c : Nat × Nat × L1} (hc : c ∈ (s.drop x k).l1) (hcx : c.1 = x) :
    c ∈ s.l1 ∧ c.2.1 ≠ k := by
  have hset : c ∈ ((s.setL1 x k .i).setDir (servedBy x k) ((s.dirAt (servedBy x k) k).without x)).l1 → c ∈ s.l1 ∧ c.2.1 ≠ k := by
    intro h
    have h' : c ∈ s.l1.filter fun e => !(e.1 == x && e.2.1 == k) := by
      revert h
      cases servedBy x k <;> exact id
    obtain ⟨hm, hk⟩ := List.mem_filter.mp h'
    exact ⟨hm, by simpa [hcx] using hk⟩
  unfold State.drop State.proxyDirty at hc
  dsimp only at hc
  split at hc
  · next d _ =>
    split at hc
    · unfold State.setL1 at hc
      rcases List.mem_cons.mp hc with rfl | hc
      · unfold proxyOf at hcx
        dsimp only at hcx
        omega
      · exact hset (List.mem_filter.mp hc).1
    · exact hset hc
  · exact hset hc

end

/-! The parts of the obligation. -/

section
variable {s : State} {x k d : Nat}

/-- A step that nothing at the host stands in the way of is made at once. -/
theorem State.whenFree_read (v : State → State) (h : s.hostInWay (sectorLoc k) 64 false = []) : s.whenFree k false v = v s := by
  unfold State.whenFree
  dsimp only
  rw [h]
  rfl

theorem State.whenFree_write (v : State → State) (h : s.hostInWay (sectorLoc k) 64 true = [])
    (hpin : s.pinned (sectorLoc k) 64 = false) : s.whenFree k true v = v s := by
  unfold State.whenFree
  dsimp only
  rw [h, hpin]
  rfl

theorem exec_gets (hs : s.serves x k false = true) (hl : s.l1At x k = .i)
    (hf : ∀ f ∈ s.fills, f.core = x → f.sector = k → f.killed = true) (hh : s.hostInWay (sectorLoc k) 64 false = []) :
    let g := s.getS x k
    let t := (checkRead g.1 (sectorLoc k) 64 0).1
    exec (.gets x k) s = .next (({ t with
      fills := t.fills ++ [⟨x, k, t.bytes (sectorLoc k) 64, g.2, [], false⟩] } : State).joinFill x k) := by
  intro g t
  have hany : (s.fills.any fun e => e.core == x && e.sector == k && !e.killed) = false := by
    rw [List.any_eq_false]
    intro f hfm
    have h := hf f hfm
    simp only [Bool.and_eq_true, beq_iff_eq, Bool.not_eq_true', not_and, Bool.not_eq_false]
    exact fun h1 => h h1.1 h1.2
  exact congrArg Host.Outcome.next ((if_pos (by simp [hs, hl, hany])).trans (State.whenFree_read _ hh))

theorem State.getS_coh (s : State) (x k : Nat) : s.Coh (s.getS x k).1 := by
  unfold State.getS
  split
  · exact State.serveS_coh _ _ _ _
  · dsimp only
    split
    · exact ((State.serveS_coh _ _ _ _).trans (State.setL1_coh _ _ _ _)).trans (State.serveS_coh _ _ _ _)
    · exact State.serveS_coh _ _ _ _

theorem State.getM_coh (s : State) (x k : Nat) : s.Coh (s.getM x k) := by
  unfold State.getM
  split
  · exact State.Coh.refl s
  · refine (s.killFills_coh x k).trans ?_
    split
    · exact State.serveM_coh _ _ _ _
    · next d _ =>
      refine State.Coh.trans ?_ (State.serveM_coh _ _ _ _)
      unfold State.proxyM
      split
      · exact State.Coh.refl _
      · exact State.setL1_coh _ _ _ _
      all_goals exact State.serveM_coh _ _ _ _

theorem State.Coh.mem {s t : State} (h : s.Coh t) : t.mem = s.mem := by
  unfold State.Coh at h
  rw [h]

/-- GetS at a home (R216). -/
theorem State.getS_home (hb : servedBy x k = none) :
    ((s.dirAt none k).state = .i → s.keySector k = false → (s.getS x k).1.dirAt none k = ⟨k, .em x, []⟩ ∧ (s.getS x k).2 = true) ∧
    ((s.dirAt none k).state = .s → x ∈ ((s.getS x k).1.dirAt none k).sharers ∧ ((s.getS x k).1.dirAt none k).state = .s ∧
      (s.getS x k).2 = false) ∧
    (∀ y, (s.dirAt none k).state = .em y → y ≠ x → y < 1024 → (s.getS x k).2 = false ∧
      (s.l1At y k = .m → (s.getS x k).1.l1At y k = .o ∧ (s.getS x k).1.dirAt none k = ⟨k, .o y, [x]⟩) ∧
      (s.l1At y k = .e → (s.getS x k).1.l1At y k = .s ∧ (s.getS x k).1.dirAt none k = ⟨k, .s, [y, x]⟩)) := by
  have hget : s.getS x k = s.serveS none x k := by
    unfold State.getS
    rw [hb]
  rw [hget]
  unfold State.serveS
  refine ⟨fun hi hkey => ?_, fun hs => ?_, fun y hy hyx hlt => ?_⟩
  · dsimp only
    rw [hi]
    dsimp only
    rw [if_pos (by simp [State.givesE, hkey])]
    exact ⟨State.setDir_listed s none k (.em x) nofun [], rfl⟩
  · dsimp only
    rw [hs]
    dsimp only
    rw [s.dirAt_sector none k, State.setDir_listed s none k .s nofun]
    exact ⟨List.mem_cons_self, rfl, rfl⟩
  · dsimp only
    rw [hy]
    dsimp only
    rw [if_neg hyx]
    unfold State.share
    rw [if_pos hlt]
    refine ⟨rfl, fun hm => ?_, fun he => ?_⟩
    · unfold State.probeCore
      rw [hm]
      refine ⟨?_, Kept.entry_dirAt _ none y k .dirty [x]⟩
      exact (setL1_l1At s y k y k .o).trans (if_pos ⟨rfl, rfl⟩)
    · unfold State.probeCore
      rw [he]
      refine ⟨?_, Kept.entry_dirAt _ none y k .clean [x]⟩
      exact (setL1_l1At s y k y k .s).trans (if_pos ⟨rfl, rfl⟩)

/-- GetS through a proxy that held no copy (R219). -/
theorem State.getS_proxy (hb : servedBy x k = some d) (hl : s.l1At (proxyOf d) k = .i)
    (hp : (s.dirAt (some d) k).state = .i) (hd : (s.dirAt none k).state = .i) (hkey : s.keySector k = false) :
    (s.getS x k).1.dirAt none k = ⟨k, .em (proxyOf d), []⟩ ∧ (s.getS x k).1.dirAt (some d) k = ⟨k, .em x, []⟩ ∧
      (s.getS x k).2 = true := by
  have hhome : s.serveS none (proxyOf d) k = (s.setDir none ⟨k, .em (proxyOf d), []⟩, true) := by
    unfold State.serveS
    dsimp only
    rw [hd]
    dsimp only
    rw [if_pos (by simp [State.givesE, hkey])]
  have hget : s.getS x k =
      ((s.setDir none ⟨k, .em (proxyOf d), []⟩).setL1 (proxyOf d) k .e).serveS (some d) x k := by
    unfold State.getS
    rw [hb]
    dsimp only
    rw [if_pos hl, hhome]
    rfl
  have hgive : ((s.setDir none ⟨k, .em (proxyOf d), []⟩).setL1 (proxyOf d) k .e).givesE (some d) k = true := by
    unfold State.givesE
    dsimp only
    rw [setL1_l1At, if_pos ⟨rfl, rfl⟩]
    rfl
  have hserve : s.getS x k =
      (((s.setDir none ⟨k, .em (proxyOf d), []⟩).setL1 (proxyOf d) k .e).setDir (some d) ⟨k, .em x, []⟩, true) := by
    rw [hget]
    unfold State.serveS
    dsimp only
    rw [show (((s.setDir none ⟨k, .em (proxyOf d), []⟩).setL1 (proxyOf d) k .e).dirAt (some d) k).state = .i from hp]
    dsimp only
    rw [if_pos hgive]
  rw [hserve]
  exact ⟨State.setDir_listed s none k (.em (proxyOf d)) nofun [], State.setDir_listed _ (some d) k (.em x) nofun [], rfl⟩

/-- GetM and Upgrade (R216, R219). -/
theorem State.getM_gained (hkey : s.keySector k = false) :
    (s.getM x k).l1At x k = .m ∧
    (servedBy x k = none → (s.getM x k).dirAt none k = ⟨k, .em x, []⟩ ∧
      ∀ y ∈ (s.dirAt none k).holders, y ≠ x → (s.getM x k).l1At y k = .i) ∧
    (servedBy x k = some d → (s.getM x k).dirAt (some d) k = ⟨k, .em x, []⟩ ∧
      (s.l1At (proxyOf d) k ≠ .m → s.l1At (proxyOf d) k ≠ .e →
        ∀ y ∈ (s.dirAt none k).holders, y ≠ proxyOf d → y ≠ x → (s.getM x k).l1At y k = .i)) := by
  have hhome (hb : servedBy x k = none) : s.getM x k = (s.killFills x k).serveM none x k := by
    unfold State.getM
    rw [hkey, if_neg Bool.false_ne_true, hb]
  have hproxy (d : Nat) (hb : servedBy x k = some d) : s.getM x k = ((s.killFills x k).proxyM d k).serveM (some d) x k := by
    unfold State.getM
    rw [hkey, if_neg Bool.false_ne_true, hb]
  refine ⟨?_, fun hb => ?_, fun hb => ?_⟩
  · cases hb : servedBy x k with
    | none => rw [hhome hb, serveM_l1At]
    | some d => rw [hproxy d hb, serveM_l1At]
  · rw [hhome hb]
    exact ⟨serveM_dirAt _ _ _ _, fun y hy hyx => State.serveM_recalled _ hy hyx⟩
  · rw [hproxy d hb]
    refine ⟨serveM_dirAt _ _ _ _, fun hm he y hy hyp hyx => State.serveM_gone _ _ hyx ?_⟩
    have hproxy : (s.killFills x k).proxyM d k = (s.killFills x k).serveM none (proxyOf d) k := by
      unfold State.proxyM
      cases h : (s.killFills x k).l1At (proxyOf d) k with
      | m => exact absurd h hm
      | e => exact absurd h he
      | i | s | o => rfl
    rw [hproxy]
    exact State.serveM_recalled _ hy hyp

theorem exec_gain (op : Instr) (hop : op ∈ ([.getm x k, .upgrade x k] : List Instr)) (hs : s.serves x k true = true)
    (hl : if op = .getm x k then s.l1At x k = .i else s.l1At x k = .s ∨ s.l1At x k = .o)
    (hh : s.hostInWay (sectorLoc k) 64 true = []) (hpin : s.pinned (sectorLoc k) 64 = false) :
    ∃ t, s.Checks t ∧ exec op s = .next (t.getM x k) := by
  rcases List.mem_pair.mp hop with rfl | rfl
  · rw [if_pos rfl] at hl
    have hc := checkRead_checks s (sectorLoc k) 64 0
    obtain ⟨hway, hpinned⟩ := hc.inWay (sectorLoc k) 64 true
    refine ⟨_, hc, congrArg Host.Outcome.next ((if_pos (by simp [hs, hl])).trans ?_)⟩
    exact State.whenFree_write _ (hway.trans hh) ((hc.inWay (sectorLoc k) 64 true).2.trans hpin)
  · rw [if_neg nofun] at hl
    refine ⟨s, rfl, congrArg Host.Outcome.next ((if_pos ?_).trans (State.whenFree_write _ hh hpin))⟩
    rcases hl with hl | hl <;> simp [hs, hl]

/-- A core that goes to sleep keeps no copy (R220). -/
theorem State.gated_l1 (s : State) (hx : x < 1024) :
    let u := (s.l1.filter fun e => e.1 == x).foldl (fun t e =>
      if e.2.2 = .m ∨ e.2.2 = .o then t.drop x e.2.1 else t.setL1 x e.2.1 .i) s
    u.mem = s.mem ∧ ∀ c ∈ u.l1, c.1 ≠ x := by
  intro u
  have hstep (t : State) (e c : Nat × Nat × L1)
      (hc : c ∈ (if e.2.2 = .m ∨ e.2.2 = .o then t.drop x e.2.1 else t.setL1 x e.2.1 .i).l1) (hcx : c.1 = x) :
      c ∈ t.l1 ∧ c.2.1 ≠ e.2.1 := by
    split at hc
    · exact t.drop_l1 hx hc hcx
    · obtain ⟨hm, hk⟩ := List.mem_filter.mp (show c ∈ t.l1.filter fun q => !(q.1 == x && q.2.1 == e.2.1) from hc)
      exact ⟨hm, by simpa [hcx] using hk⟩
  have hold : ∀ c ∈ u.l1, c.1 = x → c ∈ s.l1 :=
    foldl_keeps (fun (t : State) => ∀ c ∈ t.l1, c.1 = x → c ∈ s.l1)
      (fun t e h c hc hcx => h c (hstep t e c hc hcx).1 hcx) _ fun c hc _ => hc
  refine ⟨foldl_keeps (fun (t : State) => t.mem = s.mem) (fun t e h => ?_) _ rfl, fun c hc hcx => ?_⟩
  · split
    · exact (t.drop_coh x e.2.1).mem.trans h
    · exact h
  · have hmine : c ∈ s.l1.filter fun e => e.1 == x := List.mem_filter.mpr ⟨hold c hc hcx, by simp [hcx]⟩
    have hgone : ∀ c' ∈ u.l1, c'.1 = x → c'.2.1 ≠ c.2.1 :=
      foldl_settles (fun (e : Nat × Nat × L1) (t : State) => ∀ c' ∈ t.l1, c'.1 = x → c'.2.1 ≠ e.2.1)
        (fun t e c' hc' hx' => (hstep t e c' hc' hx').2)
        (fun t e b h c' hc' hx' => h c' (hstep t e c' hc' hx').1 hx') hmine s
    exact hgone c hc hcx rfl

end

/-- Settles O50. -/
theorem coherenceEvents : Obligations.CoherenceEvents := by
  intro s x k line addr d data e ag up a ty dst
  refine ⟨fun hs hl hf hh => ?_, fun op hop hs hl hkey hh hpin => ?_, fun hin hne hone hmeet hh hpin => ?_,
    fun hin hmeet hh => ?_, fun hx hem => ?_, fun hx => ?_, fun hx hl => ?_, fun hx hl => ?_, fun hx => ?_, fun hfind => ?_,
    fun hx hg hr hf => ?_, ?_⟩
  · intro g t
    refine ⟨exec_gets hs hl hf hh, ?_, fun hb => State.getS_home hb, fun hb hl hp hd hkey => State.getS_proxy hb hl hp hd hkey⟩
    exact (checkRead_checks _ _ _ _).mem.trans (s.getS_coh x k).mem
  · obtain ⟨t, ht, hexec⟩ := exec_gain op hop hs hl hh hpin
    obtain ⟨hm, hhome, hproxy⟩ := State.getM_gained (s := t) (x := x) (d := d) ((ht.keySector k).trans hkey)
    rw [ht.dirAt] at hhome hproxy
    rw [ht.l1At] at hproxy
    exact ⟨_, hexec, (t.getM_coh x k).mem.trans ht.mem, hm, hhome, hproxy⟩
  · have hloc := sectorLoc_of_inDram hin
    have hlen : data.length ≠ 0 := fun h => hne (List.length_eq_zero_iff.mp h)
    refine ⟨_, ?_, rfl, s.homeWrite_absent (sectorsOf_one hlen hone)⟩
    have hcond : (inDram addr data.length && !data.isEmpty && (addr + data.length - 1) / 64 == addr / 64) = true := by
      simp [hin, hne, hone]
    refine congrArg Host.Outcome.next ((if_pos hcond).trans ?_)
    rw [hmeet]
    exact State.whenFree_write _ (by rw [hloc]; exact hh) (by rw [hloc]; exact hpin)
  · have hloc : sectorLoc k = .dram (64 * k) := by
      have h := sectorLoc_of_inDram hin
      rwa [Nat.mul_div_cancel_left k (by omega)] at h
    refine congrArg Host.Outcome.next ((if_pos hin).trans ?_)
    rw [hmeet]
    exact State.whenFree_read _ (by rw [hloc]; exact hh)
  · have hdir : dirOf x k = servedBy x k := if_pos hx
    refine ⟨s.share (servedBy x k) k x [], ?_, ?_⟩
    · change Host.Outcome.next _ = _
      rw [hdir, hem]
      exact congrArg Host.Outcome.next (if_pos rfl)
    · refine ⟨(State.share_coh _ _ _ _ _).mem, fun hm => ?_, fun he => ?_⟩
      · unfold State.share
        rw [if_pos hx]
        unfold State.probeCore
        rw [hm]
        refine ⟨?_, congrArg DirEntry.state (Kept.entry_dirAt _ _ x k .dirty [])⟩
        have h := (setL1_l1At s x k x k .o).trans (if_pos ⟨rfl, rfl⟩)
        cases servedBy x k <;> exact h
      · unfold State.share
        rw [if_pos hx]
        unfold State.probeCore
        rw [he]
        refine ⟨?_, Kept.entry_dirAt _ _ x k .clean []⟩
        have h := (setL1_l1At s x k x k .s).trans (if_pos ⟨rfl, rfl⟩)
        cases servedBy x k <;> exact h
  · refine ⟨_, rfl, ?_, ?_, ?_⟩
    · have h := s.invalidate_l1At k x
      cases dirOf x k <;> exact h
    · exact ((s.invalidate_coh k x).trans (State.setDir_coh _ _ _)).mem
    · have hinv : s.invalidate k x = s.invalidateCore k x := if_pos hx
      have h : ∀ f ∈ (s.invalidate k x).fills, f.core = x → f.sector = k → f.killed = true := by
        rw [hinv]
        intro f hf hfx hfk
        obtain ⟨f0, -, rfl⟩ := List.mem_map.mp hf
        split at hfx
        · next h => rw [if_pos h]
        · next h =>
          rw [if_neg h] at hfk
          exact absurd ⟨hfx, hfk⟩ h
      cases dirOf x k <;> exact h
  · refine ⟨s.drop x k, congrArg Host.Outcome.next (if_pos ?_), ?_, (s.drop_coh x k).mem, s.drop_dirAt x k⟩
    · rcases hl with hl | hl <;> simp [hx, hl]
    · rw [State.drop_l1At s hx, if_pos ⟨rfl, rfl⟩]
  · refine ⟨s.drop x k, congrArg Host.Outcome.next (if_pos ?_), ?_, (s.drop_coh x k).mem, s.drop_dirAt x k⟩
    · rcases hl with hl | hl <;> simp [hx, hl]
    · rw [State.drop_l1At s hx, if_pos ⟨rfl, rfl⟩]
  · refine ⟨_, rfl, ?_, fun n hn => ?_⟩
    · refine foldl_keeps (fun (t : State) => t.mem = s.mem) (fun t n h => ?_) _ rfl
      split
      · exact h
      · exact (t.drop_coh _ _).mem.trans h
    · refine foldl_settles (fun n (t : State) => t.l1At x (4 * line + n) = .i) (fun t n => ?_) (fun t m n h => ?_)
        (List.mem_range.mpr hn) s
      · split
        · next h => exact h.resolve_right (by omega)
        · rw [State.drop_l1At t hx, if_pos ⟨rfl, rfl⟩]
      · split
        · exact h
        · rw [State.drop_l1At t hx]
          split
          · rfl
          · exact h
  · intro w
    have hexec : exec (.fill x k) s = .next (e.served.foldl (landFill e)
        (if !e.killed && !w.gated.contains x then w.setL1 x k (if e.excl then .e else .s) else w)) := by
      change Host.Outcome.next _ = _
      rw [hfind]
    refine ⟨fun hk hserved => ?_, fun hk hg => ?_⟩
    · rw [hexec, hserved, if_neg (by simp [hk])]
      rfl
    · intro v
      have hv : exec (.fill x k) s = .next (e.served.foldl (landFill e) v) := by
        rw [hexec, if_pos (by simp [hk, w, hg])]
      refine ⟨fun hserved => ?_, fun hserved hacc hop => ?_⟩
      · rw [hv, hserved]
        rfl
      · rw [hv, hserved]
        refine congrArg Host.Outcome.next ?_
        change landFill e v a.id = _
        unfold landFill
        rw [show v.acc? a.id = some a from hacc]
        dsimp only
        rw [hop]
  · have hcond : (1024 ≤ x || s.gated.contains x || s.roundCount x ≠ 0 ||
        s.fibres.any (fun f => f.core == x && (f.status == .resident || f.status == .parked))) = false := by
      have hany : (s.fibres.any fun f => f.core == x && (f.status == .resident || f.status == .parked)) = false := by
        rw [List.any_eq_false]
        intro f hfm
        have h := hf f hfm
        simp only [Bool.and_eq_true, beq_iff_eq, Bool.or_eq_true, not_and, not_or]
        exact fun h1 => h h1
      simp [hx, hg, hr, hany]
    obtain ⟨hmem, hl1⟩ := s.gated_l1 hx
    refine ⟨_, congrArg Host.Outcome.next (if_neg (by rw [hcond]; exact Bool.false_ne_true)), hmem, List.mem_cons_self, hl1⟩
  · refine ⟨_, rfl, ?_, rfl, fun y hy => ?_⟩
    · simp
    · simp [hy]

end Sys2Proof.Machine

/-! The steps of the matrix and selection engines (O51). -/

namespace Sys2Proof.Machine

/-! The matrix engine (R180, R192, R195). -/

section
variable {s t t1 : State} {e : MxEntry}

theorem exec_mxPass_fails (hfind : (s.mx.find? fun g => g.id == e.id && g.quad == e.quad && g.kind.array && g.tabled) = some e)
    (hbar : e.barFails = true) (hidle : e.stage = .idle) :
    exec (.mxPass e.quad e.id) s = .next (abortMx s e ((MxBlk.read e.blk).arrLoc e) .copyFault 0 e.off) := by
  change Host.Outcome.next _ = _
  rw [hfind]
  dsimp only
  rw [if_pos hbar, if_pos (by simp [hidle])]

/-- The array makes a step of the pass that it works for (R199). -/
theorem exec_mxPass_granted (hfind : (s.mx.find? fun g => g.id == e.id && g.quad == e.quad && g.kind.array && g.tabled) = some e)
    (hbar : e.barFails = false) (hg : granted s e.quad = some e) : exec (.mxPass e.quad e.id) s = .next (runPass s e) := by
  change Host.Outcome.next _ = _
  rw [hfind]
  dsimp only
  rw [if_neg (by simp [hbar]), hg]
  exact congrArg Host.Outcome.next (if_pos rfl)

theorem runPass_begin {pss : List (List Piece)} (hidle : e.stage = .idle)
    (hfmt : (MxBlk.read e.blk).reload = true ∨ s.latchedFmt e.quad ((MxBlk.read e.blk).plane % 2) = some (MxBlk.read e.blk).wfmt)
    (hadmit : admitSrcs s e 2 (e.srcs.1 ++ e.srcs.2.1 ++ e.srcs.2.2.1 ++ e.srcs.2.2.2) = .ok pss t) :
    runPass s e = t.setMx { e with
      starved := false, stage := .fetching ((List.range pss.length).zip pss), rows := List.replicate pss.length [], run := []
      bsize := if relief s e (MxBlk.read e.blk) then 16 else blockB (MxBlk.read e.blk).cls, pins := pinsOf pss.flatten } := by
  have hgo : ¬(!(MxBlk.read e.blk).reload ∧ s.latchedFmt e.quad ((MxBlk.read e.blk).plane % 2) ≠ some (MxBlk.read e.blk).wfmt) := by
    rintro ⟨h1, h2⟩
    rcases hfmt with h | h
    · simp [h] at h1
    · exact h2 h
  unfold runPass
  rw [hidle]
  dsimp only
  unfold beginPass
  dsimp only
  rw [if_neg hgo, hadmit]

theorem runPass_format (hidle : e.stage = .idle) (hreload : (MxBlk.read e.blk).reload = false)
    (hfmt : s.latchedFmt e.quad ((MxBlk.read e.blk).plane % 2) ≠ some (MxBlk.read e.blk).wfmt) :
    runPass s e = abortMx s e ((MxBlk.read e.blk).arrLoc e) .mxFormat 4 e.off := by
  unfold runPass
  rw [hidle]
  exact if_pos ⟨by simp [hreload], hfmt⟩

theorem runPass_fetch {todo : List (Nat × List Piece)} {row : Nat} {ps : List Piece} (hst : e.stage = .fetching todo)
    (hne : todo ≠ []) (href : e.refused = none) (hk : todo[s.pick todo.length]? = some (row, ps))
    (hmeet : meetLocs s false (ps.map fun p => p.2) = (t, true)) (hcheck : checkPieces t e 2 ps = (t1, none)) :
    let r := readPieces { t1 with freeCount := t1.freeCount + 1 } ps
    runPass s e = r.2.setMx { e with
      stage := .fetching (todo.eraseIdx (s.pick todo.length)), rows := e.rows.set row r.1 } := by
  intro r
  have hget : todo.getD (s.pick todo.length) (0, []) = (row, ps) := by rw [List.getD_eq_getElem?_getD, hk]; rfl
  have hrun : runPass s e = fetchNext s e todo := by
    unfold runPass
    rw [hst]
    cases todo with
    | nil => exact absurd rfl hne
    | cons _ _ => rfl
  rw [hrun]
  unfold fetchNext
  dsimp only
  rw [hget, if_neg (by simp [href]), hmeet, if_neg (by simp), hcheck]
  rfl

theorem runPass_load (hst : e.stage = .fetching [])
    (hline : (e.kind.stream.bind fun p => lineFault (MxBlk.read e.blk) p.1 e.k0 e.kn (passRows e.srcs e.rows).w) = none) :
    runPass s e = (((if (MxBlk.read e.blk).reload = true
      then s.loadPlane e.quad e.plane (MxBlk.read e.blk).wfmt ((passRows e.srcs e.rows).w.map fun row => (List.range e.kn).map fun k =>
        if e.kind.stream.isSome then sparseCode (MxBlk.read e.blk).wfmt row (e.k0 + k) else element (MxBlk.read e.blk).wfmt row k)
      else s).tlbSettle e.id).setMx { e with stage := .applying 0 }) := by
  unfold runPass
  rw [hst]
  dsimp only
  unfold loadPass
  dsimp only
  rw [hline]
  dsimp only
  cases (MxBlk.read e.blk).reload <;> rfl

theorem runPass_apply {b : Nat} (hst : e.stage = .applying b) (hb : b < e.blocks) : runPass s e = applyBlock s e b := by
  unfold runPass
  rw [hst]
  exact if_pos hb

theorem runPass_write {b : Nat} (hst : e.stage = .applying b) (hb : e.blocks ≤ b) : runPass s e = writePass s e := by
  unfold runPass
  rw [hst]
  exact if_neg (Nat.not_lt.mpr hb)

theorem runPass_word {b key v : Nat} (hst : e.stage = .applying b) (hb : e.blocks ≤ b)
    (hk : e.run[s.pick e.run.length]? = some (key, v)) :
    runPass s e = ((({ s with freeCount := s.freeCount + 1 } : State).setBytes (.cb key) (Dec.leBytes 4 v)).setMx
      { e with run := e.run.eraseIdx (s.pick e.run.length) }) := by
  have hget : e.run.getD (s.pick e.run.length) (0, 0) = (key, v) := by rw [List.getD_eq_getElem?_getD, hk]; rfl
  have hrun : e.run.isEmpty = false := by
    cases h : e.run with
    | nil => rw [h] at hk; cases hk
    | cons _ _ => rfl
  rw [runPass_write hst hb]
  unfold writePass
  rw [if_pos (by simp [hrun])]
  unfold writeWord
  rw [hget]
  rfl

theorem runPass_over {b : Nat} (hst : e.stage = .applying b) (hb : e.blocks ≤ b) (hrun : e.run = []) :
    let m : MxEntry := { e with pass := e.pass + 1, stage := .idle, pins := [], rows := [] }
    runPass s e = if m.pass = (MxBlk.read e.blk).passes e.kind.stream.isSome then finishMx s m ((MxBlk.read e.blk).arrLoc e)
      else s.setMx m := by
  intro m
  rw [runPass_write hst hb]
  unfold writePass
  rw [if_neg (by simp [hrun])]
  rfl

end

/-! `asel` (R246). -/

section
variable {s t t1 t2 : State} {e : MxEntry} {rows signs : List (List Byte)}

theorem exec_aselRun (hfind : (s.mx.find? fun g => g.id == e.id && g.kind == .asel && g.tabled && g.stage == .idle) = some e)
    (hhold : e.hold = .none) : exec (.aselRun e.id) s = .next (runSel s e) := by
  change Host.Outcome.next _ = _
  rw [hfind]
  exact congrArg Host.Outcome.next (if_neg (by simp [hhold]))

theorem runSel_ok (x : SelBlk) (hx : x = SelBlk.read e.blk)
    (hfetch : fetchSrcs s e 3 [⟨false, x.qoff, .sp (e.spBase + x.qoff), x.qlen⟩, ⟨true, x.pladdr, .dram 0, 8 * x.npages⟩] =
      .ok rows t)
    (hread : readPages t e x ((List.range x.npages).map fun i => fb (rows.getD 1 []) (8 * i) 8) = .ok signs t1)
    (hreg : registerPieces t1 (selAcc t1 e)
      ((selOut e x (rows.getD 0 []) signs).map fun p => (p.1, .sp (e.spBase + p.1), p.2.length)) = .ok () t2) :
    runSel s e = finishMx ((selOut e x (rows.getD 0 []) signs).foldl
      (fun (t : State) (p : Nat × List Byte) => t.setBytes (.sp (e.spBase + p.1)) p.2) t2) e
      (if x.arrb then some (.sp (e.barBase + x.arroff)) else none) := by
  subst hx
  unfold runSel
  dsimp only
  rw [hfetch]
  dsimp only
  rw [hread]
  dsimp only
  rw [hreg]

/-! `agat` (R249). -/

theorem exec_agatRun (hfind : (s.mx.find? fun g => g.id == e.id && g.kind == .agat && g.tabled) = some e) :
    exec (.agatRun e.id) s = .next (runGat s e) := by
  change Host.Outcome.next _ = _
  rw [hfind]

theorem runGat_start (hbar : e.barFails = false) (hhold : e.hold = .none) (hrel : e.released = true) (hmask : e.mask = [])
    (hfetch : fetchSrcs s e 2 [⟨false, (GatBlk.read e.blk).listoff, .sp (e.spBase + (GatBlk.read e.blk).listoff), 4⟩] = .ok rows t) :
    runGat s e = listGat t e (GatBlk.read e.blk) (rows.headD []) := by
  unfold runGat
  dsimp only
  rw [if_neg (by simp [hbar]), if_neg (by simp [hhold, hrel]), if_pos (by simp [hmask])]
  unfold startGat
  rw [hfetch]

/-- The list is judged: an index too high, or one that does not rise. -/
theorem listGat_judged {x : GatBlk} {count : List Byte} (h0 : 0 < Dec.leNat count) (hn : Dec.leNat count ≤ 4096)
    (hfetch : fetchSrcs t e 2 [⟨false, x.listoff + 4, .sp (e.spBase + x.listoff + 4), 2 * Dec.leNat count⟩] = .ok signs t1) :
    let idx (j : Nat) : Nat := fb (count ++ signs.headD []) (4 + 2 * j) 2
    ((∃ j, j < Dec.leNat count ∧ (x.npages ≤ idx j ∨ (j + 1 < Dec.leNat count ∧ idx (j + 1) ≤ idx j))) →
      listGat t e x count = abortGat t1 e x .summary 6 e.off) ∧
    ((∀ j, j < Dec.leNat count → idx j < x.npages ∧ (j + 1 < Dec.leNat count → idx j < idx (j + 1))) →
      (Config.bufBytes < x.doff + 16384 * Dec.leNat count → listGat t e x count = abortGat t1 e x .prot 0 x.doff) ∧
      (x.doff + 16384 * Dec.leNat count ≤ Config.bufBytes →
        listGat t e x count = t1.setMx { e with mask := count ++ signs.headD [] })) := by
  intro idx
  generalize hcount : Dec.leNat count = n at *
  have hget (j : Nat) (hj : j < n) : ((List.range n).map idx).getD j 0 = idx j := by
    rw [List.getD_eq_getElem _ _ (by simpa using hj)]
    simp
  have hbad : (((List.range n).map idx).any (fun i => decide (x.npages ≤ i)) ||
      !(List.range (n - 1)).all (fun j => decide (((List.range n).map idx).getD j 0 < ((List.range n).map idx).getD (j + 1) 0))) = true ↔
      ∃ j, j < n ∧ (x.npages ≤ idx j ∨ (j + 1 < n ∧ idx (j + 1) ≤ idx j)) := by
    rw [Bool.or_eq_true, List.any_eq_true, Bool.not_eq_true', List.all_eq_false]
    constructor
    · rintro (⟨i, hi, hp⟩ | ⟨j, hj, hp⟩)
      · obtain ⟨j, hj, rfl⟩ := List.mem_map.mp hi
        exact ⟨j, List.mem_range.mp hj, .inl (of_decide_eq_true hp)⟩
      · have hj' := List.mem_range.mp hj
        rw [hget j (by omega), hget (j + 1) (by omega)] at hp
        exact ⟨j, by omega, .inr ⟨by omega, by simpa using hp⟩⟩
    · rintro ⟨j, hj, hp | ⟨hj1, hp⟩⟩
      · exact .inl ⟨idx j, List.mem_map.mpr ⟨j, List.mem_range.mpr hj, rfl⟩, decide_eq_true hp⟩
      · refine .inr ⟨j, List.mem_range.mpr (by omega), ?_⟩
        rw [hget j hj, hget (j + 1) hj1]
        simpa using hp
  have hlist : listGat t e x count =
      if (((List.range n).map idx).any (fun i => decide (x.npages ≤ i)) ||
          !(List.range (n - 1)).all (fun j => decide (((List.range n).map idx).getD j 0 < ((List.range n).map idx).getD (j + 1) 0))) = true
        then abortGat t1 e x .summary 6 e.off
      else if Config.bufBytes < x.doff + 16384 * n then abortGat t1 e x .prot 0 x.doff
      else if n = 0 then t1.leaveMx e
      else t1.setMx { e with mask := count ++ signs.headD [] } := by
    unfold listGat
    dsimp only
    rw [hcount, if_neg (Nat.not_lt.mpr hn), if_neg (Nat.pos_iff_ne_zero.mp h0), hfetch]
  rw [hlist]
  refine ⟨fun h => if_pos (hbad.mpr h), fun h => ?_⟩
  have hgood : ¬∃ j, j < n ∧ (x.npages ≤ idx j ∨ (j + 1 < n ∧ idx (j + 1) ≤ idx j)) := by
    rintro ⟨j, hj, hp | ⟨hj1, hp⟩⟩
    · exact absurd (h j hj).1 (Nat.not_lt.mpr hp)
    · exact absurd ((h j hj).2 hj1) (Nat.not_lt.mpr hp)
  rw [if_neg (fun hb => hgood (hbad.mp hb))]
  exact ⟨fun hbig => if_pos hbig, fun hfits => by rw [if_neg (Nat.not_lt.mpr hfits), if_neg (Nat.pos_iff_ne_zero.mp h0)]⟩

theorem runGat_page (hbar : e.barFails = false) (hhold : e.hold = .none) (hrel : e.released = true) (hmask : e.mask ≠ [])
    (hpage : e.page = none) : runGat s e = pageGat s e (GatBlk.read e.blk) := by
  unfold runGat
  dsimp only
  rw [if_neg (by simp [hbar]), if_neg (by simp [hhold, hrel]), if_neg (by simpa using hmask), hpage]

theorem runGat_piece {va : Nat} (hbar : e.barFails = false) (hhold : e.hold = .none) (hrel : e.released = true)
    (hmask : e.mask ≠ []) (hpage : e.page = some va) : runGat s e = pieceGat s e (GatBlk.read e.blk) va := by
  unfold runGat
  dsimp only
  rw [if_neg (by simp [hbar]), if_neg (by simp [hhold, hrel]), if_neg (by simpa using hmask), hpage]

/-! `ksum.rebuild` (R241). -/

theorem exec_ksumRebuildRun {va : Nat} {bd : Binding} (hfind : (s.mx.find? fun g => g.id == e.id && g.tabled) = some e)
    (hkind : e.kind = .ksum va bd) (hhold : e.hold = .none) :
    exec (.ksumRebuildRun e.id) s = .next (runKsum s e va bd) := by
  change Host.Outcome.next _ = _
  rw [hfind]
  dsimp only
  rw [hkind]
  exact congrArg Host.Outcome.next (if_neg (by simp [hhold]))

theorem runKsum_read {va a row : Nat} {l : Loc} {bd : Binding} {todo : List (Nat × List Piece)} (hst : e.stage = .fetching todo)
    (hne : todo ≠ []) (hk : todo[s.pick todo.length]? = some (row, [(a, l, 64)]))
    (hmeet : meetLocs s false [(l, 64)] = (t, true)) (hcheck : checkPieces t e 3 [(a, l, 64)] = (t1, none)) :
    let r := readPieces { t1 with freeCount := t1.freeCount + 1 } [(a, l, 64)]
    runKsum s e va bd = r.2.setMx { e with
      stage := .fetching (todo.eraseIdx (s.pick todo.length)), mask := widenBytes bd (a - va) r.1 e.mask } := by
  intro r
  have hget : (todo.getD (s.pick todo.length) (0, [])).2 = [(a, l, 64)] := by rw [List.getD_eq_getElem?_getD, hk]; rfl
  have hrun : runKsum s e va bd = readKsum s e va bd todo := by
    unfold runKsum
    rw [hst]
    cases todo with
    | nil => exact absurd rfl hne
    | cons _ _ => rfl
  have hps : meetLocs s false ([(a, l, 64)].map fun p => p.2) = (t, true) := hmeet
  rw [hrun]
  unfold readKsum
  dsimp only
  rw [hget, hps, if_neg (by simp), hcheck]
  rfl

end

/-! The sum of an integer block (R180). -/

theorem blockInt_eq (start : Int) (p : List Int) : blockInt start p =
    if 2 ^ 31 - 1 < start + p.sum then (2 ^ 31 - 1, true)
    else if start + p.sum < -(2 ^ 31) then (-(2 ^ 31), true) else (start + p.sum, false) := by
  have hsum : p.foldl (· + ·) start = start + p.sum := by
    induction p generalizing start with
    | nil => simp
    | cons a p ih => rw [List.foldl_cons, ih, List.sum_cons, add_assoc]
  unfold blockInt
  rw [hsum]

/-- Settles O51. -/
theorem matrixEvents : Obligations.MatrixEvents := by
  intro s t t1 t2 e rows signs ps pss todo bd va b row
  refine ⟨fun hfind => ?_, ⟨_, rfl, rfl, rfl, rfl⟩, fun hfind hhold => ?_, fun hfind hbar hhold hrel hmask => ?_,
    fun hfind hbar hhold hrel hmask => ?_, fun hfind hkind hhold => ?_, fun start p => ?_⟩
  · intro x
    refine ⟨fun hbar hidle => exec_mxPass_fails hfind hbar hidle, fun hbar hg => ?_⟩
    rw [exec_mxPass_granted hfind hbar hg]
    refine ⟨fun hidle hfmt hadmit => congrArg _ (runPass_begin hidle hfmt hadmit),
      fun hidle hreload hfmt => congrArg _ (runPass_format hidle hreload hfmt),
      fun hst hne href hk hmeet hcheck => congrArg _ (runPass_fetch hst hne href hk hmeet hcheck),
      fun hst hline => congrArg _ (runPass_load hst hline), fun hst => ?_⟩
    refine ⟨fun hb => congrArg _ (runPass_apply hst hb), fun hb key v => fun hk => congrArg _ (runPass_word hst hb hk),
      fun hb hrun => congrArg _ (runPass_over hst hb hrun)⟩
  · intro x hfetch hread qs cls bs keep out hreg
    rw [exec_aselRun hfind hhold]
    exact congrArg _ (runSel_ok x rfl hfetch hread hreg)
  · intro x n count list idx hfetch
    rw [exec_agatRun hfind, runGat_start hbar hhold hrel hmask hfetch]
    refine ⟨fun hn => congrArg _ (if_pos hn), fun h0 hn hlist => ?_⟩
    obtain ⟨hbad, hgood⟩ := listGat_judged h0 hn hlist
    exact ⟨fun h => congrArg _ (hbad h), fun h => ⟨fun hbig => congrArg _ ((hgood h).1 hbig), fun hfits => congrArg _ ((hgood h).2 hfits)⟩⟩
  · intro x
    rw [exec_agatRun hfind]
    refine ⟨fun hpage hfetch hva => ?_, fun hpage hfetch => ?_⟩
    · rw [runGat_page hbar hhold hrel hmask hpage]
      unfold pageGat
      dsimp only
      rw [hfetch]
      exact congrArg Host.Outcome.next (if_neg (fun h => h hva))
    · rw [runGat_piece hbar hhold hrel hmask hpage]
      unfold pieceGat
      rw [hfetch]
      dsimp only
      rw [hpage]
  · rw [exec_ksumRebuildRun hfind hkind hhold]
    refine ⟨fun hst hfail hwalk => ?_, fun a l hst hne => ?_, fun hst hmeet => ?_⟩
    · unfold runKsum
      rw [hst]
      dsimp only
      unfold startKsum
      rw [if_neg (by simp [hfail]), hwalk]
    · intro k hk hmeet hcheck
      exact congrArg _ (runKsum_read hst hne hk hmeet hcheck)
    · unfold runKsum
      rw [hst]
      dsimp only
      rw [hmeet]
      rfl
  · intro z
    rw [blockInt_eq]
    refine ⟨fun hlo hhi => ?_, fun hhi => if_pos (by omega), fun hlo => ?_⟩
    · rw [if_neg (by omega), if_neg (by omega)]
    · rw [if_neg (by omega), if_pos (by omega)]

end Sys2Proof.Machine

/-! Power-up, boot, the quote, the trip and the clock (O52). -/

namespace Sys2Proof.Machine

/-! The routes of a device whose paths are all alive (R285). -/

theorem State.mem_bestRoutes {s : State}
    (hlive : ∀ p ∈ s.paths, p.2.1 < 16 ∧ s.ports.getLsbD p.2.1 = true ∧ p.1 ≠ s.dev.toNat) (r : Nat × Nat) :
    r ∈ s.bestRoutes ↔ ∃ n, (r.1, r.2, n) ∈ s.paths ∧
      ∀ q ∈ s.paths, q.1 = r.1 → n < q.2.2 ∨ (n = q.2.2 ∧ r.2 ≤ q.2.1) := by
  have hall : (s.paths.filter fun p => decide (p.2.1 < 16) && s.ports.getLsbD p.2.1 && p.1 != s.dev.toNat) = s.paths := by
    rw [List.filter_eq_self]
    intro p hp
    obtain ⟨h1, h2, h3⟩ := hlive p hp
    simp [h1, h2, h3]
  have hbest (p : Nat × Nat × Nat) : (s.paths.all fun q => q.1 != p.1 || shorter p q) = true ↔
      ∀ q ∈ s.paths, q.1 = p.1 → p.2.2 < q.2.2 ∨ (p.2.2 = q.2.2 ∧ p.2.1 ≤ q.2.1) := by
    rw [List.all_eq_true]
    refine forall₂_congr fun q _ => ?_
    unfold shorter
    simp [imp_iff_not_or]
  unfold State.bestRoutes
  rw [hall]
  dsimp only
  rw [List.mem_eraseDups, List.mem_map]
  constructor
  · rintro ⟨p, hp, rfl⟩
    obtain ⟨hmem, hp⟩ := List.mem_filter.mp hp
    exact ⟨p.2.2, hmem, (hbest p).mp hp⟩
  · rintro ⟨n, hmem, hp⟩
    exact ⟨(r.1, r.2, n), List.mem_filter.mpr ⟨hmem, (hbest (r.1, r.2, n)).mpr hp⟩, rfl⟩

/-! The header of an image (R264). -/

theorem memBytes_slice (m : Memory) (a k n r : Nat) : ((memBytes m a (k + n + r)).drop k).take n = memBytes m (a + k) n := by
  rw [memBytes_append, memBytes_append, List.append_assoc, List.drop_left' (memBytes_length m a k),
    List.take_left' (memBytes_length m (a + k) n)]

theorem verifyStatus_mem (img : List Byte) : verifyStatus img ∈ ([3, 0x81, 0x82, 0x83, 0x84] : List Nat) := by
  unfold verifyStatus
  dsimp only
  repeat' split
  all_goals simp

/-- Bytes written at the host. -/
theorem State.setHost_mems (s : State) (a : Nat) (bs : List Byte) :
    (s.setBytes (.host a) bs).mem = s.mem ∧ (s.setBytes (.host a) bs).hostMem = memWrite s.hostMem a bs := ⟨rfl, rfl⟩

theorem clock_steps (c : Nat) (up : Bool) (h : c ≤ 1500) :
    ((BitVec.ofNat 32 (if up then (if c + 100 ≤ 1500 then c + 100 else c) else if 900 + 100 ≤ c then c - 100 else c)).toNat) =
      if up then (if c + 100 ≤ 1500 then c + 100 else c) else if 900 + 100 ≤ c then c - 100 else c := by
  rw [BitVec.toNat_ofNat, Nat.mod_eq_of_lt]
  repeat' split
  all_goals omega

/-- Settles O52. -/
theorem bootEvents : Obligations.BootEvents := by
  intro s short dev failed ports paths up
  refine ⟨⟨_, rfl, rfl, rfl, rfl, rfl, rfl, rfl, rfl, rfl⟩, fun hst => ?_, fun hst => ?_, fun hst => ?_, fun hst => ?_,
    fun hst => ?_, fun hst => ?_, rfl, ⟨_, rfl, rfl, rfl, fun hlo hhi => ?_⟩⟩
  · refine ⟨_, congrArg Host.Outcome.next (if_neg (fun h => h hst)), rfl, rfl, ?_⟩
    exact congrArg (fun b => memBytes s.hostMem s.bar.image.toNat (256 + Dec.leNat b))
      (memBytes_slice s.hostMem s.bar.image.toNat 8 4 244)
  · have hexec : exec .verify s = .next (if verifyStatus s.image = 3
        then { s.setStatus 3 with imageHash := imageDigest s.image, recordHash := Config.recordHash }
        else s.setStatus (verifyStatus s.image)) := congrArg Host.Outcome.next (if_neg fun h => h hst)
    by_cases hv : verifyStatus s.image = 3
    · refine ⟨_, hexec.trans (congrArg Host.Outcome.next (if_pos hv)), ?_, rfl, verifyStatus_mem _, fun _ => ⟨rfl, rfl⟩⟩
      rw [hv]
      rfl
    · exact ⟨_, hexec.trans (congrArg Host.Outcome.next (if_neg hv)), rfl, rfl, verifyStatus_mem _, fun h => absurd h hv⟩
  · intro fs cs
    have hexec : exec (.selftest failed) s = .next (if cs.any (·.isNone) then s.setStatus 0x85
        else { s.setStatus 4 with failedQuads := fs, classes := cs.map fun c => c.getD 0 }) :=
      congrArg Host.Outcome.next (if_neg fun h => h hst)
    rw [hexec]
    refine ⟨fun ⟨c, hc, hnone⟩ => congrArg _ (if_pos ?_), fun hall => congrArg _ (if_neg ?_)⟩
    · exact List.any_eq_true.mpr ⟨c, hc, by rw [hnone]; rfl⟩
    · intro h
      obtain ⟨c, hc, hnone⟩ := List.any_eq_true.mp h
      exact hall c hc (Option.isNone_iff_eq_none.mp hnone)
  · have hdram : [0, 1, 2, 3].all Config.dramTrains = true ↔ ∀ d, d < 4 → Config.dramTrains d = true := by
      rw [List.all_eq_true]
      exact forall_congr' fun d => imp_congr_left (by simp; omega)
    let good : State := { s.setStatus 5 with
      freeCount := s.freeCount + 1, ports := ports
      paths := paths.filter fun p => decide (p.1 < 4096) && p.1 != s.dev.toNat && decide (p.2.1 < 16) && ports.getLsbD p.2.1 }
    have hexec : exec (.train ports paths) s = .next (if !([0, 1, 2, 3].all Config.dramTrains) then s.setStatus 0x86
        else if Config.linkFaults s.freeCount then { s.setStatus 0x87 with freeCount := s.freeCount + 1 }
        else { good with routes := good.bestRoutes }) := congrArg Host.Outcome.next (if_neg fun h => h hst)
    rw [hexec]
    refine ⟨fun ⟨d, hd, hfail⟩ => congrArg _ (if_pos ?_), fun hall hlink => congrArg _ ?_, fun hall hlink => ?_⟩
    · rw [Bool.not_eq_true', ← Bool.not_eq_true, hdram]
      intro h
      exact Bool.false_ne_true (hfail.symm.trans (h d hd))
    · rw [hdram.mpr hall, if_neg (by simp), if_pos hlink]
      rfl
    · have hmem (p : Nat × Nat × Nat) : p ∈ good.paths ↔
          p ∈ paths ∧ p.1 < 4096 ∧ p.1 ≠ s.dev.toNat ∧ p.2.1 < 16 ∧ ports.getLsbD p.2.1 = true := by
        refine List.mem_filter.trans (and_congr_right fun _ => ?_)
        simp only [Bool.and_eq_true, decide_eq_true_eq, bne_iff_ne, and_assoc]
      refine ⟨{ good with routes := good.bestRoutes }, congrArg _ ?_, rfl, rfl, rfl, hmem, fun r => ?_⟩
      · rw [hdram.mpr hall, if_neg (by simp), if_neg (by simp [hlink])]
      · refine State.mem_bestRoutes (fun p hp => ?_) r
        obtain ⟨-, -, h1, h2, h3⟩ := (hmem p).mp hp
        exact ⟨h2, h3, h1⟩
  · refine ⟨_, congrArg Host.Outcome.next (if_neg ?_), rfl, rfl, rfl, rfl, rfl, rfl, rfl, rfl⟩
    rcases hst with h | h <;> simp [h]
  · refine ⟨s.setBytes (.host s.bar.quoteaddr.toNat)
      (s.quoteBody ++ (Config.quoteSignature s.quoteBody ++ List.replicate 64 0).take 64),
      (Config.quoteSignature s.quoteBody ++ List.replicate 64 0).take 64,
      ?_, ?_, ?_⟩
    · change execCmdQuote s = _
      unfold execCmdQuote
      rw [if_neg fun h => h hst]
    · simp
    · generalize s.quoteBody ++ _ = bs
      exact s.setHost_mems _ bs
  · have hclock := clock_steps s.bar.clock.toNat up hhi
    dsimp only
    rw [hclock]
    cases up with
    | true =>
      simp only [if_true]
      refine ⟨?_, ?_, fun _ h => if_pos (by omega), nofun⟩ <;> split <;> omega
    | false =>
      simp only [Bool.false_eq_true, if_false]
      refine ⟨?_, ?_, nofun, fun _ h => ?_⟩ <;> split <;> omega

end Sys2Proof.Machine

/-! The host's accesses and commands (O53). -/

namespace Sys2Proof.Machine

/-! A write at the home (R217, R240): what it leaves, and that its memory depends on memory and bindings alone. -/

/-- Only the memory of the package and what is kept beside it differ. -/
def State.Stores (s t : State) : Prop :=
  t = { s with l1 := t.l1, dir := t.dir, proxyDir := t.proxyDir, fills := t.fills, poison := t.poison, checks := t.checks
               mem := t.mem, mx := t.mx }

/-- The same memory and the same bound pages. -/
def State.SameMem (s t : State) : Prop := s.mem = t.mem ∧ s.bindings = t.bindings

theorem foldl_related {α β : Type} {v : β → α → β} (R : β → β → Prop) (hstep : ∀ s t a, R s t → R (v s a) (v t a))
    (l : List α) {s t : β} (h : R s t) : R (l.foldl v s) (l.foldl v t) := by
  induction l generalizing s t with
  | nil => exact h
  | cons a l ih => exact ih (hstep s t a h)

section
variable {s t u : State}

theorem State.Stores.trans (h : s.Stores t) (k : t.Stores u) : s.Stores u := by
  unfold State.Stores at *
  rw [h] at k
  exact k

theorem State.Coh.stores (h : s.Coh t) : s.Stores t := by
  unfold State.Coh at h
  rw [h]
  rfl

theorem State.Coh.sameMem (h : s.Coh t) : t.SameMem s := by
  unfold State.Coh at h
  rw [h]
  exact ⟨rfl, rfl⟩

theorem State.Coh.hostMem (h : s.Coh t) : t.hostMem = s.hostMem := by
  unfold State.Coh at h
  rw [h]

theorem State.store_stores (s : State) (pa : Nat) (bs : List Byte) : s.Stores (s.store pa bs) := by
  unfold State.store State.setBytes
  dsimp only
  generalize memWrite s.mem pa bs = m
  rfl

theorem State.store_mem (s : State) (pa : Nat) (bs : List Byte) :
    (s.store pa bs).mem = memWrite s.mem pa bs ∧ (s.store pa bs).bindings = s.bindings := ⟨rfl, rfl⟩

theorem homeClears_coh (l : List Nat) (s : State) : s.Coh (l.foldl (fun t k => t.homeClear k) s) :=
  State.Coh.foldl l s fun t k => t.homeClear_coh k

theorem widenOne_stores (s : State) (b : Binding) (c v : Nat) : s.Stores (widenOne s b c v) := by
  unfold widenOne
  extract_lets a t u
  have ht : s.Stores t := (homeClears_coh _ s).stores
  have hu : t.Stores u := t.store_stores _ _
  clear_value t u
  exact (ht.trans hu).trans rfl

/-- The signpost's channel, as a widening leaves it. -/
theorem widenOne_mem (s : State) (b : Binding) (c v : Nat) :
    (widenOne s b c v).mem = memWrite s.mem (b.spa + 4 * c) (widenPair (Dec.leNat (memBytes s.mem (b.spa + 4 * c) 2))
      (Dec.leNat (memBytes s.mem (b.spa + 4 * c + 2) 2)) v) ∧ (widenOne s b c v).bindings = s.bindings := by
  obtain ⟨hm, hb⟩ := (homeClears_coh ((Loc.dram (b.spa + 4 * c)).sectors 4) s).sameMem
  unfold widenOne
  dsimp only
  rw [← hm, ← hb]
  exact ⟨(State.store_mem _ _ _).1.trans (by rw [hm]; rfl), rfl⟩

theorem widenOne_related (b : Binding) (c : Nat) {v w : Nat} (hv : v = w) (h : s.SameMem t) :
    (widenOne s b c v).SameMem (widenOne t b c w) := by
  obtain ⟨hm, hb⟩ := h
  obtain ⟨hs, hsb⟩ := widenOne_mem s b c v
  obtain ⟨ht, htb⟩ := widenOne_mem t b c w
  unfold State.SameMem
  rw [hs, ht, hsb, htb, hm, hv]
  exact ⟨rfl, hb⟩

theorem State.widen_stores (s : State) (pa n : Nat) : s.Stores (s.widen pa n) := by
  refine foldl_keeps s.Stores (fun t b h => ?_) _ rfl
  split
  · exact foldl_keeps s.Stores (fun t i h => h.trans (widenOne_stores t _ _ _)) _ h
  · exact h

theorem State.widen_related (pa n : Nat) (h : s.SameMem t) : (s.widen pa n).SameMem (t.widen pa n) := by
  unfold State.widen
  rw [h.2]
  refine foldl_related State.SameMem (fun s t b h => ?_) _ h
  split
  · refine foldl_related State.SameMem (fun s t i h => ?_) _ h
    exact widenOne_related _ _ (by rw [State.rd, State.rd, h.1]) h
  · exact h

theorem State.homeWrite_stores (s : State) (pa : Nat) (bs : List Byte) : s.Stores (s.homeWrite (.dram pa) bs) :=
  (((homeClears_coh _ s).stores.trans (State.store_stores _ pa bs))).trans (State.widen_stores _ pa bs.length)

/-- The memory after a write depends on memory and bindings alone. -/
theorem State.homeWrite_related (pa : Nat) (bs : List Byte) (h : s.SameMem t) :
    (s.homeWrite (.dram pa) bs).mem = (t.homeWrite (.dram pa) bs).mem := by
  have hstore : ((((Loc.dram pa).sectors bs.length).foldl (fun t k => t.homeClear k) s).store pa bs).SameMem
      ((((Loc.dram pa).sectors bs.length).foldl (fun t k => t.homeClear k) t).store pa bs) := by
    obtain ⟨h1, h2⟩ := (homeClears_coh ((Loc.dram pa).sectors bs.length) s).sameMem
    obtain ⟨k1, k2⟩ := (homeClears_coh ((Loc.dram pa).sectors bs.length) t).sameMem
    unfold State.SameMem
    rw [(State.store_mem _ _ _).1, (State.store_mem _ _ _).1, (State.store_mem _ _ _).2, (State.store_mem _ _ _).2, h1, h2, k1, k2,
      h.1, h.2]
    exact ⟨rfl, rfl⟩
  exact (State.widen_related pa bs.length hstore).1

theorem State.Stores.host (h : s.Stores t) : t.hostLines = s.hostLines ∧ t.snoops = s.snoops := by
  unfold State.Stores at h
  rw [h]
  exact ⟨rfl, rfl⟩

end

/-! Bits of SYNC (R258). -/

theorem State.syncBit_bits (s : State) {b : Nat} (hb : b < 32) (v : Bool) (n : Nat) :
    (s.syncBit b v).bar.sync.getLsbD n = if n = b then v else s.bar.sync.getLsbD n := by
  unfold State.syncBit
  cases v with
  | true =>
    simp only [if_true, BitVec.getLsbD_or, BitVec.getLsbD_shiftLeft, BitVec.getLsbD_one]
    by_cases hn : n = b
    · subst hn
      simp [hb]
    · rw [if_neg hn]
      have : ¬(n - b = 0 ∧ b ≤ n) := by omega
      simp
      omega
  | false =>
    simp only [Bool.false_eq_true, if_false, BitVec.getLsbD_and, BitVec.getLsbD_not, BitVec.getLsbD_shiftLeft, BitVec.getLsbD_one]
    by_cases hn : n = b
    · subst hn
      simp [hb]
    · rw [if_neg hn]
      by_cases h32 : n < 32
      · simp [h32]
        omega
      · simp [BitVec.getLsbD_of_ge _ _ (Nat.not_lt.mp h32)]

/-! Registers (R258). -/

/-- FAULTQ's write lets the records that waited for it be written. -/
theorem writeFaults_stand (l : List FaultRec) (s : State) :
    (l.foldl writeFault s).bar.faultq = s.bar.faultq ∧ (l.foldl writeFault s).mem = s.mem ∧
    (l.foldl writeFault s).fibres = s.fibres ∧ (l.foldl writeFault s).bar.status = s.bar.status := by
  refine foldl_keeps (fun (t : State) => t.bar.faultq = s.bar.faultq ∧ t.mem = s.mem ∧ t.fibres = s.fibres ∧
    t.bar.status = s.bar.status) (fun t r h => ?_) l ⟨rfl, rfl, rfl, rfl⟩
  unfold writeFault
  split
  · exact h
  · unfold State.setBytes
    dsimp only
    generalize memWrite _ _ _ = m
    exact h

/-! Bias (R260, R261). -/

section
variable {s : State} {w : DWord}

theorem biasHas_page (p : Nat) : biasHas w (64 * p) = true ↔ biasPage w ≤ p ∧ p < biasPage w + biasCount w := by
  unfold biasHas
  rw [Nat.mul_div_cancel_left p (by omega)]
  simp

theorem mem_biasPages (p : Nat) :
    p ∈ (List.range (biasCount w)).map (· + biasPage w) ↔ biasPage w ≤ p ∧ p < biasPage w + biasCount w := by
  rw [List.mem_map]
  constructor
  · rintro ⟨i, hi, rfl⟩
    have := List.mem_range.mp hi
    omega
  · rintro ⟨hlo, hhi⟩
    exact ⟨p - biasPage w, List.mem_range.mpr (by omega), by omega⟩

/-- The bits that a flip that is over leaves. -/
theorem biasEnd_bits (s : State) (w : DWord) (u : State) (h : u.bar = (s.biasStart w).bar) :
    u.biasEnd.bar.sync.getLsbD 1 = false ∧ u.biasEnd.bar.sync.getLsbD 2 = false := by
  have hbits (n : Nat) : u.biasEnd.bar.sync.getLsbD n = if n = 1 then false else u.bar.sync.getLsbD n :=
    State.syncBit_bits { u with biasCmd := none } (by omega) false n
  refine ⟨by rw [hbits, if_pos rfl], ?_⟩
  rw [hbits, if_neg (by omega), h]
  unfold State.biasStart
  rw [State.syncBit_bits _ (by omega), if_pos rfl]

theorem State.biasRecall_coh (s : State) (w : DWord) : s.Coh (s.biasRecall w) :=
  State.Coh.foldl _ s fun t d => t.homeClear_coh d.sector

theorem biasToHost_done (hw : 2 ^ 63 ≤ w.toNat) (href : s.biasRefused w = false) (hwait : s.biasWaits w = false) :
    ∃ u, exec (.biasToHost w) s = .next u ∧ u.biasCmd = none ∧ u.mem = s.mem ∧
      (∀ n, biasPage w ≤ n → n < biasPage w + biasCount w → n ∈ u.hostBias) ∧
      (∀ n, ¬(biasPage w ≤ n ∧ n < biasPage w + biasCount w) → (n ∈ u.hostBias ↔ n ∈ s.hostBias)) ∧
      u.bar.sync.getLsbD 1 = false ∧ u.bar.sync.getLsbD 2 = false := by
  let pages := (List.range (biasCount w)).map (· + biasPage w)
  let v : State := { (s.biasStart w).biasRecall w with
    hostBias := pages ++ (s.biasStart w).hostBias.filter fun p => !pages.contains p }
  have hgo : (s.biasStart w).biasGo = v.biasEnd := by
    unfold State.biasGo
    rw [show (s.biasStart w).biasCmd = some w from rfl]
    dsimp only
    rw [if_pos hw, if_neg (by rw [show (s.biasStart w).biasWaits w = s.biasWaits w from rfl, hwait]; exact Bool.false_ne_true)]
  have hcoh := (s.biasStart w).biasRecall_coh w
  unfold State.Coh at hcoh
  have hmem : v.mem = s.mem := by
    unfold v
    rw [hcoh]
    rfl
  have hbar : v.bar = (s.biasStart w).bar := by
    unfold v
    rw [hcoh]
  obtain ⟨h1, h2⟩ := biasEnd_bits s w v hbar
  have hin (n : Nat) : n ∈ v.biasEnd.hostBias ↔ n ∈ pages ∨ (n ∈ s.hostBias ∧ n ∉ pages) := by
    refine List.mem_append.trans (or_congr_right (List.mem_filter.trans (and_congr_right fun _ => ?_)))
    simp
  have hpages (n : Nat) : n ∈ pages ↔ biasPage w ≤ n ∧ n < biasPage w + biasCount w := mem_biasPages n
  refine ⟨v.biasEnd, ?_, rfl, hmem, fun n hlo hhi => (hin n).mpr (.inl ((hpages n).mpr ⟨hlo, hhi⟩)), fun n hn => ?_, h1, h2⟩
  · refine (congrArg Host.Outcome.next (if_neg (Nat.not_lt.mpr hw))).trans (congrArg _ ?_)
    unfold State.biasCommand
    rw [href, if_neg Bool.false_ne_true, hgo]
  · rw [hin, hpages]
    simp only [hn, false_or, not_false_eq_true, and_true]

theorem biasToDevice_done (hw : w.toNat < 2 ^ 63) (href : s.biasRefused w = false)
    (hheld : ∀ x ∈ s.hostLines, biasHas w x.1 = false) :
    ∃ u, exec (.biasToDevice w) s = .next u ∧ u.biasCmd = none ∧ u.mem = s.mem ∧
      (∀ n, n ∈ u.hostBias ↔ n ∈ s.hostBias ∧ ¬(biasPage w ≤ n ∧ n < biasPage w + biasCount w)) ∧
      u.bar.sync.getLsbD 1 = false ∧ u.bar.sync.getLsbD 2 = false := by
  let v : State := { s.biasStart w with hostBias := s.hostBias.filter fun p => !biasHas w (64 * p) }
  have hnone : (s.biasStart w).hostLines.filter (fun h => biasHas w h.1) = [] := by
    rw [List.filter_eq_nil_iff]
    intro x hx
    rw [hheld x hx]
    exact Bool.false_ne_true
  have hgo : (s.biasStart w).biasGo = v.biasEnd := by
    unfold State.biasGo
    rw [show (s.biasStart w).biasCmd = some w from rfl]
    dsimp only
    rw [if_neg (Nat.not_le.mpr hw), hnone]
    rfl
  obtain ⟨h1, h2⟩ := biasEnd_bits s w v rfl
  refine ⟨v.biasEnd, ?_, rfl, rfl, fun n => ?_, h1, h2⟩
  · refine (congrArg Host.Outcome.next (if_neg (Nat.not_le.mpr hw))).trans (congrArg _ ?_)
    unfold State.biasCommand
    rw [href, if_neg Bool.false_ne_true, hgo]
  · refine List.mem_filter.trans (and_congr_right fun _ => ?_)
    rw [← biasHas_page, Bool.not_eq_true', Bool.not_eq_true]

end

/-! Key pages (R239). -/

section
variable {s : State} {kw : Word}

theorem State.unshare_coh (s : State) (page : Nat) : s.Coh (s.unshare page) :=
  State.Coh.foldl _ s fun t d => t.homeClear_coh d.sector

theorem exec_keybindBind (hk : Dec.fld kw.toNat 31 1 = 0) (href : bindRefused s kw = false) :
    ∃ u, exec (.keybindBind kw) s = .next u ∧ u.mem = s.mem ∧ u.bar.sync.getLsbD 4 = false ∧
      u.bindings = bindPages s kw ++ s.bindings.filter fun b => !((bindPages s kw).any fun c => c.page == b.page) := by
  let v : State := { s with
    bindings := bindPages s kw ++ s.bindings.filter fun b => !((bindPages s kw).any fun c => c.page == b.page) }
  have hcoh : v.Coh ((bindPages s kw).foldl (fun t b => t.unshare b.page) v) := State.Coh.foldl _ v fun t b => t.unshare_coh b.page
  refine ⟨((bindPages s kw).foldl (fun t b => t.unshare b.page) v).syncBit 4 false, ?_, ?_, ?_, ?_⟩
  · refine congrArg Host.Outcome.next ((if_neg (by omega)).trans (if_neg ?_))
    rw [href]
    exact Bool.false_ne_true
  · exact hcoh.mem
  · exact (State.syncBit_bits _ (by omega) false 4).trans (if_pos rfl)
  · exact hcoh.sameMem.2

theorem exec_keybindUnbind (hk : Dec.fld kw.toNat 31 1 = 1) (href : bindRefused s kw = false) :
    ∃ u, exec (.keybindUnbind kw) s = .next u ∧ u.mem = s.mem ∧ u.bar.sync.getLsbD 4 = false ∧
      ∀ b, b ∈ u.bindings ↔ b ∈ s.bindings ∧
        ¬(s.bar.keypa.toNat / 16384 ≤ b.page ∧ b.page ≤ s.bar.keypa.toNat / 16384 + kw.toNat % 2 ^ 24) := by
  refine ⟨_, congrArg Host.Outcome.next ((if_neg (fun h => h hk)).trans (if_neg ?_)), rfl,
    (State.syncBit_bits _ (by omega) false 4).trans (if_pos rfl), fun b => ?_⟩
  · rw [href]
    exact Bool.false_ne_true
  · refine List.mem_filter.trans (and_congr_right fun _ => ?_)
    rw [Bool.not_eq_true', ← Bool.not_eq_true, not_iff_not]
    simp

end

/-! The host's accesses (R257, R260). -/

section
variable {s : State} {addr line : Nat} {data : List Byte}

theorem checkRead_whole {pa n : Nat} (agent : Nat) (h : ∀ k ∈ sectorsOf pa n, s.mismatch k = false ∧ k ∉ s.poison) :
    checkRead s (.dram pa) n agent = (s, []) := by
  have hfold (l : List Nat) (hl : ∀ k ∈ l, s.mismatch k = false ∧ k ∉ s.poison) :
      l.foldl (fun (s : State) k => if s.mismatch k && !s.poison.contains k then
        makeError { s with poison := k :: s.poison } 0x01 agent (homeDie (64 * k)) (64 * k) else s) s = s := by
    induction l with
    | nil => rfl
    | cons k l ih =>
      rw [List.foldl_cons, if_neg (by rw [(hl k List.mem_cons_self).1]; exact Bool.false_ne_true)]
      exact ih fun k hk => hl k (List.mem_cons_of_mem _ hk)
  unfold checkRead
  dsimp only
  rw [hfold _ h]
  refine congrArg (Prod.mk s) (List.filter_eq_nil_iff.mpr fun k hk => ?_)
  simpa using (h k hk).2

theorem exec_hostMemRead {len : Nat} (hin : inDram addr len = true) (hflip : s.flippingAny addr len = false)
    (hmeet : s.meet (.dram addr) len 0 false = (s, .go))
    (hgood : ∀ k ∈ sectorsOf addr len, s.mismatch k = false ∧ k ∉ s.poison) :
    ∃ u, exec (.hostMemRead addr len .uncached) s = .next u ∧ u.mem = s.mem ∧
      u.replies = s.replies ++ [0 :: memBytes s.mem addr len] := by
  have hcoh := s.peekAll_coh (.dram addr) len
  unfold State.Coh at hcoh
  have hwhole : ∀ k ∈ sectorsOf addr len, (s.peekAll (.dram addr) len).mismatch k = false ∧ k ∉ (s.peekAll (.dram addr) len).poison := by
    rw [hcoh]
    exact hgood
  have hmem : (s.peekAll (.dram addr) len).mem = s.mem := by rw [hcoh]
  have hrep : (s.peekAll (.dram addr) len).replies = s.replies := by rw [hcoh]
  refine ⟨(s.peekAll (.dram addr) len).reply (memBytes s.mem addr len), ?_, hmem, congrArg (· ++ _) hrep⟩
  refine congrArg Host.Outcome.next ((if_neg (by simp [hin])).trans ((if_neg (by simp [hflip])).trans ?_))
  rw [show (HostWant.uncached == HostWant.exclusive) = false from rfl, hmeet]
  dsimp only
  rw [if_neg (by simp)]
  unfold State.peerRead
  rw [checkRead_whole _ hwhole]
  dsimp only
  rw [hmem]
  rfl

theorem State.hostWrite_go {n : Nat} {v : State → State} (hmeet : s.meet (.dram addr) n 0 true = (s, .go))
    (hpin : s.pinned (.dram addr) n = false) (hsign : s.hostHas (s.signSectors (.dram addr) n) true = []) :
    s.hostWrite addr n v = v s := by
  have hserve : s.mayServe (.dram addr) n true = true := by
    unfold State.mayServe
    rw [hpin]
    rfl
  unfold State.hostWrite
  rw [hmeet]
  dsimp only
  rw [hsign, hserve]
  rfl

theorem exec_hostMemWrite (hin : inDram addr data.length = true) (hne : data ≠ []) (hflip : s.flippingAny addr data.length = false)
    (hmeet : s.meet (.dram addr) data.length 0 true = (s, .go)) (hpin : s.pinned (.dram addr) data.length = false)
    (hsign : s.hostHas (s.signSectors (.dram addr) data.length) true = []) :
    ∃ u, exec (.hostMemWrite addr data) s = .next u ∧ u.mem = (s.homeWrite (.dram addr) data).mem ∧
      ∀ k ∈ sectorsOf addr data.length, ∀ h ∈ u.hostLines, h.1 ≠ k := by
  refine ⟨(sectorsOf addr data.length).foldl (fun t k => t.setHostLine k none) (s.homeWrite (.dram addr) data), ?_, ?_,
    fun k hk => ?_⟩
  · refine congrArg Host.Outcome.next ((if_neg ?_).trans (State.hostWrite_go hmeet hpin hsign))
    simp [hin, hne, hflip]
  · exact foldl_keeps (v := fun (t : State) k => t.setHostLine k none)
      (fun (t : State) => t.mem = (s.homeWrite (.dram addr) data).mem) (fun _ _ h => h) _ rfl
  · refine foldl_settles (fun k (t : State) => ∀ h ∈ t.hostLines, h.1 ≠ k) (fun t k h hm => ?_) (fun t k q hq h hm => ?_) hk _
    · simpa using (List.mem_filter.mp hm).2
    · exact hq h (List.mem_filter.mp hm).1

/-- The host's copy after its answer to a snoop (R260). -/
def State.snooped (s : State) (line : Nat) (p : Nat × Bool) : State :=
  { s with snoops := s.snoops.erase p }.setHostLine line
    (if p.2 || !(s.hostLines.any fun h => h.1 == line) then none else some .s)

theorem State.snooped_hostLines {p : Nat × Bool} (hp : p.2 = true) : ∀ h ∈ (s.snooped line p).hostLines, h.1 ≠ line := by
  intro h hm
  unfold State.snooped at hm
  rw [hp] at hm
  simpa using (List.mem_filter.mp hm).2

theorem exec_hostSnoopResponse {p : Nat × Bool} (hp : (s.snoops.find? fun q => q.1 == line) = some p) :
    exec (.hostSnoopResponse line data) s = .next
      (if (s.hostLines.any fun h => h.1 == line && h.2 == .e) && data.length == 64 then
        s.hostWrite (64 * line) 64 fun t => (t.snooped line p).homeWrite (.dram (64 * line)) data
      else s.snooped line p) := by
  change Host.Outcome.next _ = _
  rw [hp]
  rfl

/-! Graphs (R275 to R277). -/

theorem meetLocs_reads (writes : Bool) (ls : List (Loc × Nat)) (s : State) : s.Reads (meetLocs s writes ls).1 := by
  induction ls generalizing s with
  | nil => exact State.Reads.refl s
  | cons p ls ih =>
    obtain ⟨l, n⟩ := p
    have hm := State.meet_reads (s := s) l n 0 writes
    unfold meetLocs
    revert hm
    rcases s.meet l n 0 writes with ⟨t, _ | _⟩
    all_goals intro hm
    all_goals dsimp only
    · split
      · exact hm.trans (t.snoop_reads _)
      · split
        · exact hm
        · exact hm.trans (ih t)
    · exact hm

theorem State.readSpans_reads (s : State) (spans : List (Loc × Nat)) : s.Reads (s.readSpans spans).1 := by
  refine foldl_keeps (fun (r : State × Bool) => s.Reads r.1) (fun r p h => ?_) _ (State.Reads.refl s)
  exact h.trans ((r.1.peekAll_coh p.1 p.2).reads.trans (checkRead_reads _ _ _ _))

end

section
variable {s t y : State} {v w : DWord}

theorem regIndex_eq (w : DWord) : regIndex w = w.toNat / 2 ^ 52 := by
  have h := w.isLt
  unfold regIndex Dec.fld
  omega

theorem kickGraph_eq (w : DWord) : kickGraph w = w.toNat / 2 ^ 52 := regIndex_eq w

/-- The write of GRAPHREG stands from now on. -/
def State.registering (s : State) (v : DWord) : State :=
  if v ∈ s.graphRegs then s
  else { s with graphRegs := (s.graphRegs.filter fun x => regIndex x != v.toNat / 2 ^ 52) ++ [v] }

theorem State.registering_stands (s : State) (v : DWord) :
    v ∈ (s.registering v).graphRegs ∧ (s.registering v).graphs = s.graphs ∧ (s.registering v).mem = s.mem := by
  unfold State.registering
  split
  · next h => exact ⟨h, rfl, rfl⟩
  · exact ⟨List.mem_append_right _ List.mem_cons_self, rfl, rfl⟩

theorem exec_graphreg (hst : s.bar.status = 5) (hpa : v.toNat % 2 ^ 52 ≠ 0) (hin : inDram (v.toNat % 2 ^ 52) 64 = true) :
    exec (.graphreg v) s = .next ((s.registering v).onReads ((s.registering v).graphSpans (v.toNat % 2 ^ 52)) fun s whole =>
      s.setGraph (v.toNat / 2 ^ 52) (some ⟨v.toNat / 2 ^ 52, v.toNat % 2 ^ 52, !(whole && s.graphOk (v.toNat % 2 ^ 52))⟩)) := by
  have hq : (if s.graphRegs.contains v then s
      else { s with graphRegs := (s.graphRegs.filter fun x => regIndex x != v.toNat / 2 ^ 52) ++ [v] }) = s.registering v := by
    unfold State.registering
    simp only [List.contains_iff_mem]
  change Host.Outcome.next _ = _
  unfold regAt
  dsimp only
  rw [regIndex_eq, if_neg (fun h => h hst), if_neg hpa, if_neg (fun h => by rw [hin] at h; cases h), hq]

theorem State.Reads.graph (h : s.Reads t) : t.graphs = s.graphs ∧ t.graphRegs = s.graphRegs ∧ t.mem = s.mem ∧
    t.launches = s.launches ∧ t.copies = s.copies := by
  unfold State.Reads at h
  rw [h]
  exact ⟨rfl, rfl, rfl, rfl, rfl⟩

theorem State.graphOk_of_mem (h : t.mem = s.mem) (pa : Nat) : t.graphOk pa = s.graphOk pa := by
  unfold State.graphOk State.gnodes State.nnodes State.gnode State.rd
  rw [h]

theorem State.gnode_of_mem (h : t.mem = s.mem) (pa n : Nat) : t.gnode pa n = s.gnode pa n := by
  unfold State.gnode State.rd
  rw [h]

/-- A registration that is settled is the only one of its index, and none waits for it. -/
theorem State.setGraph_settles (s : State) (i : Nat) (g : Graph) :
    (s.setGraph i (some g)).mem = s.mem ∧ (∀ x ∈ (s.setGraph i (some g)).graphRegs, x.toNat / 2 ^ 52 ≠ i) ∧
    (s.setGraph i (some g)).graphs = g :: s.graphs.filter fun x => x.index != i := by
  refine ⟨rfl, fun x hx => ?_, rfl⟩
  have h := (List.mem_filter.mp hx).2
  rw [regIndex_eq] at h
  simpa using h

theorem State.onReads_wait {spans : List (Loc × Nat)} {k : State → Bool → State}
    (h : meetLocs s false (spans.filter fun x => x.2 ≠ 0) = (t, false)) : s.onReads spans k = t := by
  unfold State.onReads State.onSpans
  rw [h]
  rfl

theorem State.onReads_go {whole : Bool} {spans : List (Loc × Nat)} {k : State → Bool → State}
    (h : meetLocs s false (spans.filter fun x => x.2 ≠ 0) = (t, true)) (hr : t.readSpans spans = (y, whole)) :
    s.onReads spans k = k y whole := by
  unfold State.onReads State.onSpans
  rw [h]
  dsimp only
  rw [if_pos rfl, hr]

/-! Kicks and nodes (R276, R277). -/

/-- A kick of a graph that has a replay running, or whose registration waits, is only queued. -/
theorem State.nextKick_queued {i : Nat} (h : (s.replay? i).isSome = true ∨ (s.regWaits i).isSome = true) : s.nextKick i = s := by
  unfold State.nextKick
  split
  · exact if_pos (by simpa using h)
  · rfl

theorem exec_kick {g : Graph} (hg : s.kickOf (w.toNat / 2 ^ 52) = some g) (hst : s.bar.status = 5) :
    exec (.kick w) s = .next (if g.bad then s.endKick g 0x46
      else if 16 ≤ (s.kicks.filter fun v => kickGraph v == g.index).length then s.endKick g 0x47
      else { s with kicks := s.kicks ++ [w] }.nextKick g.index) := by
  change Host.Outcome.next _ = _
  rw [kickGraph_eq, hg]
  exact congrArg Host.Outcome.next (if_neg fun h => h hst)

theorem exec_nodeComplete {g : Graph} {r : Replay} {node : Nat} {whole : Bool} (hends : s.kickEnds = [])
    (hr : s.replay? g.index = some r)
    (hobj : meetLocs s false ((s.graphSpans r.pa).filter fun q => q.2 ≠ 0) = (s, true))
    (htab : meetLocs s false ((s.tableSpans r.pa).filter fun q => q.2 ≠ 0) = (s, true))
    (hread : s.readSpans (s.tableSpans r.pa) = (t, whole)) (hrun : r.node node = .running) (hkind : (s.gnode r.pa node).kind < 2)
    (hover : s.nodeOver r (s.gnode r.pa node).kind node = true) :
    exec (.nodeComplete g.index node) s =
      .next (if whole = true then (t.nodeDone r.pa r node []).graphEnds g.index else t.tableLost r node) := by
  have hends' : s.recordEnds = s := by
    unfold State.recordEnds
    rw [hends]
    rfl
  have hreads := s.readSpans_reads (s.tableSpans r.pa)
  rw [hread] at hreads
  obtain ⟨-, -, hmem, hl, hc⟩ := hreads.graph
  have hdone : t.nodeOver r (t.gnode r.pa node).kind node = true := by
    rw [State.gnode_of_mem hmem]
    unfold State.nodeOver at hover ⊢
    rw [hl, hc]
    exact hover
  change Host.Outcome.next _ = _
  rw [hends']
  dsimp only
  rw [hr]
  dsimp only
  unfold State.onSpans
  rw [hobj]
  dsimp only
  rw [if_pos rfl, State.onReads_go htab hread]
  refine congrArg Host.Outcome.next ?_
  cases whole with
  | false => rfl
  | true =>
    rw [if_neg (by simp), if_neg (by simp [hrun, hdone]), if_pos rfl]
    exact if_pos (by rw [State.gnode_of_mem hmem]; exact hkind)

end

/-- Settles O53. -/
theorem hostEvents : Obligations.HostEvents := by
  intro s off addr len line node v w kw data p g r t y
  refine ⟨fun hoff => ?_, fun hoff => ?_, fun hoff => ?_, fun hw href hwait => biasToHost_done hw href hwait,
    fun hw href hheld => biasToDevice_done hw href hheld, fun href op hop hdir => ?_, exec_keybindBind, exec_keybindUnbind,
    exec_hostMemRead, exec_hostMemWrite, fun hp => ?_, ?_, ?_, fun hfree hlen ex => ?_, fun hst hpa hin => ?_,
    fun x hx hst hfew => ?_, fun hg hwait hst => ?_, fun hends hr hrun hkind hobj htab hover => ?_⟩
  · simp only [List.mem_cons, List.not_mem_nil, or_false] at hoff
    rcases hoff with rfl | rfl | rfl | rfl | rfl | rfl | rfl
    all_goals exact ⟨_, rfl, rfl, rfl, rfl⟩
  · simp only [List.mem_cons, List.not_mem_nil, or_false] at hoff
    rcases hoff with rfl | rfl | rfl | rfl | rfl | rfl | rfl
    all_goals rfl
  · subst hoff
    obtain ⟨hq, hm, hf, hs⟩ := writeFaults_stand s.faults { s with bar := { s.bar with faultq := v } }
    exact ⟨_, rfl, hq, hm, hf, hs⟩
  · rcases List.mem_pair.mp hop with rfl | rfl
    · refine congrArg Host.Outcome.next ((if_neg (Nat.not_lt.mpr (hdir.mp rfl))).trans ?_)
      exact if_pos href
    · refine congrArg Host.Outcome.next ((if_neg fun h => ?_).trans (if_pos href))
      cases hdir.mpr h
  · intro answered
    rw [show answered = fun u => exec (.hostSnoopResponse line data) s = .next u ∧ u.snoops = s.snoops.erase p ∧
      (p.2 = true → ∀ h ∈ u.hostLines, h.1 ≠ line) from rfl, exec_hostSnoopResponse hp]
    refine ⟨fun hclean => ?_, fun ⟨h, hm, hline, he⟩ hlen hmeet hpin hsign => ?_⟩
    · have hany : (s.hostLines.any fun h => h.1 == line && h.2 == .e) = false := by
        rw [List.any_eq_false]
        intro h hm
        simp only [Bool.and_eq_true, beq_iff_eq, not_and]
        exact hclean h hm
      rw [hany]
      exact ⟨s.snooped line p, ⟨rfl, rfl, State.snooped_hostLines⟩, rfl⟩
    · have hany : (s.hostLines.any fun h => h.1 == line && h.2 == .e) = true :=
        List.any_eq_true.mpr ⟨h, hm, by simp [hline, he]⟩
      have hstores := (s.snooped line p).homeWrite_stores (64 * line) data
      obtain ⟨hlines, hsnoops⟩ := hstores.host
      have hwhole : (true && (64 : Nat) == 64) = true := rfl
      rw [hany, hlen, if_pos hwhole, State.hostWrite_go hmeet hpin hsign]
      refine ⟨_, ⟨rfl, hsnoops, fun h2 => ?_⟩, State.homeWrite_related (64 * line) data ⟨rfl, rfl⟩⟩
      rw [hlines]
      exact State.snooped_hostLines h2
  · refine ⟨{ s.homeClear (hostSector + line) with cxlLines := s.cxlLines.filter fun c => c.1 != line }, rfl, fun c hc => ?_,
      ?_, homeClear_dirAt s _, fun x hx => s.homeClear_l1At hx⟩
    · simpa using (List.mem_filter.mp hc).2
    · exact (s.homeClear_coh (hostSector + line)).hostMem
  · refine ⟨{ s.homePeek (hostSector + line) with
      cxlLines := s.cxlLines.map fun c => if c.1 = line then (line, .s) else c }, rfl, fun c hc hline => ?_, ?_⟩
    · obtain ⟨c, -, rfl⟩ := List.mem_map.mp hc
      split
      · rfl
      · next h =>
        rw [if_neg h] at hline
        exact absurd hline h
    · exact (s.homePeek_coh (hostSector + line)).hostMem
  · have hnone : (s.cxlLines.find? fun c => c.1 == line) = none := by
      rw [List.find?_eq_none]
      intro c hc
      simpa using hfree c hc
    refine ⟨{ s.setBytes (.host (64 * line)) data with
      cxlLines := (line, if ex then .e else .s) :: s.cxlLines.filter fun c => c.1 != line }, ?_, List.mem_cons_self,
      (s.setHost_mems (64 * line) data).2, (s.setHost_mems (64 * line) data).1⟩
    change Host.Outcome.next _ = _
    rw [hnone]
    dsimp only
    rw [if_pos hlen]
  · intro pa q
    obtain ⟨hv, hgraphs, hqmem⟩ := s.registering_stands v
    have hq : q = s.registering v := rfl
    clear_value q
    subst hq
    rw [exec_graphreg hst hpa hin]
    refine ⟨fun hwait => ?_, fun whole hgo hread => ?_⟩
    · have hreads := meetLocs_reads false (((s.registering v).graphSpans pa).filter fun x => x.2 ≠ 0) (s.registering v)
      rw [hwait] at hreads
      obtain ⟨h1, h2, -⟩ := hreads.graph
      exact ⟨congrArg _ (State.onReads_wait hwait), h2.symm ▸ hv, h1.trans hgraphs⟩
    · have hreads := meetLocs_reads false (((s.registering v).graphSpans pa).filter fun x => x.2 ≠ 0) (s.registering v)
      rw [hgo] at hreads
      have hreads' := t.readSpans_reads ((s.registering v).graphSpans pa)
      rw [hread] at hreads'
      obtain ⟨h1, h2, h3, -⟩ := (hreads.trans hreads').graph
      obtain ⟨k1, k2, k3⟩ := y.setGraph_settles (v.toNat / 2 ^ 52)
        ⟨v.toNat / 2 ^ 52, pa, !(whole && y.graphOk pa)⟩
      refine ⟨_, congrArg _ (State.onReads_go hgo hread), k1.trans (h3.trans hqmem), k2, ?_⟩
      rw [k3, h1, hgraphs, State.graphOk_of_mem (h3.trans hqmem)]
  · have hof : s.kickOf (w.toNat / 2 ^ 52) = some ⟨w.toNat / 2 ^ 52, regAt x, false⟩ := by
      unfold State.kickOf
      rw [hx]
    rw [exec_kick hof hst, if_neg (by simp), if_neg (Nat.not_le.mpr hfew)]
    refine congrArg Host.Outcome.next (State.nextKick_queued (.inr ?_))
    rw [show State.regWaits { s with kicks := s.kicks ++ [w] } (w.toNat / 2 ^ 52) = some x from hx]
    rfl
  · intro queued
    have hof : s.kickOf (w.toNat / 2 ^ 52) = some g := by
      unfold State.kickOf
      rw [hwait]
      exact hg
    rw [exec_kick hof hst]
    refine ⟨fun hbad => congrArg _ (if_pos hbad), fun hbad hfull => ?_, fun hbad hfew hrep => ?_⟩
    · rw [hbad, if_neg (by simp), if_pos hfull]
    · rw [hbad, if_neg (by simp), if_neg (Nat.not_le.mpr hfew)]
      exact congrArg Host.Outcome.next (State.nextKick_queued (.inl hrep))
  · refine ⟨fun hread => ?_, fun hread => ?_⟩
    · exact exec_nodeComplete hends hr hobj htab hread hrun hkind hover
    · exact exec_nodeComplete hends hr hobj htab hread hrun hkind hover

end Sys2Proof.Machine

/-! The steps of the Square: blocks placed, retired, saved and restored, launches and translations (O54). -/

namespace Sys2Proof.Machine

/-! What a launch's record and a block's read after an update. -/

section
variable {s t u : State}

/-- Only launches differ. -/
def State.Launches (s t : State) : Prop := t = { s with launches := t.launches }

theorem State.Launches.refl (s : State) : s.Launches s := rfl

theorem State.Launches.trans (h : s.Launches t) (k : t.Launches u) : s.Launches u := by
  unfold State.Launches at *
  rw [h] at k
  exact k

theorem State.setLaunch_launches (s : State) (l : Launch) : s.Launches (s.setLaunch l) := rfl

theorem State.reserve_launches (s : State) : s.Launches s.reserve := by
  refine foldl_keeps s.Launches (fun t k h => ?_) _ (State.Launches.refl s)
  split
  · split
    · exact h.trans (t.setLaunch_launches _)
    · exact h
  · exact h

theorem State.moveToken_launches (s : State) (id n : Nat) : s.Launches (s.moveToken id n) := by
  induction n generalizing s with
  | zero => exact State.Launches.refl s
  | succ n ih =>
    unfold State.moveToken
    split
    · split
      · exact (s.setLaunch_launches _).trans (ih _)
      · exact State.Launches.refl s
    · exact State.Launches.refl s

theorem State.setLaunch_launch? {l m : Launch} (h : s.launch? l.id = some m) : (s.setLaunch l).launch? l.id = some l := by
  unfold State.launch? State.setLaunch at *
  revert h
  induction s.launches with
  | nil => exact nofun
  | cons k ks ih =>
    intro h
    by_cases hk : k.id = l.id
    · rw [List.map_cons, if_pos hk, List.find?_cons_of_pos (by simp)]
    · rw [List.find?_cons_of_neg (by simpa using hk)] at h
      rw [List.map_cons, if_neg hk, List.find?_cons_of_neg (by simpa using hk)]
      exact ih h

theorem State.overtake_launch? {l m : Launch} {n : Nat} (h : s.launch? n = some m) : ∃ k, (s.overtake l).launch? n = some k := by
  unfold State.launch? State.overtake at *
  revert h
  induction s.launches with
  | nil => exact nofun
  | cons k ks ih =>
    intro h
    rw [List.map_cons]
    by_cases hk : k.id = n
    · refine ⟨_, List.find?_cons_of_pos ?_⟩
      split <;> simpa using hk
    · rw [List.find?_cons_of_neg (by simpa using hk)] at h
      obtain ⟨x, hx⟩ := ih h
      refine ⟨x, (List.find?_cons_of_neg ?_).trans hx⟩
      split <;> simpa using hk

theorem State.setBlock_block? {b m : Block} (h : s.block? b.launch b.id = some m) :
    (s.setBlock b).block? b.launch b.id = some b := by
  unfold State.block? State.setBlock at *
  revert h
  induction s.blocks with
  | nil => exact nofun
  | cons k ks ih =>
    intro h
    by_cases hk : k.launch = b.launch ∧ k.id = b.id
    · rw [List.map_cons, if_pos hk, List.find?_cons_of_pos (by simp)]
    · rw [List.find?_cons_of_neg (by simpa using hk)] at h
      rw [List.map_cons, if_neg hk, List.find?_cons_of_neg (by simpa using hk)]
      exact ih h

end

/-! Placement (R279, R280). -/

section
variable {s t : State} {l : Launch}

theorem exec_blockPlace {die : Nat} {cores : List Nat} (hl : s.reserve.launch? l.id = some l) (hst : s.bar.status = 5)
    (hw : l.waits = true) (hlen : cores.length = l.gang * l.clusterBlocks) (hb : s.reserve.behind l die = false)
    (hp : s.reserve.placeAll l.id die (gangs l.gang l.clusterBlocks cores) = some t) :
    exec (.blockPlace l.id die cores) s = .next t := by
  have hbar : s.reserve.bar = s.bar := by
    have h := s.reserve_launches
    unfold State.Launches at h
    rw [h]
  change Host.Outcome.next _ = _
  dsimp only
  rw [hl]
  dsimp only
  rw [if_pos (by simp [hbar, hst, hw, hlen, hb]), hp]
  rfl

/-- An object that lies in scratchpad is written there alone. -/
theorem State.setObj_sp (s : State) (k : Nat) (o : Obj) :
    s.setObj (.sp k) o = { s with spMem := memWrite s.spMem k o.bytes } := s.homeWrite_sp k o.bytes

theorem State.setObj_sp_obj (hm : s.memsOk) (k : Nat) {o : Obj} (ho : o.Fits) : (s.setObj (.sp k) o).obj (.sp k) = o := by
  have h := State.obj_setObj (s := { s with bindings := [] }) (l := .sp k) hm rfl rfl ho
  rw [State.setObj_sp] at h ⊢
  exact h

theorem State.placeOn_some {die alloc : Nat} {cores segs : List Nat} (hlen : cores.length = l.gang)
    (hgang : s.gangOk l l.placed die cores = true)
    (htake : ∀ k, k < cores.length → s.coreTakes l (cores.getD k 0) (l.fibresOn k) = true)
    (hcap : (s.fibres.filter fun f => f.launch == l.id && (f.status == .resident || f.status == .parked)).length +
      l.blockFibres ≤ l.slotcap)
    (hsegs : s.freeSegs l l.blockFibres = segs) (hslen : segs.length = l.blockFibres)
    (halloc : freeIndex ((s.blocks.filter fun b => !b.retired).map (·.alloc)) 65535 1 = some alloc) :
    s.placeOn l die cores = some (s.placeBlock l die cores segs alloc) := by
  have hfits : ((List.range cores.length).all fun k => s.coreTakes l (cores.getD k 0) (l.fibresOn k)) = true :=
    List.all_eq_true.mpr fun k hk => htake k (List.mem_range.mp hk)
  unfold State.placeOn
  dsimp only
  rw [hsegs, hfits, halloc, if_pos (by simp [hlen, hgang, hcap, hslen])]
  rfl

theorem State.placeBlock_eq (s : State) (l : Launch) (die alloc : Nat) (cores segs : List Nat) :
    s.placeBlock l die cores segs alloc =
      ({ (s.overtake l).setLaunch { l with placed := l.placed + 1, overtakes := 0, gangProtected := false, reserved := [] } with
        blocks := s.blocks ++ [⟨l.id, l.placed, l.place l.placed, die, cores, alloc, false, false, [], [], [], []⟩]
        fibres := s.fibres ++ (List.range l.blockFibres).map fun n => launchFibre l l.placed
          (cores.getD (n / perCore l.window) 0) (s.nextId + n) n (segs.getD n 0) (.sp (spKey (cores.headD 0) alloc l.kern.bset))
        nextId := s.nextId + l.blockFibres } : State).setObj
        (.sp (spKey (cores.headD 0) alloc l.kern.bset)) ⟨0, l.blockFibres, 0, 0, 0, 8⟩ := rfl

/-! Retirement (R116, R281). -/

theorem State.leaveGroups_none {b : Block} {k : State → State}
    (hw : ∀ w ∈ s.windows, ¬(w.alloc = b.alloc ∧ w.core ∈ b.cores)) : s.leaveGroups b k = k s := by
  have hmine : ∀ w ∈ s.windows, (w.alloc == b.alloc && b.cores.contains w.core) = false := by
    intro w hm
    have h := hw w hm
    rw [← Bool.not_eq_true]
    simpa using h
  have hmap : (s.windows.map fun w => if w.alloc == b.alloc && b.cores.contains w.core then { w with shut := true } else w) =
      s.windows := by
    refine (List.map_congr_left fun w hm => ?_).trans (List.map_id _)
    rw [hmine w hm, if_neg Bool.false_ne_true]
    rfl
  have hnone : s.windows.filter (fun w => w.alloc == b.alloc && b.cores.contains w.core) = [] := by
    rw [List.filter_eq_nil_iff]
    intro w hm
    rw [hmine w hm]
    exact Bool.false_ne_true
  unfold State.leaveGroups
  dsimp only
  rw [hmap, hnone]
  rfl

theorem State.Launches.parts (h : s.Launches t) : t.mem = s.mem ∧ t.spMem = s.spMem ∧ t.fibres = s.fibres ∧ t.blocks = s.blocks := by
  unfold State.Launches at h
  rw [h]
  exact ⟨rfl, rfl, rfl, rfl⟩

theorem exec_blockRetire {b : Block} (hl : s.launch? l.id = some l) (hb : s.block? l.id b.id = some b) (hbl : b.launch = l.id)
    (hret : b.retired = false) (hsav : b.saved = false) (hdet : l.flags % 2 = 0)
    (hend : ∀ f ∈ s.fibres, f.launch = l.id → f.block = b.id → f.status = .ended)
    (hw : ∀ w ∈ s.windows, ¬(w.alloc = b.alloc ∧ w.core ∈ b.cores)) (hreach : s.reaching b = false) :
    ∃ u, exec (.blockRetire l.id b.id) s = .next u ∧ u.block? l.id b.id = some { b with retired := true } ∧
      u.mem = s.mem ∧ u.spMem = s.spMem ∧ ∀ f, f ∈ u.fibres ↔ f ∈ s.fibres ∧ ¬(f.launch = l.id ∧ f.block = b.id) := by
  let v : State := { s.setBlock { b with retired := true } with
    heldArrivals := s.heldArrivals.filter fun a => !b.owns a.loc
    satNext := s.satNext.filter fun l => !b.owns l
    fibres := s.fibres.filter fun f => !(f.launch == l.id && f.block == b.id) }
  have hany : (s.fibres.any fun f => (f.launch == l.id && f.block == b.id) && f.status != .ended) = false := by
    rw [List.any_eq_false]
    intro f hf
    have h := hend f hf
    simp only [Bool.and_eq_true, beq_iff_eq, bne_iff_ne, not_and, not_not, and_imp]
    exact h
  obtain ⟨hmem, hsp, hfib, hblk⟩ := ((v.moveToken_launches l.id (v.blocks.length + 1)).trans (State.reserve_launches _)).parts
  refine ⟨(v.tokenMoves l.id).reserve, ?_, ?_, hmem, hsp, fun f => ?_⟩
  · change Host.Outcome.next _ = _
    rw [hl, hb]
    dsimp only
    rw [if_neg (by simp [hret, hsav, hdet, hany]), State.leaveGroups_none hw]
    exact congrArg Host.Outcome.next (if_neg (by rw [hreach]; exact Bool.false_ne_true))
  · have hset : (s.setBlock { b with retired := true }).block? b.launch b.id = some { b with retired := true } :=
      State.setBlock_block? (b := { b with retired := true }) (m := b) (by rw [hbl]; exact hb)
    unfold State.block? at hset ⊢
    rw [show (v.tokenMoves l.id).reserve.blocks = v.blocks from hblk, ← hbl]
    exact hset
  · rw [show (v.tokenMoves l.id).reserve.fibres = v.fibres from hfib]
    refine List.mem_filter.trans (and_congr_right fun _ => ?_)
    rw [Bool.not_eq_true', ← Bool.not_eq_true, not_iff_not]
    simp

theorem exec_launchComplete (hl : s.launch? l.id = some l) (hst : l.status = .running) (hplaced : l.placed = l.blocks)
    (hret : ∀ c ∈ s.blocks, c.launch = l.id → c.retired = true) (hdone : l.doneaddr = 0) :
    ∃ u, exec (.launchComplete l.id) s = .next u ∧ u.launch? l.id = some { l with status := .complete } ∧
      u.mem = s.mem ∧ ∀ c ∈ u.blocks, c.launch ≠ l.id := by
  have hall : (s.blocks.filter fun b => b.launch == l.id).all (·.retired) = true := by
    refine List.all_eq_true.mpr fun c hc => ?_
    obtain ⟨hm, hcl⟩ := List.mem_filter.mp hc
    exact hret c hm (by simpa using hcl)
  refine ⟨s.launchOver l, ?_, State.setLaunch_launch? (l := { l with status := .complete }) hl, rfl, fun c hc => ?_⟩
  · change Host.Outcome.next _ = _
    rw [hl]
    dsimp only
    rw [hst]
    dsimp only
    rw [hall, if_neg (by simp [hplaced]), if_pos hdone]
  · simpa using (List.mem_filter.mp hc).2

end

/-! Translations (R273). -/

section
variable {s t : State} {kdesc asid entry vector : Nat} {points : List (Nat × Nat)}

/-- A fibre of the machine that runs the kernel on its Craco body, and its launch. -/
def State.RunsCraco (s : State) (kdesc asid : Nat) (g : Fibre) (k : Launch) : Prop :=
  g ∈ s.fibres ∧ k ∈ s.launches ∧ g.craco = true ∧ g.status = .resident ∧
    k.id = g.launch ∧ k.craco = true ∧ k.kdesc = kdesc ∧ k.asid = asid ∧ k.status = .running

theorem State.runsCraco_some {g : Fibre} {r : Fibre × Launch} (hg : g ∈ s.fibres) (h : s.runsCraco kdesc asid g = some r) :
    s.RunsCraco kdesc asid r.1 r.2 := by
  unfold State.runsCraco at h
  split at h
  · next hc =>
    obtain ⟨k, hk, rfl⟩ := Option.map_eq_some_iff.mp h
    have hp := List.find?_some hk
    simp only [Bool.and_eq_true, beq_iff_eq] at hp
    obtain ⟨⟨⟨⟨h1, h2⟩, h3⟩, h4⟩, h5⟩ := hp
    exact ⟨hg, List.mem_of_find?_eq_some hk, hc.1, hc.2, h1, h2, h3, h4, h5⟩
  · cases h

theorem State.runsCraco_none {g : Fibre} {k : Launch} (h : s.RunsCraco kdesc asid g k) : s.runsCraco kdesc asid g ≠ none := by
  obtain ⟨-, hk, h1, h2, h3, h4, h5, h6, h7⟩ := h
  unfold State.runsCraco
  rw [if_pos ⟨h1, h2⟩, ne_eq, Option.map_eq_none_iff, List.find?_eq_none]
  intro hnone
  exact hnone k hk (by simp [h3, h4, h5, h6, h7])

theorem State.findCraco_none (h : ∀ g k, ¬s.RunsCraco kdesc asid g k) : s.fibres.findSome? (s.runsCraco kdesc asid) = none := by
  rw [List.findSome?_eq_none_iff]
  intro g hg
  by_contra hne
  obtain ⟨r, hr⟩ := Option.ne_none_iff_exists'.mp hne
  exact h _ _ (State.runsCraco_some hg hr)

theorem State.findCraco_some (h : ∃ g k, s.RunsCraco kdesc asid g k) :
    ∃ r, s.fibres.findSome? (s.runsCraco kdesc asid) = some r ∧ s.RunsCraco kdesc asid r.1 r.2 := by
  obtain ⟨g, k, hgk⟩ := h
  cases hf : s.fibres.findSome? (s.runsCraco kdesc asid) with
  | none => exact absurd (List.findSome?_eq_none_iff.mp hf g hgk.1) (State.runsCraco_none hgk)
  | some r =>
    obtain ⟨g, hg, hr⟩ := List.exists_of_findSome?_eq_some hf
    exact ⟨r, rfl, State.runsCraco_some hg hr⟩

theorem State.publish_none {r : Fibre × Launch} (h : t.translation r.1 r.2.kern entry vector points = none) :
    t.publish kdesc asid entry vector points r = t := by
  unfold State.publish
  dsimp only
  rw [h]
  exact ite_self t

theorem State.publish_some {r : Fibre × Launch} {m : List (Nat × Nat)} (hbad : t.ctxBad asid = false) (hx : t.ctxXcache asid ≠ 0)
    (hroom : t.xcacheUsed asid + (Config.bodyBytes kdesc).toNat ≤ t.ctxXsize asid)
    (hnew : ∀ x ∈ t.xcache, ¬(x.kdesc = kdesc ∧ x.asid = asid ∧ x.sig = t.sig))
    (h : t.translation r.1 r.2.kern entry vector points = some m) :
    t.publish kdesc asid entry vector points r = { t with xcache := t.xcache ++
      [⟨kdesc, asid, t.sig, entry, vector, points, m, t.endsOf r.1 m, (Config.bodyBytes kdesc).toNat⟩] } := by
  have hany : (t.xcache.any fun x => x.kdesc == kdesc && x.asid == asid && x.sig == t.sig) = false := by
    rw [List.any_eq_false]
    intro x hx'
    have hn := hnew x hx'
    simp only [Bool.and_eq_true, beq_iff_eq, and_assoc]
    exact hn
  unfold State.publish
  dsimp only
  rw [h, if_neg (by simp [hbad, hx, hroom, hany])]

end

/-- Settles O54. -/
theorem squareEvents : Obligations.SquareEvents := by
  intro s t l b die alloc kdesc entry vector code cores segs asid points place
  refine ⟨exec_blockPlace, fun hl hlen hgang htake hcap hsegs hslen halloc => ?_, fun hl hw => ?_, exec_blockRetire,
    exec_launchComplete, ?_, ?_, ?_⟩
  · refine ⟨_, State.placeOn_some hlen hgang htake hcap hsegs hslen halloc, ?_⟩
    rw [State.placeBlock_eq]
    generalize hv : ({ (s.overtake l).setLaunch
      { l with placed := l.placed + 1, overtakes := 0, gangProtected := false, reserved := [] } with
        blocks := s.blocks ++ [⟨l.id, l.placed, l.place l.placed, die, cores, alloc, false, false, [], [], [], []⟩]
        fibres := s.fibres ++ (List.range l.blockFibres).map fun n => launchFibre l l.placed
          (cores.getD (n / perCore l.window) 0) (s.nextId + n) n (segs.getD n 0) (.sp (spKey (cores.headD 0) alloc l.kern.bset))
        nextId := s.nextId + l.blockFibres } : State) = v
    obtain ⟨k, hk⟩ := State.overtake_launch? (l := l) hl
    have hparts : v.fibres = s.fibres ++ (List.range l.blockFibres).map (fun n => launchFibre l l.placed
          (cores.getD (n / perCore l.window) 0) (s.nextId + n) n (segs.getD n 0) (.sp (spKey (cores.headD 0) alloc l.kern.bset))) ∧
        v.blocks = s.blocks ++ [⟨l.id, l.placed, l.place l.placed, die, cores, alloc, false, false, [], [], [], []⟩] ∧
        v.mem = s.mem ∧
        v.launch? l.id = some { l with placed := l.placed + 1, overtakes := 0, gangProtected := false, reserved := [] } := by
      rw [← hv]
      exact ⟨rfl, rfl, rfl, State.setLaunch_launch? (s := s.overtake l)
        (l := { l with placed := l.placed + 1, overtakes := 0, gangProtected := false, reserved := [] }) hk⟩
    obtain ⟨hfib, hblk, hmem, hlaunch⟩ := hparts
    have hms : s.memsOk → v.memsOk := by
      rw [← hv]
      exact id
    clear hv
    have hset := State.setObj_sp v (spKey (cores.headD 0) alloc l.kern.bset) ⟨0, l.blockFibres, 0, 0, 0, 8⟩
    generalize memWrite _ _ _ = m at hset
    refine ⟨?_, ?_, ?_, ?_, fun hm hlt => State.setObj_sp_obj (hms hm) _ ⟨hlt, ?_⟩⟩
    · rw [hset]
      exact hfib
    · rw [hset]
      exact hblk
    · rw [hset]
      exact hmem
    · rw [hset]
      exact hlaunch
    · simp
  · change Host.Outcome.next _ = _
    rw [hl]
    exact congrArg Host.Outcome.next (if_pos (by simp [hw]))
  · intro runs publish
    have hruns : runs = s.RunsCraco kdesc asid.toNat := rfl
    clear_value runs
    subst hruns
    have hpub : publish = .next (match s.fibres.findSome? (s.runsCraco kdesc asid.toNat) with
      | none => s
      | some r => match s.ctxRead 10 asid.toNat with
        | .ok _ t => t.publish kdesc asid.toNat entry vector points r
        | .wait t | .fail t => t) := rfl
    clear_value publish
    subst hpub
    refine ⟨fun hnone => ?_, fun hsome => ?_⟩
    · rw [State.findCraco_none hnone]
    · obtain ⟨r, hr, hrun⟩ := State.findCraco_some hsome
      rw [hr]
      dsimp only
      refine ⟨fun hread => ?_, fun bs hread => ?_⟩
      · rcases hread with h | h <;> rw [h]
      · rw [hread]
        exact ⟨fun hno => congrArg _ (State.publish_none (hno _ _ hrun)), fun m hbad hx hroom hnew hall =>
          ⟨r.1, r.2, hrun, congrArg _ (State.publish_some hbad hx hroom hnew (hall _ _ hrun))⟩⟩
  · intro bs q
    have hexec : exec (.preemptSave asid) s = .next (if !bs.isEmpty && bs.all q.drainedBlock then bs.foldl State.saveBlock q else q) :=
      rfl
    rw [hexec]
    refine ⟨fun hne hall => congrArg _ (if_pos ?_), fun ⟨c, hc, hno⟩ => congrArg _ (if_neg ?_)⟩
    · simpa [hne] using hall
    · intro h
      have hall := List.all_eq_true.mp (Bool.and_eq_true_iff.mp h).2 c hc
      exact Bool.false_ne_true (hno.symm.trans hall)
  · intro bs
    have hexec : exec (.preemptRestore asid place) s = .next (if bs.isEmpty then s
        else match if bs.length = place.length then s.restoreAll (bs.zip place) else .error 0x44 with
          | .ok t => t
          | .error code => ((((s.fibres.filter fun f => f.tag != 0 && bs.any (·.has f)).map (·.tag)).foldl
            (fun (t : State) h => t.causeAbort h 0x06) s).reply [.ofNat 8 code])) := rfl
    rw [hexec]
    refine ⟨fun hne hlen hok => ?_, fun hne hlen herr => ?_⟩
    · rw [if_neg (by simpa using hne), if_pos hlen, hok]
    · rw [if_neg (by simpa using hne), if_pos hlen, herr]
      have hreads : s.Reads (((s.fibres.filter fun f => f.tag != 0 && bs.any (·.has f)).map (·.tag)).foldl
          (fun (t : State) h => t.causeAbort h 0x06) s) := State.Reads.foldl _ s fun t h => State.causeAbort_reads _ _ _
      unfold State.Reads at hreads
      generalize (List.foldl _ s _) = u at hreads
      have hm : u.mem = s.mem := (congrArg State.mem hreads).trans rfl
      have hb : u.blocks = s.blocks := (congrArg State.blocks hreads).trans rfl
      have hf : u.fibres = s.fibres := (congrArg State.fibres hreads).trans rfl
      exact ⟨u.reply [.ofNat 8 code], rfl, hm, hb, hf, List.mem_append_right _ List.mem_cons_self⟩

end Sys2Proof.Machine

/-! Ports, the requests of peers, replies, and the commit and the end of plazas (O55). -/

namespace Sys2Proof.Machine

open Sys2Proof.Dec (leNat leBytes fld)

/-! Ports and routes (R284, R285). -/

section
variable {s t u : State}

/-- What the routes are computed from stands, and the routes themselves. -/
def State.SameRoutes (s t : State) : Prop := t.dev = s.dev ∧ t.paths = s.paths ∧ t.ports = s.ports ∧ t.routes = s.routes

theorem State.SameRoutes.refl (s : State) : s.SameRoutes s := ⟨rfl, rfl, rfl, rfl⟩

theorem State.SameRoutes.trans (h : s.SameRoutes t) (k : t.SameRoutes u) : s.SameRoutes u := by
  obtain ⟨hdev, hpaths, hports, hroutes⟩ := h
  obtain ⟨kdev, kpaths, kports, kroutes⟩ := k
  exact ⟨kdev.trans hdev, kpaths.trans hpaths, kports.trans hports, kroutes.trans hroutes⟩

theorem State.SameRoutes.bestRoutes (h : s.SameRoutes t) : t.bestRoutes = s.bestRoutes := by
  obtain ⟨hdev, hpaths, hports, -⟩ := h
  unfold State.bestRoutes
  rw [hdev, hpaths, hports]

theorem State.Reads.sameRoutes (h : s.Reads t) : s.SameRoutes t := by
  unfold State.Reads at h
  rw [h]
  exact .refl s

theorem State.tlbSweep_sameRoutes (s : State) : s.SameRoutes s.tlbSweep := by
  unfold State.tlbSweep
  dsimp only
  split <;> exact .refl s

theorem State.tlbSettle_sameRoutes (s : State) (id : Nat) : s.SameRoutes (s.tlbSettle id) := by
  unfold State.tlbSettle
  dsimp only
  split <;> exact .refl s

theorem State.closeDrained_sameRoutes (s : State) (fib : Nat) : s.SameRoutes (s.closeDrained fib) := by
  unfold State.closeDrained
  split
  · exact .refl s
  · split <;> exact .refl s

theorem State.endAccess_sameRoutes (s : State) (a : Access) : s.SameRoutes (s.endAccess a) := by
  have hop : s.SameRoutes ((s.recDone a.id).completeOp a.fib a.id) := State.closeDrained_sameRoutes _ _
  have hset := hop.trans (State.tlbSettle_sameRoutes _ a.id)
  unfold State.endAccess
  generalize State.tlbSettle _ a.id = t at hset ⊢
  exact hset

theorem State.failAccess_sameRoutes (s : State) (a : Access) (c : Cause) (detail daddr : Nat) :
    s.SameRoutes (s.failAccess a c detail daddr) := by
  have hend := s.endAccess_sameRoutes a
  unfold State.failAccess
  generalize s.endAccess a = t at hend ⊢
  exact hend

theorem State.donePosted_sameRoutes (s : State) (id : Nat) (refused : Bool) : s.SameRoutes (s.donePosted id refused) := by
  unfold State.donePosted
  split
  · next l _ =>
    split
    · exact (makeError_reads (s.launchOver l) _ _ _ _).sameRoutes
    · exact .refl s
  · exact .refl s

theorem State.strand_sameRoutes (s : State) : s.SameRoutes s.strand := by
  unfold State.strand
  extract_lets t
  have ht : s.SameRoutes t := State.tlbSweep_sameRoutes _
  exact foldl_keeps (fun u => s.SameRoutes u) (fun u a h => h.trans (State.failAccess_sameRoutes _ _ _ _ _)) _ ht

theorem State.strandDone_sameRoutes (s : State) : s.SameRoutes s.strandDone := by
  refine foldl_keeps (fun t => s.SameRoutes t) (fun t l h => ?_) _ (.refl s)
  split
  · split
    · split
      · exact h.trans (State.donePosted_sameRoutes _ _ _)
      · exact h
    all_goals exact h
  all_goals exact h

theorem State.reroute_sameRoutes (s : State) : State.SameRoutes { s with routes := s.bestRoutes } s.reroute :=
  (State.strand_sameRoutes _).trans (State.strandDone_sameRoutes _)

theorem State.bestRoutes_up {r : Nat × Nat} (h : r ∈ s.bestRoutes) : s.ports.getLsbD r.2 = true := by
  unfold State.bestRoutes at h
  rw [List.mem_eraseDups, List.mem_map] at h
  obtain ⟨p, hp, rfl⟩ := h
  have hlive := (List.mem_filter.mp (List.mem_filter.mp hp).1).2
  simp only [Bool.and_eq_true] at hlive
  exact hlive.1.2

theorem getLsbD_clear (x : BitVec 16) (n : Nat) (hn : n < 16) : (x &&& ~~~(1#16 <<< n)).getLsbD n = false := by
  simp [hn]

end

section
variable {s : State} {port : Nat}

theorem exec_flitReceive (hp : port < 16) (hup : s.ports.getLsbD port = true) (hlen : s.failedReplays.length = 16) :
    (∃ u, exec (.flitReceive port true) s = .next u ∧ u.failedReplays.getD port 0 = 0 ∧ u.ports = s.ports ∧ u.mem = s.mem) ∧
    (s.failedReplays.getD port 0 < 16 → ∃ u, exec (.flitReceive port false) s = .next u ∧ u.ports = s.ports ∧
      u.failedReplays.getD port 0 = s.failedReplays.getD port 0 + 1 ∧ u.routes = s.routes) ∧
    (16 ≤ s.failedReplays.getD port 0 → ∃ u, exec (.flitReceive port false) s = .next u ∧
      u.ports.getLsbD port = false ∧ u.routes = u.bestRoutes ∧ ∀ r ∈ u.routes, r.2 ≠ port) := by
  have hhere : ¬ (16 ≤ port || !s.ports.getLsbD port) = true := by
    rw [hup]
    simpa using hp
  have hset (n : Nat) : (s.failedReplays.set port n).getD port 0 = n := by simp [hlen, hp]
  refine ⟨⟨{ s with failedReplays := s.failedReplays.set port 0 }, congrArg Host.Outcome.next (if_neg hhere), hset 0, rfl, rfl⟩,
    fun hfew => ⟨{ s with failedReplays := s.failedReplays.set port (s.failedReplays.getD port 0 + 1) },
      congrArg Host.Outcome.next ((if_neg hhere).trans ((if_neg Bool.false_ne_true).trans (if_pos (by omega)))), rfl, hset _, rfl⟩,
    fun hmany => ?_⟩
  let t : State := { s with
    failedReplays := s.failedReplays.set port 0
    ports := s.ports &&& ~~~(1#16 <<< port) }
  have hsame := t.reroute_sameRoutes
  have hbest : t.reroute.bestRoutes = t.bestRoutes := hsame.bestRoutes
  obtain ⟨-, -, hports, hroutes⟩ := hsame
  have hdown : t.ports.getLsbD port = false := getLsbD_clear _ _ hp
  refine ⟨t.reroute, congrArg Host.Outcome.next ((if_neg hhere).trans ((if_neg Bool.false_ne_true).trans (if_neg (by omega)))), ?_, ?_, ?_⟩
  · rw [hports]
    exact hdown
  · rw [hbest]
    exact hroutes
  · intro r hr hrp
    rw [hroutes] at hr
    have hrup := State.bestRoutes_up hr
    rw [hrp] at hrup
    exact Bool.false_ne_true (hdown.symm.trans hrup)

end

/-! Requests of peers (R286, R287). -/

section
variable {s : State} {addr size : Nat} {pf : PeerFibre} {sc : Scope}

theorem State.peerRead_whole {agent pa n : Nat} (k : State → List Byte → State)
    (h : ∀ q ∈ sectorsOf pa n, s.mismatch q = false ∧ q ∉ s.poison) :
    s.peerRead agent pa n k = k (s.peekAll (.dram pa) n) (memBytes s.mem pa n) := by
  have hcoh := s.peekAll_coh (.dram pa) n
  have hmem := hcoh.mem
  have hwhole : ∀ q ∈ sectorsOf pa n, (s.peekAll (.dram pa) n).mismatch q = false ∧ q ∉ (s.peekAll (.dram pa) n).poison := by
    unfold State.Coh at hcoh
    rw [hcoh]
    exact h
  unfold State.peerRead
  rw [checkRead_whole _ hwhole]
  dsimp only
  rw [hmem]
  rfl

theorem State.atHome_go {writes : Bool} (k : State → State) (hmeet : s.meet (.dram addr) size 0 writes = (s, .go))
    (hway : s.hostInWay (.dram addr) size writes = []) (hpin : writes = true → s.pinned (.dram addr) size = false) :
    s.atHome addr size 0 writes k = k s := by
  have hmay : s.mayServe (.dram addr) size writes = true := by
    cases writes with
    | false => rfl
    | true => simp [State.mayServe, State.hostHeld, hpin rfl]
  unfold State.atHome
  rw [hmeet]
  dsimp only
  rw [hway, hmay]
  rfl

theorem exec_remoteLoad (hin : inDram addr size = true) (hmeet : s.meet (.dram addr) size 0 false = (s, .go))
    (hway : s.hostInWay (.dram addr) size false = []) (hgood : ∀ k ∈ sectorsOf addr size, s.mismatch k = false ∧ k ∉ s.poison) :
    ∃ u, exec (.remoteRequest pf addr size sc .load) s = .next u ∧ u.mem = s.mem ∧
      u.replies = s.replies ++ [0 :: memBytes s.mem addr size] := by
  have hcoh := s.peekAll_coh (.dram addr) size
  have hrep : (s.peekAll (.dram addr) size).replies = s.replies := by
    unfold State.Coh at hcoh
    rw [hcoh]
  refine ⟨(s.peekAll (.dram addr) size).reply (memBytes s.mem addr size), ?_, hcoh.mem, congrArg (· ++ _) hrep⟩
  exact congrArg Host.Outcome.next ((if_pos hin).trans
    ((State.atHome_go _ hmeet hway (by simp)).trans (State.peerRead_whole _ hgood)))

theorem exec_remoteStore {v : DWord} (hin : inDram addr size = true) (hmeet : s.meet (.dram addr) size 0 true = (s, .go))
    (hway : s.hostInWay (.dram addr) size true = []) (hpin : s.pinned (.dram addr) size = false) :
    exec (.remoteRequest pf addr size sc (.store v)) s =
      .next ((s.homeWrite (.dram addr) (leBytes size v.toNat)).reply []) :=
  congrArg Host.Outcome.next ((if_pos hin).trans (State.atHome_go _ hmeet hway fun _ => hpin))

end

/-! Replies (R286 to R288). -/

section
variable {s : State}

theorem exec_remoteAck_load {a : Access} {f : Fibre} {ty : LdTy} {d : Reg} {data : DWord} (hacc : s.acc? a.id = some a)
    (hfib : s.fib? a.fib = some f) (hpeer : a.loc.isPeer = true) (hready : s.accReady a = true) (hop : a.op = .load ty d) :
    exec (.remoteAck a.id data .ok) s = .next ((s.endAccess a).modF a.fib fun g => g.landLoad a.wseq ty d
      (leNat (if a.plainLoad then (s.ownEarlier a).foldl (forwardOne a) (leBytes a.size data.toNat)
        else leBytes a.size data.toNat))) := by
  change execRemoteAck a.id data .ok s = _
  unfold execRemoteAck
  rw [hacc]
  dsimp only
  rw [hfib]
  dsimp only
  rw [if_pos (by rw [hpeer, hready]; rfl), if_neg (by simp)]
  unfold ackAccess
  rw [if_neg (by decide), hop]

theorem State.donePosted_accepted (s : State) (id : Nat) :
    (s.donePosted id false).mem = s.mem ∧ (s.donePosted id false).fibres = s.fibres := by
  unfold State.donePosted
  split <;> exact ⟨rfl, rfl⟩

theorem State.tlbSweep_stands (s : State) : s.tlbSweep.mem = s.mem ∧ s.tlbSweep.fibres = s.fibres := by
  unfold State.tlbSweep
  dsimp only
  split <;> exact ⟨rfl, rfl⟩

theorem Fibre.answered_uid (acc : Nat) (data : DWord) (refused : Bool) (f : Fibre) : (f.answered acc data refused).uid = f.uid := by
  unfold Fibre.answered
  dsimp only
  split
  · split <;> rfl
  · split <;> rfl
  · rfl

section
variable {g : Fibre} {n acc : Nat} {plz sat : Bool} {asks : Asks} {data : DWord}

/-- A fibre whose wait alone asked, under no trap. -/
theorem Fibre.askedBy_own (hw : g.wait = .remote n acc plz sat asks) (hr : g.rejoin = none) : g.askedBy acc = asks := by
  simp [Fibre.askedBy, Fibre.waits, hw, hr]

theorem Fibre.mapWait_own (v : Wait → Wait) (hr : g.rejoin = none) : g.mapWait v = { g with wait := v g.wait } := by
  unfold Fibre.mapWait
  rw [hr]
  cases g
  cases hr
  rfl

theorem Fibre.answered_enter {h : DWord} (hw : g.wait = .remote n acc plz sat (.enter h)) (hr : g.rejoin = none) :
    g.answered acc data false = if data = 0 then { g with wait := .replied data false sat, tag := h, plzSet := g.set }
      else { g with wait := .replied data false sat } := by
  unfold Fibre.answered
  rw [Fibre.askedBy_own hw hr, Fibre.mapWait_own _ hr, hw]
  by_cases hd : data = 0 <;> simp [hd]

theorem Fibre.answered_leave {h : DWord} (hw : g.wait = .remote n acc plz sat (.leave h)) (hr : g.rejoin = none) :
    g.answered acc data false = if data = 0 then { g with wait := .replied data false sat, tag := 0, plzSet := none }
      else { g with wait := .replied data false sat } := by
  unfold Fibre.answered
  rw [Fibre.askedBy_own hw hr, Fibre.mapWait_own _ hr, hw]
  by_cases hd : data = 0 <;> simp [hd]

theorem Fibre.answered_other (hw : g.wait = .remote n acc plz sat .other) (hr : g.rejoin = none) :
    g.answered acc data false = { g with wait := .replied data false sat } := by
  unfold Fibre.answered
  rw [Fibre.askedBy_own hw hr, Fibre.mapWait_own _ hr, hw]
  simp

end

theorem exec_remoteAck_waits {acc : Nat} {data : DWord} (hacc : s.acc? acc = none) :
    ∃ u, exec (.remoteAck acc data .ok) s = .next u ∧ u.mem = s.mem ∧
      ∀ g, s.fib? g.uid = some g → u.fib? g.uid = some (g.answered acc data false) := by
  obtain ⟨hmem, hfibres⟩ := s.donePosted_accepted acc
  let t : State := { s.donePosted acc false with
    away := (s.donePosted acc false).joinAway acc data false
    fibres := (s.donePosted acc false).fibres.map (Fibre.answered acc data false) }
  obtain ⟨tmem, tfibres⟩ := t.tlbSweep_stands
  refine ⟨t.tlbSweep, ?_, tmem.trans hmem, fun g hg => ?_⟩
  · change execRemoteAck acc data .ok s = _
    unfold execRemoteAck
    rw [hacc]
    rfl
  · have hu : t.tlbSweep.fibres = s.fibres.map (Fibre.answered acc data false) := tfibres.trans (congrArg _ hfibres)
    unfold State.fib? at hg ⊢
    rw [hu, List.find?_map]
    have hp : (fun f : Fibre => f.uid == g.uid) ∘ Fibre.answered acc data false = fun f => f.uid == g.uid :=
      funext fun f => congrArg (· == g.uid) (Fibre.answered_uid acc data false f)
    rw [hp, hg]
    rfl

end

/-! Plazas at their coordinator (R294, R300 to R303). -/

section
variable {s : State} {p : Plaza}

theorem State.plazaAt_map {t : State} {v : Plaza → Plaza} {die index : Nat} (ht : t.plazas = s.plazas.map v)
    (hv : ∀ q, (v q).die = q.die ∧ (v q).index = q.index) : t.plazaAt die index = (s.plazaAt die index).map v := by
  unfold State.plazaAt
  rw [ht, List.find?_map]
  congr 2
  funext q
  simp only [Function.comp, hv q]

/-- The entry of a plaza, replaced. -/
theorem State.setPlaza_plazaAt {q : Plaza} (h : s.plazaAt p.die p.index = some p) (hdie : q.die = p.die) (hix : q.index = p.index) :
    (s.setPlaza q).plazaAt p.die p.index = some q := by
  rw [State.plazaAt_map (s := s) (t := s.setPlaza q) rfl, h, Option.map_some, if_pos ⟨hdie.symm, hix.symm⟩]
  intro r
  split
  · next hr => exact ⟨hr.1.symm, hr.2.symm⟩
  · exact ⟨rfl, rfl⟩

theorem State.participants_of {q : Plaza} (hh : q.handle s.dev = p.handle s.dev) (hp : q.peers = p.peers) (hm : q.members = p.members) :
    s.participants q = s.participants p := by
  unfold State.participants
  rw [hh, hp, hm]

/-- The entry of a sealing plaza once a directory has sealed: the last one commits it. -/
def State.sealedBy (s : State) (p : Plaza) (dir : Nat) : Plaza :=
  let q := { p with sealed := dir :: p.sealed }
  if (s.participants q).all q.sealed.contains then { q with state := .publishing } else q

theorem State.sealedBy_fields (s : State) (p : Plaza) (dir : Nat) :
    (s.sealedBy p dir).die = p.die ∧ (s.sealedBy p dir).index = p.index ∧ (s.sealedBy p dir).sealed = dir :: p.sealed := by
  unfold State.sealedBy
  dsimp only
  split <;> exact ⟨rfl, rfl, rfl⟩

theorem State.sealedBy_handle (s : State) (p : Plaza) (dir : Nat) : (s.sealedBy p dir).handle s.dev = p.handle s.dev := by
  unfold State.sealedBy
  dsimp only
  split <;> rfl

theorem State.sealedBy_state (dir : Nat) (hst : p.state = .sealing) :
    ((s.sealedBy p dir).state = .sealing ∨ (s.sealedBy p dir).state = .publishing) ∧
    ((s.sealedBy p dir).state = .publishing ↔ ∀ x ∈ s.participants p, x ∈ dir :: p.sealed) := by
  have hall : ((s.participants { p with sealed := dir :: p.sealed }).all (dir :: p.sealed).contains) = true ↔
      ∀ x ∈ s.participants p, x ∈ dir :: p.sealed := by
    have hsame : s.participants { p with sealed := dir :: p.sealed } = s.participants p := State.participants_of rfl rfl rfl
    rw [hsame, List.all_eq_true]
    simp
  unfold State.sealedBy
  dsimp only
  split
  · next h => exact ⟨.inr rfl, fun _ => hall.mp h, fun _ => rfl⟩
  · next h =>
    refine ⟨.inl hst, fun hpub => ?_, fun hx => absurd (hall.mpr hx) h⟩
    exact absurd (hst.symm.trans hpub) (by decide)

theorem exec_sealAck {dir : Nat} (hp : s.plazaAt p.die p.index = some p) (hst : p.state = .sealing) (hdir : dir ∉ p.sealed) :
    exec (.sealAck p.die p.index dir) s = .next ((s.sealLines (p.handle s.dev) dir).setPlaza (s.sealedBy p dir)) := by
  change execSealAck p.die p.index dir s = _
  unfold execSealAck
  rw [hp]
  dsimp only
  have hno : p.sealed.contains dir = false := by simpa using hdir
  rw [if_neg (by simp [hst]), hno, if_neg Bool.false_ne_true, ← s.sealedBy_handle p dir]
  rfl

theorem State.sealLines_sealed (h : DWord) (dir : Nat) :
    ∀ w ∈ (s.sealLines h dir).wsLines, w.handle = h → lineDie w.line = dir → w.sealed = true := by
  intro w hw hh hl
  obtain ⟨v, -, rfl⟩ := List.mem_map.mp hw
  split
  · rfl
  · next hno =>
    rw [if_neg hno] at hh hl
    exact absurd ⟨hh, hl⟩ hno

/-- A directory that holds no line of the plaza publishes at once. -/
theorem State.publishDir_empty {h : DWord} {dir : Nat} (k : State → State) (hno : s.dirLines h dir = []) :
    s.publishDir h dir k = k s := by
  unfold State.publishDir
  rw [hno]
  dsimp only
  simp only [List.filter_nil, List.flatMap_nil, List.contains_nil, Bool.and_false, List.filter_false]
  rfl

theorem exec_publishReport {dir : Nat} (hp : s.plazaAt p.die p.index = some p) (hst : p.state = .publishing)
    (hdir : dir ∉ p.published) (hno : s.dirLines (p.handle s.dev) dir = []) :
    exec (.publishReport p.die p.index dir) s = .next (
      if p.sealed.all fun d => !(s.participants p).contains d || (dir :: p.published).contains d
      then s.released { p with published := dir :: p.published }
      else s.setPlaza { p with published := dir :: p.published }) := by
  change execPublishReport p.die p.index dir s = _
  unfold execPublishReport
  rw [hp]
  dsimp only
  rw [if_neg (by simp [hst, hdir]), State.publishDir_empty _ hno,
    State.participants_of (q := { p with published := dir :: p.published }) (p := p) rfl rfl rfl]

/-- Freeing plazas leaves an entry, or turns one that is over FREE (R294). -/
theorem State.freePlazas_plazaAt {die index : Nat} {q : Plaza} (h : s.plazaAt die index = some q) :
    s.freePlazas.plazaAt die index = some q ∨
    ((q.state = .committed ∨ q.state = .aborted) ∧ s.freePlazas.plazaAt die index = some { q with state := .free }) := by
  have hmap := State.plazaAt_map (s := s) (t := s.freePlazas) (die := die) (index := index) rfl (fun r => by split <;> exact ⟨rfl, rfl⟩)
  rw [hmap, h, Option.map_some]
  split
  · next hover => exact .inr ⟨hover.1, rfl⟩
  · exact .inl rfl

theorem replies_stand {l : List PlzMember} {b : PlzMember → Bool} {bs : List Byte} (s : State) :
    (l.foldl (fun (t : State) m => if b m then t.reply bs else t) s).plazas = s.plazas ∧
    (l.foldl (fun (t : State) m => if b m then t.reply bs else t) s).mem = s.mem := by
  refine foldl_keeps (fun t : State => t.plazas = s.plazas ∧ t.mem = s.mem) (fun t m h => ?_) l ⟨rfl, rfl⟩
  split <;> exact h

theorem State.released_over {q : Plaza} (h : s.plazaAt p.die p.index = some p) (hdie : q.die = p.die) (hix : q.index = p.index) :
    (s.released q).mem = s.mem ∧
    ∃ r, (s.released q).plazaAt p.die p.index = some r ∧ (r.state = .committed ∨ r.state = .free) := by
  have hset := State.setPlaza_plazaAt (q := { q with state := .committed }) h hdie hix
  unfold State.released
  extract_lets hd t v
  have hv : v.plazas = (s.setPlaza { q with state := .committed }).plazas ∧ v.mem = s.mem := ⟨rfl, rfl⟩
  obtain ⟨hplazas, hmem⟩ := replies_stand (l := q.members) (b := fun m => m.set.isPeer && m.voted) (bs := leBytes 8 hd.toNat) v
  generalize List.foldl _ v q.members = w at hplazas hmem ⊢
  refine ⟨hmem.trans hv.2, ?_⟩
  have hw : w.plazaAt p.die p.index = some { q with state := .committed } := by
    unfold State.plazaAt at hset ⊢
    rw [hplazas, hv.1]
    exact hset
  rcases State.freePlazas_plazaAt hw with h | ⟨-, h⟩
  · exact ⟨_, h, .inl rfl⟩
  · exact ⟨_, h, .inr rfl⟩

/-! The limit of a plaza's time (R302). -/

/-- The fields of a handle. -/
theorem Plaza.handle_fields (dev : BitVec 12) (hd : p.die < 4) (hi : p.index < 2 ^ 18) (hg : p.gen < 2 ^ 32) :
    fld (p.handle dev).toNat 50 2 = p.die ∧ fld (p.handle dev).toNat 32 18 = p.index ∧
    (p.handle dev).toNat % 2 ^ 32 = p.gen ∧ fld (p.handle dev).toNat 52 12 = dev.toNat := by
  have hdev := dev.isLt
  have hnat : (p.handle dev).toNat = dev.toNat * 2 ^ 52 + p.die * 2 ^ 50 + p.index * 2 ^ 32 + p.gen := by
    unfold Plaza.handle
    rw [BitVec.toNat_ofNat]
    exact Nat.mod_eq_of_lt (by omega)
  rw [hnat]
  unfold fld
  omega

theorem exec_plazaTimeout (hp : s.plazaAt p.die p.index = some p) (hst : p.state = .opened) (ht : p.timeout ≠ 0) (hd : p.die < 4)
    (hi : p.index < 2 ^ 18) (hg : p.gen < 2 ^ 32) :
    ∃ u, exec (.plazaTimeout p.die p.index) s = .next u ∧ u.mem = s.mem ∧ p.opened + 1000 * p.timeout ≤ u.fabricClock ∧
      u.plazaAt p.die p.index = some { p with state := .aborting, cause := 0x04 } := by
  obtain ⟨hdie, hix, hgen, hdev⟩ := p.handle_fields s.dev hd hi hg
  let t : State := { s with fabricClock := max s.fabricClock (p.opened + 1000 * p.timeout) }
  refine ⟨t.abortPlaza (p.handle s.dev) 0x04, ?_, rfl, Nat.le_max_right _ _, ?_⟩
  · change execPlazaTimeout p.die p.index s = _
    unfold execPlazaTimeout
    rw [hp]
    exact congrArg Host.Outcome.next (if_pos ⟨hst, ht⟩)
  · have hmap := State.plazaAt_map (s := s) (t := t.abortPlaza (p.handle s.dev) 0x04) (die := p.die) (index := p.index) rfl
      (fun r => by split <;> exact ⟨rfl, rfl⟩)
    rw [hmap, hp, Option.map_some, if_pos ⟨hdie.symm, hix.symm, hgen.symm, hdev.symm, hst⟩]

/-! The end of an abort (R294, R303). -/

/-- Every directory has discarded the plaza's entries, and it has no fibre left to trap. -/
def State.abortOver (s : State) (p : Plaza) : Bool :=
  p.state == .aborting && p.discards.all p.discarded.contains && s.plazaIdle (p.handle s.dev) &&
    s.fibres.all fun f => f.abortTaken (p.handle s.dev)

/-- Where no fibre has the plaza's tag or its trap to take, the last directory ends the abort. -/
theorem State.abortOver_iff {q : Plaza} (hst : q.state = .aborting) (htag : ∀ g ∈ s.fibres, g.tag ≠ q.handle s.dev)
    (habort : ∀ g ∈ s.fibres, ∀ x, g.abort = some x → x.2 ≠ q.handle s.dev) :
    s.abortOver q = true ↔ ∀ x ∈ q.discards, x ∈ q.discarded := by
  have hidle : s.plazaIdle (q.handle s.dev) = true := List.all_eq_true.mpr fun g hg => by simp [htag g hg]
  have htaken : (s.fibres.all fun f => f.abortTaken (q.handle s.dev)) = true := List.all_eq_true.mpr fun g hg => by
    unfold Fibre.abortTaken
    split
    · next x hx => simp [habort g hg x hx]
    · rfl
  unfold State.abortOver
  rw [hst, hidle, htaken]
  simp

theorem State.abortsDone_plazaAt {die index : Nat} {q : Plaza} (h : s.plazaAt die index = some q) :
    s.abortsDone.plazaAt die index =
      some (if s.abortOver q then { q with state := .aborted, members := q.members.filter (·.set.isPeer) } else q) := by
  have hmap := State.plazaAt_map (s := s) (t := s.abortsDone) (die := die) (index := index)
    (v := fun r => if s.abortOver r then { r with state := .aborted, members := r.members.filter (·.set.isPeer) } else r) rfl
    (fun r => by split <;> exact ⟨rfl, rfl⟩)
  rw [hmap, h, Option.map_some]

theorem State.abortsDone_wsLines {w : WsLine} : w ∈ s.abortsDone.wsLines ↔
    w ∈ s.wsLines ∧ ¬ (w.gone = true ∧ ∃ q ∈ s.plazas, w.handle = q.handle s.dev ∧ s.abortOver q = true) := by
  refine List.mem_filter.trans (and_congr_right fun _ => ?_)
  rw [Bool.not_eq_true', ← Bool.not_eq_true, not_iff_not, Bool.and_eq_true, List.any_eq_true]
  simp only [State.abortOver, Bool.and_eq_true, beq_iff_eq]

/-- Where no fibre has the plaza's tag, discarding its entries changes no fibre. -/
theorem State.discard_untagged {h : DWord} (cause : Nat) (htag : ∀ g ∈ s.fibres, g.tag ≠ h) :
    s.discard h cause = { s with
      wsLines := s.wsLines.filterMap fun (w : WsLine) => if w.handle = h then w.over else some w
      away := s.away.filter fun m => m.2 != h
      records := s.records.filter fun r => r.tag != h || h == 0 } := by
  have hnone : (s.fibres.filter fun f => f.tag == h && h != 0 && f.status != .ended) = [] :=
    List.filter_eq_nil_iff.mpr fun g hg => by simp [htag g hg]
  unfold State.discard State.abortFibres
  dsimp only
  rw [hnone]
  rfl

theorem State.discard_lines {h : DWord} {w : WsLine}
    (hw : w ∈ s.wsLines.filterMap fun (v : WsLine) => if v.handle = h then v.over else some v) (hh : w.handle = h) :
    w.gone = true ∧ w.bytes = [] := by
  obtain ⟨v, -, hv⟩ := List.mem_filterMap.mp hw
  split at hv
  · unfold WsLine.over at hv
    split at hv
    · obtain rfl := Option.some.inj hv
      exact ⟨rfl, rfl⟩
    · contradiction
  · next hno =>
    obtain rfl := Option.some.inj hv
    exact absurd hh hno

theorem Plaza.discards_peers (p : Plaza) (ds : List Nat) :
    Plaza.discards { p with discarded := ds, members := p.members.filter (·.set.isPeer) } = p.discards := by
  have hpeers : (p.members.filter (·.set.isPeer)).filterMap (fun m => m.set.peerDev) = p.members.filterMap fun m => m.set.peerDev := by
    rw [List.filterMap_filter]
    congr 1
    funext m
    unfold Loc.isPeer
    cases m.set.peerDev <;> rfl
  unfold Plaza.discards
  rw [hpeers]

theorem exec_plazaDiscard (hp : s.plazaAt p.die p.index = some p) (hst : p.state = .aborting) (hno : 0 ∉ p.discarded)
    (htag : ∀ g ∈ s.fibres, g.tag ≠ p.handle s.dev) (habort : ∀ g ∈ s.fibres, ∀ x, g.abort = some x → x.2 ≠ p.handle s.dev) :
    ∃ u, exec (.plazaDiscard p.die p.index) s = .next u ∧ u.mem = s.mem ∧
      (∀ w ∈ u.wsLines, w.handle = p.handle s.dev → w.gone = true ∧ w.bytes = []) ∧
      ∃ q, u.plazaAt p.die p.index = some q ∧ q.discarded = 0 :: p.discarded ∧
        (q.state = .aborting ∨ q.state = .aborted ∨ q.state = .free) ∧
        (q.state = .aborting ↔ ∃ x ∈ p.discards, x ∉ 0 :: p.discarded) ∧
        (q.state ≠ .aborting → ∀ w ∈ u.wsLines, w.handle ≠ p.handle s.dev) := by
  let q : Plaza := { p with discarded := 0 :: p.discarded, members := p.members.filter (·.set.isPeer) }
  let t : State := { s.setPlaza q with
    wsLines := s.wsLines.filterMap fun (w : WsLine) => if w.handle = p.handle s.dev then w.over else some w
    away := s.away.filter fun m => m.2 != p.handle s.dev
    records := s.records.filter fun r => r.tag != p.handle s.dev || p.handle s.dev == 0 }
  have hexec : exec (.plazaDiscard p.die p.index) s = .next t.abortsDone.freePlazas := by
    change execPlazaDiscard p.die p.index s = _
    unfold execPlazaDiscard
    rw [hp]
    dsimp only
    rw [if_pos ⟨hst, hno⟩]
    have hdiscard : (s.setPlaza q).discard (p.handle s.dev) p.cause = t := State.discard_untagged (s := s.setPlaza q) p.cause htag
    exact congrArg (fun v : State => Host.Outcome.next v.abortsDone.freePlazas) hdiscard
  have ht : t.plazaAt p.die p.index = some q := State.setPlaza_plazaAt hp rfl rfl
  have hlines : ∀ w ∈ t.abortsDone.wsLines, w.handle = p.handle s.dev → w.gone = true ∧ w.bytes = [] :=
    fun w hw hh => State.discard_lines (State.abortsDone_wsLines.mp hw).1 hh
  have hover : t.abortOver q = true ↔ ∀ x ∈ p.discards, x ∈ 0 :: p.discarded := by
    have hdis : q.discards = p.discards := p.discards_peers _
    rw [← hdis]
    exact State.abortOver_iff hst htag habort
  have hdone := State.abortsDone_plazaAt ht
  refine ⟨_, hexec, rfl, hlines, ?_⟩
  by_cases hall : ∀ x ∈ p.discards, x ∈ 0 :: p.discarded
  · have hno' : ¬ ∃ x ∈ p.discards, x ∉ 0 :: p.discarded := fun ⟨x, hx, hn⟩ => hn (hall x hx)
    have hclear : ∀ w ∈ t.abortsDone.wsLines, w.handle ≠ p.handle s.dev := fun w hw hh =>
      (State.abortsDone_wsLines.mp hw).2 ⟨(hlines w hw hh).1, q, List.mem_of_find?_eq_some ht, hh, hover.mpr hall⟩
    rw [if_pos (hover.mpr hall)] at hdone
    rcases State.freePlazas_plazaAt hdone with h | ⟨-, h⟩
    · exact ⟨_, h, rfl, .inr (.inl rfl), ⟨fun hq => PlzState.noConfusion hq, fun hx => absurd hx hno'⟩, fun _ => hclear⟩
    · exact ⟨_, h, rfl, .inr (.inr rfl), ⟨fun hq => PlzState.noConfusion hq, fun hx => absurd hx hno'⟩, fun _ => hclear⟩
  · have hleft : ∃ x ∈ p.discards, x ∉ 0 :: p.discarded := by
      by_contra hx
      exact hall fun x hm => by_contra fun hn => hx ⟨x, hm, hn⟩
    rw [if_neg (fun ho => hall (hover.mp ho))] at hdone
    rcases State.freePlazas_plazaAt hdone with h | ⟨hq, -⟩
    · exact ⟨q, h, rfl, .inl hst, ⟨fun _ => hleft, fun _ => hst⟩, fun hq => absurd hst hq⟩
    · have hne : q.state = .aborting := hst
      rw [hne] at hq
      exact absurd hq (by decide)

end

/-- Settles O55: ports by what the routes are computed from, requests by what a peer's read and write meet at the home, replies
by the wait that asked, plazas by their entry in the table. -/
theorem fabricEvents : Obligations.FabricEvents := by
  unfold Obligations.FabricEvents
  intro s port addr size dir acc pf sc v data a f p ty d plz asks
  refine ⟨exec_flitReceive, exec_remoteLoad, exec_remoteStore, exec_remoteAck_load, fun hacc => ?_, fun hp hst hdir => ?_,
    fun hp hst hdir hno hleft => ?_, fun hp hst hdir hno hall => ?_, exec_plazaTimeout, exec_plazaDiscard⟩
  · obtain ⟨u, hexec, hmem, hfib⟩ := exec_remoteAck_waits (data := data) hacc
    refine ⟨u, hexec, hmem, fun g n sat hg hw hr => ?_⟩
    rw [hfib g hg]
    cases asks with
    | enter h =>
      rw [Fibre.answered_enter hw hr]
      split
      · next hd => rw [decide_eq_true hd]
      · next hd => rw [decide_eq_false hd]
    | leave h =>
      rw [Fibre.answered_leave hw hr]
      split
      · next hd => rw [decide_eq_true hd]
      · next hd => rw [decide_eq_false hd]
    | other => rw [Fibre.answered_other hw hr]
  · obtain ⟨hdie, hix, hsealed⟩ := s.sealedBy_fields p dir
    obtain ⟨hstate, hcommit⟩ := State.sealedBy_state (s := s) (p := p) dir hst
    have hlines := s.sealLines_sealed (p.handle s.dev) dir
    exact ⟨_, s.sealedBy p dir, exec_sealAck hp hst hdir, State.setPlaza_plazaAt hp hdie hix, hsealed, rfl, hstate, hcommit, hlines⟩
  · refine ⟨_, (exec_publishReport hp hst hdir hno).trans (congrArg _ (if_neg fun h => ?_)), rfl, State.setPlaza_plazaAt hp rfl rfl⟩
    obtain ⟨x, hx, hpart, hne, hnot⟩ := hleft
    have hx := List.all_eq_true.mp h x hx
    simp [hpart, hne, hnot] at hx
  · obtain ⟨hmem, q, hq, hover⟩ := State.released_over (q := { p with published := dir :: p.published }) hp rfl rfl
    refine ⟨_, q, (exec_publishReport hp hst hdir hno).trans (congrArg _ (if_pos (List.all_eq_true.mpr fun x hx => ?_))), hmem, hq, hover⟩
    by_cases hpart : x ∈ s.participants p
    · rcases hall x hx hpart with rfl | hpub
      · simp
      · simp [hpub]
    · simp [hpart]

end Sys2Proof.Machine

/-! The five memories stay in canonical form (O60): issue, cross-lane instructions, records, operands, and the machine's own reads. -/

namespace Sys2Proof.Machine

/-- A result whose next state, if it gives one, has its memories in canonical form. -/
def ResultOk (r : Result) : Prop := ∀ t, r = .next t → t.memsOk

theorem next_resultOk {s : State} (h : s.memsOk) : ResultOk (.next s) := by
  rintro t ⟨⟩
  exact h

theorem fault_resultOk (e : Fault) : ResultOk (.fault e) := by
  rintro t ⟨⟩

theorem refused_resultOk (e : Refusal) : ResultOk (.refused e) := by
  rintro t ⟨⟩

theorem issue_resultOk {s : State} {i : Instr} {g : BitVec 4} {st : Nat} {uses : List Reg} {srcs : List Nat}
    {body : Fibre → State} (h : s.memsOk) (hb : ∀ f, (body f).memsOk) : ResultOk (issue s i g st uses srcs body) :=
  fun _ ht => issue_memsOk h (fun f _ => hb f) ht

theorem lane_resultOk {s : State} {i : Instr} {hd : Hdr} {uses : List Reg} {srcs : List Nat} {eff : Fibre → Fibre} (h : s.memsOk) :
    ResultOk (lane s i hd uses srcs eff) := fun _ ht => lane_memsOk h ht

theorem undefined_resultOk {s : State} (i : Instr) (h : s.memsOk) : ResultOk (undefined s i) := by
  unfold undefined
  split
  · exact fault_resultOk _
  · exact next_resultOk (trapAt_memsOk _ _ _ _ _ h)

section
variable {s : State}

/-! Returns from traps (R164). -/

theorem readRecord_memsOk (f : Fibre) (i : Instr) (k : State → List Byte → State) (h : s.memsOk)
    (hk : ∀ (t : State) bs, t.memsOk → (k t bs).memsOk) : (s.readRecord f i k).memsOk := by
  have hr := recordAt_memsOk f false h
  have hjudge (t : State) (rb : List Byte) (ht : t.memsOk) : (if badRecord rb then t.trapAt f i .undef else k t rb).memsOk := by
    split
    · exact trapAt_memsOk _ _ _ _ _ ht
    · exact hk _ _ ht
  unfold State.readRecord
  dsimp only
  split
  · next l t e =>
    rw [e] at hr
    have hc := checkRead_memsOk l 64 0 (peekAll_memsOk l 64 hr)
    split
    · exact hr
    · split
      · exact hjudge _ _ hc
      · exact trapAt_memsOk _ _ _ _ _ hc
  · next t e =>
    rw [e] at hr
    exact hjudge _ _ hr
  · next t e =>
    rw [e] at hr
    exact hr

theorem laneBack_memsOk (f : Fibre) (h : s.memsOk) : (s.laneBack f).memsOk := by
  unfold State.laneBack
  split <;> exact h

theorem returnTrap_memsOk (f : Fibre) (i : Instr) (stall : Nat) (rb : List Byte) (label : Option Nat) (h : s.memsOk) :
    (s.returnTrap f i stall rb label).memsOk := laneBack_memsOk (s := s.setF _) f h

/-! Sticky bits (R66). -/

theorem markSat_memsOk (l : Loc) (h : s.memsOk) : (s.markSat l).memsOk := setBytes_memsOk _ _ h

theorem sticky_memsOk (f : Fibre) (conv ovf : Bool) (h : s.memsOk) : (s.sticky f conv ovf).1.memsOk := by
  unfold State.sticky
  split
  · dsimp only
    split
    · split
      · exact h
      · exact markSat_memsOk _ h
    · exact h
  · exact h

theorem laneSticky_resultOk {i : Instr} {hd : Hdr} {uses : List Reg} {srcs : List Nat} {eff : Fibre → Fibre × Bool × Bool}
    (h : s.memsOk) : ResultOk (laneSticky s i hd uses srcs eff) :=
  issue_resultOk h fun _ => retire_memsOk _ _ _ (sticky_memsOk _ _ _ h)

/-! Cross-lane instructions (R85 to R89). -/

theorem leaveBatch_memsOk (f : Fibre) (h : s.memsOk) : (s.leaveBatch f).memsOk := by
  unfold State.leaveBatch
  split <;> exact h

theorem holdBack_memsOk (f : Fibre) (us : List Nat) (h : s.memsOk) : (s.holdBack f us).memsOk := by
  unfold State.holdBack
  split
  · exact h
  · split <;> exact h

theorem crossLane_resultOk {i : Instr} {hd : Hdr} {uses : List Reg} {srcs : List Nat} {eff : List Fibre → Fibre → Fibre × Bool}
    (h : s.memsOk) : ResultOk (crossLane s i hd uses srcs eff) := by
  unfold crossLane
  split
  · exact fault_resultOk _
  · split
    · exact next_resultOk (trapAt_memsOk _ _ _ _ _ h)
    · split
      · exact issue_resultOk h fun _ => trapAt_memsOk _ _ _ _ _ h
      · extract_lets fs short away q active
        split
        · refine next_resultOk (foldl_memsOk _ _ (holdBack_memsOk _ _ h) fun t g ht => ?_)
          split
          · exact retire_memsOk _ _ _ (sticky_memsOk _ _ _ ht)
          · exact retire_memsOk _ _ _ ht
        · refine next_resultOk (foldl_memsOk _ _ (holdBack_memsOk _ _ h) fun t g ht => ?_)
          split
          · split
            · exact block_memsOk _ _ ht
            · exact retire_memsOk _ _ _ ht
          · exact trapAt_memsOk _ _ _ _ _ ht

/-! Records of the detector, and the counters (R227, R228). -/

theorem register_memsOk {t : State} {a : NewAcc} (h : s.memsOk) (hr : s.register a = .ok t) : t.memsOk := by
  obtain ⟨records, touched, full, rfl⟩ := State.register_ok hr
  exact h

theorem closeDrained_memsOk (fib : Nat) (h : s.memsOk) : (s.closeDrained fib).memsOk := by
  unfold State.closeDrained
  split
  · exact h
  · split <;> exact h

theorem completeOp_memsOk (fib id : Nat) (h : s.memsOk) : (s.completeOp fib id).memsOk :=
  closeDrained_memsOk (s := s.modF fib fun f => f.complete id) fib h

theorem recordAgain_memsOk (a : NewAcc) (h : s.memsOk) : (s.recordAgain a).memsOk := by
  unfold State.recordAgain
  split <;> exact h

theorem tlbSettle_memsOk (id : Nat) (h : s.memsOk) : (s.tlbSettle id).memsOk := by
  unfold State.tlbSettle
  dsimp only
  split <;> exact h

theorem tlbSweep_memsOk (h : s.memsOk) : s.tlbSweep.memsOk := by
  unfold State.tlbSweep
  dsimp only
  split <;> exact h

theorem sweepCopy_memsOk (f : Fibre) (h : s.memsOk) : (s.sweepCopy f).memsOk := by
  unfold State.sweepCopy
  split
  · exact tlbSweep_memsOk h
  · exact h

theorem tellTouch_memsOk (hd : DWord) (h : s.memsOk) : (s.tellTouch hd).memsOk := by
  unfold State.tellTouch
  split <;> exact h

theorem wsMark_memsOk {t : State} {tag : DWord} {a : Nat} {w : Option (List Byte)} (h : s.memsOk) (ht : s.wsMark tag a w = some t) :
    t.memsOk := by
  unfold State.wsMark at ht
  extract_lets cells at ht
  split at ht
  · obtain rfl := Option.some.inj ht
    exact h
  · split at ht
    · contradiction
    · obtain rfl := Option.some.inj ht
      exact tellTouch_memsOk (s := s) tag h

/-! Operands (R123 to R125). -/

theorem lookup_memsOk (core : Option Nat) (quad asid va : Nat) (k : AccKind) (h : s.memsOk) : (s.lookup core quad asid va k).1.memsOk :=
   findEntry_memsOk core quad asid va h

/-- An outcome of an operand's checks whose state, if it has one, has its memories in canonical form. -/
def Resolve.MemsOk : Resolve → Prop
  | .ok _ t | .wait t _ | .stand t => t.memsOk
  | .trap _ _ _ => True

theorem andThen_memsOk {r : Resolve} (f : Fibre) (i : Instr) (k : Loc → State → State) (h : s.memsOk) (hr : r.MemsOk)
    (hk : ∀ l (t : State), t.memsOk → (k l t).memsOk) : (r.andThen s f i k).memsOk := by
  unfold Resolve.andThen
  split
  · exact hk _ _ hr
  · exact trapAt_memsOk _ _ _ _ _ h
  · exact block_memsOk _ _ hr
  · exact hr

theorem resolveSp_memsOk (f : Fibre) (off size align : Nat) (b : Bool) (h : s.memsOk) : (resolveSp s f off size align b).MemsOk := by
  unfold resolveSp
  split
  · trivial
  · split
    · trivial
    · split
      · trivial
      · split
        · trivial
        · exact h

theorem resolveSw_memsOk (f : Fibre) (n off size : Nat) (h : s.memsOk) : (resolveSw s f n off size).MemsOk := by
  unfold resolveSw
  split
  · trivial
  · split
    · trivial
    · split
      · trivial
      · split
        · trivial
        · exact h

theorem resolveCb_memsOk (f : Fibre) (b : Buf) (off size : Nat) (h : s.memsOk) : (resolveCb s f b off size).MemsOk := by
  unfold resolveCb
  split
  · trivial
  · split
    · trivial
    · split
      · trivial
      · exact h

theorem translateFor_memsOk (f : Fibre) (va : Nat) (k : AccKind) (h : s.memsOk) : (translateFor s f va k).MemsOk := by
  have hl := lookup_memsOk (some f.core) (coreQuad f.core) (s.asidOf f) va k h
  unfold translateFor
  split
  · trivial
  · dsimp only
    split
    · exact hl
    · trivial
    · exact openFault_memsOk _ _ _ _ _ _ _ _ hl
    · exact hl
    · exact hl

theorem resolveGlobal_memsOk (f : Fibre) (va size align : Nat) (k : AccKind) (h : s.memsOk) : (resolveGlobal s f va size align k).MemsOk := by
  have ht := translateFor_memsOk f va k h
  unfold resolveGlobal
  split
  · trivial
  · split
    · trivial
    · split
      · trivial
      · split
        · next e =>
          rw [e] at ht
          split
          · trivial
          · exact ht
        · exact ht

theorem resolveObj_memsOk (f : Fibre) (space : BarSpace) (a : Reg) (h : s.memsOk) : (resolveObj s f space a).MemsOk := by
  cases space with
  | sp =>
    unfold resolveObj
    dsimp only
    split
    · trivial
    · exact resolveSp_memsOk _ _ _ _ _ h
  | die =>
    unfold resolveObj
    dsimp only
    split
    · trivial
    · exact resolveGlobal_memsOk _ _ _ _ _ h
  | dev =>
    unfold resolveObj
    dsimp only
    split
    · trivial
    · exact resolveGlobal_memsOk _ _ _ _ _ h

/-! The machine's own reads of tables and descriptors. -/

/-- An outcome of such a read whose state has its memories in canonical form. -/
def Vread.MemsOk : Vread → Prop
  | .ok _ t | .fail t | .wait t => t.memsOk

theorem readLoc_memsOk (agent : Nat) (l : Loc) (n : Nat) (h : s.memsOk) : (readLoc s agent l n).MemsOk := by
  have hm := meet_memsOk l n 0 false h
  unfold readLoc
  split
  · next pa =>
    split
    · next e =>
      rw [e] at hm
      exact hm
    · next t e =>
      rw [e] at hm
      have hu : (t.uncached pa n agent).1.memsOk := uncached_memsOk pa n agent hm
      dsimp only
      split
      · exact hu
      · split <;> exact hu
  · split
    · next e =>
      rw [e] at hm
      exact hm
    · next t e =>
      rw [e] at hm
      split
      · exact hm
      · exact peekAll_memsOk (s := t) _ n hm
  · split
    · exact h
    · exact h
  · exact h
  · exact h

theorem ctxSee_memsOk (asid : Nat) (h : s.memsOk) : (s.ctxSee asid).memsOk := by
  unfold State.ctxSee
  split <;> exact h

theorem ctxRead_memsOk (agent asid : Nat) (h : s.memsOk) : (s.ctxRead agent asid).MemsOk := by
  have hr := readLoc_memsOk agent (.dram (s.ctxAt asid)) 64 h
  unfold State.ctxRead
  split
  · exact h
  · split
    · next e =>
      rw [e] at hr
      exact ctxSee_memsOk _ hr
    · exact hr

theorem vread_memsOk (core : Option Nat) (quad asid agent va gran n : Nat) (h : s.memsOk) : (vread s core quad asid agent va gran n).MemsOk := by
  induction n generalizing s va with
  | zero => exact h
  | succ n ih =>
    have hl := lookup_memsOk core quad asid va .read h
    unfold vread
    split
    · exact h
    · dsimp only
      split
      · next l _ _ =>
        have hr := readLoc_memsOk agent l gran hl
        split
        · next t e =>
          rw [e] at hr
          have hn := ih (va + gran) (s := t) hr
          split
          · next e' =>
            rw [e'] at hn
            exact hn
          · exact hn
        · exact hr
      · exact hl
      · exact hl
      · exact hl
      · exact hl

end
end Sys2Proof.Machine

/-! The five memories stay in canonical form (O60): barrier objects, phases, sets, groups and plazas. -/

namespace Sys2Proof.Machine

section
variable {s : State}

/-- Changes of one fibre after another change no memory. -/
theorem modFs_memsOk (fs : List Fibre) (v : Fibre → Fibre) (h : s.memsOk) : (fs.foldl (fun t f => t.modF f.uid v) s).memsOk :=
  foldl_memsOk _ _ h fun _ _ ht => ht

theorem freePlazas_memsOk (h : s.memsOk) : s.freePlazas.memsOk := h

/-! Phases (R148, R150). -/

theorem opened_memsOk (l : Loc) (o : Obj) (h : s.memsOk) : (s.opened l o).1.memsOk := by
  unfold State.opened
  split <;> exact h

theorem collect_memsOk (l : Loc) (minor : Nat) (hd : DWord) (fs : List Fibre) (sat : Bool) (h : s.memsOk) :
    (s.collect l minor hd fs sat).memsOk := by
  unfold State.collect
  extract_lets all
  split
  · exact modFs_memsOk _ _ h
  · split
    · exact modFs_memsOk _ _ h
    · split
      · exact modFs_memsOk _ _ h
      · next t _ _ _ _ =>
        refine modFs_memsOk (s := t) _ _ ?_
        simp only [t]
        split <;> exact h

theorem formBatches_memsOk (l : Loc) (h : s.memsOk) : (s.formBatches l).memsOk := by
  unfold State.formBatches
  refine foldl_memsOk _ _ h fun t us ht => ?_
  exact foldl_memsOk _ _ ht fun _ _ hu => hu

theorem phaseDone_memsOk (l : Loc) (o : Obj) (h : s.memsOk) : (s.phaseDone l o).memsOk := by
  unfold State.phaseDone
  extract_lets p arrivals here satOf forms plz t go cleared freed u
  have ht : t.memsOk := by
    simp only [t]
    clear_value plz
    split
    · exact h
    · split
      · split
        · exact collect_memsOk _ _ _ _ _ h
        · exact modFs_memsOk _ _ h
      · exact h
  have hu : u.memsOk := ht
  split
  · exact formBatches_memsOk _ hu
  · exact hu

theorem completeOnce_memsOk (l : Loc) (h : s.memsOk) : (s.completeOnce l).memsOk := by
  unfold State.completeOnce
  dsimp only
  split
  · exact phaseDone_memsOk _ _ (setObj_memsOk _ _ (opened_memsOk _ _ h))
  · exact h

theorem leaveMx_memsOk (e : MxEntry) (h : s.memsOk) : (s.leaveMx e).memsOk :=
  completeOp_memsOk (s := (s.closeOwner e.id).tlbSettle e.id) e.fib e.id (tlbSettle_memsOk (s := s.closeOwner e.id) e.id h)

theorem leaveOp_memsOk (op : Nat) (h : s.memsOk) : (s.leaveOp op).memsOk := by
  unfold State.leaveOp
  split
  · exact leaveMx_memsOk _ h
  · exact h

theorem letIn_memsOk (a : HeldArrival) (h : s.memsOk) : (s.letIn a).memsOk :=
  leaveOp_memsOk _ (completeOnce_memsOk _ (setObj_memsOk _ _ h))

theorem admitHeld_memsOk (l : Loc) (n : Nat) (h : s.memsOk) : (s.admitHeld l n).memsOk := by
  induction n generalizing s with
  | zero => exact h
  | succ n ih =>
    unfold State.admitHeld
    split
    · exact h
    · next a _ =>
      extract_lets o t
      have ht : t.memsOk := h
      split
      · refine ih (leaveOp_memsOk _ ?_)
        split
        · exact markSat_memsOk _ ht
        · exact ht
      · split
        · exact h
        · exact ih (letIn_memsOk _ ht)

theorem completeObj_memsOk (l : Loc) (h : s.memsOk) : (s.completeObj l).memsOk := by
  unfold State.completeObj
  split
  · exact admitHeld_memsOk _ _ (completeOnce_memsOk _ h)
  · exact h

theorem arrive_memsOk (f : Fibre) (l : Loc) (k : PhaseKind) (h : s.memsOk) : (s.arrive f l k).memsOk := by
  unfold State.arrive
  extract_lets t o u v
  have hu : u.memsOk := setObj_memsOk (s := t) _ _ h
  refine completeObj_memsOk _ ?_
  simp only [v]
  split <;> exact hu

theorem engineArrive_memsOk (a : HeldArrival) (h : s.memsOk) : (s.engineArrive a).memsOk := by
  unfold State.engineArrive
  extract_lets o t
  split
  · exact leaveOp_memsOk _ h
  · split
    · exact h
    · split
      · exact admitHeld_memsOk _ _ (letIn_memsOk _ h)
      · exact letIn_memsOk _ h

theorem landBytes_memsOk (l : Loc) (n : Nat) (h : s.memsOk) : (s.landBytes l n).memsOk :=
  completeObj_memsOk _ (setObj_memsOk _ _ h)

theorem failObj_memsOk (l : Loc) (h : s.memsOk) : (s.failObj l).memsOk := setObj_memsOk (s := s) l _ h

theorem depart_memsOk (f : Fibre) (h : s.memsOk) : (s.depart f).memsOk := by
  unfold State.depart
  split
  · exact h
  · extract_lets t o u
    have hu : u.memsOk := setObj_memsOk (s := t) _ _ h
    exact completeObj_memsOk (s := u.modF _ _) _ hu

/-! Operations at an object (R128, R147, R287). -/

theorem whenHeld_memsOk (f : Fibre) (l : Loc) (n : Nat) (k : State → State) (h : s.memsOk)
    (hk : ∀ t : State, t.memsOk → (k t).memsOk) : (s.whenHeld f l n k).memsOk := by
  unfold State.whenHeld
  split
  · exact h
  · split
    · exact h
    · split
      · exact h
      · exact hk _ h

theorem registerFrom_memsOk {s0 : State} (f : Fibre) (i : Instr) (a : NewAcc) (addr : Nat) (k : State → State) (h : s.memsOk)
    (hk : ∀ t : State, t.memsOk → (k t).memsOk) : (s.registerFrom s0 f i a addr k).memsOk := by
  have hun : (s.unread s0).memsOk := h
  unfold State.registerFrom
  split
  · exact trapAt_memsOk _ _ _ _ _ hun
  · exact block_memsOk _ _ hun
  · next t e =>
    have ht : ({ t with nextId := t.nextId + 1 } : State).memsOk := register_memsOk (t := t) h e
    exact hk _ (foldl_memsOk _ _ ht fun _ q hu => homeClear_memsOk q hu)

theorem registerObj_memsOk (f : Fibre) (i : Instr) (a : NewAcc) (addr : Nat) (k : State → State) (h : s.memsOk)
    (hk : ∀ t : State, t.memsOk → (k t).memsOk) : (s.registerObj f i a addr k).memsOk := registerFrom_memsOk f i a addr k h hk

theorem soundObj_memsOk (f : Fibre) (i : Instr) (l : Loc) (n addr : Nat) (k : State → State) (h : s.memsOk)
    (hk : ∀ t : State, t.memsOk → (k t).memsOk) : (s.soundObj f i l n addr k).memsOk := by
  have hc := checkRead_memsOk l n 0 h
  unfold State.soundObj
  dsimp only
  split
  · exact hk _ hc
  · exact trapAt_memsOk _ _ _ _ _ hc

theorem atObject_memsOk (f : Fibre) (i : Instr) (l : Loc) (sc : Scope) (addr : Nat) (check : Obj → Option Cause) (k : State → State)
    (h : s.memsOk) (hk : ∀ t : State, t.memsOk → (k t).memsOk) : (atObject s f i l sc addr check k).memsOk := by
  have hm := meet_memsOk l 32 f.tag true h
  unfold atObject
  split
  · next e =>
    rw [e] at hm
    exact block_memsOk _ _ hm
  · next e =>
    rw [e] at hm
    refine whenHeld_memsOk _ _ _ _ hm fun t ht => soundObj_memsOk _ _ _ _ _ _ ht fun u hu => ?_
    dsimp only
    split
    · exact trapAt_memsOk _ _ _ _ _ hu
    · split
      · exact trapAt_memsOk _ _ _ _ _ hu
      · exact registerObj_memsOk _ _ _ _ _ hu hk

theorem atPeer_memsOk (f : Fibre) (i : Instr) (l : Loc) (addr : Nat) (ends : Bool) (pre : State → State) (k : State → DWord → State)
    (h : s.memsOk) (hpre : ∀ t : State, t.memsOk → (pre t).memsOk) (hk : ∀ (t : State) d, t.memsOk → (k t d).memsOk) :
    (atPeer s f i l addr ends pre k).memsOk := by
  unfold atPeer
  split
  · split
    · exact hk _ _ h
    · split <;> exact trapAt_memsOk _ _ _ _ _ h
  · split
    · exact trapAt_memsOk _ _ _ _ _ h
    · split
      · exact h
      · exact hpre _ (block_memsOk (s := { s with nextId := s.nextId + 1 }) _ _ h)

theorem afterWait_memsOk (f : Fibre) (i : Instr) (hd : Hdr) (sat : Bool) (obj : Nat) (h : s.memsOk) :
    (s.afterWait f i hd sat obj).memsOk := by
  unfold State.afterWait
  extract_lets t
  have ht : t.memsOk := retire_memsOk _ _ _ h
  clear_value t
  split
  · split
    · split
      · exact takeTrap_memsOk _ _ ht
      · exact ht
    · exact ht
  · exact ht

/-! Barrier instructions and rallies (R96, R97, R148 to R150). -/

theorem execBarInit_resultOk (hd : Hdr) (space : BarSpace) (a d : Reg) (h : s.memsOk) : ResultOk (execBarInit hd space a d s) := by
  refine issue_resultOk h fun f => andThen_memsOk f _ _ h (resolveObj_memsOk _ _ _ h) fun l t ht => ?_
  dsimp only
  split
  · exact atPeer_memsOk _ _ _ _ _ _ _ ht (fun _ hu => hu) fun _ _ hu => retire_memsOk _ _ _ hu
  · exact atObject_memsOk _ _ _ _ _ _ _ ht fun _ hu => retire_memsOk _ _ _ (setObj_memsOk _ _ hu)

theorem execBarExpect_resultOk (hd : Hdr) (space : BarSpace) (a d : Reg) (h : s.memsOk) :
    ResultOk (execBarExpect hd space a d s) := by
  refine issue_resultOk h fun f => andThen_memsOk f _ _ h (resolveObj_memsOk _ _ _ h) fun l t ht => ?_
  dsimp only
  split
  · exact atPeer_memsOk _ _ _ _ _ _ _ ht (fun _ hu => hu) fun _ _ hu => retire_memsOk _ _ _ hu
  · exact atObject_memsOk _ _ _ _ _ _ _ ht fun _ hu => retire_memsOk _ _ _ (setObj_memsOk _ _ hu)

theorem execBarArrive_resultOk (hd : Hdr) (space : BarSpace) (a d : Reg) (h : s.memsOk) :
    ResultOk (execBarArrive hd space a d s) := by
  refine issue_resultOk h fun f => andThen_memsOk f _ _ h (resolveObj_memsOk _ _ _ h) fun l t ht => ?_
  extract_lets fin
  have hfin (u : State) (p : Word) (hu : u.memsOk) : (fin u p).memsOk := by
    simp only [fin]
    split
    · exact retire_memsOk _ _ _ hu
    · exact hu
  split
  · exact atPeer_memsOk _ _ _ _ _ _ _ ht (fun _ hu => hu) fun _ _ hu => hfin _ _ hu
  · exact atObject_memsOk _ _ _ _ _ _ _ ht fun _ hu => hfin _ _ (arrive_memsOk _ _ _ hu)

theorem execBarWait_resultOk (hd : Hdr) (space : BarSpace) (a d : Reg) (h : s.memsOk) : ResultOk (execBarWait hd space a d s) := by
  refine issue_resultOk h fun f => andThen_memsOk f _ _ h (resolveObj_memsOk _ _ _ h) fun l t ht => ?_
  split
  · exact atPeer_memsOk _ _ _ _ _ _ _ ht (fun _ hu => hu) fun _ _ hu => afterWait_memsOk _ _ _ _ _ hu
  · split
    · split
      · exact trapAt_memsOk _ _ _ _ _ ht
      · exact afterWait_memsOk _ _ _ _ _ ht
    · exact trapAt_memsOk _ _ _ _ _ ht
    · refine atObject_memsOk _ _ _ _ _ _ _ ht fun u hu => ?_
      dsimp only
      split
      · exact afterWait_memsOk _ _ _ _ _ hu
      · exact block_memsOk _ _ hu

theorem arriveWait_memsOk (f : Fibre) (l : Loc) (k : PhaseKind) (h : s.memsOk) : (s.arriveWait f l k).memsOk := by
  unfold State.arriveWait
  extract_lets t
  have ht : t.memsOk := block_memsOk _ _ h
  clear_value t
  split
  · exact arrive_memsOk _ _ _ ht
  · exact ht

theorem rallyWith_resultOk (i : Instr) (hd : Hdr) (a : Reg) (k : PhaseKind) (h : s.memsOk) : ResultOk (rallyWith s i hd a k) := by
  refine issue_resultOk h fun f => ?_
  dsimp only
  split
  · exact afterWait_memsOk _ _ _ _ _ h
  · exact trapAt_memsOk _ _ _ _ _ h
  · split
    · exact trapAt_memsOk _ _ _ _ _ h
    · split
      · exact trapAt_memsOk _ _ _ _ _ h
      · exact andThen_memsOk _ _ _ h (resolveObj_memsOk _ _ _ h) fun l t ht =>
          atObject_memsOk _ _ _ _ _ _ _ ht fun _ hu => arriveWait_memsOk _ _ _ hu

/-! Sets (R151, R152). -/

theorem departThen_memsOk {s0 : State} (f : Fibre) (i : Instr) (l : Option Loc) (k : State → State) (h : s.memsOk)
    (hk : ∀ t : State, t.memsOk → (k t).memsOk) : (s.departThen s0 f i l k).memsOk := by
  unfold State.departThen
  split
  · exact hk _ h
  · exact registerFrom_memsOk _ _ _ _ _ h hk

theorem departHeld_memsOk (f : Fibre) (l : Option Loc) (k : State → State) (h : s.memsOk)
    (hk : ∀ t : State, t.memsOk → (k t).memsOk) : (s.departHeld f l k).memsOk := by
  unfold State.departHeld
  split
  · exact hk _ h
  · exact whenHeld_memsOk _ _ _ _ h hk

theorem setOp_resultOk (i : Instr) (hd : Hdr) (a : Reg) (tags damage : Bool) (check : Fibre → Loc → Obj → Option (Cause × Nat × Nat))
    (k : Fibre → Loc → State → State) (h : s.memsOk) (hk : ∀ f l (t : State), t.memsOk → (k f l t).memsOk) :
    ResultOk (setOp s i hd a tags check damage k) := by
  refine issue_resultOk h fun f => ?_
  dsimp only
  split
  · exact trapAt_memsOk _ _ _ _ _ h
  · split
    · exact trapAt_memsOk _ _ _ _ _ h
    · refine andThen_memsOk _ _ _ h (resolveObj_memsOk _ _ _ h) fun l t ht =>
        whenHeld_memsOk _ _ _ _ ht fun t ht => departHeld_memsOk _ _ _ ht fun t ht => ?_
      split
      · exact trapAt_memsOk _ _ _ _ _ ht
      · split
        · exact trapAt_memsOk _ _ _ _ _ ht
        · refine registerObj_memsOk _ _ _ _ _ ht fun u hu => departThen_memsOk _ _ _ _ hu fun v hv => ?_
          split
          · exact retire_memsOk _ _ _ (hk _ _ _ hv)
          · exact hk _ _ _ hv

theorem execSetNew_resultOk (hd : Hdr) (a : Reg) (h : s.memsOk) : ResultOk (execSetNew hd a s) := by
  refine setOp_resultOk _ _ _ _ _ _ _ h fun f l t ht => ?_
  extract_lets u
  have hu : ({ u with satNext := u.satNext.erase l } : State).memsOk := depart_memsOk (s := t) f ht
  exact setObj_memsOk l _ hu

theorem execSetEnrol_resultOk (hd : Hdr) (a : Reg) (h : s.memsOk) : ResultOk (execSetEnrol hd a s) := by
  refine setOp_resultOk _ _ _ _ _ _ _ h fun f l t ht => ?_
  exact setObj_memsOk l _ (depart_memsOk f ht)

theorem execSetQuit_resultOk (hd : Hdr) (a : Reg) (h : s.memsOk) : ResultOk (execSetQuit hd a s) :=
  setOp_resultOk _ _ _ _ _ _ _ h fun f _ _ ht => depart_memsOk f ht

/-! Sharing groups (R153 to R155). -/

theorem groupOp_memsOk (f : Fibre) (i : Instr) (a : Reg) (fits : Loc → Loc → State → Bool) (k : Loc → Loc → State → State)
    (h : s.memsOk) (hk : ∀ l m (t : State), t.memsOk → (k l m t).memsOk) : (groupOp s f i a fits k).memsOk := by
  unfold groupOp
  extract_lets va
  split
  · exact trapAt_memsOk _ _ _ _ _ h
  · split
    · exact trapAt_memsOk _ _ _ _ _ h
    · refine andThen_memsOk _ _ _ h (resolveGlobal_memsOk _ _ _ _ _ h) fun l t ht => ?_
      extract_lets onDie
      clear_value onDie
      split
      · exact trapAt_memsOk _ _ _ _ _ ht
      · have hm := meet_memsOk l 64 f.tag true ht
        split
        · next e =>
          rw [e] at hm
          exact block_memsOk _ _ hm
        · next e =>
          rw [e] at hm
          refine whenHeld_memsOk _ _ _ _ hm fun u hu => soundObj_memsOk _ _ _ _ _ _ hu fun v hv => ?_
          split
          · exact trapAt_memsOk _ _ _ _ _ hv
          · exact registerObj_memsOk _ _ _ _ _ hv (hk _ _)

theorem execGrpEnter_resultOk (hd : Hdr) (a d : Reg) (h : s.memsOk) : ResultOk (execGrpEnter hd a d s) := by
  refine issue_resultOk h fun f => groupOp_memsOk _ _ _ _ _ h fun l m t ht => ?_
  extract_lets u free fin
  have hu : u.memsOk := ht
  clear_value free
  split
  · exact retire_memsOk _ _ _ hu
  · extract_lets v
    have hv : v.memsOk := homeWrite_memsOk _ _ hu
    exact retire_memsOk (s := { v with windows := _ }) _ _ _ hv

theorem clearSlot_memsOk (l : Loc) (n : Nat) (h : s.memsOk) : (s.clearSlot l n).memsOk := homeWrite_memsOk (s := s) (l.add (4 * n)) _ h

theorem execGrpLeave_resultOk (hd : Hdr) (a : Reg) (h : s.memsOk) : ResultOk (execGrpLeave hd a s) := by
  refine issue_resultOk h fun f => groupOp_memsOk _ _ _ _ _ h fun l m t ht => ?_
  split
  · exact ht
  · extract_lets u ids
    have hu : u.memsOk := by
      simp only [u]
      split <;> exact ht
    split
    · exact retire_memsOk _ _ _ (clearSlot_memsOk _ _ hu)
    · exact block_memsOk _ _ hu

/-! Plaza instructions (R292 to R301). -/

theorem plzArrive_memsOk (f : Fibre) (i : Instr) (l : Loc) (off minor : Nat) (hd : DWord) (h : s.memsOk) :
    (plzArrive s f i l off minor hd).memsOk := atObject_memsOk _ _ _ _ _ _ _ h fun _ hu => arriveWait_memsOk _ _ _ hu

theorem execPlzEnter_resultOk (hd : Hdr) (a d : Reg) (h : s.memsOk) : ResultOk (execPlzEnter hd a d s) := by
  refine issue_resultOk h fun f => ?_
  dsimp only
  split
  · exact afterWait_memsOk _ _ _ _ _ h
  · exact trapAt_memsOk _ _ _ _ _ h
  · split
    · exact trapAt_memsOk _ _ _ _ _ h
    · split
      · exact afterWait_memsOk _ _ _ _ _ h
      · exact trapAt_memsOk _ _ _ _ _ h
  · split
    · exact trapAt_memsOk _ _ _ _ _ h
    · split
      · exact trapAt_memsOk _ _ _ _ _ h
      · split
        · exact trapAt_memsOk _ _ _ _ _ h
        · exact andThen_memsOk _ _ _ h (resolveObj_memsOk _ _ _ h) fun l t ht => plzArrive_memsOk _ _ _ _ _ _ ht

theorem castOnce_memsOk (hd : DWord) (l : Loc) (leave : Bool) (h : s.memsOk) : (s.castOnce hd l leave).memsOk := by
  unfold State.castOnce
  split
  · exact h
  · extract_lets t cast
    have ht : t.memsOk := by
      simp only [t]
      split
      · split <;> exact h
      · exact h
    exact ht

theorem castAway_memsOk (hd : DWord) (l : Loc) (leave : Bool) (h : s.memsOk) : (s.castAway hd l leave).memsOk := h

theorem plzCast_resultOk (i : Instr) (hd : Hdr) (a d : Reg) (leave : Bool) (h : s.memsOk) : ResultOk (plzCast s i hd a d leave) := by
  refine issue_resultOk h fun f => ?_
  extract_lets hn off out
  have hout (t : State) (g : Fibre) (sat : Bool) (ht : t.memsOk) : (out t g sat).memsOk :=
    afterWait_memsOk (s := { t with away := _ }) _ _ _ _ _ ht
  split
  · exact hout _ _ _ h
  · exact hout _ _ _ h
  · exact trapAt_memsOk _ _ _ _ _ h
  · split
    · exact trapAt_memsOk _ _ _ _ _ h
    · split
      · exact hout _ _ _ h
      · exact trapAt_memsOk _ _ _ _ _ h
  · split
    · exact hout _ _ _ h
    · split
      · exact castOnce_memsOk _ _ _ h
      · exact castAway_memsOk _ _ _ h
  · split
    · exact trapAt_memsOk _ _ _ _ _ h
    · split
      · exact trapAt_memsOk _ _ _ _ _ h
      · refine andThen_memsOk _ _ _ h (resolveObj_memsOk _ _ _ h) fun l t ht => ?_
        split
        · exact trapAt_memsOk _ _ _ _ _ ht
        · split
          · exact plzArrive_memsOk _ _ _ _ _ _ ht
          · exact block_memsOk _ _ ht

theorem execPlzAbort_resultOk (hd : Hdr) (a : Reg) (h : s.memsOk) : ResultOk (execPlzAbort hd a s) := by
  refine issue_resultOk h fun f => ?_
  split
  · exact trapAt_memsOk _ _ _ _ _ h
  · exact retire_memsOk _ _ _ (causeAbort_memsOk _ _ h)

end
end Sys2Proof.Machine

/-! The five memories stay in canonical form (O60): fetching, branches, loops, forks, joins and the end of a fibre. -/

namespace Sys2Proof.Machine

section
variable {s : State}

/-! Fetching a group (R24). -/

/-- An outcome of a fetch whose state, if it has one, has its memories in canonical form. -/
def Fetched.MemsOk : Fetched → Prop
  | .ok _ t | .wait t _ | .stand t => t.memsOk
  | .trap _ => True

theorem fetchHalves_memsOk (f : Fibre) (va n : Nat) (bs : List Byte) (h : s.memsOk) : (fetchHalves s f va n bs).MemsOk := by
  induction n generalizing s va bs with
  | zero => exact h
  | succ n ih =>
    have ht := translateFor_memsOk f va .fetch h
    unfold fetchHalves
    split
    · trivial
    · split
      · next e =>
        rw [e] at ht
        exact ih _ _ ht
      · trivial
      · next e =>
        rw [e] at ht
        exact ht
      · next e =>
        rw [e] at ht
        exact ht

theorem fetchMore_memsOk (f : Fibre) (va n : Nat) (bs : List Byte) (h : s.memsOk) : (fetchMore s f va n bs).MemsOk := by
  induction n generalizing s bs with
  | zero => exact h
  | succ n ih =>
    have hf := fetchHalves_memsOk f (va + bs.length) ((groupNeed bs - bs.length + 1) / 2) bs h
    unfold fetchMore
    split
    · exact h
    · split
      · next e =>
        rw [e] at hf
        exact ih _ hf
      · trivial
      · next e =>
        rw [e] at hf
        exact hf
      · next e =>
        rw [e] at hf
        exact hf

theorem fetchGroup_memsOk (f : Fibre) (va : Nat) (h : s.memsOk) : (fetchGroup s f va).MemsOk := fetchMore_memsOk _ _ _ _ h

/-- An end of skipped groups whose state, if it has one, has its memories in canonical form. -/
def Skipped.MemsOk : Skipped → Prop
  | .ok _ t | .wait t _ | .stand t => t.memsOk
  | .trap _ => True

theorem skipGroups_memsOk (f : Fibre) (va n : Nat) (h : s.memsOk) : (skipGroups s f va n).MemsOk := by
  induction n generalizing s va with
  | zero => exact h
  | succ n ih =>
    have hf := fetchGroup_memsOk f va h
    unfold skipGroups
    split
    · next e =>
      rw [e] at hf
      exact ih _ hf
    · trivial
    · next e =>
      rw [e] at hf
      exact hf
    · next e =>
      rw [e] at hf
      exact hf

/-! Branches and loops (R91 to R102). -/

theorem retiring_resultOk {i : Instr} {g : BitVec 4} {st : Nat} {uses : List Reg} {srcs : List Nat} {v : Fibre → Fibre}
    {r : Fibre → Retire} (h : s.memsOk) : ResultOk (issue s i g st uses srcs fun f => s.retire (v f) i (r f)) :=
  issue_resultOk h fun _ => retire_memsOk _ _ _ h

theorem jumpTo_memsOk (f : Fibre) (i : Instr) (t : DWord) (k : Nat → State) (h : s.memsOk) (hk : ∀ n, (k n).memsOk) :
    (jumpTo s f i t k).memsOk := by
  unfold jumpTo
  split
  · exact trapAt_memsOk _ _ _ _ _ h
  · split
    · exact trapAt_memsOk _ _ _ _ _ h
    · exact hk _

theorem execRet_resultOk (hd : Hdr) (h : s.memsOk) : ResultOk (execRet hd s) := by
  refine issue_resultOk h fun f => ?_
  split
  · exact trapAt_memsOk _ _ _ _ _ h
  · exact jumpTo_memsOk _ _ _ _ h fun _ => retire_memsOk _ _ _ h

theorem execBraR_resultOk (hd : Hdr) (a : Reg) (h : s.memsOk) : ResultOk (execBraR hd a s) :=
  issue_resultOk h fun _ => jumpTo_memsOk _ _ _ _ h fun _ => retire_memsOk _ _ _ h

theorem execCallR_resultOk (hd : Hdr) (a : Reg) (h : s.memsOk) : ResultOk (execCallR hd a s) :=
  issue_resultOk h fun _ => jumpTo_memsOk _ _ _ _ h fun _ => retire_memsOk _ _ _ h

theorem execYield_resultOk (hd : Hdr) (h : s.memsOk) : ResultOk (execYield hd s) :=
  issue_resultOk h fun f => retire_memsOk (s := s) f (.yield hd) { stall := hd.s.toNat } h

theorem execLoose_resultOk (hd : Hdr) (h : s.memsOk) : ResultOk (execLoose hd s) :=
  issue_resultOk h fun f => leaveBatch_memsOk (s := (s.retire f (.loose hd) { stall := hd.s.toNat }).laneBack f) f
    (laneBack_memsOk f (retire_memsOk _ _ _ h))

theorem execLoop_resultOk (hd : Hdr) (n : BitVec 2) (count : Reg) (len : BitVec 8) (h : s.memsOk) :
    ResultOk (execLoop hd n count len s) := by
  refine issue_resultOk h fun f => ?_
  extract_lets start c g e o
  have hs := skipGroups_memsOk f start (len.toNat + 1) h
  split
  · split
    · exact trapAt_memsOk _ _ _ _ _ h
    · next e' =>
      rw [e'] at hs
      exact block_memsOk _ _ hs
    · next e' =>
      rw [e'] at hs
      exact hs
    · next e' =>
      rw [e'] at hs
      exact retire_memsOk _ _ _ hs
  · exact retire_memsOk _ _ _ h

/-! Forks (R103 to R105) and ticks (R106 to R110). -/

theorem pushFrame_memsOk (i : Instr) (hd : Hdr) (f : Fibre) (call : Bool) (fr : Frame) (h : s.memsOk) :
    (pushFrame s i hd f call fr).memsOk := by
  unfold pushFrame
  split
  · exact retire_memsOk _ _ _ h
  · split
    · exact trapAt_memsOk _ _ _ _ _ h
    · exact retire_memsOk _ _ _ h

theorem forkCAt_resultOk (i : Instr) (v : Option (BitVec 19)) (hd : Hdr) (off : BitVec 11) (cnt : BitVec 2) (k : Reg) (h : s.memsOk) :
    ResultOk (forkCAt i v hd off cnt k s) := by
  unfold forkCAt
  split
  · exact undefined_resultOk _ h
  · exact issue_resultOk h fun _ => pushFrame_memsOk _ _ _ _ _ h

theorem execForkR_resultOk (hd : Hdr) (lim idx acc : Reg) (grain : BitVec 20) (ty : RedTy) (op : RedOp) (h : s.memsOk) :
    ResultOk (execForkR hd lim idx acc grain ty op s) := issue_resultOk h fun _ => pushFrame_memsOk _ _ _ _ _ h

theorem execForkRL_resultOk (hd : Hdr) (idx : Reg) (n : BitVec 2) (acc : Reg) (grain : BitVec 20) (ty : RedTy) (op : RedOp)
    (h : s.memsOk) : ResultOk (execForkRL hd idx n acc grain ty op s) := issue_resultOk h fun _ => pushFrame_memsOk _ _ _ _ _ h

theorem tick_memsOk (f : Fibre) (h : s.memsOk) : (s.tick f).memsOk := by
  unfold State.tick
  split <;> exact h

theorem deliverTick_memsOk (f : Fibre) (h : s.memsOk) : (s.deliverTick f).memsOk := by
  unfold State.deliverTick
  split
  · exact h
  · exact tick_memsOk (s := s.modF _ _) _ h

theorem splitRange_memsOk (f : Fibre) (r : Range) (v : (Range → Range) → Fibre → Fibre) (h : s.memsOk) :
    (s.splitRange f r v).memsOk := by
  unfold State.splitRange
  extract_lets clear w i l
  split
  · exact h
  · split
    · exact h
    · exact h

/-! The end of a fibre (R115, R116). -/

theorem moveToken_memsOk (id n : Nat) (h : s.memsOk) : (s.moveToken id n).memsOk := by
  induction n generalizing s with
  | zero => exact h
  | succ n ih =>
    unfold State.moveToken
    split
    · split
      · exact ih (s := s.setLaunch _) h
      · exact h
    · exact h

theorem tokenMoves_memsOk (launch : Nat) (h : s.memsOk) : (s.tokenMoves launch).memsOk := moveToken_memsOk _ _ h

theorem endFibre_memsOk (f : Fibre) (result : DWord) (h : s.memsOk) : (s.endFibre f result).memsOk := by
  unfold State.endFibre
  extract_lets t u v
  have ht : t.memsOk := leaveBatch_memsOk _ (depart_memsOk _ h)
  have hv : v.memsOk := ht
  exact tokenMoves_memsOk f.launch hv

theorem mxTrap_memsOk (f : Fibre) (d : Deferred) (h : s.memsOk) : (s.mxTrap f d).memsOk := takeTrap_memsOk _ _ h

theorem drained_memsOk (f : Fibre) (k : State) (h : s.memsOk) (hk : k.memsOk) : (drained s f k).memsOk := by
  unfold drained
  split
  · exact block_memsOk _ _ h
  · split
    · split
      · exact hk
      · exact mxTrap_memsOk _ _ h
    · exact hk

theorem finish_memsOk (f : Fibre) (i : Instr) (hd : Hdr) (result : DWord) (h : s.memsOk) : (s.finish f i hd result).memsOk := by
  refine departHeld_memsOk _ _ _ h fun t ht => departThen_memsOk _ _ _ _ ht fun u hu => ?_
  extract_lets v
  have hv : v.memsOk := retire_memsOk _ _ _ hu
  clear_value v
  split
  · exact endFibre_memsOk (s := { v with cur := 0 }) _ _ hv
  · exact hv

/-! Joins (R113 to R115). -/

theorem readsAcc_memsOk (f : Fibre) (i : Instr) (r : Range) (reads : Bool) (k : State) (h : s.memsOk) (hk : k.memsOk) :
    (s.readsAcc f i r reads k).memsOk := by
  unfold State.readsAcc
  dsimp only
  split
  · exact trapAt_memsOk _ _ _ _ _ h
  · exact hk

theorem consume_memsOk (r : Range) (t : State × Fibre) (kid : Nat) (h : t.1.memsOk) : (consume r t kid).1.memsOk := by
  unfold consume
  split
  · exact h
  · extract_lets v g u
    exact sticky_memsOk (s := t.1) _ _ _ h

theorem consumes_memsOk (r : Range) (kids : List Nat) (t : State × Fibre) (h : t.1.memsOk) : (kids.foldl (consume r) t).1.memsOk := by
  induction kids generalizing t with
  | nil => exact h
  | cons kid kids ih => exact ih _ (consume_memsOk _ _ _ h)

theorem blockJoin_memsOk (f : Fibre) (kids : List Nat) (h : s.memsOk) : (s.blockJoin f kids).memsOk :=
  block_memsOk (s := { s with nextId := s.nextId + 1 }) _ _ h

theorem joinRange_memsOk (f : Fibre) (r : Range) (k : State → Fibre → State) (h : s.memsOk)
    (hk : ∀ (t : State) g, t.memsOk → (k t g).memsOk) : (joinRange s f r k).memsOk := by
  unfold joinRange
  split
  · exact hk _ _ (consumes_memsOk r r.kids (s, f) h)
  · exact blockJoin_memsOk _ _ h

theorem doneRange_memsOk (f : Fibre) (i : Instr) (hd : Hdr) (h : s.memsOk) : (doneRange s f i hd).memsOk := by
  unfold doneRange
  split
  · exact trapAt_memsOk _ _ _ _ _ h
  · exact readsAcc_memsOk _ _ _ _ _ h (drained_memsOk _ _ h (joinRange_memsOk _ _ _ h fun _ _ ht => finish_memsOk _ _ _ _ ht))

theorem execExit_resultOk (hd : Hdr) (h : s.memsOk) : ResultOk (execExit hd s) := by
  refine issue_resultOk h fun f => ?_
  split
  · exact trapAt_memsOk _ _ _ _ _ h
  · split
    · exact doneRange_memsOk _ _ _ h
    · exact drained_memsOk _ _ h (finish_memsOk _ _ _ _ h)

theorem execDone_resultOk (hd : Hdr) (a : Reg) (h : s.memsOk) : ResultOk (execDone hd a s) := by
  refine issue_resultOk h fun f => ?_
  split
  · exact trapAt_memsOk _ _ _ _ _ h
  · exact drained_memsOk _ _ h (finish_memsOk _ _ _ _ h)

theorem execDoneR_resultOk (hd : Hdr) (h : s.memsOk) : ResultOk (execDoneR hd s) := by
  refine issue_resultOk h fun f => ?_
  split
  · exact trapAt_memsOk _ _ _ _ _ h
  · exact doneRange_memsOk _ _ _ h

theorem execJoinR_resultOk (hd : Hdr) (h : s.memsOk) : ResultOk (execJoinR hd s) := by
  refine issue_resultOk h fun f => ?_
  split
  · exact retire_memsOk _ _ _ h
  · exact trapAt_memsOk _ _ _ _ _ h
  · split
    · exact doneRange_memsOk _ _ _ h
    · exact trapAt_memsOk _ _ _ _ _ h
  · exact trapAt_memsOk _ _ _ _ _ h
  · exact readsAcc_memsOk _ _ _ _ _ h (joinRange_memsOk _ _ _ h fun _ _ ht => retire_memsOk _ _ _ ht)

theorem execJoinC_resultOk (hd : Hdr) (pd : Pred) (a : Reg) (h : s.memsOk) : ResultOk (execJoinC hd pd a s) := by
  refine issue_resultOk h fun f => ?_
  dsimp only
  split
  · exact retire_memsOk _ _ _ h
  · exact trapAt_memsOk _ _ _ _ _ h
  · exact trapAt_memsOk _ _ _ _ _ h
  · exact trapAt_memsOk _ _ _ _ _ h
  · exact retire_memsOk _ _ _ h
  · split
    · exact retire_memsOk _ _ _ h
    · split
      · exact retire_memsOk (s := { (s.sticky _ _ _).1 with fibres := _ }) _ _ _ (sticky_memsOk (s := s) _ _ _ h)
      · exact blockJoin_memsOk _ _ h

theorem execSpawn_resultOk (hd : Hdr) (d a : Reg) (h : s.memsOk) : ResultOk (execSpawn hd d a s) :=
  issue_resultOk h fun f => jumpTo_memsOk _ _ _ _ h fun _ => retire_memsOk (s := s) f (.spawn hd d a) { stall := hd.s.toNat } h

end
end Sys2Proof.Machine

/-! The five memories stay in canonical form (O60): accesses posted and performed, loads, stores and atomics. -/

namespace Sys2Proof.Machine

section
variable {s : State}

/-! Posting (R126 to R130). -/

theorem joinRound_memsOk {t : State} {core : Nat} {a : Access} (h : s.memsOk) (ht : s.joinRound core a = some t) : t.memsOk := by
  unfold State.joinRound at ht
  dsimp only at ht
  split at ht
  · contradiction
  · split at ht
    · obtain rfl := Option.some.inj ht
      exact h
    · obtain rfl := Option.some.inj ht
      exact h

theorem endAccess_memsOk (a : Access) (h : s.memsOk) : (s.endAccess a).memsOk :=
  tlbSettle_memsOk (s := (s.recDone a.id).completeOp a.fib a.id) a.id (completeOp_memsOk (s := s.recDone a.id) _ _ h)

theorem failAccess_memsOk (a : Access) (c : Cause) (detail daddr : Nat) (h : s.memsOk) : (s.failAccess a c detail daddr).memsOk :=
  endAccess_memsOk (s := s) a h

theorem postAccess_memsOk (f : Fibre) (i : Instr) (hd : Hdr) (a : Access) (h : s.memsOk) : (postAccess s f i hd a).memsOk := by
  unfold postAccess
  extract_lets cls tag
  clear_value tag
  split
  · exact block_memsOk _ _ h
  · split
    · exact block_memsOk _ _ h
    · exact trapAt_memsOk _ _ _ _ _ h
    · have hm : (if tag = 0 then s.meet a.loc a.size 0 (!a.op.isLoad) else (s, .go)).1.memsOk := by
        split
        · exact meet_memsOk _ _ _ _ h
        · exact h
      split
      · next e =>
        rw [e] at hm
        exact block_memsOk _ _ hm
      · next t e =>
        rw [e] at hm
        extract_lets b
        split
        · exact block_memsOk _ _ hm
        · next u hu =>
          have hu := joinRound_memsOk hm hu
          extract_lets v w
          have hv : v.memsOk := by
            simp only [v]
            split <;> exact hu
          have hw : w.memsOk := retire_memsOk (s := { v with accs := _, nextId := _ }) _ _ _ hv
          split
          · exact failAccess_memsOk _ _ _ _ hw
          · exact hw

/-! Performing (R127, R214 to R221, R227, R233). -/

theorem checkAcc_memsOk (f : Fibre) (a : Access) (h : s.memsOk) : (s.checkAcc f a).1.memsOk := by
  unfold State.checkAcc
  split
  · exact h
  · exact checkRead_memsOk _ _ _ h

theorem wayClear_memsOk (a : Access) (writes meets : Bool) (h : s.memsOk) : (s.wayClear a writes meets).1.memsOk := by
  have hm := meet_memsOk a.loc a.size a.tag meets h
  unfold State.wayClear
  split
  · exact h
  · split
    · next e =>
      rw [e] at hm
      exact hm
    · next e =>
      rw [e] at hm
      split <;> exact hm

theorem registerAcc_memsOk {t : State} {f : Fibre} {a : Access} {writes : Bool} (h : s.memsOk)
    (ht : s.registerAcc f a writes = .ok t) : t.memsOk := by
  unfold State.registerAcc at ht
  dsimp only at ht
  split at ht
  · contradiction
  · split at ht
    · obtain rfl := Registered.ok.inj ht
      exact recordAgain_memsOk _ h
    · exact register_memsOk h ht

theorem serve_memsOk (a : Access) (k : Access → State → Fibre → List Byte → State) (h : s.memsOk)
    (hk : ∀ a (t : State) f bs, t.memsOk → (k a t f bs).memsOk) : (serve s a k).memsOk := by
  unfold serve
  split
  · exact h
  · exact h
  · next f b _ _ =>
    extract_lets writes meets
    have hw := wayClear_memsOk b writes meets h
    split
    · next e =>
      rw [e] at hw
      exact hw
    · next e =>
      rw [e] at hw
      split
      · exact failAccess_memsOk _ _ _ _ hw
      · exact hw
      · next u hu =>
        have hu := registerAcc_memsOk hw hu
        split
        · exact hk _ _ _ _ hu
        · have hc := checkAcc_memsOk f b hu
          dsimp only
          split
          · exact failAccess_memsOk _ _ _ _ hc
          · exact hk _ _ _ _ hc

theorem touchRead_memsOk (f : Fibre) (a : Access) (h : s.memsOk) : (s.touchRead f a).memsOk := by
  unfold State.touchRead
  split
  · exact fibreLoad_memsOk _ _ _ h
  · exact peekAll_memsOk _ _ h

theorem markLine_memsOk (a : Access) (w : Option (List Byte)) (k : State → State) (h : s.memsOk)
    (hk : ∀ t : State, t.memsOk → (k t).memsOk) : (markLine s a w k).memsOk := by
  unfold markLine
  split
  · exact hk _ h
  · split
    · exact causeAbort_memsOk _ _ h
    · next e => exact hk _ (wsMark_memsOk h e)

theorem landLoad_memsOk (f : Fibre) (a : Access) (bs : List Byte) (h : s.memsOk) : (landLoad s f a bs).memsOk := by
  unfold landLoad
  split
  · exact markLine_memsOk _ _ _ h fun t ht => endAccess_memsOk (s := t.touchRead f a) a (touchRead_memsOk _ _ ht)
  · exact h
  · exact h
  · exact h

theorem chooseWord_memsOk (key : Nat) (h : s.memsOk) : (s.chooseWord key).memsOk := by
  unfold State.chooseWord
  split
  · extract_lets v take t
    split <;> exact h
  · exact h

theorem chooseRun_memsOk (l : Loc) (n : Nat) (h : s.memsOk) : (s.chooseRun l n).memsOk := by
  unfold State.chooseRun
  split
  · exact foldl_memsOk _ _ h fun _ _ ht => chooseWord_memsOk _ ht
  all_goals exact h

theorem performStore_memsOk (f : Fibre) (a : Access) (bs : List Byte) (h : s.memsOk) : (performStore s f a bs).memsOk := by
  unfold performStore
  split
  · refine markLine_memsOk _ _ _ h fun t ht => endAccess_memsOk _ (chooseRun_memsOk _ _ ?_)
    split
    · exact ht
    · split
      · exact homeWrite_memsOk _ _ ht
      · exact fibreStore_memsOk _ _ _ ht
  · exact h
  · exact h
  · exact h

theorem performAtomic_memsOk (f : Fibre) (a : Access) (bs : List Byte) (h : s.memsOk) : (performAtomic s f a bs).memsOk := by
  unfold performAtomic
  split
  · extract_lets old fin
    have hfin (t : State) (ht : t.memsOk) : (fin t).memsOk := endAccess_memsOk (s := t) a ht
    split
    · exact markLine_memsOk _ _ _ h fun t ht => hfin _ (touchRead_memsOk _ _ ht)
    · refine markLine_memsOk _ _ _ h fun t ht => hfin _ ?_
      split
      · exact ht
      · exact homeWrite_memsOk _ _ ht
  · exact h
  · exact h
  · exact h

theorem openAt_memsOk (f : Fibre) (a : Access) (bs : List Byte) (h : s.memsOk) : (openAt s f a bs).memsOk := by
  unfold openAt
  split
  · refine markLine_memsOk _ _ _ h fun t ht => ?_
    extract_lets expect pctrl timeout u die fin
    have hu : u.memsOk := touchRead_memsOk _ _ ht
    have hfin (v : State) (w : DWord) (hv : v.memsOk) : (fin v w).memsOk := endAccess_memsOk (s := v) a hv
    clear_value u fin
    split
    · exact failAccess_memsOk _ _ _ _ hu
    · split
      · exact hfin _ _ hu
      · exact hfin _ _ hu
  · exact h
  · exact h
  · exact h

/-! The events of accesses (R127, R129, R142, R218, R240). -/

theorem execLoadComplete_resultOk (acc : Nat) (h : s.memsOk) : ResultOk (execLoadComplete acc s) := by
  refine next_resultOk ?_
  split
  · split
    · exact serve_memsOk _ _ h fun _ _ _ _ ht => landLoad_memsOk _ _ _ ht
    · exact h
  · exact h

theorem widenFirst_memsOk {t : State} {a : Access} (h : s.memsOk) (ht : s.widenFirst a = some t) : t.memsOk := by
  have hw := wayClear_memsOk a true true h
  unfold State.widenFirst at ht
  split at ht
  · next v pa _ _ =>
    split at ht
    · contradiction
    · split at ht
      · next e =>
        rw [e] at hw
        obtain rfl := Option.some.inj ht
        exact hw
      · next w e =>
        rw [e] at hw
        have hm : ({ w with mem := memWrite w.mem pa (Dec.leBytes a.size v.toNat) } : State).memsOk :=
          setBytes_memsOk (s := w) (.dram pa) _ hw
        have hu := widen_memsOk pa a.size hm
        generalize State.widen _ pa a.size = u at ht hu
        obtain rfl := Option.some.inj ht
        exact setBytes_memsOk (s := u) (.dram pa) _ hu
  · contradiction

theorem execStorePerform_resultOk (acc : Nat) (h : s.memsOk) : ResultOk (execStorePerform acc s) := by
  refine next_resultOk ?_
  split
  · split
    · exact h
    · split
      · next e => exact widenFirst_memsOk h e
      · exact serve_memsOk _ _ h fun _ _ _ _ ht => performStore_memsOk _ _ _ ht
  · exact h

theorem execAtomicExecute_resultOk (acc : Nat) (h : s.memsOk) : ResultOk (execAtomicExecute acc s) := by
  refine next_resultOk ?_
  split
  · split
    · exact serve_memsOk _ _ h fun _ _ _ _ ht => performAtomic_memsOk _ _ _ ht
    · exact serve_memsOk _ _ h fun _ _ _ _ ht => openAt_memsOk _ _ _ ht
    · exact h
    · exact h
  · exact h

theorem joinFill_memsOk (x sector : Nat) (h : s.memsOk) : (s.joinFill x sector).memsOk := by
  unfold State.joinFill
  split
  · exact foldl_memsOk _ _ h fun t a ht => serve_memsOk a _ ht fun _ _ _ _ hu => hu
  · exact h

theorem execRoundaboutSend_resultOk (core line : Nat) (h : s.memsOk) : ResultOk (execRoundaboutSend core line s) :=
  next_resultOk (foldl_memsOk _ _ (s := { s with roundabout := _ }) h fun _ _ ht => joinFill_memsOk _ _ ht)

/-! Loads, stores and atomics (R123 to R136, R141, R191). -/

theorem operand_memsOk (f : Fibre) (glob : Bool) (addr size : Nat) (k : AccKind) (h : s.memsOk) :
    (s.operand f glob addr size k).MemsOk := by
  unfold State.operand
  split
  · exact resolveGlobal_memsOk _ _ _ _ _ h
  · exact resolveSp_memsOk _ _ _ _ _ h

/-- An instruction that resolves an operand and posts an access at it. -/
theorem posting_resultOk {i : Instr} {g : BitVec 4} {st : Nat} {uses : List Reg} {srcs : List Nat} {hd : Hdr} {r : Fibre → Resolve}
    {acc : Fibre → Loc → State → Access} (h : s.memsOk) (hr : ∀ f, (r f).MemsOk) :
    ResultOk (issue s i g st uses srcs fun f => (r f).andThen s f i fun l t => postAccess t f i hd (acc f l t)) :=
  issue_resultOk h fun f => andThen_memsOk f i _ h (hr f) fun _ _ ht => postAccess_memsOk _ _ _ _ ht

theorem plainLoad_resultOk (i : Instr) (hd : Hdr) (glob : Bool) (a d : Reg) (ty : LdTy) (off : DWord) (h : s.memsOk) :
    ResultOk (plainLoad s i hd glob a d ty off) := posting_resultOk h fun _ => operand_memsOk _ _ _ _ _ h

theorem plainStore_resultOk (i : Instr) (hd : Hdr) (glob : Bool) (a d : Reg) (size : Nat) (off : DWord) (h : s.memsOk) :
    ResultOk (plainStore s i hd glob a d size off) := posting_resultOk h fun _ => operand_memsOk _ _ _ _ _ h

theorem ldSwAt_resultOk (i : Instr) (v : Option (BitVec 19)) (hd : Hdr) (w : BitVec 4) (a d : Reg) (h : s.memsOk) :
    ResultOk (ldSwAt i v hd w a d s) := posting_resultOk h fun _ => resolveSw_memsOk _ _ _ _ h

theorem stSwAt_resultOk (i : Instr) (v : Option (BitVec 19)) (hd : Hdr) (w : BitVec 4) (a d : Reg) (h : s.memsOk) :
    ResultOk (stSwAt i v hd w a d s) := posting_resultOk h fun _ => resolveSw_memsOk _ _ _ _ h

theorem ldAcqAt_resultOk (i : Instr) (v : Option (BitVec 19)) (hd : Hdr) (sc : Scope) (wide : Bool) (a d : Reg) (h : s.memsOk) :
    ResultOk (ldAcqAt i v hd sc wide a d s) := posting_resultOk h fun _ => resolveGlobal_memsOk _ _ _ _ _ h

theorem stRelAt_resultOk (i : Instr) (v : Option (BitVec 19)) (hd : Hdr) (sc : Scope) (wide : Bool) (a d : Reg) (h : s.memsOk) :
    ResultOk (stRelAt i v hd sc wide a d s) := posting_resultOk h fun _ => resolveGlobal_memsOk _ _ _ _ _ h

theorem ldCbAt_resultOk (i : Instr) (v : Option (BitVec 19)) (hd : Hdr) (buf : Buf) (wide : Bool) (a d : Reg) (h : s.memsOk) :
    ResultOk (ldCbAt i v hd buf wide a d s) := posting_resultOk h fun _ => resolveCb_memsOk _ _ _ _ h

theorem stCbAt_resultOk (i : Instr) (v : Option (BitVec 19)) (hd : Hdr) (buf : Buf) (wide : Bool) (a d : Reg) (h : s.memsOk) :
    ResultOk (stCbAt i v hd buf wide a d s) := posting_resultOk h fun _ => resolveCb_memsOk _ _ _ _ h

theorem execAtom_resultOk (hd : Hdr) (sp : Bool) (b a d : Reg) (ty : AtomTy) (sc : Scope) (sem : Sem) (op : AtomOp) (h : s.memsOk) :
    ResultOk (execAtom hd sp b a d ty sc sem op s) := posting_resultOk h fun _ => operand_memsOk _ _ _ _ _ h

theorem execPlzOpen_resultOk (hd : Hdr) (a d : Reg) (h : s.memsOk) : ResultOk (execPlzOpen hd a d s) := by
  refine issue_resultOk h fun f => ?_
  dsimp only
  split
  · exact trapAt_memsOk _ _ _ _ _ h
  · exact andThen_memsOk f _ _ h (resolveGlobal_memsOk _ _ _ _ _ h) fun _ _ ht => postAccess_memsOk _ _ _ _ ht

/-! Counter waits and the token. -/

theorem execCwait_resultOk (hd : Hdr) (c : Cls) (n : BitVec 6) (h : s.memsOk) : ResultOk (execCwait hd c n s) := by
  refine issue_resultOk h fun f => ?_
  split
  · dsimp only
    split
    · exact mxTrap_memsOk _ _ h
    · exact retire_memsOk _ _ _ h
  · exact block_memsOk _ _ h

theorem execTokPass_resultOk (hd : Hdr) (h : s.memsOk) : ResultOk (execTokPass hd s) := by
  refine issue_resultOk h fun f => ?_
  split
  · exact tokenMoves_memsOk _ (retire_memsOk (s := s.release f.uid) _ _ _ h)
  · exact retire_memsOk _ _ _ h

end
end Sys2Proof.Machine

/-! The five memories stay in canonical form (O60): copies, walks and fault records. -/

namespace Sys2Proof.Machine

section
variable {s : State}

/-! Issue of a copy (R137). -/

theorem queueCopy_memsOk (f : Fibre) (i : Instr) (hd : Hdr) (c : Copy) (h : s.memsOk) : (queueCopy s f i hd c).memsOk := by
  unfold queueCopy
  split
  · exact block_memsOk (s := { s with nextId := s.nextId + 1 }) _ _ h
  · exact retire_memsOk (s := { s with copies := _, nextId := _ }) _ _ _ h

theorem copyBar_memsOk {r : Resolve} {f : Fibre} {present glob : Bool} {bar : Reg} (h : s.memsOk)
    (hr : copyBar s f present glob bar = .inl r) : r.MemsOk := by
  unfold copyBar at hr
  dsimp only at hr
  split at hr
  · contradiction
  · obtain rfl := Sum.inl.inj hr
    split
    · split
      · trivial
      · exact resolveObj_memsOk _ _ _ h
    · split
      · trivial
      · exact resolveSp_memsOk _ _ _ _ _ h

theorem execCpy_resultOk (hd : Hdr) (b a d : Reg) (dev : Bool) (sw dw : BitVec 4) (glob : Bool) (src dst : Space) (q : BitVec 3)
    (present : Bool) (bar : Reg) (h : s.memsOk) : ResultOk (execCpy hd b a d dev sw dw glob src dst q present bar s) := by
  refine issue_resultOk h fun f => ?_
  split
  · exact queueCopy_memsOk (s := (s.nameCopy _).1) _ _ _ _ h
  · extract_lets len da sa
    split
    · exact trapAt_memsOk _ _ _ _ _ h
    · split
      · exact trapAt_memsOk _ _ _ _ _ h
      · split
        · exact trapAt_memsOk _ _ _ _ _ h
        · split
          · exact trapAt_memsOk _ _ _ _ _ h
          · split
            · exact trapAt_memsOk _ _ _ _ _ h
            · exact trapAt_memsOk _ _ _ _ _ h
            · extract_lets go
              have hgo (t : State) (l : Option Loc) (ht : t.memsOk) : (go t l).memsOk := by
                simp only [go]
                split
                · exact trapAt_memsOk _ _ _ _ _ ht
                · exact queueCopy_memsOk _ _ _ _ ht
              split
              · exact hgo _ _ h
              · next e => exact andThen_memsOk _ _ _ h (copyBar_memsOk h e) fun _ _ ht => hgo _ _ ht

/-! Reads and writes at locations (R138, R217, R227, R298). -/

/-- Locations found, or not, with a state whose memories are in canonical form. -/
def Pieces.MemsOk : Pieces → Prop
  | .ok _ t | .fail t | .hold t _ | .wait t => t.memsOk

theorem pieceLocs_memsOk (agent quad die asid : Nat) (k : AccKind) (fuel va n : Nat) (h : s.memsOk) :
    (pieceLocs s agent quad die asid k fuel va n).MemsOk := by
  induction fuel generalizing s va n with
  | zero => exact h
  | succ fuel ih =>
    have hl := lookup_memsOk none quad asid va k h
    unfold pieceLocs
    split
    · exact h
    · extract_lets m r
      have hr : r.1.memsOk := hl
      split
      · exact hr
      · exact hr
      · exact hr
      · exact openFault_memsOk _ _ _ _ _ _ _ _ hr
      · have hn := ih (va + m) (n - m) hr
        split
        · next e =>
          rw [e] at hn
          exact hn
        · exact hn

theorem copyEndLocs_memsOk (e : CopyEnd) (c : Copy) (k : AccKind) (at' n : Nat) (h : s.memsOk) : (e.locs s c k at' n).MemsOk := by
  cases e with
  | global va => exact pieceLocs_memsOk _ _ _ _ _ _ _ _ h
  | here l => exact h

theorem freeBytes_memsOk (n : Nat) (h : s.memsOk) : (freeBytes s n).2.memsOk := by
  induction n generalizing s with
  | zero => exact h
  | succ n ih => exact ih (s := { s with freeCount := s.freeCount + 1 }) h

theorem readLocs_memsOk (agent : Nat) (ls : List (Loc × Nat)) (h : s.memsOk) : (readLocs s agent ls).1.memsOk := by
  induction ls generalizing s with
  | nil => exact h
  | cons p ls ih =>
    obtain ⟨l, n⟩ := p
    unfold readLocs
    extract_lets x r b
    have hb : b.1.memsOk := by
      simp only [b]
      split
      · exact freeBytes_memsOk _ h
      · exact checkRead_memsOk _ _ _ (peekAll_memsOk _ _ h)
    clear_value b
    split
    · exact hb
    · exact ih hb

/-- Registrations that are made leave the memories in canonical form. -/
theorem registerLocs_memsOk {t : State} {mk : Loc → Nat → NewAcc} {ls : List (Loc × Nat)} (h : s.memsOk)
    (ht : registerLocs s mk ls = .ok t) : t.memsOk := by
  induction ls generalizing s with
  | nil =>
    obtain rfl := RegAll.ok.inj ht
    exact h
  | cons p ls ih =>
    obtain ⟨l, n⟩ := p
    unfold registerLocs at ht
    split at ht
    · exact ih h ht
    · split at ht
      · contradiction
      · contradiction
      · next e => exact ih (register_memsOk h e) ht

theorem meetLocs_memsOk (writes : Bool) (ls : List (Loc × Nat)) (h : s.memsOk) : (meetLocs s writes ls).1.memsOk := by
  induction ls generalizing s with
  | nil => exact h
  | cons p ls ih =>
    obtain ⟨l, n⟩ := p
    have hm := meet_memsOk l n 0 writes h
    unfold meetLocs
    split
    · next e =>
      rw [e] at hm
      exact hm
    · next e =>
      rw [e] at hm
      split
      · exact hm
      · split
        · exact hm
        · exact ih hm

theorem writeLocs_memsOk (ls : List (Loc × Nat)) (bs : List Byte) (h : s.memsOk) : (writeLocs s ls bs).memsOk := by
  induction ls generalizing s bs with
  | nil => exact h
  | cons p ls ih =>
    obtain ⟨l, n⟩ := p
    exact ih _ (chooseRun_memsOk _ _ (homeWrite_memsOk _ _ h))

/-! Copies (R137 to R140). -/

theorem copySent_memsOk (c : Copy) (h : s.memsOk) : (s.copySent c).memsOk := by
  unfold State.copySent
  split
  · exact h
  · exact closeDrained_memsOk _ (foldl_memsOk _ _ (s := s.setF _) h fun _ _ ht => ht)

theorem endCopy_memsOk (c : Copy) (h : s.memsOk) : (s.endCopy c).memsOk :=
  tlbSettle_memsOk (s := (s.closeOwner (c.id + 1)).copySent c) c.id (copySent_memsOk (s := s.closeOwner (c.id + 1)) c h)

theorem abortNow_memsOk (c : Copy) (race : Option (Nat × Nat)) (h : s.memsOk) : (abortNow s c race).memsOk := by
  unfold abortNow
  extract_lets t u
  have ht : t.memsOk := endCopy_memsOk _ h
  have hu : u.memsOk := by
    simp only [u]
    split
    · exact failObj_memsOk _ ht
    · exact ht
  clear_value u
  split <;> exact hu

theorem abortCopy_memsOk (c : Copy) (race : Option (Nat × Nat)) (h : s.memsOk) : (abortCopy s c race).memsOk := by
  unfold abortCopy
  extract_lets m
  have hm : m.1.memsOk := meetLocs_memsOk _ _ h
  split
  · exact abortNow_memsOk _ _ hm
  · exact hm

theorem countPiece_memsOk (c : Copy) (n : Nat) (h : s.memsOk) : (countPiece s c n).1.memsOk := by
  unfold countPiece
  split
  · exact h
  · next l _ =>
    extract_lets m landed r
    have hm : m.1.memsOk := meetLocs_memsOk _ _ h
    have hr : r.1.memsOk := checkRead_memsOk (s := landed) l 32 1 hm
    clear_value r
    split
    · exact hm
    · split
      · exact hr
      · split
        · exact hm
        · exact hr
        · next e => exact landBytes_memsOk _ _ (register_memsOk hr e)

theorem copyLocs_memsOk (c : Copy) (e : CopyEnd) (k : AccKind) (at' n : Nat) (go : State → List (Loc × Nat) → State) (h : s.memsOk)
    (hgo : ∀ (t : State) ls, t.memsOk → (go t ls).memsOk) : (copyLocs s c e k at' n go).memsOk := by
  have he := copyEndLocs_memsOk e c k at' n h
  unfold copyLocs
  split
  · next e' =>
    rw [e'] at he
    exact abortCopy_memsOk _ _ he
  · next e' =>
    rw [e'] at he
    exact he
  · next e' =>
    rw [e'] at he
    exact he
  · next ls t e' =>
    rw [e'] at he
    split
    · exact abortCopy_memsOk _ _ he
    · extract_lets m
      have hm : m.1.memsOk := meetLocs_memsOk (s := t) _ _ he
      split
      · exact hgo _ _ hm
      · exact hm

theorem copyRegister_memsOk (c : Copy) (e : CopyEnd) (k : AccKind) (owner at' n : Nat) (go : State → State) (h : s.memsOk)
    (hgo : ∀ t : State, t.memsOk → (go t).memsOk) : (copyRegister s c e k owner at' n go).memsOk := by
  unfold copyRegister
  split
  · exact hgo _ h
  · refine copyLocs_memsOk _ _ _ _ _ _ h fun t ls ht => ?_
    split
    · exact abortCopy_memsOk _ _ ht
    · exact ht
    · next e' => exact hgo _ (registerLocs_memsOk ht e')

theorem readWord_memsOk (c : Copy) (h : s.memsOk) : (readWord s c).memsOk := by
  refine copyRegister_memsOk _ _ _ _ _ _ _ h fun t ht => copyLocs_memsOk _ _ _ _ _ _ ht fun u ls hu => ?_
  have hr := readLocs_memsOk 1 ls hu
  split
  · next e =>
    rw [e] at hr
    exact abortCopy_memsOk _ _ hr
  · next e =>
    rw [e] at hr
    extract_lets d v
    split
    · exact copySent_memsOk (s := v) _ hr
    · exact hr

theorem landWord_memsOk (c : Copy) (h : s.memsOk) : (landWord s c).memsOk := by
  refine copyRegister_memsOk _ _ _ _ _ _ _ h fun t ht => copyLocs_memsOk _ _ _ _ _ _ ht fun u ls hu => ?_
  extract_lets d r v
  have hr : r.1.memsOk := by
    simp only [r]
    split
    · exact countPiece_memsOk _ _ hu
    · exact hu
  have hv : v.memsOk := writeLocs_memsOk ls _ hr
  split
  · exact hr
  · split
    · exact endCopy_memsOk _ hv
    · exact hv

theorem landPiece_memsOk (c : Copy) (h : s.memsOk) : (landPiece s c).memsOk := by
  unfold landPiece
  split
  · exact abortCopy_memsOk _ _ h
  · split
    · exact h
    · split
      · have hc := countPiece_memsOk c 0 h
        dsimp only
        split
        · exact endCopy_memsOk _ hc
        · exact hc
      · split
        · exact readWord_memsOk _ h
        · exact landWord_memsOk _ h

theorem execCopyPieceLand_resultOk (copy : Nat) (h : s.memsOk) : ResultOk (execCopyPieceLand copy s) := by
  refine next_resultOk ?_
  split
  · exact h
  · split
    · exact h
    · exact landPiece_memsOk _ h

/-! Walks and fault records (R224, R225, R231). -/

theorem execTableWalk_resultOk (quad : Nat) (asid : BitVec 8) (va : Nat) (k : AccKind) (h : s.memsOk) :
    ResultOk (execTableWalk quad asid va k s) := by
  have hl := lookup_memsOk none quad asid.toNat va k h
  refine next_resultOk ?_
  split
  · exact openFault_memsOk _ _ _ _ _ _ _ _ hl
  all_goals exact hl

theorem completionFailed_memsOk (l : Launch) (h : s.memsOk) : (s.completionFailed l).memsOk :=
  makeError_memsOk (s := s.launchOver l) _ _ _ _ h

theorem closeFault_memsOk (die rec : Nat) (resolved : Bool) (h : s.memsOk) : (s.closeFault die rec resolved).memsOk := by
  unfold State.closeFault
  extract_lets va mine freed fib copy entry t
  have ht : t.memsOk := h
  refine foldl_memsOk _ _ ht fun u l hu => ?_
  split
  · split
    · exact completionFailed_memsOk _ hu
    · split <;> exact hu
  all_goals exact hu

theorem execDetectorFull_resultOk (die : Nat) (h : s.memsOk) : ResultOk (execDetectorFull die s) := by
  refine next_resultOk ?_
  split
  · exact h
  · exact makeError_memsOk (s := { s with detectorFull := _ }) _ _ _ _ h

end
end Sys2Proof.Machine

/-! The five memories stay in canonical form (O60): special registers, traps, safe points and naps. -/

namespace Sys2Proof.Machine

section
variable {s : State}

theorem execSmov_resultOk (hd : Hdr) (idx : BitVec 4) (d : Reg) (h : s.memsOk) : ResultOk (execSmov hd idx d s) :=
  issue_resultOk h fun _ => retire_memsOk _ _ _ h

theorem execSset_resultOk (hd : Hdr) (idx : BitVec 4) (a : Reg) (h : s.memsOk) : ResultOk (execSset hd idx a s) :=
  issue_resultOk h fun _ => retire_memsOk _ _ _ h

theorem execTrap_resultOk (hd : Hdr) (n : BitVec 6) (h : s.memsOk) : ResultOk (execTrap hd n s) := by
  refine issue_resultOk h fun f => ?_
  split
  · exact takeTrap_memsOk _ _ h
  · exact retire_memsOk _ _ _ h

theorem execTret_resultOk (hd : Hdr) (h : s.memsOk) : ResultOk (execTret hd s) := by
  refine issue_resultOk h fun f => ?_
  split
  · exact trapAt_memsOk _ _ _ _ _ h
  · exact readRecord_memsOk _ _ _ h fun t rb ht => jumpTo_memsOk _ _ _ _ ht fun _ =>
      freePlazas_memsOk (returnTrap_memsOk _ _ _ _ _ ht)

theorem tretLabelAt_resultOk (i : Instr) (v : Option (BitVec 19)) (hd : Hdr) (off : BitVec 19) (h : s.memsOk) :
    ResultOk (tretLabelAt i v hd off s) := by
  refine issue_resultOk h fun f => ?_
  split
  · exact trapAt_memsOk _ _ _ _ _ h
  · exact readRecord_memsOk _ _ _ h fun t rb ht => freePlazas_memsOk (returnTrap_memsOk _ _ _ _ _ ht)

theorem withEntry_memsOk (f : Fibre) (i : Instr) (l : Launch) (n : Nat) (k : State → List Byte → State) (h : s.memsOk)
    (hk : ∀ (t : State) e, t.memsOk → (k t e).memsOk) : (withEntry s f i l n k).memsOk := by
  have hv := vread_memsOk (some f.core) (coreQuad f.core) l.asid 0 (l.kern.safetab + 16 * n) 8 2 h
  unfold withEntry
  split
  · next e =>
    rw [e] at hv
    split
    · exact trapAt_memsOk _ _ _ _ _ hv
    · exact hk _ _ hv
  · next t e =>
    rw [e] at hv
    exact hk (t.draw 16) _ hv
  · next e =>
    rw [e] at hv
    exact hv

theorem rebody_memsOk (l : Launch) (f : Fibre) (n : Nat) (k : State → Fibre → State) (h : s.memsOk)
    (hk : ∀ (t : State) g, t.memsOk → (k t g).memsOk) : (s.rebody l f n k).memsOk := by
  have hv := vread_memsOk none 256 l.asid 10 l.kern.vartab 32 l.kern.nvar h
  unfold State.rebody
  split
  · exact hk _ _ h
  · split
    · next e =>
      rw [e] at hv
      exact hv
    · next e =>
      rw [e] at hv
      exact hk _ _ hv
    · next vs t e =>
      rw [e] at hv
      split
      · split
        · exact hk _ _ hv
        · exact laneDone_memsOk (s := t.setF _) _ hv
      · exact hk _ _ hv

theorem safeptAt_resultOk (i : Instr) (hd : Hdr) (n : Nat) (h : s.memsOk) : ResultOk (safeptAt i hd n s) := by
  unfold safeptAt
  split
  · exact undefined_resultOk _ h
  · split
    · exact undefined_resultOk _ h
    · refine issue_resultOk h fun f => withEntry_memsOk _ _ _ _ _ h fun t e ht => ?_
      split
      · exact trapAt_memsOk _ _ _ _ _ ht
      · refine rebody_memsOk _ _ _ _ ht fun u g hu => ?_
        split
        · exact laneDone_memsOk (s := u.setF _) _ hu
        · exact retire_memsOk _ _ _ hu

theorem napAt_resultOk (i : Instr) (hd : Hdr) (n : Nat) (h : s.memsOk) : ResultOk (napAt i hd n s) := by
  refine issue_resultOk h fun f => ?_
  dsimp only
  split
  · exact retire_memsOk _ _ _ h
  · exact block_memsOk _ _ h

end
end Sys2Proof.Machine

/-! The five memories stay in canonical form (O60): the steps at a fibre's boundaries and of the Crossing. -/

namespace Sys2Proof.Machine

section
variable {s : State}

theorem drawInsn_memsOk (f : Fibre) (h : s.memsOk) : (s.drawInsn f).memsOk := by
  unfold State.drawInsn
  split <;> exact h

theorem timerTick_memsOk (f : Fibre) (h : s.memsOk) : (s.timerTick f).memsOk := by
  unfold State.timerTick
  split
  · exact h
  · exact deliverTick_memsOk _ h

theorem execHeartbeatTick_resultOk (launch core : Nat) (h : s.memsOk) : ResultOk (execHeartbeatTick launch core s) := by
  refine next_resultOk ?_
  split
  · exact h
  · refine foldl_memsOk _ _ h fun t f ht => ?_
    split
    · exact timerTick_memsOk _ ht
    · exact ht

theorem execDetHeartbeat_resultOk (fib : Nat) (h : s.memsOk) : ResultOk (execDetHeartbeat fib s) := by
  refine next_resultOk ?_
  split
  · split
    · exact deliverTick_memsOk (s := s.modF _ _) _ h
    · exact h
  · exact h

theorem execRangeSplit_resultOk (fib : Nat) (h : s.memsOk) : ResultOk (execRangeSplit fib s) := by
  refine next_resultOk ?_
  split
  · split
    · exact h
    · split
      · split
        · exact h
        · exact splitRange_memsOk _ _ _ h
      · exact h
  · exact h

theorem execChildStart_resultOk (fib core : Nat) (fid : BitVec 31) (h : s.memsOk) : ResultOk (execChildStart fib core fid s) := by
  refine next_resultOk ?_
  split
  · exact h
  · split
    · exact h
    · dsimp only
      split
      · exact h
      · split <;> exact h

theorem execJoinSave_resultOk (fib : Nat) (h : s.memsOk) : ResultOk (execJoinSave fib s) := by
  refine next_resultOk ?_
  split
  · exact h
  · dsimp only
    split <;> exact h

theorem execJoinRestore_resultOk (fib core : Nat) (h : s.memsOk) : ResultOk (execJoinRestore fib core s) := by
  refine next_resultOk ?_
  split
  · exact h
  · split
    · exact h
    · split
      · exact h
      · split <;> exact h

theorem abortsDone_memsOk (h : s.memsOk) : s.abortsDone.memsOk := h

theorem takeDeferred_memsOk (f : Fibre) (h : s.memsOk) : (s.takeDeferred f).memsOk := by
  refine whenRecord_memsOk _ _ h fun t ht => ?_
  split
  · next hd _ =>
    have hu : ({ t with away := t.away.filter fun m => !(m.2 == hd && some m.1 == f.plzSet) } : State).memsOk := ht
    exact tlbSweep_memsOk (freePlazas_memsOk (abortsDone_memsOk (takeTrap_memsOk _ _ (drawInsn_memsOk f hu))))
  · dsimp only
    refine sweepCopy_memsOk _ ?_
    split
    · exact takeTrap_memsOk _ _ (drawInsn_memsOk _ ht)
    · exact takeTrap_memsOk _ _ ht
  · exact ht

theorem execDeferredTrap_resultOk (fib : Nat) (h : s.memsOk) : ResultOk (execDeferredTrap fib s) := by
  refine next_resultOk ?_
  split
  · split
    · exact takeDeferred_memsOk _ h
    · exact h
  · exact h

theorem execSafeDistance_resultOk (fib : Nat) (h : s.memsOk) : ResultOk (execSafeDistance fib s) := by
  refine next_resultOk ?_
  split
  · split
    · exact whenRecord_memsOk _ _ h fun t ht => takeTrap_memsOk _ _ (drawInsn_memsOk _ ht)
    · exact h
  · exact h

theorem execNapEnd_resultOk (fib : Nat) (h : s.memsOk) : ResultOk (execNapEnd fib s) := by
  refine next_resultOk ?_
  split
  · split <;> exact h
  · exact h

theorem execIssueStarvation_resultOk (fib : Nat) (h : s.memsOk) : ResultOk (execIssueStarvation fib s) := by
  refine next_resultOk ?_
  split
  · split <;> exact h
  · exact h

end
end Sys2Proof.Machine

/-! The five memories stay in canonical form (O60): the steps of sector coherence. -/

namespace Sys2Proof.Machine

section
variable {s : State}

/-- Coherence is no memory. -/
theorem State.Coh.memsOk {t : State} (hc : s.Coh t) (h : s.memsOk) : t.memsOk := by
  unfold State.Coh at hc
  rw [hc]
  exact h

theorem whenFree_memsOk (k : Nat) (writes : Bool) (v : State → State) (h : s.memsOk) (hv : ∀ t : State, t.memsOk → (v t).memsOk) :
    (s.whenFree k writes v).memsOk := by
  unfold State.whenFree
  dsimp only
  split
  · exact h
  · split
    · exact h
    · exact hv _ h

theorem execGets_resultOk (x k : Nat) (h : s.memsOk) : ResultOk (execGets x k s) := by
  refine next_resultOk ?_
  split
  · refine whenFree_memsOk _ _ _ h fun t ht => ?_
    extract_lets r u e
    have hu : u.memsOk := checkRead_memsOk _ _ _ (getS_memsOk _ _ ht)
    exact joinFill_memsOk (s := { u with fills := u.fills ++ [e] }) _ _ hu
  · exact h

theorem gainM_memsOk (x k : Nat) (h : s.memsOk) : (s.gainM x k).memsOk := whenFree_memsOk _ _ _ h fun _ ht => getM_memsOk _ _ ht

theorem execGetm_resultOk (x k : Nat) (h : s.memsOk) : ResultOk (execGetm x k s) := by
  refine next_resultOk ?_
  split
  · exact gainM_memsOk _ _ (checkRead_memsOk _ _ _ h)
  · exact h

theorem execUpgrade_resultOk (x k : Nat) (h : s.memsOk) : ResultOk (execUpgrade x k s) := by
  refine next_resultOk ?_
  split
  · exact gainM_memsOk _ _ h
  · exact h

theorem execHomeWrite_resultOk (addr : Nat) (data : List Byte) (h : s.memsOk) : ResultOk (execHomeWrite addr data s) := by
  have hm := meet_memsOk (.dram addr) data.length 0 true h
  refine next_resultOk ?_
  split
  · split
    · next e =>
      rw [e] at hm
      exact hm
    · next e =>
      rw [e] at hm
      exact whenFree_memsOk _ _ _ hm fun _ ht => homeWrite_memsOk _ _ ht
  · exact h

theorem upset_memsOk (k : Nat) (u : Upset) (h : s.memsOk) : (s.upset k u).memsOk := by
  cases u with
  | none => exact h
  | check v => exact h
  | dram => exact makeError_memsOk (s := { s with poison := _ }) _ _ _ _ h
  | sram => exact makeError_memsOk (s := { s with poison := _ }) _ _ _ _ h
  | soft c => exact h

theorem execUncachedRead_resultOk (r : SectorRead) (h : s.memsOk) : ResultOk (execUncachedRead r s) := by
  have hm := meet_memsOk (.dram (64 * r.sector)) 64 0 false h
  refine next_resultOk ?_
  split
  · split
    · next e =>
      rw [e] at hm
      exact hm
    · next e =>
      rw [e] at hm
      exact whenFree_memsOk _ _ _ hm fun _ ht => checkRead_memsOk _ _ _ (upset_memsOk _ _ (homePeek_memsOk _ ht))
  · exact h

theorem execProbeShare_resultOk (x k : Nat) (h : s.memsOk) : ResultOk (execProbeShare x k s) := by
  refine next_resultOk ?_
  split
  · split
    · exact share_memsOk _ _ _ _ h
    · exact h
  all_goals exact h

theorem execProbeInvalidate_resultOk (x k : Nat) (h : s.memsOk) : ResultOk (execProbeInvalidate x k s) :=
  next_resultOk (setDir_memsOk _ _ (invalidate_memsOk _ _ h))

theorem drop_memsOk (x k : Nat) (h : s.memsOk) : (s.drop x k).memsOk := (s.drop_coh x k).memsOk h

theorem execPutm_resultOk (x k : Nat) (h : s.memsOk) : ResultOk (execPutm x k s) := by
  refine next_resultOk ?_
  split
  · exact drop_memsOk _ _ h
  · exact h

theorem execPuts_resultOk (x k : Nat) (h : s.memsOk) : ResultOk (execPuts x k s) := by
  refine next_resultOk ?_
  split
  · exact drop_memsOk _ _ h
  · exact h

theorem execLineEvict_resultOk (x line : Nat) (h : s.memsOk) : ResultOk (execLineEvict x line s) := by
  refine next_resultOk (foldl_memsOk _ _ h fun t n ht => ?_)
  split
  · exact ht
  · exact drop_memsOk _ _ ht

theorem landFill_memsOk (e : FillEntry) (id : Nat) (h : s.memsOk) : (landFill e s id).memsOk := by
  unfold landFill
  split
  · exact h
  · split
    · exact endAccess_memsOk (s := s) _ h
    all_goals exact h

theorem execFill_resultOk (x k : Nat) (h : s.memsOk) : ResultOk (execFill x k s) := by
  refine next_resultOk ?_
  split
  · exact h
  · extract_lets t u
    have hu : u.memsOk := by
      simp only [u]
      split <;> exact h
    exact foldl_memsOk _ _ hu fun _ _ hv => landFill_memsOk _ _ hv

theorem execCorePowerGate_resultOk (core : Nat) (h : s.memsOk) : ResultOk (execCorePowerGate core s) := by
  refine next_resultOk ?_
  split
  · exact h
  · extract_lets mine t
    have ht : t.memsOk := by
      refine foldl_memsOk _ _ h fun u e hu => ?_
      split
      · exact drop_memsOk _ _ hu
      · exact hu
    exact ht

end
end Sys2Proof.Machine

/-! The five memories stay in canonical form (O60): the fabric, peers' requests, and the commit and the abort of plazas. -/

namespace Sys2Proof.Machine

section
variable {s : State}

/-! Ports (R284, R285). -/

theorem donePosted_memsOk (id : Nat) (refused : Bool) (h : s.memsOk) : (s.donePosted id refused).memsOk := by
  unfold State.donePosted
  split
  · split
    · exact completionFailed_memsOk _ h
    · exact h
  · exact h

theorem strand_memsOk (h : s.memsOk) : s.strand.memsOk := by
  unfold State.strand
  extract_lets t
  have ht : t.memsOk := tlbSweep_memsOk (s := { s with fibres := _ }) h
  exact foldl_memsOk _ _ ht fun _ _ hu => failAccess_memsOk _ _ _ _ hu

theorem strandDone_memsOk (h : s.memsOk) : s.strandDone.memsOk := by
  refine foldl_memsOk _ _ h fun t l ht => ?_
  split
  · split
    · split
      · exact donePosted_memsOk _ _ ht
      · exact ht
    all_goals exact ht
  all_goals exact ht

theorem reroute_memsOk (h : s.memsOk) : s.reroute.memsOk := strandDone_memsOk (strand_memsOk (s := { s with routes := _ }) h)

theorem execFlitReceive_resultOk (port : Nat) (ok : Bool) (h : s.memsOk) : ResultOk (execFlitReceive port ok s) := by
  refine next_resultOk ?_
  split
  · exact h
  · split
    · exact h
    · dsimp only
      split
      · exact h
      · exact reroute_memsOk (s := { s with failedReplays := _, ports := _ }) h

/-! Requests of peers (R286, R287). -/

theorem atHome_memsOk (pa n : Nat) (tag : DWord) (writes meets : Bool) (k : State → State) (h : s.memsOk)
    (hk : ∀ t : State, t.memsOk → (k t).memsOk) : (s.atHome pa n tag writes k meets).memsOk := by
  have hm := meet_memsOk (.dram pa) n tag meets h
  unfold State.atHome
  split
  · next e =>
    rw [e] at hm
    exact hm
  · next e =>
    rw [e] at hm
    split
    · exact hm
    · split
      · exact hm
      · exact hk _ hm

theorem peerRead_memsOk (agent pa n : Nat) (k : State → List Byte → State) (h : s.memsOk)
    (hk : ∀ (t : State) bs, t.memsOk → (k t bs).memsOk) : (s.peerRead agent pa n k).memsOk := by
  have hc := checkRead_memsOk (.dram pa) n agent (peekAll_memsOk (.dram pa) n h)
  unfold State.peerRead
  dsimp only
  split
  · exact hk _ _ hc
  · exact hc

theorem peerSync_memsOk (a : NewAcc) (k : State → State) (h : s.memsOk) (hk : ∀ t : State, t.memsOk → (k t).memsOk) :
    (s.peerSync a k).memsOk := by
  unfold State.peerSync
  split
  · exact h
  · exact h
  · next t e =>
    have ht : t.memsOk := register_memsOk h e
    exact hk { t with nextId := t.nextId + 1 } ht

theorem peerAtomic_memsOk (peer : PeerFibre) (pa size : Nat) (sc : Scope) (op : AtomOp) (ty : AtomTy) (sem : Sem) (b d : DWord)
    (h : s.memsOk) : (s.peerAtomic peer pa size sc op ty sem b d).memsOk := by
  unfold State.peerAtomic
  extract_lets old new
  clear_value new
  refine atHome_memsOk _ _ _ _ _ _ h fun t ht => peerSync_memsOk _ _ ht fun u hu => peerRead_memsOk _ _ _ _ hu fun v bs hv => ?_
  extract_lets w
  have hw : w.memsOk := by
    simp only [w]
    split
    · exact homeWrite_memsOk _ _ hv
    · exact hv
  exact hw

theorem peerTent_memsOk (peer : PeerFibre) (hd : DWord) (pa size : Nat) (sync : Option Scope) (reads : Bool) (new : Nat → Option Nat)
    (h : s.memsOk) : (s.peerTent peer hd pa size sync reads new).memsOk := by
  unfold State.peerTent
  split
  · exact h
  · extract_lets loc old writes
    refine atHome_memsOk _ _ _ _ _ _ h fun t ht => ?_
    have hin (u : State) (hu : u.memsOk) : State.memsOk (
        let r := if !reads then (u, true) else
          let c := checkRead (u.peekAll loc size) loc size causeway
          (c.1, c.2.isEmpty && !u.tentBad hd loc size)
        if !r.2 then r.1.refuse 1 0
        else match r.1.wsMark hd pa ((new old).map (Dec.leBytes size)) with
          | none => r.1.causeAbort hd 0x01
          | some t => t.reply (Dec.leBytes size old)) := by
      extract_lets c r
      have hr : r.1.memsOk := by
        simp only [r]
        split
        · exact hu
        · exact checkRead_memsOk _ _ _ (peekAll_memsOk _ _ hu)
      clear_value r
      split
      · exact hr
      · split
        · exact causeAbort_memsOk _ _ hr
        · next v e =>
          have hv : v.memsOk := wsMark_memsOk hr e
          exact hv
    split
    · exact peerSync_memsOk _ _ ht hin
    · exact hin t ht

theorem peerObj_memsOk (peer : PeerFibre) (pa : Nat) (sc : Scope) (check : Obj → Option Nat) (k : State → Obj → State) (h : s.memsOk)
    (hk : ∀ (t : State) o, t.memsOk → (k t o).memsOk) : (s.peerObj peer pa sc check k).memsOk := by
  refine atHome_memsOk _ _ _ _ _ _ h fun t ht => peerRead_memsOk _ _ _ _ ht fun u bs hu => ?_
  extract_lets o
  split
  · exact hu
  · exact peerSync_memsOk _ _ hu fun v hv => hk _ _ (foldl_memsOk _ _ hv fun _ _ hw => homeClear_memsOk _ hw)

/-! Lines of plazas published and discarded (R300, R303). -/

theorem publishSector_memsOk (cells : List Host.Cell) (base : Nat) (h : s.memsOk) : (s.publishSector cells base).memsOk :=
  foldl_memsOk _ _ h fun _ _ ht => homeWrite_memsOk _ _ ht

theorem publishLine_memsOk (w : WsLine) (h : s.memsOk) : (s.publishLine w).memsOk := by
  unfold State.publishLine
  extract_lets t
  have ht : t.memsOk := by
    simp only [t]
    split
    · exact foldl_memsOk _ _ h fun _ _ hu => publishSector_memsOk _ _ hu
    · exact h
  exact ht

theorem publishDir_memsOk (hd : DWord) (dir : Nat) (k : State → State) (h : s.memsOk) (hk : ∀ t : State, t.memsOk → (k t).memsOk) :
    (s.publishDir hd dir k).memsOk := by
  unfold State.publishDir
  extract_lets ws out ks signs
  clear_value signs ks
  have hm := meetLines_memsOk 0 true (s.wsLines.filter fun v => v.handle != hd && signs.contains v.line) h
  split
  · next e =>
    rw [e] at hm
    exact hm
  · next e =>
    rw [e] at hm
    split
    · exact hm
    · split
      · exact hk _ (foldl_memsOk _ _ hm fun _ _ hu => publishLine_memsOk _ hu)
      · exact hm

theorem dropAccesses_memsOk (uid : Nat) (hd : DWord) (h : s.memsOk) : (s.dropAccesses uid hd).memsOk :=
  foldl_memsOk _ _ h fun _ _ ht => endAccess_memsOk _ ht

theorem withdraw_memsOk (f : Fibre) (h : s.memsOk) : (s.withdraw f).memsOk := by
  unfold State.withdraw
  split
  · exact h
  · next l _ =>
    split
    · exact h
    · exact setObj_memsOk (s := s) l _ h

theorem abortFibre_memsOk (hd : DWord) (cause : Nat) (f : Fibre) (h : s.memsOk) : (s.abortFibre hd cause f).memsOk :=
  withdraw_memsOk (s := s.dropAccesses f.uid hd) f (dropAccesses_memsOk _ _ h)

theorem discard_memsOk (hd : DWord) (cause : Nat) (h : s.memsOk) : (s.discard hd cause).memsOk :=
  foldl_memsOk _ _ (s := { s with wsLines := _, away := _, records := _ }) h fun _ _ ht => abortFibre_memsOk _ _ _ ht

/-! Messages about plazas (R292 to R303). -/

theorem peerEnter_memsOk (peer addr : Nat) (hd : DWord) (h : s.memsOk) : (s.peerEnter peer addr hd).memsOk := by
  unfold State.peerEnter
  split
  · exact h
  · exact h
  · split
    · exact h
    · split <;> exact h

theorem awayTold_memsOk (hd : DWord) (opened : Nat) (yields sealing : Bool) (h : s.memsOk) :
    (s.awayTold hd opened yields sealing).memsOk := by
  unfold State.awayTold
  dsimp only
  split <;> exact h

theorem publishAway_memsOk (hd : DWord) (h : s.memsOk) : (s.publishAway hd).memsOk :=
  publishDir_memsOk _ _ _ h fun _ ht => publishDir_memsOk _ _ _ ht fun _ hu => publishDir_memsOk _ _ _ hu fun _ hv =>
    publishDir_memsOk _ _ _ hv fun _ hw => hw

theorem discardAway_memsOk (hd : DWord) (cause : Nat) (h : s.memsOk) : (s.discardAway hd cause).memsOk := by
  unfold State.discardAway
  split
  · exact h
  · extract_lets t
    have ht : t.memsOk := discard_memsOk _ _ h
    clear_value t
    split <;> exact ht

theorem tellPlaza_memsOk (hd : DWord) (v : Plaza → Plaza) (h : s.memsOk) : (s.tellPlaza hd v).memsOk := by
  unfold State.tellPlaza
  split <;> exact h

/-- A peer's coordinator seals its plaza here (R300). -/
theorem sealAway_memsOk (hd : DWord) (h : s.memsOk) : (s.peerPlaza 0 0 (.plzSeal hd)).memsOk := by
  have ht : ([0, 1, 2, 3].foldl (fun t d => t.sealLines hd d) s).memsOk := foldl_memsOk _ _ h fun _ _ hu => hu
  change State.memsOk (if s.isLocal hd then s else _)
  generalize List.foldl _ s _ = t at ht ⊢
  split
  · exact h
  · exact ht

theorem peerLeave_memsOk (peer addr : Nat) (hd : DWord) (h : s.memsOk) : (s.peerPlaza peer addr (.plzLeave hd)).memsOk := by
  unfold State.peerPlaza
  dsimp only
  split
  · exact castOnce_memsOk (s := s) _ _ _ h
  · split
    · split <;> exact h
    · exact h

theorem peerTouch_memsOk (peer addr : Nat) (hd : DWord) (h : s.memsOk) : (s.peerPlaza peer addr (.plzTouch hd)).memsOk := by
  have ht (v : Plaza → Plaza) : (s.tellPlaza hd v).memsOk := tellPlaza_memsOk hd v h
  unfold State.peerPlaza
  dsimp only
  split <;> exact ht _

/-- A message to this device's directories about a plaza of a peer: about one of its own it does nothing. -/
theorem notLocal_memsOk {t : State} (hd : DWord) (h : s.memsOk) (ht : t.memsOk) : (if s.isLocal hd then s else t).memsOk := by
  split
  · exact h
  · exact ht

theorem peerPlaza_memsOk (peer addr : Nat) (op : PeerOp) (h : s.memsOk) : (s.peerPlaza peer addr op).memsOk := by
  cases op with
  | plzEnter hd => exact peerEnter_memsOk _ _ _ h
  | plzVote hd => exact castOnce_memsOk _ _ _ h
  | plzLeave hd => exact peerLeave_memsOk _ _ _ h
  | plzTouch hd => exact peerTouch_memsOk _ _ _ h
  | plzDiscarded hd => exact freePlazas_memsOk (abortsDone_memsOk (tellPlaza_memsOk _ _ h))
  | plzLeft hd => exact freePlazas_memsOk (tellPlaza_memsOk _ _ h)
  | plzInfo hd opened yields sealing => exact notLocal_memsOk hd h (awayTold_memsOk _ _ _ _ h)
  | plzSeal hd => exact sealAway_memsOk hd h
  | plzPublish hd => exact notLocal_memsOk hd h (publishAway_memsOk _ h)
  | plzDiscard hd cause => exact notLocal_memsOk hd h (discardAway_memsOk _ _ h)
  | plzOver hd => exact notLocal_memsOk (t := s.letWrites hd) hd h h
  | _ => exact h

/-! Requests and replies (R284, R286 to R288). -/

theorem ingress_memsOk (addr n : Nat) (bad : Bool) (h : s.memsOk) : (s.ingress addr n bad).memsOk := by
  refine foldl_memsOk _ _ h fun t k ht => ?_
  extract_lets u
  have hu : u.memsOk := ht
  split
  · exact makeError_memsOk _ _ _ _ hu
  · exact hu

theorem tentIngress_memsOk (hd : DWord) (addr : Nat) (bad : Bool) (h : s.memsOk) : (s.tentIngress hd addr bad).memsOk := by
  unfold State.tentIngress
  extract_lets k t
  have ht : t.memsOk := h
  split
  · exact makeError_memsOk _ _ _ _ ht
  · exact ht

/-- What a request does within the program-visible DRAM, or a refusal. -/
theorem within_memsOk {c : Bool} {k : State} (h : s.memsOk) (hk : k.memsOk) : (if c then k else s.refuse 0 0).memsOk := by
  split
  · exact hk
  · exact h

theorem reply_memsOk (bs : List Byte) (h : s.memsOk) : (s.reply bs).memsOk := h

theorem writing_memsOk (addr n : Nat) (bs : List Byte) (h : s.memsOk) :
    (s.atHome addr n 0 true fun s => (s.homeWrite (.dram addr) bs).reply []).memsOk :=
  atHome_memsOk _ _ _ _ _ _ h fun _ ht => homeWrite_memsOk (.dram addr) bs ht

theorem reading_memsOk (addr n agent : Nat) (h : s.memsOk) : (s.peerRead agent addr n fun s bs => s.reply bs).memsOk :=
  peerRead_memsOk _ _ _ _ h fun _ _ ht => ht

theorem peerRequest_memsOk (peer : PeerFibre) (addr size : Nat) (sc : Scope) (op : PeerOp) (h : s.memsOk) :
    (s.peerRequest peer addr size sc op).memsOk := by
  cases op with
  | paths ps => exact reroute_memsOk (s := { s with paths := _ }) h
  | load => exact within_memsOk h (atHome_memsOk _ _ _ _ _ _ h fun _ ht => reading_memsOk _ _ _ ht)
  | store v => exact within_memsOk h (writing_memsOk _ _ _ h)
  | ldAcq =>
    exact within_memsOk h (atHome_memsOk _ _ _ _ _ _ h fun _ ht => peerSync_memsOk _ _ ht fun _ hu => reading_memsOk _ _ _ hu)
  | stRel v =>
    exact within_memsOk h (atHome_memsOk _ _ _ _ _ _ h fun _ ht => peerSync_memsOk _ _ ht fun _ hu =>
      homeWrite_memsOk (.dram addr) _ hu)
  | atomic op ty sem b d => exact within_memsOk h (peerAtomic_memsOk _ _ _ _ _ _ _ _ _ h)
  | copyRead len => exact within_memsOk h (atHome_memsOk _ _ _ _ _ _ h fun _ ht => reading_memsOk _ _ _ ht)
  | copyWrite data => exact within_memsOk h (writing_memsOk _ _ _ h)
  | barInit n => exact within_memsOk h (peerObj_memsOk _ _ _ _ _ h fun _ _ ht => setObj_memsOk (.dram addr) _ ht)
  | barExpect n => exact within_memsOk h (peerObj_memsOk _ _ _ _ _ h fun _ _ ht => setObj_memsOk (.dram addr) _ ht)
  | barArrive =>
    exact within_memsOk h (peerObj_memsOk _ _ _ _ _ h fun _ _ ht =>
      reply_memsOk _ (completeObj_memsOk (.dram addr) (setObj_memsOk (.dram addr) _ ht)))
  | barWait p =>
    refine within_memsOk h ?_
    split
    · exact h
    · exact peerObj_memsOk _ _ _ _ _ (s := s.peerWait peer none) h fun _ _ ht => ht
  | tentLoad hd => exact within_memsOk h (peerTent_memsOk _ _ _ _ _ _ _ h)
  | tentStore hd v => exact within_memsOk h (peerTent_memsOk _ _ _ _ _ _ _ h)
  | tentAcq hd => exact within_memsOk h (peerTent_memsOk _ _ _ _ _ _ _ h)
  | tentRel hd v => exact within_memsOk h (peerTent_memsOk _ _ _ _ _ _ _ h)
  | tentAtomic hd op ty sem b d => exact within_memsOk h (peerTent_memsOk _ _ _ _ _ _ _ h)
  | released bound => exact h
  | ended => exact h
  | clock ns => exact h
  | _ => exact peerPlaza_memsOk _ _ _ h

theorem execRemoteRequest_resultOk (peer : PeerFibre) (addr size : Nat) (sc : Scope) (op : PeerOp) (h : s.memsOk) :
    ResultOk (execRemoteRequest peer addr size sc op s) := by
  unfold execRemoteRequest
  extract_lets t done arrives
  have ht : t.memsOk := peerRequest_memsOk _ _ _ _ _ h
  have harr (bad : Bool) : (arrives bad).memsOk := by
    simp only [arrives]
    split
    · exact tentIngress_memsOk _ _ _ ht
    · exact tentIngress_memsOk _ _ _ ht
    · exact ingress_memsOk _ _ _ ht
  clear_value t
  refine next_resultOk ?_
  split
  · split
    · exact harr _
    · exact ht
  · split
    · exact harr _
    · exact ht
  · exact ht

theorem ackAccess_memsOk (f : Fibre) (a : Access) (data : DWord) (refused : Bool) (h : s.memsOk) :
    (ackAccess s f a data refused).memsOk := by
  unfold ackAccess
  split
  · split
    · exact failAccess_memsOk _ _ _ _ h
    · exact failAccess_memsOk _ _ _ _ h
    · exact h
    · exact failAccess_memsOk _ _ _ _ h
  · split
    · exact endAccess_memsOk (s := s) a h
    · exact endAccess_memsOk a h
    · exact endAccess_memsOk (s := s) a h
    · exact openAt_memsOk _ _ _ (freeBytes_memsOk 8 h)

theorem ackMismatch_memsOk (f : Fibre) (a : Access) (h : s.memsOk) : (ackMismatch s f a).memsOk :=
  makeError_memsOk _ _ _ _ (failAccess_memsOk _ _ _ _ h)

theorem refusedAt_memsOk (id why sector : Nat) (h : s.memsOk) : (s.refusedAt id why sector).memsOk := by
  unfold State.refusedAt
  split
  · split
    · exact abortCopy_memsOk _ _ h
    · exact h
  · exact h

theorem execRemoteAck_resultOk (acc : Nat) (data : DWord) (kind : AckKind) (h : s.memsOk) : ResultOk (execRemoteAck acc data kind s) := by
  unfold execRemoteAck
  extract_lets refused why t u
  refine next_resultOk ?_
  split
  · split
    · split
      · split
        · exact ackMismatch_memsOk _ _ h
        · exact ackAccess_memsOk _ _ _ _ h
      · exact h
    · exact h
  · have ht : t.memsOk := by
      refine donePosted_memsOk _ _ ?_
      split
      · exact refusedAt_memsOk _ _ _ h
      · exact h
    have hu : u.memsOk := ht
    clear_value u
    refine tlbSweep_memsOk ?_
    split
    · exact makeError_memsOk _ _ _ _ hu
    · exact hu

/-! Commit and abort at the coordinator (R294, R300 to R303). -/

theorem execSealAck_resultOk (die index dir : Nat) (h : s.memsOk) : ResultOk (execSealAck die index dir s) := by
  refine next_resultOk ?_
  split
  · exact h
  · split <;> exact h

theorem released_memsOk (p : Plaza) (h : s.memsOk) : (s.released p).memsOk := by
  unfold State.released
  extract_lets hd t u
  have hu : u.memsOk := h
  refine freePlazas_memsOk (foldl_memsOk _ _ hu fun v m hv => ?_)
  split <;> exact hv

theorem execPublishReport_resultOk (die index dir : Nat) (h : s.memsOk) : ResultOk (execPublishReport die index dir s) := by
  refine next_resultOk ?_
  split
  · exact h
  · split
    · exact h
    · refine publishDir_memsOk _ _ _ h fun t ht => ?_
      dsimp only
      split
      · exact released_memsOk _ ht
      · exact ht

theorem execPlazaTimeout_resultOk (die index : Nat) (h : s.memsOk) : ResultOk (execPlazaTimeout die index s) := by
  refine next_resultOk ?_
  split
  · exact h
  · split <;> exact h

theorem execPlazaDiscard_resultOk (die index : Nat) (h : s.memsOk) : ResultOk (execPlazaDiscard die index s) := by
  refine next_resultOk ?_
  split
  · exact h
  · split
    · exact freePlazas_memsOk (abortsDone_memsOk (discard_memsOk (s := s.setPlaza _) _ _ h))
    · exact h

end
end Sys2Proof.Machine

/-! The five memories stay in canonical form (O60): posting an engine operation, and the matrix engine. -/

namespace Sys2Proof.Machine

section
variable {s : State}

/-! Posting (R195, R227). -/

theorem tableMx_memsOk (f : Fibre) (i : Instr) (hd : Hdr) (e : MxEntry) (h : s.memsOk) : (tableMx s f i hd e).memsOk :=
  retire_memsOk (s := { s with mx := _ }) _ _ _ h

theorem postMx_memsOk (f : Fibre) (i : Instr) (hd : Hdr) (kind : MxKind) (off : Nat) (blk mask : List Byte) (cls : Nat) (h : s.memsOk) :
    (postMx s f i hd kind off blk mask cls).memsOk := by
  unfold postMx
  extract_lets quad base e t
  have ht : t.memsOk := h
  split
  · exact block_memsOk (s := { t with mx := t.mx ++ [e] }) _ _ ht
  · exact tableMx_memsOk _ _ _ _ ht

theorem posting_memsOk (f : Fibre) (i : Instr) (hd : Hdr) (first : State) (h : s.memsOk) (hf : first.memsOk) :
    (posting s f i hd first).memsOk := by
  unfold posting
  split
  · split
    · exact tableMx_memsOk _ _ _ _ h
    · exact hf
  · exact hf

theorem unread_memsOk {t : State} (h : s.memsOk) : (s.unread t).memsOk := h

theorem readBlock_memsOk {s0 : State} (f : Fibre) (i : Instr) (l : Loc) (n addr : Nat) (k : List Byte → State → State) (h : s.memsOk)
    (hk : ∀ b (t : State), t.memsOk → (k b t).memsOk) : (s.readBlock s0 f i l n addr k).memsOk := by
  have hun : (s.unread s0).memsOk := h
  unfold State.readBlock
  split
  · exact hun
  · split
    · exact trapAt_memsOk _ _ _ _ _ hun
    · exact block_memsOk _ _ hun
    · next t e =>
      have ht : t.memsOk := register_memsOk h e
      exact hk _ _ ht

theorem atBlock_memsOk (f : Fibre) (i : Instr) (off : Nat) (k : List Byte → State → State) (h : s.memsOk)
    (hk : ∀ b (t : State), t.memsOk → (k b t).memsOk) : (atBlock s f i off k).memsOk := by
  unfold atBlock
  split
  · exact trapAt_memsOk _ _ _ _ _ h
  · exact andThen_memsOk _ _ _ h (resolveSp_memsOk _ _ _ _ _ h) fun l t ht => readBlock_memsOk _ _ _ _ _ _ ht hk

theorem mxIssue_memsOk (f : Fibre) (i : Instr) (hd : Hdr) (a : Reg) (kind : MxKind) (stream : Option Nat) (h : s.memsOk) :
    (mxIssue s f i hd a kind stream).memsOk := by
  refine posting_memsOk _ _ _ _ h (atBlock_memsOk _ _ _ _ h fun b t ht => ?_)
  split
  · exact trapAt_memsOk _ _ _ _ _ (unread_memsOk ht)
  · exact postMx_memsOk _ _ _ _ _ _ _ _ ht

theorem execMxa_resultOk (hd : Hdr) (a : Reg) (h : s.memsOk) : ResultOk (execMxa hd a s) :=
  issue_resultOk h fun _ => mxIssue_memsOk _ _ _ _ _ _ h

theorem execMxs_resultOk (hd : Hdr) (two : Bool) (a d : Reg) (h : s.memsOk) : ResultOk (execMxs hd two a d s) :=
  issue_resultOk h fun _ => mxIssue_memsOk _ _ _ _ _ _ h

/-! Ends (R182, R201, R202). -/

theorem setMx_memsOk (e : MxEntry) (h : s.memsOk) : (s.setMx e).memsOk := h

theorem mxSticky_memsOk (e : MxEntry) (arr : Option Loc) (h : s.memsOk) : (mxSticky s e arr).memsOk := by
  unfold mxSticky
  split
  · exact h
  · extract_lets t
    have ht : t.memsOk := by
      simp only [t]
      split
      · exact h
      · split
        · exact h
        · exact sticky_memsOk (s := s) _ false true h
    clear_value t
    split
    · split
      · exact markSat_memsOk _ ht
      · exact ht
    · exact ht

theorem finishMx_memsOk (e : MxEntry) (arr : Option Loc) (h : s.memsOk) : (finishMx s e arr).memsOk := by
  unfold finishMx
  extract_lets t
  have ht : t.memsOk := mxSticky_memsOk _ _ (tlbSettle_memsOk _ h)
  clear_value t
  split
  · exact engineArrive_memsOk (s := t.setMx _) _ ht
  · exact leaveMx_memsOk _ ht

theorem recordMx_memsOk (e : MxEntry) (c : Cause) (detail addr : Nat) (h : s.memsOk) : (s.recordMx e c detail addr).memsOk := h

theorem abortMx_memsOk (e : MxEntry) (arr : Option Loc) (c : Cause) (detail addr : Nat) (h : s.memsOk) :
    (abortMx s e arr c detail addr).memsOk := finishMx_memsOk _ _ (recordMx_memsOk _ _ _ _ h)

/-! Fetches (R198, R201, R286). -/

/-- An outcome of a walk or of checks whose state has its memories in canonical form. -/
def Walked.MemsOk {α : Type} : Walked α → Prop
  | .ok _ t | .fail t _ _ _ | .hold t _ _ | .stall t => t.memsOk

theorem walkRange_memsOk (e : MxEntry) (agent fuel va n : Nat) (h : s.memsOk) : (walkRange s e agent fuel va n).MemsOk := by
  induction fuel generalizing s va n with
  | zero => exact h
  | succ fuel ih =>
    have hl := lookup_memsOk none e.quad e.asid va .read h
    unfold walkRange
    split
    · exact h
    · split
      · exact h
      · extract_lets m r
        have hr : r.1.memsOk := hl
        split
        · exact hr
        · exact hr
        · exact hr
        · exact openFault_memsOk _ _ _ _ _ _ _ _ hr
        · split
          · exact hr
          · split
            · exact hr
            · have hn := ih (va + m) (n - m) hr
              split
              · next e' =>
                rw [e'] at hn
                exact hn
              · exact hn

theorem walked_memsOk (x : Src) (e : MxEntry) (agent : Nat) (h : s.memsOk) : (x.walked s e agent).MemsOk := by
  unfold Src.walked
  split
  · exact walkRange_memsOk _ _ _ _ _ h
  · exact h

theorem walkAll_memsOk (e : MxEntry) (agent : Nat) (xs : List Src) (h : s.memsOk) : (walkAll s e agent xs).MemsOk := by
  induction xs generalizing s with
  | nil => exact h
  | cons x xs ih =>
    have hw := walked_memsOk x e agent h
    unfold walkAll
    split
    · next e' =>
      rw [e'] at hw
      have hn := ih hw
      split
      · next e'' =>
        rw [e''] at hn
        exact hn
      · exact hn
    · next e' =>
      rw [e'] at hw
      exact hw
    · next e' =>
      rw [e'] at hw
      exact hw
    · next e' =>
      rw [e'] at hw
      exact hw

theorem checkPieces_memsOk (e : MxEntry) (agent : Nat) (ps : List Piece) (h : s.memsOk) : (checkPieces s e agent ps).1.memsOk := by
  induction ps generalizing s with
  | nil => exact h
  | cons p ps ih =>
    obtain ⟨va, l, n⟩ := p
    unfold checkPieces
    split
    · exact h
    · have hc := checkRead_memsOk l n agent (peekAll_memsOk l n h)
      dsimp only
      split
      · exact hc
      · exact ih hc

theorem registerPieces_memsOk (mk : Loc → Nat → NewAcc) (ps : List Piece) (h : s.memsOk) : (registerPieces s mk ps).MemsOk := by
  induction ps generalizing s with
  | nil => exact h
  | cons p ps ih =>
    obtain ⟨va, l, n⟩ := p
    unfold registerPieces
    split
    · exact ih h
    · split
      · exact h
      · exact h
      · next e => exact ih (register_memsOk h e)

theorem readPieces_memsOk (ps : List Piece) (h : s.memsOk) : (readPieces s ps).2.memsOk := by
  induction ps generalizing s with
  | nil => exact h
  | cons p ps ih =>
    obtain ⟨va, l, n⟩ := p
    refine ih ?_
    split
    · exact freeBytes_memsOk _ h
    · exact h

theorem readAll_memsOk (pss : List (List Piece)) (h : s.memsOk) : (readAll s pss).2.memsOk := by
  induction pss generalizing s with
  | nil => exact h
  | cons ps pss ih => exact ih (readPieces_memsOk ps h)

theorem admitSrcs_memsOk (e : MxEntry) (agent : Nat) (xs : List Src) (h : s.memsOk) : (admitSrcs s e agent xs).MemsOk := by
  unfold admitSrcs
  split
  · exact h
  · have hw := walkAll_memsOk e agent ((xs.filter (·.glob)).foldr insertSrc []) h
    split
    · next e' =>
      rw [e'] at hw
      exact hw
    · next e' =>
      rw [e'] at hw
      exact hw
    · next e' =>
      rw [e'] at hw
      exact hw
    · next qs t e' =>
      rw [e'] at hw
      extract_lets ps m own
      have hm : m.1.memsOk := meetLocs_memsOk (s := t) _ _ hw
      have hc := checkPieces_memsOk e agent ps hm
      split
      · exact hm
      · split
        · next e'' =>
          rw [e''] at hc
          exact hc
        · next e'' _ =>
          rw [e''] at hc
          split <;> exact hc
        · next u e'' _ =>
          rw [e''] at hc
          have hr := registerPieces_memsOk (mxAcc u e) (ps ++ ((xs.filter fun x => !x.glob).map fun x => (x.addr, x.loc, x.len))) hc
          split
          · next e''' =>
            rw [e'''] at hr
            exact hr
          · next e''' =>
            rw [e'''] at hr
            exact hr
          · next e''' =>
            rw [e'''] at hr
            exact hr
          · exact hc

theorem fetchSrcs_memsOk (e : MxEntry) (agent : Nat) (xs : List Src) (h : s.memsOk) : (fetchSrcs s e agent xs).MemsOk := by
  have ha := admitSrcs_memsOk e agent xs h
  unfold fetchSrcs
  split
  · next e' =>
    rw [e'] at ha
    exact readAll_memsOk _ ha
  · next e' =>
    rw [e'] at ha
    exact ha
  · next e' =>
    rw [e'] at ha
    exact ha
  · next e' =>
    rw [e'] at ha
    exact ha

theorem holdMx_memsOk (e : MxEntry) (hold : Hold) (addr : Nat) (h : s.memsOk) : (s.holdMx e hold addr).memsOk := h

/-! Passes (R192, R195 to R198). -/

theorem loadPlane_memsOk (quad p : Nat) (fmt : FmtCode) (rows : List (List Nat)) (h : s.memsOk) :
    (s.loadPlane quad p fmt rows).memsOk := by
  obtain ⟨hmem, hhost, hsp, htb, hplane⟩ := h
  exact ⟨hmem, hhost, hsp, htb, foldl_wf _ _ (memDrop_wf _ _ hplane) fun _ _ hm => memWrite_wf _ _ hm⟩

theorem beginPass_memsOk (e : MxEntry) (h : s.memsOk) : (beginPass s e).memsOk := by
  unfold beginPass
  extract_lets x q
  split
  · exact abortMx_memsOk _ _ _ _ _ h
  · have ha := admitSrcs_memsOk e 2 (q.1 ++ q.2.1 ++ q.2.2.1 ++ q.2.2.2) h
    split
    · next e' =>
      rw [e'] at ha
      exact abortMx_memsOk _ _ _ _ _ ha
    · next e' =>
      rw [e'] at ha
      exact holdMx_memsOk _ _ _ ha
    · next e' =>
      rw [e'] at ha
      exact ha
    · next e' =>
      rw [e'] at ha
      exact setMx_memsOk _ ha

theorem fetchNext_memsOk (e : MxEntry) (todo : List (Nat × List Piece)) (h : s.memsOk) : (fetchNext s e todo).memsOk := by
  unfold fetchNext
  extract_lets src ps m
  have hm : m.1.memsOk := meetLocs_memsOk _ _ h
  have hc := checkPieces_memsOk e 2 ps hm
  split
  · exact tlbSettle_memsOk (s := s) e.id h
  · split
    · exact hm
    · split
      · next e' =>
        rw [e'] at hc
        exact abortMx_memsOk _ _ _ _ _ hc
      · next t e' =>
        rw [e'] at hc
        exact readPieces_memsOk (s := t.draw 1) ps hc

theorem loadPass_memsOk (e : MxEntry) (h : s.memsOk) : (loadPass s e).memsOk := by
  unfold loadPass
  extract_lets x w t
  split
  · exact abortMx_memsOk _ _ _ _ _ h
  · have ht : t.memsOk := by
      simp only [t]
      split
      · exact h
      · exact loadPlane_memsOk _ _ _ _ h
    exact tlbSettle_memsOk (s := t) e.id ht

theorem applyBlock_memsOk (e : MxEntry) (b : Nat) (h : s.memsOk) : (applyBlock s e b).memsOk := h

theorem writeWord_memsOk (e : MxEntry) (h : s.memsOk) : (writeWord s e).memsOk := setBytes_memsOk (s := s.draw 1) _ _ h

theorem writePass_memsOk (e : MxEntry) (h : s.memsOk) : (writePass s e).memsOk := by
  unfold writePass
  split
  · exact writeWord_memsOk _ h
  · extract_lets x g
    split
    · exact finishMx_memsOk _ _ h
    · exact h

theorem runPass_memsOk (e : MxEntry) (h : s.memsOk) : (runPass s e).memsOk := by
  unfold runPass
  split
  · exact beginPass_memsOk _ h
  · exact loadPass_memsOk _ h
  · exact fetchNext_memsOk _ _ h
  · split
    · exact applyBlock_memsOk _ _ h
    · exact writePass_memsOk _ h
  · exact h

theorem execMxPass_resultOk (quad entry : Nat) (h : s.memsOk) : ResultOk (execMxPass quad entry s) := by
  refine next_resultOk ?_
  split
  · exact h
  · split
    · split
      · exact abortMx_memsOk _ _ _ _ _ h
      · exact h
    · split
      · split
        · exact runPass_memsOk _ h
        · exact h
      · exact h

end
end Sys2Proof.Machine

/-! The five memories stay in canonical form (O60): the bindings of key pages, and the selection engines. -/

namespace Sys2Proof.Machine

section
variable {s : State}

/-! The checks on a page, and its binding (R237, R239, R247). -/

/-- An outcome of those checks whose state has its memories in canonical form. -/
def PageCheck.MemsOk : PageCheck → Prop
  | .bad t _ | .ok t _ _ | .fault t _ _ | .wait t => t.memsOk

theorem checkDesc_memsOk (va pa : Nat) (d : SumDesc) (cfg : Option (Nat × Bool)) (h : s.memsOk) : (checkDesc s va pa d cfg).MemsOk := by
  unfold checkDesc
  split
  · exact h
  · split
    all_goals
      split
      · exact h
      · split
        · exact h
        · split <;> exact h

theorem readDesc_memsOk (asid va pa sidx : Nat) (cfg : Option (Nat × Bool)) (h : s.memsOk) : (readDesc s asid va pa sidx cfg).MemsOk := by
  unfold readDesc
  split
  · exact h
  · next a _ =>
    have hr := readLoc_memsOk 4 (.dram a) 32 h
    split
    · next e =>
      rw [e] at hr
      exact hr
    · next e =>
      rw [e] at hr
      exact hr
    · next e =>
      rw [e] at hr
      split
      · exact hr
      · exact checkDesc_memsOk _ _ _ _ hr

theorem checkPage_memsOk (asid va : Nat) (l : Loc) (x : TlbEntry) (cfg : Option (Nat × Bool)) (h : s.memsOk) :
    (checkPage s asid va l x cfg).MemsOk := by
  have hr := ctxRead_memsOk 4 asid h
  unfold checkPage
  split
  · split
    · exact h
    · split
      · next e =>
        rw [e] at hr
        exact hr
      · next e =>
        rw [e] at hr
        exact hr
      · next e =>
        rw [e] at hr
        split
        · exact hr
        · exact readDesc_memsOk _ _ _ _ _ hr
  all_goals exact h

theorem syncBit_memsOk (bit : Nat) (v : Bool) (h : s.memsOk) : (s.syncBit bit v).memsOk := h

theorem unshare_memsOk (page : Nat) (h : s.memsOk) : (s.unshare page).memsOk :=
  foldl_memsOk _ _ h fun _ _ ht => homeClear_memsOk _ ht

theorem execKeybindBind_resultOk (w : Word) (h : s.memsOk) : ResultOk (execKeybindBind w s) := by
  refine next_resultOk ?_
  split
  · exact h
  · split
    · exact syncBit_memsOk _ _ h
    · exact syncBit_memsOk _ _ (foldl_memsOk (s := { s with bindings := _ }) _ _ h fun _ _ ht => unshare_memsOk _ ht)

theorem execKeybindUnbind_resultOk (w : Word) (h : s.memsOk) : ResultOk (execKeybindUnbind w s) := by
  refine next_resultOk ?_
  split
  · exact h
  · split
    · exact syncBit_memsOk _ _ h
    · exact syncBit_memsOk (s := { s with bindings := _ }) _ _ h

/-! `asel` (R242 to R247). -/

theorem execAsel_resultOk (hd : Hdr) (a : Reg) (h : s.memsOk) : ResultOk (execAsel hd a s) := by
  refine issue_resultOk h fun f => posting_memsOk _ _ _ _ h (atBlock_memsOk _ _ _ _ h fun b t ht => ?_)
  dsimp only
  split
  · exact trapAt_memsOk _ _ _ _ _ (unread_memsOk ht)
  · refine readBlock_memsOk _ _ _ _ _ _ ht fun m t ht => ?_
    split
    · exact trapAt_memsOk _ _ _ _ _ (unread_memsOk ht)
    · split
      · exact trapAt_memsOk _ _ _ _ _ (unread_memsOk ht)
      · exact postMx_memsOk _ _ _ _ _ _ _ _ ht

theorem openHold_memsOk {α : Type} (e : MxEntry) (va why lv ea : Nat) (h : s.memsOk) :
    (Walked.hold (α := α) (openFault s (quadDie e.quad) e.asid va .read 3 why lv ea).1
      (openFault s (quadDie e.quad) e.asid va .read 3 why lv ea).2 va).MemsOk := openFault_memsOk _ _ _ _ _ _ _ _ h

theorem readPage_signs_memsOk (e : MxEntry) (x : SelBlk) (sva : Nat) (h : s.memsOk) : (readPage.signs e x s sva).MemsOk := by
  have hf := fetchSrcs_memsOk e 3 [⟨true, sva, .dram 0, 4 * dCount x.dcode⟩] h
  unfold readPage.signs
  split
  all_goals
    next e' =>
    rw [e'] at hf
    exact hf

theorem readPage_memsOk (e : MxEntry) (x : SelBlk) (va : Nat) (h : s.memsOk) : (readPage s e x va).MemsOk := by
  have hl := lookup_memsOk none e.quad e.asid va .read h
  unfold readPage
  split
  · exact h
  · split
    · exact h
    · extract_lets r open'
      have hr : r.1.memsOk := hl
      split
      · exact hr
      · exact hr
      · exact hr
      · exact openHold_memsOk _ _ _ _ _ hr
      · next l t _ =>
        have hc := checkPage_memsOk e.asid va l t (some (x.dcode, x.kfmt)) hr
        split
        · next e' =>
          rw [e'] at hc
          exact hc
        · next e' =>
          rw [e'] at hc
          exact hc
        · next e' =>
          rw [e'] at hc
          exact openHold_memsOk _ _ _ _ _ hc
        · next u sva b e' =>
          rw [e'] at hc
          extract_lets q
          have hq : q.1.memsOk := lookup_memsOk (s := u) none e.quad e.asid sva .read hc
          split
          · split
            · exact hq
            · exact readPage_signs_memsOk _ _ _ hq
          all_goals exact readPage_signs_memsOk _ _ _ hq

theorem readPages_memsOk (e : MxEntry) (x : SelBlk) (vas : List Nat) (h : s.memsOk) : (readPages s e x vas).MemsOk := by
  induction vas generalizing s with
  | nil => exact h
  | cons va vas ih =>
    have hp := readPage_memsOk e x va h
    unfold readPages
    split
    · next row t e' =>
      rw [e'] at hp
      have hn := ih (s := t) hp
      split
      · next e'' =>
        rw [e''] at hn
        exact hn
      · exact hn
    all_goals
      next e' =>
      rw [e'] at hp
      exact hp

theorem abortSel_memsOk (e : MxEntry) (x : SelBlk) (arr : Option Loc) (c : Cause) (detail addr : Nat) (h : s.memsOk) :
    (abortSel s e x arr c detail addr).memsOk := by
  unfold abortSel
  extract_lets l
  split
  · exact abortMx_memsOk _ _ _ _ _ (recordMx_memsOk _ _ _ _ h)
  · exact h
  · next t e' =>
    have ht : t.memsOk := register_memsOk h e'
    exact abortMx_memsOk _ _ _ _ _ (setBytes_memsOk _ _ ht)

theorem runSel_memsOk (e : MxEntry) (h : s.memsOk) : (runSel s e).memsOk := by
  unfold runSel
  extract_lets x arr
  have hf := fetchSrcs_memsOk e 3 [⟨false, x.qoff, .sp (e.spBase + x.qoff), x.qlen⟩, ⟨true, x.pladdr, .dram 0, 8 * x.npages⟩] h
  split
  · next e' =>
    rw [e'] at hf
    exact abortSel_memsOk _ _ _ _ _ _ hf
  · next e' =>
    rw [e'] at hf
    exact holdMx_memsOk _ _ _ hf
  · next e' =>
    rw [e'] at hf
    exact hf
  · next rows t e' =>
    rw [e'] at hf
    have hp := readPages_memsOk (s := t) e x ((List.range x.npages).map fun i => fb (rows.getD 1 []) (8 * i) 8) hf
    split
    · next e'' =>
      rw [e''] at hp
      exact abortSel_memsOk _ _ _ _ _ _ hp
    · next e'' =>
      rw [e''] at hp
      exact holdMx_memsOk _ _ _ hp
    · next e'' =>
      rw [e''] at hp
      exact hp
    · next signs u e'' =>
      rw [e''] at hp
      extract_lets out
      have hg := registerPieces_memsOk (s := u) (selAcc u e) (out.map fun p => (p.1, .sp (e.spBase + p.1), p.2.length)) hp
      split
      · next e''' =>
        rw [e'''] at hg
        exact abortSel_memsOk _ _ _ _ _ _ hg
      · next e''' =>
        rw [e'''] at hg
        exact holdMx_memsOk _ _ _ hg
      · next e''' =>
        rw [e'''] at hg
        exact hg
      · next e''' =>
        rw [e'''] at hg
        exact finishMx_memsOk _ _ (foldl_memsOk _ _ hg fun _ _ ht => setBytes_memsOk _ _ ht)

theorem execAselRun_resultOk (entry : Nat) (h : s.memsOk) : ResultOk (execAselRun entry s) := by
  refine next_resultOk ?_
  split
  · split
    · exact h
    · exact runSel_memsOk _ h
  · exact h

/-! `agat` (R249). -/

theorem execAgat_resultOk (hd : Hdr) (a : Reg) (h : s.memsOk) : ResultOk (execAgat hd a s) := by
  refine issue_resultOk h fun f => posting_memsOk _ _ _ _ h (atBlock_memsOk _ _ _ _ h fun b t ht => ?_)
  split
  · exact trapAt_memsOk _ _ _ _ _ (unread_memsOk ht)
  · split
    · exact trapAt_memsOk _ _ _ _ _ (unread_memsOk ht)
    · split
      · exact trapAt_memsOk _ _ _ _ _ (unread_memsOk ht)
      · exact postMx_memsOk _ _ _ _ _ _ _ _ ht

theorem abortGat_memsOk (e : MxEntry) (x : GatBlk) (c : Cause) (detail addr : Nat) (h : s.memsOk) :
    (abortGat s e x c detail addr).memsOk := by
  refine abortMx_memsOk _ _ _ _ _ ?_
  split
  · exact failObj_memsOk _ h
  · exact h

theorem listGat_memsOk (e : MxEntry) (x : GatBlk) (count : List Byte) (h : s.memsOk) : (listGat s e x count).memsOk := by
  unfold listGat
  extract_lets n list
  have hf := fetchSrcs_memsOk e 2 (if n = 0 then [] else [list]) h
  split
  · exact abortGat_memsOk _ _ _ _ _ h
  · split
    · next e' =>
      rw [e'] at hf
      exact abortGat_memsOk _ _ _ _ _ hf
    · next e' =>
      rw [e'] at hf
      exact holdMx_memsOk _ _ _ hf
    · next e' =>
      rw [e'] at hf
      exact hf
    · next e' =>
      rw [e'] at hf
      dsimp only
      split
      · exact abortGat_memsOk _ _ _ _ _ hf
      · split
        · exact abortGat_memsOk _ _ _ _ _ hf
        · split
          · exact leaveMx_memsOk _ hf
          · exact setMx_memsOk _ hf

theorem startGat_memsOk (e : MxEntry) (x : GatBlk) (h : s.memsOk) : (startGat s e x).memsOk := by
  have hf := fetchSrcs_memsOk e 2 [⟨false, x.listoff, .sp (e.spBase + x.listoff), 4⟩] h
  unfold startGat
  split
  · next e' =>
    rw [e'] at hf
    exact abortGat_memsOk _ _ _ _ _ hf
  · next e' =>
    rw [e'] at hf
    exact holdMx_memsOk _ _ _ hf
  · next e' =>
    rw [e'] at hf
    exact hf
  · next e' =>
    rw [e'] at hf
    exact listGat_memsOk _ _ _ hf

theorem pageGat_memsOk (e : MxEntry) (x : GatBlk) (h : s.memsOk) : (pageGat s e x).memsOk := by
  unfold pageGat
  extract_lets i
  have hf := fetchSrcs_memsOk e 2 [⟨true, x.pladdr + 8 * i, .dram 0, 8⟩] h
  split
  · next e' =>
    rw [e'] at hf
    exact abortGat_memsOk _ _ _ _ _ hf
  · next e' =>
    rw [e'] at hf
    exact holdMx_memsOk _ _ _ hf
  · next e' =>
    rw [e'] at hf
    exact hf
  · next e' =>
    rw [e'] at hf
    dsimp only
    split
    · exact abortGat_memsOk _ _ _ _ _ hf
    · exact setMx_memsOk _ hf

theorem pieceGat_memsOk (e : MxEntry) (x : GatBlk) (va : Nat) (h : s.memsOk) : (pieceGat s e x va).memsOk := by
  have hf := fetchSrcs_memsOk e 2 [⟨true, va + 256 * (e.pass % 64), .dram 0, 256⟩] h
  unfold pieceGat
  split
  · next e' =>
    rw [e'] at hf
    exact abortGat_memsOk _ _ _ _ _ hf
  · next e' =>
    rw [e'] at hf
    exact holdMx_memsOk _ _ _ hf
  · next e' =>
    rw [e'] at hf
    exact hf
  · next rows t e' =>
    rw [e'] at hf
    extract_lets t1 e1 t2 t3
    have h2 : t2.memsOk := setMx_memsOk (s := t1) _ (setBytes_memsOk (s := t) _ _ hf)
    have h3 : t3.memsOk := by
      simp only [t3]
      split
      · exact landBytes_memsOk _ _ h2
      · exact h2
    split
    · exact leaveMx_memsOk _ h3
    · exact h3

theorem runGat_memsOk (e : MxEntry) (h : s.memsOk) : (runGat s e).memsOk := by
  unfold runGat
  dsimp only
  split
  · exact abortGat_memsOk _ _ _ _ _ h
  · split
    · exact h
    · split
      · exact startGat_memsOk _ _ h
      · split
        · exact pageGat_memsOk _ _ h
        · exact pieceGat_memsOk _ _ _ h

theorem execAgatRun_resultOk (entry : Nat) (h : s.memsOk) : ResultOk (execAgatRun entry s) := by
  refine next_resultOk ?_
  split
  · exact runGat_memsOk _ h
  · exact h

/-! `ksum.rebuild` (R241). -/

theorem execKsumRebuild_resultOk (hd : Hdr) (a : Reg) (h : s.memsOk) : ResultOk (execKsumRebuild hd a s) := by
  refine issue_resultOk h fun f => ?_
  extract_lets va page bad
  have hbad (t : State) (d : Nat) (ht : t.memsOk) : (bad t d).memsOk := trapAt_memsOk _ _ _ _ _ ht
  clear_value bad
  split
  · exact trapAt_memsOk _ _ _ _ _ h
  · refine posting_memsOk _ _ _ _ h (andThen_memsOk _ _ _ h (resolveGlobal_memsOk _ _ _ _ _ h) fun l t ht => ?_)
    split
    · next e _ =>
      have hc := checkPage_memsOk (t.asidOf f) va l e none ht
      split
      · next e' =>
        rw [e'] at hc
        exact hbad _ _ hc
      · next e' =>
        rw [e'] at hc
        exact hc
      · next e' =>
        rw [e'] at hc
        exact block_memsOk _ _ (openFault_memsOk _ _ _ _ _ _ _ _ hc)
      · next e' =>
        rw [e'] at hc
        refine andThen_memsOk _ _ _ hc (translateFor_memsOk _ _ _ hc) fun l' u hu => ?_
        split
        · exact hbad _ _ hu
        · exact postMx_memsOk _ _ _ _ _ _ _ _ hu
    · exact ht

theorem startKsum_memsOk (e : MxEntry) (va : Nat) (b : Binding) (h : s.memsOk) : (startKsum s e va b).memsOk := by
  have hw := walkRange_memsOk e 3 6 va 16384 h
  unfold startKsum
  split
  · exact abortMx_memsOk _ _ _ _ _ h
  · split
    · next e' =>
      rw [e'] at hw
      exact abortMx_memsOk _ _ _ _ _ hw
    · next e' =>
      rw [e'] at hw
      exact holdMx_memsOk _ _ _ hw
    · next e' =>
      rw [e'] at hw
      exact hw
    · next e' =>
      rw [e'] at hw
      exact setMx_memsOk _ hw

theorem readKsum_memsOk (e : MxEntry) (va : Nat) (b : Binding) (todo : List (Nat × List Piece)) (h : s.memsOk) :
    (readKsum s e va b todo).memsOk := by
  unfold readKsum
  extract_lets ps m
  have hm : m.1.memsOk := meetLocs_memsOk _ _ h
  have hc := checkPieces_memsOk e 3 ps hm
  split
  · exact hm
  · split
    · next e' =>
      rw [e'] at hc
      exact abortMx_memsOk _ _ _ _ _ hc
    · next t e' =>
      rw [e'] at hc
      exact readPieces_memsOk (s := t.draw 1) ps hc

theorem runKsum_memsOk (e : MxEntry) (va : Nat) (b : Binding) (h : s.memsOk) : (runKsum s e va b).memsOk := by
  unfold runKsum
  split
  · exact startKsum_memsOk _ _ _ h
  · extract_lets m
    have hm : m.1.memsOk := meetLocs_memsOk _ _ h
    split
    · exact hm
    · exact leaveMx_memsOk _ (homeWrite_memsOk _ _ hm)
  · exact readKsum_memsOk _ _ _ _ h
  · exact h
  · exact h

theorem execKsumRebuildRun_resultOk (entry : Nat) (h : s.memsOk) : ResultOk (execKsumRebuildRun entry s) := by
  refine next_resultOk ?_
  split
  · split
    · split
      · exact h
      · exact runKsum_memsOk _ _ _ h
    all_goals exact h
  · exact h

end
end Sys2Proof.Machine

/-! The five memories stay in canonical form (O60): launches, placement, retirement and completion, and translations. -/

namespace Sys2Proof.Machine

section
variable {s : State}

/-! The checks of a launch (R270 to R272). -/

/-- An outcome of a launch's checks whose state has its memories in canonical form. -/
def Checked.MemsOk : Checked → Prop
  | .refuse _ t | .ok _ t | .wait t => t.memsOk

theorem judge_memsOk (r : List Byte) (k : Kernel) (vs : List Byte) (node : Option (Nat × Nat)) (before : List (Nat × Nat)) (h : s.memsOk) :
    (s.judge r k vs node before).MemsOk := by
  unfold State.judge
  dsimp only
  split
  · exact h
  · split
    · exact h
    · split
      · exact h
      · split <;> exact h

theorem checkLaunch_memsOk (r : List Byte) (node : Option (Nat × Nat)) (before : List (Nat × Nat)) (h : s.memsOk) :
    (s.checkLaunch r node before).MemsOk := by
  have hc := ctxRead_memsOk 10 (fb r 49 1) h
  unfold State.checkLaunch
  dsimp only
  split
  · next e =>
    rw [e] at hc
    exact hc
  · next e =>
    rw [e] at hc
    exact hc
  · next t e =>
    rw [e] at hc
    have hk := vread_memsOk (s := t) none noQuad (fb r 49 1) 10 (fb r 8 8) 64 1 hc
    split
    · exact hc
    · split
      · next e' =>
        rw [e'] at hk
        exact hk
      · next e' =>
        rw [e'] at hk
        exact hk
      · next kb u e' =>
        rw [e'] at hk
        have hv := vread_memsOk (s := u) none noQuad (fb r 49 1) 10 (Kernel.read kb).vartab 32 (Kernel.read kb).nvar hk
        split
        · exact hk
        · split
          · next e'' =>
            rw [e''] at hv
            exact hv
          · next e'' =>
            rw [e''] at hv
            exact hv
          · next e'' =>
            rw [e''] at hv
            exact judge_memsOk _ _ _ _ _ hv

theorem queueLaunch_memsOk (l : Launch) (h : s.memsOk) : (s.queueLaunch l).memsOk := h

/-! `launch` (R274). -/

/-- An outcome of the reading of a record whose state, if it has one, has its memories in canonical form. -/
def RecRead.MemsOk : RecRead → Prop
  | .ok _ t | .wait t _ | .stall t => t.memsOk
  | .trap _ _ _ => True

theorem fibreRead_memsOk (f : Fibre) (va n : Nat) (h : s.memsOk) : (readRecord s f va n).MemsOk := by
  induction n generalizing s va with
  | zero => exact h
  | succ n ih =>
    have hr := resolveGlobal_memsOk f va 64 64 .read h
    unfold readRecord
    split
    · trivial
    · next e =>
      rw [e] at hr
      exact hr
    · next e =>
      rw [e] at hr
      exact hr
    · next l t e =>
      rw [e] at hr
      have ht : t.memsOk := hr
      extract_lets rest
      have hrest (u : State) (bs : List Byte) (hu : u.memsOk) : (rest u bs).MemsOk := by
        have hn := ih (s := u) (va + 64) hu
        simp only [rest]
        split
        · next e' =>
          rw [e'] at hn
          exact hn
        · trivial
        · next e' =>
          rw [e'] at hn
          exact hn
        · next e' =>
          rw [e'] at hn
          exact hn
      clear_value rest
      have hm := meet_memsOk l 64 0 false ht
      split
      · exact ht
      · split
        · split
          · trivial
          · exact hrest _ _ (freeBytes_memsOk 64 ht)
        · split
          · next e' =>
            rw [e'] at hm
            exact hm
          · next u e' =>
            rw [e'] at hm
            have hu : u.memsOk := hm
            split
            · exact hu
            · split
              · exact hu
              · split
                · trivial
                · exact hu
                · next v e'' =>
                  have hv : v.memsOk := register_memsOk hu e''
                  have hd := checkRead_memsOk (s := { v with nextId := v.nextId + 1 }.recDone v.nextId) l 64 0 hv
                  dsimp only
                  split
                  · exact hrest _ _ (fibreLoad_memsOk _ _ _ hd)
                  · trivial

theorem execLaunch_resultOk (hd : Hdr) (a : Reg) (h : s.memsOk) : ResultOk (execLaunch hd a s) := by
  refine issue_resultOk h fun f => ?_
  extract_lets va
  have hr := fibreRead_memsOk f va 4 h
  split
  · exact trapAt_memsOk _ _ _ _ _ h
  · split
    · exact trapAt_memsOk _ _ _ _ _ h
    · split
      · exact trapAt_memsOk _ _ _ _ _ h
      · split
        · exact block_memsOk _ _ h
        · split
          · exact trapAt_memsOk _ _ _ _ _ h
          · next e =>
            rw [e] at hr
            exact block_memsOk _ _ (unread_memsOk hr)
          · next e =>
            rw [e] at hr
            exact unread_memsOk hr
          · next r t e =>
            rw [e] at hr
            have ht : t.memsOk := hr
            have hc : (if fb r 49 1 ≠ t.asidOf f then Checked.refuse 0x40 t else t.checkLaunch r none f.before).MemsOk := by
              split
              · exact ht
              · exact checkLaunch_memsOk _ _ _ ht
            split
            · next e' =>
              rw [e'] at hc
              exact trapAt_memsOk _ _ _ _ _ (unread_memsOk hc)
            · next e' =>
              rw [e'] at hc
              exact unread_memsOk hc
            · next l u e' =>
              rw [e'] at hc
              exact closeDrained_memsOk _ (retire_memsOk (s := (u.release f.uid).queueLaunch l) _ _ _ hc)

/-! Placement (R279 to R281). -/

theorem placeBlock_memsOk (l : Launch) (die : Nat) (cores segs : List Nat) (alloc : Nat) (h : s.memsOk) :
    (s.placeBlock l die cores segs alloc).memsOk := by
  unfold State.placeBlock
  extract_lets set block fs t u
  have hu : u.memsOk := h
  exact setObj_memsOk _ _ hu

theorem placeOn_memsOk {t : State} {l : Launch} {die : Nat} {cores : List Nat} (h : s.memsOk) (ht : s.placeOn l die cores = some t) :
    t.memsOk := by
  unfold State.placeOn at ht
  extract_lets live segs fits at ht
  split at ht
  · obtain ⟨alloc, -, rfl⟩ := Option.map_eq_some_iff.mp ht
    exact placeBlock_memsOk _ _ _ _ _ h
  · contradiction

theorem placeAll_memsOk {t : State} {launch die : Nat} {cs : List (List Nat)} (h : s.memsOk) (ht : s.placeAll launch die cs = some t) :
    t.memsOk := by
  induction cs generalizing s with
  | nil =>
    obtain rfl := Option.some.inj ht
    exact h
  | cons c cs ih =>
    rw [State.placeAll] at ht
    split at ht
    · obtain ⟨u, hu, ht⟩ := Option.bind_eq_some_iff.mp ht
      exact ih (placeOn_memsOk h hu) ht
    · contradiction

theorem reserve_memsOk (h : s.memsOk) : s.reserve.memsOk := by
  refine foldl_memsOk _ _ h fun t k ht => ?_
  split
  · split
    · exact ht
    · exact ht
  · exact ht

theorem execBlockPlace_resultOk (launch die : Nat) (cores : List Nat) (h : s.memsOk) : ResultOk (execBlockPlace launch die cores s) := by
  have hr := reserve_memsOk h
  refine next_resultOk ?_
  extract_lets t
  have ht : t.memsOk := hr
  split
  · exact ht
  · next l _ =>
    split
    · cases hp : t.placeAll launch die (gangs l.gang l.clusterBlocks cores) with
      | none => exact ht
      | some u => exact placeAll_memsOk ht hp
    · exact ht

theorem execGangProtection_resultOk (launch block : Nat) (h : s.memsOk) : ResultOk (execGangProtection launch block s) := by
  refine next_resultOk ?_
  split
  · split
    · exact reserve_memsOk (s := s.setLaunch _) h
    · exact h
  · exact h

/-! Retirement and completion (R116, R155, R278, R281). -/

theorem leaveGroups_memsOk (b : Block) (k : State → State) (h : s.memsOk) (hk : ∀ t : State, t.memsOk → (k t).memsOk) :
    (s.leaveGroups b k).memsOk := by
  unfold State.leaveGroups
  extract_lets mine t ws m
  have hm : m.1.memsOk := meetLocs_memsOk (s := t) _ _ h
  split
  · exact h
  · split
    · exact hk _ (foldl_memsOk _ _ hm fun _ _ ht => clearSlot_memsOk _ _ ht)
    · exact hm

theorem execBlockRetire_resultOk (launch block : Nat) (h : s.memsOk) : ResultOk (execBlockRetire launch block s) := by
  refine next_resultOk ?_
  split
  · dsimp only
    split
    · exact h
    · refine leaveGroups_memsOk _ _ h fun t ht => ?_
      split
      · exact ht
      · exact reserve_memsOk (tokenMoves_memsOk (s := { t.setBlock _ with heldArrivals := _, satNext := _, fibres := _ }) launch ht)
  · exact h

theorem launchOver_memsOk (l : Launch) (h : s.memsOk) : (s.launchOver l).memsOk := h

theorem setLaunch_memsOk (l : Launch) (h : s.memsOk) : (s.setLaunch l).memsOk := h

theorem writeDone_memsOk (l : Launch) (h : s.memsOk) : (s.writeDone l).memsOk := by
  have hl := lookup_memsOk none noQuad l.asid l.doneaddr .write h
  unfold State.writeDone
  split
  · exact completionFailed_memsOk _ h
  · extract_lets r
    have hr : r.1.memsOk := hl
    split
    · exact completionFailed_memsOk _ hr
    · exact setLaunch_memsOk _ hr
    · exact setLaunch_memsOk _ hr
    · split
      · exact completionFailed_memsOk _ hr
      · exact setLaunch_memsOk _ (openFault_memsOk _ _ _ _ _ _ _ _ hr)
    · split
      · exact completionFailed_memsOk _ hr
      · split
        · exact hr
        · extract_lets m
          have hm : m.1.memsOk := meetLocs_memsOk _ _ hr
          split
          · exact setLaunch_memsOk _ hm
          · exact launchOver_memsOk _ (homeWrite_memsOk _ _ hm)

theorem execLaunchComplete_resultOk (launch : Nat) (h : s.memsOk) : ResultOk (execLaunchComplete launch s) := by
  refine next_resultOk ?_
  split
  · exact h
  · dsimp only
    split
    · split
      · exact h
      · split
        · exact launchOver_memsOk _ h
        · exact writeDone_memsOk _ h
    · exact writeDone_memsOk _ h
    all_goals exact h

/-! Translations (R273). -/

theorem publish_memsOk (kdesc a entry vector : Nat) (points : List (Nat × Nat)) (r : Fibre × Launch) (h : s.memsOk) :
    (s.publish kdesc a entry vector points r).memsOk := by
  unfold State.publish
  dsimp only
  split
  · exact h
  · split <;> exact h

theorem execTranslationPublish_resultOk (kdesc : Nat) (asid : BitVec 8) (entry vector : Nat) (points : List (Nat × Nat)) (h : s.memsOk) :
    ResultOk (execTranslationPublish kdesc asid entry vector points s) := by
  have hc := ctxRead_memsOk 10 asid.toNat h
  refine next_resultOk ?_
  split
  · exact h
  · split
    · next e =>
      rw [e] at hc
      exact publish_memsOk _ _ _ _ _ _ hc
    · next e =>
      rw [e] at hc
      exact hc
    · next e =>
      rw [e] at hc
      exact hc

end
end Sys2Proof.Machine

/-! The five memories stay in canonical form (O60): task graphs. -/

namespace Sys2Proof.Machine

section
variable {s : State}

/-! Reads and writes of graph objects (R217, R233, R260, R275). -/

theorem onSpans_memsOk (writes : Bool) (spans : List (Loc × Nat)) (k : State → State) (h : s.memsOk)
    (hk : ∀ t : State, t.memsOk → (k t).memsOk) : (s.onSpans writes spans k).memsOk := by
  have hm := meetLocs_memsOk writes (spans.filter fun p => p.2 ≠ 0) h
  unfold State.onSpans
  dsimp only
  split
  · exact hk _ hm
  · exact hm

theorem readSpans_memsOk (spans : List (Loc × Nat)) (h : s.memsOk) : (s.readSpans spans).1.memsOk := by
  unfold State.readSpans
  generalize spans.filter (fun p => p.2 ≠ 0) = ps
  generalize true = good
  induction ps generalizing s good with
  | nil => exact h
  | cons p ps ih => exact ih (checkRead_memsOk p.1 p.2 10 (peekAll_memsOk p.1 p.2 h)) _

theorem onReads_memsOk (spans : List (Loc × Nat)) (k : State → Bool → State) (h : s.memsOk)
    (hk : ∀ (t : State) b, t.memsOk → (k t b).memsOk) : (s.onReads spans k).memsOk :=
  onSpans_memsOk _ _ _ h fun _ ht => hk _ _ (readSpans_memsOk _ ht)

theorem setGraph_memsOk (index : Nat) (g : Option Graph) (h : s.memsOk) : (s.setGraph index g).memsOk := h

theorem execGraphreg_resultOk (w : DWord) (h : s.memsOk) : ResultOk (execGraphreg w s) := by
  refine next_resultOk ?_
  extract_lets index pa t
  have ht : t.memsOk := by
    simp only [t]
    split <;> exact h
  clear_value t
  split
  · exact h
  · split
    · exact setGraph_memsOk _ _ h
    · split
      · exact setGraph_memsOk _ _ h
      · exact onReads_memsOk _ _ ht fun _ _ hu => setGraph_memsOk _ _ hu

/-! Completion records (R275, R278). -/

theorem doneRecord_memsOk (pa : Nat) (stopped : Option (Nat × Nat)) (k : State → State) (h : s.memsOk)
    (hk : ∀ t : State, t.memsOk → (k t).memsOk) : (s.doneRecord pa stopped k).memsOk := by
  unfold State.doneRecord
  dsimp only
  split
  · exact onSpans_memsOk _ _ _ h fun _ ht => hk _ (homeWrite_memsOk _ _ ht)
  · split
    · exact onSpans_memsOk _ _ _ h fun _ ht => hk _ (homeWrite_memsOk _ _ ht)
    · exact hk _ (makeError_memsOk _ _ _ _ h)

theorem graphRecord_memsOk (pa : Nat) (stopped : Option (Nat × Nat)) (k : State → State) (h : s.memsOk)
    (hk : ∀ t : State, t.memsOk → (k t).memsOk) : (s.graphRecord pa stopped k).memsOk := by
  unfold State.graphRecord
  split
  · exact hk _ (makeError_memsOk _ _ _ _ h)
  · refine onReads_memsOk _ _ h fun t whole ht => ?_
    split
    · exact doneRecord_memsOk _ _ _ ht hk
    · exact hk _ (makeError_memsOk _ _ _ _ ht)

theorem recordEnds_memsOk (h : s.memsOk) : s.recordEnds.memsOk :=
  foldl_memsOk _ _ h fun _ _ ht => graphRecord_memsOk _ _ _ ht fun _ hu => hu

theorem endKick_memsOk (g : Graph) (code : Nat) (h : s.memsOk) : (s.endKick g code).memsOk :=
  recordEnds_memsOk (s := { s with kickEnds := _ }) h

/-! Nodes (R276, R277). -/

theorem setReplay_memsOk (r : Replay) (h : s.memsOk) : (s.setReplay r).memsOk := h

theorem stopReplay_memsOk (node : Nat × Nat) (code : Nat) (h : s.memsOk) : (s.stopReplay node code).memsOk := h

theorem startNode_memsOk (r : Replay) (ns : List GNode) (g : GNode) (n : Nat) (h : s.memsOk) : (s.startNode r ns g n).memsOk := by
  unfold State.startNode
  extract_lets r' before c c' t src dst len asid u
  split
  · have hc : c.1.memsOk := readSpans_memsOk _ h
    have hl : (if c.2 then c.1.checkLaunch (memBytes c.1.mem g.body 256) (some (r'.id, n)) before else .refuse 0x40 c.1).MemsOk := by
      split
      · exact checkLaunch_memsOk _ _ _ hc
      · exact hc
    split
    · next e =>
      rw [e] at hl
      exact stopReplay_memsOk _ _ (setReplay_memsOk _ hl)
    · next e =>
      rw [e] at hl
      exact hl
    · next e =>
      rw [e] at hl
      exact queueLaunch_memsOk _ (setReplay_memsOk _ hl)
  · have ht : t.memsOk := readSpans_memsOk _ h
    split
    · exact stopReplay_memsOk _ _ (setReplay_memsOk _ ht)
    · exact ht
  · exact h

theorem release1_memsOk (pa graph n : Nat) (h : s.memsOk) : (s.release1 pa graph n).memsOk := by
  unfold State.release1
  split
  · exact h
  · dsimp only
    split
    · exact h
    · split
      · exact setReplay_memsOk _ h
      · exact startNode_memsOk _ _ _ _ h

theorem releaseAll_memsOk (pa graph k : Nat) (h : s.memsOk) : (s.releaseAll pa graph k).memsOk := by
  induction k generalizing s with
  | zero => exact h
  | succ k ih =>
    unfold State.releaseAll
    extract_lets t
    have ht : t.memsOk := foldl_memsOk _ _ h fun _ _ hu => release1_memsOk _ _ _ hu
    split
    · split
      · exact ht
      · exact ih ht
    · exact ht

/-! Kicks (R276). -/

theorem applyPatch_memsOk (pa patch : Nat) (h : s.memsOk) : (s.applyPatch pa patch).memsOk :=
  foldl_memsOk _ _ h fun _ _ ht => homeWrite_memsOk _ _ ht

theorem startReplay_memsOk (g : Graph) (patch : Nat) (whole : Bool) (h : s.memsOk) : (s.startReplay g patch whole).memsOk := by
  unfold State.startReplay
  split
  · exact endKick_memsOk _ _ h
  · split
    · exact endKick_memsOk _ _ h
    · split
      · exact endKick_memsOk _ _ h
      · extract_lets t n r
        have ht : t.memsOk := by
          simp only [t]
          split
          · exact h
          · exact applyPatch_memsOk _ _ h
        exact releaseAll_memsOk (s := { t with replays := _, nextId := _ }) _ _ _ ht

theorem nextKick_memsOk (index : Nat) (h : s.memsOk) : (s.nextKick index).memsOk := by
  unfold State.nextKick
  split
  · split
    · exact h
    · refine onReads_memsOk _ _ h fun t tableGood ht => onSpans_memsOk _ _ _ ht fun u hu => ?_
      exact startReplay_memsOk (s := { (u.readSpans _).1 with kicks := _ }) _ _ _ (readSpans_memsOk _ hu)
  · exact h

theorem execKick_resultOk (w : DWord) (h : s.memsOk) : ResultOk (execKick w s) := by
  refine next_resultOk ?_
  split
  · exact h
  · split
    · exact h
    · split
      · exact endKick_memsOk _ _ h
      · split
        · exact endKick_memsOk _ _ h
        · exact nextKick_memsOk (s := { s with kicks := _ }) _ h

/-! Completion of nodes (R276 to R278). -/

/-- An outcome of a predicate's read whose state has its memories in canonical form. -/
def PredRead.MemsOk : PredRead → Prop
  | .value _ t | .stop _ t | .wait t => t.memsOk

theorem readPredicate_memsOk (r : Replay) (node body : Nat) (h : s.memsOk) : (s.readPredicate r node body).MemsOk := by
  unfold State.readPredicate
  extract_lets name c t va asid x u
  have ht : t.memsOk := readSpans_memsOk _ h
  have hu : u.memsOk := lookup_memsOk _ _ _ _ _ ht
  clear_value x va asid
  split
  · exact ht
  · split
    · exact ht
    · split
      · exact ht
      · split
        · exact hu
        · exact hu
        · exact hu
        · exact hu
        · split
          · split
            · exact hu
            · exact freeBytes_memsOk 4 hu
          · extract_lets m
            have hm : m.1.memsOk := meetLocs_memsOk _ _ hu
            split
            · exact hm
            · split
              · exact hm
              · exact hm
              · next l _ _ _ _ _ v e =>
                have hv : v.memsOk := register_memsOk hm e
                have hr := readLocs_memsOk (s := { v with nextId := v.nextId + 1 }) 10 [(l, 4)] hv
                split
                · next e' =>
                  rw [e'] at hr
                  exact hr
                · next e' =>
                  rw [e'] at hr
                  exact hr

theorem nodeDone_memsOk (pa : Nat) (r : Replay) (n : Nat) (skip : List Nat) (h : s.memsOk) : (s.nodeDone pa r n skip).memsOk :=
  releaseAll_memsOk (s := s.setReplay _) _ _ _ h

theorem graphEnds_memsOk (index : Nat) (h : s.memsOk) : (s.graphEnds index).memsOk := by
  unfold State.graphEnds
  split
  · exact h
  · split
    · exact h
    · refine graphRecord_memsOk _ _ _ h fun t ht => ?_
      exact nextKick_memsOk (s := { t.closeRecs _ with replays := _ }) _ ht

theorem tableLost_memsOk (r : Replay) (node : Nat) (h : s.memsOk) : (s.tableLost r node).memsOk :=
  graphEnds_memsOk (s := (s.setReplay _).stopReplay _ _) _ h

theorem execNodeComplete_resultOk (graph node : Nat) (h : s.memsOk) : ResultOk (execNodeComplete graph node s) := by
  refine next_resultOk ?_
  extract_lets t
  have ht : t.memsOk := recordEnds_memsOk h
  clear_value t
  split
  · exact nextKick_memsOk _ ht
  · next r _ =>
    refine onSpans_memsOk _ _ _ ht fun u hu => onReads_memsOk _ _ hu fun v whole hv => ?_
    extract_lets d
    have hp := readPredicate_memsOk r node d.body hv
    split
    · exact tableLost_memsOk _ _ hv
    · split
      · exact graphEnds_memsOk _ (releaseAll_memsOk _ _ _ hv)
      · split
        · exact graphEnds_memsOk _ (nodeDone_memsOk _ _ _ _ hv)
        · split
          · next e =>
            rw [e] at hp
            exact hp
          · next w e =>
            rw [e] at hp
            exact graphEnds_memsOk (s := (w.setReplay _).stopReplay _ _) _ hp
          · next e =>
            rw [e] at hp
            exact graphEnds_memsOk _ (nodeDone_memsOk _ _ _ _ hp)

end
end Sys2Proof.Machine

/-! The five memories stay in canonical form (O60): pre-emption and restore, bring-up, and the host's side. -/

namespace Sys2Proof.Machine

section
variable {s : State}

/-! Pre-emption (R165, R166). -/

theorem clearQuad_memsOk (quad : Nat) (h : s.memsOk) : (s.clearQuad quad).memsOk := by
  obtain ⟨hmem, hhost, hsp, htb, hplane⟩ := h
  exact ⟨hmem, hhost, hsp, memDrop_wf _ _ htb, memDrop_wf _ _ hplane⟩

/-- A state with another scratchpad in canonical form. -/
theorem withSp_memsOk {t : State} (h : s.memsOk) (hmem : t.mem = s.mem) (hhost : t.hostMem = s.hostMem) (htb : t.tbMem = s.tbMem)
    (hplane : t.planeMem = s.planeMem) (hsp : t.spMem.wf = true) : t.memsOk := by
  obtain ⟨h1, h2, _, h4, h5⟩ := h
  exact ⟨hmem ▸ h1, hhost ▸ h2, hsp, htb ▸ h4, hplane ▸ h5⟩

theorem saveBlock_memsOk (b : Block) (h : s.memsOk) : (s.saveBlock b).memsOk := by
  unfold State.saveBlock
  extract_lets rmask quads tiles lo kept t
  have ht : t.memsOk := foldl_memsOk (s := s.setBlock kept) _ _ h fun _ _ hu => clearQuad_memsOk _ hu
  refine tlbSweep_memsOk (withSp_memsOk ht rfl rfl rfl rfl ?_)
  obtain ⟨-, -, hsp, -, -⟩ := ht
  exact foldl_wf _ _ hsp fun _ _ hm => memDrop_wf _ _ hm

theorem execPreemptSave_resultOk (asid : BitVec 8) (h : s.memsOk) : ResultOk (execPreemptSave asid s) := by
  refine next_resultOk ?_
  dsimp only
  split
  · exact foldl_memsOk (s := { s with fibres := _ }) _ _ h fun _ _ ht => saveBlock_memsOk _ ht
  · exact h

theorem putQuad_memsOk (quad : Nat) (bufs : List Memory) (planes : List (Memory × Option FmtCode)) (h : s.memsOk) :
    (s.putQuad quad bufs planes).memsOk := by
  obtain ⟨hmem, hhost, hsp, htb, hplane⟩ := clearQuad_memsOk quad h
  exact ⟨hmem, hhost, hsp, foldl_wf _ _ htb fun _ _ hm => putPart_wf _ _ hm, foldl_wf _ _ hplane fun _ _ hm => putPart_wf _ _ hm⟩

theorem restoreBlock_memsOk (b : Block) (cores : List Nat) (h : s.memsOk) : (s.restoreBlock b cores).memsOk := by
  unfold State.restoreBlock
  extract_lets u back rebody t t' slots v
  have ht' : t'.memsOk := by
    simp only [t']
    split
    · exact h
    · exact foldl_memsOk (s := t) _ _ h fun _ _ hw => putQuad_memsOk _ _ _ hw
  have hv : v.memsOk := by
    refine withSp_memsOk ht' rfl rfl rfl rfl ?_
    obtain ⟨-, -, hsp, -, -⟩ := ht'
    exact foldl_wf _ _ hsp fun _ _ hm => putPart_wf _ _ hm
  exact foldl_memsOk _ _ hv fun _ _ hw => homeWrite_memsOk _ _ hw

theorem restoreAll_memsOk {t : State} {ps : List (Block × List Nat)} (h : s.memsOk) (ht : s.restoreAll ps = .ok t) : t.memsOk := by
  induction ps generalizing s with
  | nil =>
    obtain rfl := Except.ok.inj ht
    exact h
  | cons p ps ih =>
    obtain ⟨b, cores⟩ := p
    rw [State.restoreAll] at ht
    split at ht
    · exact ih (restoreBlock_memsOk _ _ h) ht
    all_goals contradiction

theorem execPreemptRestore_resultOk (asid : BitVec 8) (place : List (List Nat)) (h : s.memsOk) :
    ResultOk (execPreemptRestore asid place s) := by
  refine next_resultOk ?_
  extract_lets bs tags
  split
  · exact h
  · split
    · next e =>
      split at e
      · exact restoreAll_memsOk h e
      · contradiction
    · exact reply_memsOk _ (foldl_memsOk _ _ h fun _ _ ht => causeAbort_memsOk _ _ ht)

/-! Bring-up (R256, R264 to R268, R282, R283, R285). -/

theorem setStatus_memsOk (v : Nat) (h : s.memsOk) : (s.setStatus v).memsOk := h

/-- The reset state beside the host's memory as it stands. -/
theorem resetWithHost_memsOk {t : State} (h : s.memsOk) (hmem : t.mem = State.reset.mem) (hhost : t.hostMem = s.hostMem)
    (hsp : t.spMem = State.reset.spMem) (htb : t.tbMem = State.reset.tbMem) (hplane : t.planeMem = State.reset.planeMem) : t.memsOk := by
  obtain ⟨_, h2, _, _, _⟩ := h
  obtain ⟨r1, _, r3, r4, r5⟩ := reset_memsOk
  exact ⟨hmem ▸ r1, hhost ▸ h2, hsp ▸ r3, htb ▸ r4, hplane ▸ r5⟩

theorem execPowerUp_resultOk (short : Bool) (dev : BitVec 12) (h : s.memsOk) : ResultOk (execPowerUp short dev s) :=
  next_resultOk (resetWithHost_memsOk h rfl rfl rfl rfl rfl)

theorem execCmdLoad_resultOk (h : s.memsOk) : ResultOk (execCmdLoad s) := by
  refine next_resultOk ?_
  split <;> exact h

theorem execVerify_resultOk (h : s.memsOk) : ResultOk (execVerify s) := by
  refine next_resultOk ?_
  dsimp only
  split
  · exact h
  · split <;> exact h

theorem execSelftest_resultOk (failed : List (BitVec 68)) (h : s.memsOk) : ResultOk (execSelftest failed s) := by
  refine next_resultOk ?_
  dsimp only
  split
  · exact h
  · split <;> exact h

theorem execTrain_resultOk (ports : BitVec 16) (paths : List (Nat × Nat × Nat)) (h : s.memsOk) : ResultOk (execTrain ports paths s) := by
  refine next_resultOk ?_
  dsimp only
  split
  · exact h
  · split
    · exact h
    · split <;> exact h

theorem execCmdReset_resultOk (h : s.memsOk) : ResultOk (execCmdReset s) := by
  refine next_resultOk ?_
  split
  · exact h
  · exact resetWithHost_memsOk h rfl rfl rfl rfl rfl

theorem execCmdQuote_resultOk (h : s.memsOk) : ResultOk (execCmdQuote s) := by
  refine next_resultOk ?_
  split
  · exact h
  · exact setBytes_memsOk _ _ h

theorem execThermalTrip_resultOk (h : s.memsOk) : ResultOk (execThermalTrip s) := next_resultOk (setStatus_memsOk _ h)

theorem execClockStep_resultOk (up : Bool) (h : s.memsOk) : ResultOk (execClockStep up s) :=
  next_resultOk (s := { s with bar := _ }) h

/-! The host's registers and commands (R224, R258 to R261). -/

theorem execRegisterWrite_resultOk (off : Nat) (v : DWord) (h : s.memsOk) : ResultOk (execRegisterWrite off v s) := by
  refine next_resultOk ?_
  dsimp only
  split
  · exact foldl_memsOk (s := { s with bar := _ }) _ _ h fun _ _ ht => writeFault_memsOk _ ht
  · exact h

theorem tlbDone_memsOk (h : s.memsOk) : s.tlbDone.memsOk := h

theorem execTlbinv_resultOk (w : Word) (h : s.memsOk) : ResultOk (execTlbinv w s) := by
  refine next_resultOk ?_
  extract_lets asid lo n stays t
  have ht : t.memsOk := h
  clear_value t
  split
  · exact tlbDone_memsOk ht
  · exact syncBit_memsOk _ _ ht

theorem biasRecall_memsOk (w : DWord) (h : s.memsOk) : (s.biasRecall w).memsOk := foldl_memsOk _ _ h fun _ _ ht => homeClear_memsOk _ ht

theorem biasGo_memsOk (h : s.memsOk) : s.biasGo.memsOk := by
  unfold State.biasGo
  split
  · exact h
  · next w _ =>
    split
    · split
      · exact h
      · exact biasRecall_memsOk w h
    · dsimp only
      split <;> exact h

theorem biasCommand_memsOk (w : DWord) (h : s.memsOk) : (s.biasCommand w).memsOk := by
  unfold State.biasCommand
  split
  · exact syncBit_memsOk _ _ h
  · exact biasGo_memsOk (s := s.biasStart w) h

theorem execBiasToHost_resultOk (w : DWord) (h : s.memsOk) : ResultOk (execBiasToHost w s) := by
  refine next_resultOk ?_
  split
  · exact h
  · exact biasCommand_memsOk _ h

theorem execBiasToDevice_resultOk (w : DWord) (h : s.memsOk) : ResultOk (execBiasToDevice w s) := by
  refine next_resultOk ?_
  split
  · exact h
  · exact biasCommand_memsOk _ h

/-! The host's accesses (R255, R257, R260). -/

theorem setHostLine_memsOk (k : Nat) (v : Option HostLine) (h : s.memsOk) : (s.setHostLine k v).memsOk := h

theorem execHostMemRead_resultOk (addr len : Nat) (want : HostWant) (h : s.memsOk) : ResultOk (execHostMemRead addr len want s) := by
  have hm := meet_memsOk (.dram addr) len 0 (want == .exclusive) h
  refine next_resultOk ?_
  split
  · exact h
  · split
    · exact h
    · split
      · next e =>
        rw [e] at hm
        exact hm
      · next t e =>
        rw [e] at hm
        have ht : t.memsOk := hm
        dsimp only
        split
        · exact ht
        · refine peerRead_memsOk _ _ _ _ ?_ fun _ _ hu => reply_memsOk _ hu
          cases want with
          | exclusive =>
            dsimp only
            split
            · exact foldl_memsOk _ _ ht fun _ _ hu => setHostLine_memsOk _ _ (homeClear_memsOk _ hu)
            · exact ht
          | shared =>
            dsimp only
            split
            · refine foldl_memsOk _ _ ht fun u k hu => ?_
              split
              · exact hu
              · exact setHostLine_memsOk _ _ hu
            · exact ht
          | uncached => exact ht

theorem hostWrite_memsOk (addr n : Nat) (k : State → State) (h : s.memsOk) (hk : ∀ t : State, t.memsOk → (k t).memsOk) :
    (s.hostWrite addr n k).memsOk := by
  have hm := meet_memsOk (.dram addr) n 0 true h
  unfold State.hostWrite
  split
  · next e =>
    rw [e] at hm
    exact hm
  · next e =>
    rw [e] at hm
    dsimp only
    split
    · exact hm
    · split
      · exact hm
      · exact hk _ hm

theorem execHostMemWrite_resultOk (addr : Nat) (data : List Byte) (h : s.memsOk) : ResultOk (execHostMemWrite addr data s) := by
  refine next_resultOk ?_
  split
  · exact h
  · exact hostWrite_memsOk _ _ _ h fun _ ht => foldl_memsOk _ _ (homeWrite_memsOk _ _ ht) fun _ _ hu => setHostLine_memsOk _ _ hu

theorem execHostSnoopResponse_resultOk (line : Nat) (data : List Byte) (h : s.memsOk) : ResultOk (execHostSnoopResponse line data s) := by
  refine next_resultOk ?_
  split
  · exact h
  · extract_lets owned done
    have hdone (t : State) (ht : t.memsOk) : (done t).memsOk := ht
    split
    · exact hostWrite_memsOk _ _ _ h fun t ht => homeWrite_memsOk (s := done t) _ _ (hdone t ht)
    · exact hdone _ h

theorem execCxlCacheSnoop_resultOk (line : Nat) (invalidate : Bool) (h : s.memsOk) : ResultOk (execCxlCacheSnoop line invalidate s) := by
  have hc := homeClear_memsOk (hostSector + line) h
  have hp := homePeek_memsOk (hostSector + line) h
  refine next_resultOk ?_
  dsimp only
  split
  · exact hc
  · exact hp

theorem execCxlCacheResponse_resultOk (line : Nat) (exclusive : Bool) (data : List Byte) (h : s.memsOk) :
    ResultOk (execCxlCacheResponse line exclusive data s) := by
  refine next_resultOk ?_
  extract_lets held rest t
  have ht : t.memsOk := by
    simp only [t]
    split
    · exact setBytes_memsOk _ _ h
    · exact h
  clear_value t held
  split
  · exact h
  · split <;> exact h
  · exact ht

end
end Sys2Proof.Machine

/-! The five memories stay in canonical form (O60): every instruction and event, and every step. -/

namespace Sys2Proof.Machine

section
variable {s : State}

/-! The forms that take an `ext` (R31): lane operations, memory forms, control. -/

theorem execExt_resultOk (v : BitVec 19) (i : Instr) (h : s.memsOk) : ResultOk (execExt v i s) := by
  cases i with
  | addI32Imm | subI32Imm | mulLoI32Imm | andB32Imm | orB32Imm | xorB32Imm | shlB32Imm | shrN32Imm | shrI32Imm | minI32Imm
  | maxI32Imm | movImm | addI64Imm | fabsF32 | fnegF32 | fabsF64 | fnegF64 | fminF64 | fmaxF64 | frintF32 | cmpI32Imm
  | cmpN32Imm => exact lane_resultOk h
  | faddF32Imm | fmulF32Imm | fmaxF32Imm | haddH2Imm | faddF32 | fsubF32 | fmulF32 | ffmaF32 | fminF32 | fmaxF32 | faddF64
  | fsubF64 | fmulF64 | ffmaF64 | haddH2 | hmulH2 | hfmaH2 | hfmaBh2 | haddBh2 | hmulBh2 | hminH2 | hmaxH2 | hminBh2
  | hmaxBh2 | cvt => exact laneSticky_resultOk h
  | bra | call => exact retiring_resultOk h
  | forkC => exact forkCAt_resultOk _ _ _ _ _ _ h
  | ldB32Global | ldB64Global | ldB32Sp | ldPlain => exact plainLoad_resultOk _ _ _ _ _ _ _ h
  | stB32Global | stB64Global | stB32Sp | stPlain => exact plainStore_resultOk _ _ _ _ _ _ _ h
  | ldSw => exact ldSwAt_resultOk _ _ _ _ _ _ h
  | stSw => exact stSwAt_resultOk _ _ _ _ _ _ h
  | ldAcq => exact ldAcqAt_resultOk _ _ _ _ _ _ _ h
  | stRel => exact stRelAt_resultOk _ _ _ _ _ _ _ h
  | ldCb => exact ldCbAt_resultOk _ _ _ _ _ _ _ h
  | stCb => exact stCbAt_resultOk _ _ _ _ _ _ _ h
  | safept => exact safeptAt_resultOk _ _ _ h
  | nap => exact napAt_resultOk _ _ _ h
  | tretLabel => exact tretLabelAt_resultOk _ _ _ _ h
  | _ => exact undefined_resultOk _ h

/-! Cross-lane instructions (R85 to R89). -/

theorem execXlElect_resultOk (hd : Hdr) (pd : Pred) (h : s.memsOk) : ResultOk (execXlElect hd pd s) := by
  unfold execXlElect
  exact crossLane_resultOk h

theorem execXlBcastB32_resultOk (hd : Hdr) (a d : Reg) (h : s.memsOk) : ResultOk (execXlBcastB32 hd a d s) := by
  unfold execXlBcastB32
  exact crossLane_resultOk h

theorem execXlCount_resultOk (hd : Hdr) (pa : Pred) (d : Reg) (h : s.memsOk) : ResultOk (execXlCount hd pa d s) := by
  unfold execXlCount
  exact crossLane_resultOk h

theorem shuffle_resultOk (i : Instr) (hd : Hdr) (a d : Reg) (src : Nat → Nat) (h : s.memsOk) : ResultOk (shuffle s i hd a d src) := by
  unfold shuffle
  exact crossLane_resultOk h

theorem execXlBflyB32_resultOk (hd : Hdr) (k : BitVec 3) (a d : Reg) (h : s.memsOk) : ResultOk (execXlBflyB32 hd k a d s) := by
  unfold execXlBflyB32
  exact shuffle_resultOk _ _ _ _ _ h

theorem execXlUpB32_resultOk (hd : Hdr) (k : BitVec 3) (a d : Reg) (h : s.memsOk) : ResultOk (execXlUpB32 hd k a d s) := by
  unfold execXlUpB32
  exact shuffle_resultOk _ _ _ _ _ h

theorem execXlDownB32_resultOk (hd : Hdr) (k : BitVec 3) (a d : Reg) (h : s.memsOk) : ResultOk (execXlDownB32 hd k a d s) := by
  unfold execXlDownB32
  exact shuffle_resultOk _ _ _ _ _ h

theorem execXlRed_resultOk (hd : Hdr) (op : XlOp) (a d : Reg) (h : s.memsOk) : ResultOk (execXlRed hd op a d s) := by
  unfold execXlRed
  exact crossLane_resultOk h

/-! The dispatcher. -/

theorem exec_resultOk (i : Instr) (h : s.memsOk) : ResultOk (exec i s) := by
  cases i with
  | ext v j => exact execExt_resultOk v j h
  | addI32 | subI32 | mulLoI32 | madLoI32 | mulHiI32 | mulHiN32 | andB32 | orB32 | xorB32 | andnB32 | shlB32 | shrN32 | shrI32
  | rotB32 | minI32 | maxI32 | minN32 | maxN32 | addI64 | subI64 | mulWideI32 | mulWideN32 | leaN32 | leaI32 | addI32Imm
  | subI32Imm | mulLoI32Imm | andB32Imm | orB32Imm | xorB32Imm | shlB32Imm | shrN32Imm | shrI32Imm | minI32Imm | maxI32Imm
  | movImm | mov | movB64 | notB32 | negI32 | absI32 | popcB32 | clzB32 | brevB32 | addI64Imm | fabsF32 | fnegF32 | fabsF64
  | fnegF64 | fminF64 | fmaxF64 | frintF32 | cvtFromNarrow | cmpI32 | cmpN32 | cmpF32 | cmpF64 | cmpI32Imm | cmpN32Imm | pand
  | por | pxor | pandn | pget | pset | prio | prioR | spkI8 | spkF8 | spkBf16 | mov16 | addI3216 | subI3216 | mulLoI3216
  | andB3216 | orB3216 | xorB3216 | shlB3216 | shrN3216 | shrI3216 | minI3216 | maxI3216 => exact lane_resultOk h
  | faddF32Imm | fmulF32Imm | fmaxF32Imm | haddH2Imm | faddF32 | fsubF32 | fmulF32 | ffmaF32 | fminF32 | fmaxF32 | faddF64
  | fsubF64 | fmulF64 | ffmaF64 | haddH2 | hmulH2 | hfmaH2 | hfmaBh2 | haddBh2 | hmulBh2 | hminH2 | hmaxH2 | hminBh2
  | hmaxBh2 | cvt | cvtToNarrow | rcpF32 | rsqrtF32 | exp2F32 | log2F32 | sinF32 | cosF32 | faddF3216 | fmulF3216 | fmaxF3216
  | haddH216 => exact laneSticky_resultOk h
  | xlElect => exact execXlElect_resultOk _ _ h
  | xlBcastB32 => exact execXlBcastB32_resultOk _ _ _ h
  | xlCount => exact execXlCount_resultOk _ _ _ h
  | xlBflyB32 => exact execXlBflyB32_resultOk _ _ _ _ h
  | xlUpB32 => exact execXlUpB32_resultOk _ _ _ _ h
  | xlDownB32 => exact execXlDownB32_resultOk _ _ _ _ h
  | xlRed => exact execXlRed_resultOk _ _ _ _ h
  | bra | call | bsel => exact retiring_resultOk h
  | ret => exact execRet_resultOk _ h
  | braR => exact execBraR_resultOk _ _ h
  | callR => exact execCallR_resultOk _ _ h
  | exit => exact execExit_resultOk _ h
  | yield => exact execYield_resultOk _ h
  | loose => exact execLoose_resultOk _ h
  | rally | rallyH => exact rallyWith_resultOk _ _ _ _ h
  | loop => exact execLoop_resultOk _ _ _ _ h
  | forkC => exact forkCAt_resultOk _ _ _ _ _ _ h
  | forkR => exact execForkR_resultOk _ _ _ _ _ _ _ h
  | forkRL => exact execForkRL_resultOk _ _ _ _ _ _ _ h
  | joinR => exact execJoinR_resultOk _ h
  | joinC => exact execJoinC_resultOk _ _ _ h
  | done => exact execDone_resultOk _ _ h
  | doneR => exact execDoneR_resultOk _ h
  | spawn => exact execSpawn_resultOk _ _ _ h
  | ldB32Global | ldB64Global | ldB32Sp | ldPlain => exact plainLoad_resultOk _ _ _ _ _ _ _ h
  | stB32Global | stB64Global | stB32Sp | stPlain => exact plainStore_resultOk _ _ _ _ _ _ _ h
  | ldSw => exact ldSwAt_resultOk _ _ _ _ _ _ h
  | stSw => exact stSwAt_resultOk _ _ _ _ _ _ h
  | ldAcq => exact ldAcqAt_resultOk _ _ _ _ _ _ _ h
  | stRel => exact stRelAt_resultOk _ _ _ _ _ _ _ h
  | ldCb => exact ldCbAt_resultOk _ _ _ _ _ _ _ h
  | stCb => exact stCbAt_resultOk _ _ _ _ _ _ _ h
  | cpy => exact execCpy_resultOk _ _ _ _ _ _ _ _ _ _ _ _ _ h
  | atom => exact execAtom_resultOk _ _ _ _ _ _ _ _ _ h
  | plzOpen => exact execPlzOpen_resultOk _ _ _ h
  | plzEnter => exact execPlzEnter_resultOk _ _ _ h
  | plzLeave | plzVote => exact plzCast_resultOk _ _ _ _ _ h
  | plzAbort => exact execPlzAbort_resultOk _ _ h
  | barInit => exact execBarInit_resultOk _ _ _ _ h
  | barExpect => exact execBarExpect_resultOk _ _ _ _ h
  | barArrive => exact execBarArrive_resultOk _ _ _ _ h
  | barWait => exact execBarWait_resultOk _ _ _ _ h
  | setNew => exact execSetNew_resultOk _ _ h
  | setEnrol => exact execSetEnrol_resultOk _ _ h
  | setQuit => exact execSetQuit_resultOk _ _ h
  | grpEnter => exact execGrpEnter_resultOk _ _ _ h
  | grpLeave => exact execGrpLeave_resultOk _ _ h
  | cwait => exact execCwait_resultOk _ _ _ h
  | tokPass => exact execTokPass_resultOk _ h
  | mxa => exact execMxa_resultOk _ _ h
  | mxs => exact execMxs_resultOk _ _ _ _ h
  | asel => exact execAsel_resultOk _ _ h
  | agat => exact execAgat_resultOk _ _ h
  | ksumRebuild => exact execKsumRebuild_resultOk _ _ h
  | smov => exact execSmov_resultOk _ _ _ h
  | sset => exact execSset_resultOk _ _ _ h
  | trap => exact execTrap_resultOk _ _ h
  | tret => exact execTret_resultOk _ h
  | tretLabel => exact tretLabelAt_resultOk _ _ _ _ h
  | launch => exact execLaunch_resultOk _ _ h
  | safept => exact safeptAt_resultOk _ _ _ h
  | nap => exact napAt_resultOk _ _ _ h
  | heartbeatTick => exact execHeartbeatTick_resultOk _ _ h
  | detHeartbeat => exact execDetHeartbeat_resultOk _ h
  | rangeSplit => exact execRangeSplit_resultOk _ h
  | childStart => exact execChildStart_resultOk _ _ _ h
  | joinSave => exact execJoinSave_resultOk _ h
  | joinRestore => exact execJoinRestore_resultOk _ _ h
  | deferredTrap => exact execDeferredTrap_resultOk _ h
  | safeDistance => exact execSafeDistance_resultOk _ h
  | napEnd => exact execNapEnd_resultOk _ h
  | preemptSave => exact execPreemptSave_resultOk _ h
  | preemptRestore => exact execPreemptRestore_resultOk _ _ h
  | issueStarvation => exact execIssueStarvation_resultOk _ h
  | roundaboutSend => exact execRoundaboutSend_resultOk _ _ h
  | loadComplete => exact execLoadComplete_resultOk _ h
  | storePerform => exact execStorePerform_resultOk _ h
  | atomicExecute => exact execAtomicExecute_resultOk _ h
  | tableWalk => exact execTableWalk_resultOk _ _ _ _ h
  | faultdoneResolved | faultdoneUnresolvable => exact next_resultOk (closeFault_memsOk _ _ _ h)
  | tlbinv => exact execTlbinv_resultOk _ h
  | gets => exact execGets_resultOk _ _ h
  | getm => exact execGetm_resultOk _ _ h
  | upgrade => exact execUpgrade_resultOk _ _ h
  | homeWrite => exact execHomeWrite_resultOk _ _ h
  | uncachedRead => exact execUncachedRead_resultOk _ h
  | probeShare => exact execProbeShare_resultOk _ _ h
  | probeInvalidate => exact execProbeInvalidate_resultOk _ _ h
  | putm => exact execPutm_resultOk _ _ h
  | puts => exact execPuts_resultOk _ _ h
  | lineEvict => exact execLineEvict_resultOk _ _ h
  | fill => exact execFill_resultOk _ _ h
  | corePowerGate => exact execCorePowerGate_resultOk _ h
  | coreWake => exact next_resultOk (s := { s with gated := _ }) h
  | detectorFull => exact execDetectorFull_resultOk _ h
  | copyPieceLand => exact execCopyPieceLand_resultOk _ h
  | blockRetire => exact execBlockRetire_resultOk _ _ h
  | mxPass => exact execMxPass_resultOk _ _ h
  | arbiterStarvation => exact next_resultOk (s := { s with mx := _ }) h
  | aselRun => exact execAselRun_resultOk _ h
  | agatRun => exact execAgatRun_resultOk _ h
  | ksumRebuildRun => exact execKsumRebuildRun_resultOk _ h
  | powerUp => exact execPowerUp_resultOk _ _ h
  | cmdLoad => exact execCmdLoad_resultOk h
  | cmdReset => exact execCmdReset_resultOk h
  | cmdQuote => exact execCmdQuote_resultOk h
  | verify => exact execVerify_resultOk h
  | selftest => exact execSelftest_resultOk _ h
  | train => exact execTrain_resultOk _ _ h
  | graphreg => exact execGraphreg_resultOk _ h
  | kick => exact execKick_resultOk _ h
  | nodeComplete => exact execNodeComplete_resultOk _ _ h
  | launchComplete => exact execLaunchComplete_resultOk _ h
  | blockPlace => exact execBlockPlace_resultOk _ _ _ h
  | gangProtection => exact execGangProtection_resultOk _ _ h
  | translationPublish => exact execTranslationPublish_resultOk _ _ _ _ _ h
  | biasToHost => exact execBiasToHost_resultOk _ h
  | biasToDevice => exact execBiasToDevice_resultOk _ h
  | keybindBind => exact execKeybindBind_resultOk _ h
  | keybindUnbind => exact execKeybindUnbind_resultOk _ h
  | registerWrite => exact execRegisterWrite_resultOk _ _ h
  | hostMemRead => exact execHostMemRead_resultOk _ _ _ h
  | hostMemWrite => exact execHostMemWrite_resultOk _ _ h
  | hostSnoopResponse => exact execHostSnoopResponse_resultOk _ _ h
  | clockStep => exact execClockStep_resultOk _ h
  | thermalTrip => exact execThermalTrip_resultOk h
  | flitReceive => exact execFlitReceive_resultOk _ _ h
  | remoteRequest => exact execRemoteRequest_resultOk _ _ _ _ _ h
  | remoteAck => exact execRemoteAck_resultOk _ _ _ h
  | sealAck => exact execSealAck_resultOk _ _ _ h
  | publishReport => exact execPublishReport_resultOk _ _ _ h
  | plazaTimeout => exact execPlazaTimeout_resultOk _ _ h
  | plazaDiscard => exact execPlazaDiscard_resultOk _ _ h
  | cxlCacheSnoop => exact execCxlCacheSnoop_resultOk _ _ h
  | cxlCacheResponse => exact execCxlCacheResponse_resultOk _ _ _ h

/-! A fibre's turn, and the steps with and without an agenda (R24, R44, R95). -/

theorem openIssue_memsOk (f : Fibre) (h : s.memsOk) : (s.openIssue f).memsOk := by
  unfold State.openIssue
  split
  · split <;> exact h
  · exact h

theorem issueAt_memsOk (f : Fibre) (i : Instr) (h : s.memsOk) : (s.issueAt f i).memsOk := by
  unfold State.issueAt
  dsimp only
  split
  · exact h
  · split <;> exact h

theorem fetchTurn_resultOk (f : Fibre) (h : s.memsOk) : ResultOk (s.fetchTurn f) := by
  have hf := fetchGroup_memsOk f f.pc h
  unfold State.fetchTurn
  split
  · exact exec_resultOk _ (issueAt_memsOk _ _ h)
  · split
    · exact next_resultOk (whenRecord_memsOk _ _ h fun t ht => takeTrap_memsOk (s := t.draw 4) _ _ ht)
    · next e =>
      rw [e] at hf
      exact next_resultOk (block_memsOk _ _ hf)
    · next e =>
      rw [e] at hf
      exact next_resultOk hf
    · next e =>
      rw [e] at hf
      split
      · exact exec_resultOk _ (issueAt_memsOk _ _ hf)
      · exact next_resultOk (takeTrap_memsOk _ _ hf)

theorem boundaryTurn_resultOk (f : Fibre) (h : s.memsOk) : ResultOk (s.boundaryTurn f) := by
  unfold State.boundaryTurn
  split
  · exact execRangeSplit_resultOk _ h
  · split
    · exact next_resultOk (deliverTick_memsOk _ h)
    · split
      · exact execDetHeartbeat_resultOk _ h
      · split
        · exact execDeferredTrap_resultOk _ h
        · split
          · exact execSafeDistance_resultOk _ h
          · exact execRangeSplit_resultOk _ h

theorem turn_resultOk (f : Fibre) (h : s.memsOk) : ResultOk (s.turn f) := by
  unfold State.turn
  split
  · exact boundaryTurn_resultOk _ h
  · split
    · exact next_resultOk (s := s.setF _) h
    · exact fetchTurn_resultOk _ (openIssue_memsOk _ h)

theorem firstChange_resultOk (is : List Instr) (h : s.memsOk) : ResultOk (firstChange s is) := by
  induction is with
  | nil => exact next_resultOk h
  | cons i is ih =>
    have he := exec_resultOk i h
    unfold firstChange
    split
    · next t e =>
      split
      · exact ih
      · exact next_resultOk (he t e)
    · exact fault_resultOk _
    · exact refused_resultOk _

theorem firstTurn_resultOk (fs : List Fibre) (h : s.memsOk) : ResultOk (firstTurn s fs) := by
  induction fs with
  | nil => exact next_resultOk h
  | cons f fs ih =>
    have he := turn_resultOk f h
    unfold firstTurn
    split
    · next t e =>
      split
      · exact ih
      · have ht : t.memsOk := he t e
        exact next_resultOk (s := t.issued f.uid) ht
    · exact fault_resultOk _
    · exact refused_resultOk _

theorem auto_resultOk (h : s.memsOk) : ResultOk s.auto := by
  have hc := firstChange_resultOk s.pending h
  unfold State.auto
  split
  · exact next_resultOk h
  · split
    · next t e =>
      split
      · exact next_resultOk (hc t e)
      · split
        · exact next_resultOk (biasGo_memsOk h)
        · exact firstTurn_resultOk (s := s.byAge) _ h
    · exact fault_resultOk _
    · exact refused_resultOk _

theorem take_resultOk (t : Turn) (h : s.memsOk) : ResultOk (s.take t) := by
  cases t with
  | fibre u =>
    unfold State.take
    dsimp only
    split
    · next f _ =>
      have hf := turn_resultOk f h
      split
      · split
        · next t e =>
          have ht : t.memsOk := hf t e
          exact next_resultOk (s := t.fed u) ht
        · exact fault_resultOk _
        · exact refused_resultOk _
      · exact next_resultOk h
    · exact next_resultOk h
  | event i =>
    unfold State.take
    dsimp only
    split
    · exact exec_resultOk _ h
    · exact next_resultOk h
  | bias =>
    refine next_resultOk ?_
    split
    · exact biasGo_memsOk h
    · exact h

theorem step_resultOk (h : s.memsOk) : ResultOk (step s) := by
  unfold step
  split
  · exact take_resultOk (s := { s with agenda := _ }) _ h
  · exact auto_resultOk h

end

/-- Settles O60, by a lemma for each operation of the state, gathered for each instruction and event by the dispatcher. -/
theorem everyStepKeepsMemories : Obligations.EveryStepKeepsMemories := by
  intro s t h ht
  exact step_resultOk h t ht

end Sys2Proof.Machine
